-- ==== Sys2Proof/Word.lean ====
section
/-! DEFINITION. The word types of the Yunos core (R6, R21) and the two readings of a bit field (R34). -/

namespace Sys2Proof

/-- A 64-bit register or memory word (R21). -/
abbrev Word := BitVec 64

/-- One byte of memory or scratchpad (R6). -/
abbrev Byte := BitVec 8

/-- A finite map kept as an association list in ascending key order; an unlisted key reads as a default. -/
abbrev Map (α : Type) := List (Nat × α)

end Sys2Proof
end

