-- ==== Sys2Proof/Config.lean ====
section
/-! DEFINITION. What the manual leaves open or names only through an outside standard: free values (no body, so nothing can be
proved of their values) and the cryptographic functions of dawn and attestation. -/

namespace Sys2Proof.Config

/-- R24: a read of `rng` returns bits from the tile's random source; the argument counts the reads (log 5). -/
opaque freeRng : Nat → Word

/-- R361: what a router's flit and stall counters gained in an interval, by draw and counter index (log 9). -/
opaque freeCount : Nat → Nat → BitVec 32

/-- R153: which of two adjacent leading parts an exact function value has where its enclosure does not settle it, by function,
sign, magnitude and exponent of the operand (log 10). -/
opaque freeApprox : Nat → Bool → Nat → Int → Bool

/-- R364, R370, R377: whether a site passes its self-test at a draw (log 2). -/
opaque selfTest : Nat → Nat → Bool

/-- R365, R366, R373: whether a signature verifies over a body, under key 0 (vendor firmware and token), 1 (vendor map) or
2 (this module's device key) (log 8). -/
opaque verify : Nat → List Byte → List Byte → Bool

/-- R353, R366: SHA3-256 of a byte list (FIPS 202, outside this manual; log 8). -/
opaque digest : List Byte → List Byte

/-- R353, R367: the module's ML-DSA-44 signature over a byte list (log 8). -/
opaque sign : List Byte → List Byte

/-- R365: the firmware's code object: its words, as the firmware image lays them out (log 8). -/
opaque firmwareCode : List Byte → List Byte

/-- R104, R347: a word that a peer module answers, by draw (log 5): the peer's memory is not of this machine. -/
opaque freePeer : Nat → Word

/-- R347: the status a peer module answers, by draw; modulo 8 (log 5). -/
opaque freePeerStatus : Nat → Nat

/-- R393: the module's input power in watts at a comparison, by draw (log 66). -/
opaque inputPower : Nat → Nat

/-- R342: which edge site a port is attached to (log 9). -/
opaque portEdge : Nat → Nat

/-- The edge sites: the present sites of the first and last physical rows and columns (R11). -/
def edgeSite (i : Nat) : Nat :=
  if i < 80 then 8 + i
  else if i < 160 then 87 * 96 + 8 + (i - 80)
  else if i < 232 then (8 + (i - 160)) * 96
  else (8 + (i - 232)) * 96 + 95

/-- R342: the edge site to which a port is attached. -/
def portSite (p : Nat) : Nat := edgeSite (portEdge p % 304)

/-- R248: the CRC-16 of header bits 127:16, whose polynomial the manual does not give (log 101). -/
opaque crc16 : BitVec 112 → BitVec 16

/-- R248: the payload bytes less 1 of a packet, by VC and class; the manual gives few payload layouts (log 101). -/
opaque payloadLen : Nat → Nat → BitVec 8

/-- R388: which word of a failing weight tile a second reading finds uncorrectable (log 72), by draw. -/
opaque badWord : Nat → Nat

/-- Which router of a flit's path finds a CRC error in its header (R248; log 101), by the draw's number. -/
opaque crcRouter : Nat → Nat

end Sys2Proof.Config
end

