-- ==== Sys2Proof/Syntax.lean ====
section
/-! DEFINITION. The instructions and steps of the CB80-W: one constructor for each row of the opcode table.
An instruction word's fields stand as the decoder has read them; a step without an encoding names the tile `t`, slot
`k`, packet `n`, team position `p` or host message `r` that it concerns. -/

namespace Sys2Proof

/-- A 3-bit register number: `w0` to `w7`, as every base, pointer and address field takes (R56). -/
abbrev Ptr := BitVec 3

/-- A 4-bit register field (R56): `w0`-`w7`, `acc` (8) or `zr` (15). -/
inductive Reg where
  | w (n : Ptr)
  | acc
  | zr
  deriving DecidableEq, Repr

/-- Access sizes (R58). -/
inductive Size where
  | b | h | w | d
  deriving DecidableEq, Repr

/-- Addressing modes of format M (R58). -/
inductive Mode where
  | offset | post | pre
  deriving DecidableEq, Repr

/-- Order codes (R58). -/
inductive Order where
  | plain | acq | rel | ar
  deriving DecidableEq, Repr

/-- Scope codes (R58). -/
inductive Scope where
  | tile | stack | wafer | host
  deriving DecidableEq, Repr

/-- The three engines of a tile and their codes (R163). -/
inductive Eng where
  | bfe | cpe | nme
  deriving DecidableEq, Repr

/-- Scalar conversion types (R66). -/
inductive CvtType where
  | s64 | n64 | s32 | n32 | f64 | f32 | bf16 | f16 | e4m3 | e5m2
  deriving DecidableEq, Repr

/-- The operations of the atomic group (R69, R122). -/
inductive AtomOp where
  | add | and | or | xor | min | max | minu | maxu | swp | fadd | fmax | fmin
  deriving DecidableEq, Repr

/-- A message from the host (R344): context and tag of its header, the port it came by, the address and length words,
and the payload bytes. -/
structure HostReq where
  ctx  : Nat
  tag  : Nat
  port : Nat
  addr : Word
  len  : Nat
  data : List Byte
  /-- The header's class and op where they are not those of the step that takes the message (R344, R396). -/
  head : Option (Nat × Nat) := none
  deriving DecidableEq, Repr

/-- What a peer module asks of an object of this module (R347). -/
inductive PeerOp where
  | read (len : Nat)
  | write (data : List Byte)
  | atom (op : AtomOp) (wide : Bool) (b : Word)
  | cas (wide : Bool) (c new : Word)
  deriving DecidableEq, Repr

/-- An access from peer module `m` (R347). -/
structure PeerReq where
  m    : Nat
  tag  : Nat
  ctx  : Nat
  addr : Word
  op   : PeerOp
  deriving DecidableEq, Repr

/-- One constructor for each row of the opcode table, in the table's order. -/
inductive Instr where
  /-- ADD (R82). Adds two registers modulo 2^N, 64-bit or .w form. -/
  | add (d a b : Reg) (w : Bool)
  /-- SUB (R82). Subtracts rb from ra modulo 2^N. -/
  | sub (d a b : Reg) (w : Bool)
  /-- AND (R82). Bitwise AND of two registers. -/
  | and (d a b : Reg)
  /-- OR (R82). Bitwise OR of two registers. -/
  | or (d a b : Reg)
  /-- XOR (R82). Bitwise XOR of two registers. -/
  | xor (d a b : Reg)
  /-- SLL (R82). Logical shift left by the low bits of rb. -/
  | sll (d a b : Reg) (w : Bool)
  /-- SRL (R82). Logical shift right by the low bits of rb. -/
  | srl (d a b : Reg) (w : Bool)
  /-- SRA (R82). Arithmetic shift right by the low bits of rb. -/
  | sra (d a b : Reg) (w : Bool)
  /-- SLT (R82). Sets 1 when ra is less than rb, signed. -/
  | slt (d a b : Reg)
  /-- SLTU (R82). Sets 1 when ra is less than rb, unsigned. -/
  | sltu (d a b : Reg)
  /-- MIN (R82). Signed minimum of two registers. -/
  | min (d a b : Reg)
  /-- MAX (R82). Signed maximum of two registers. -/
  | max (d a b : Reg)
  /-- MINU (R82). Unsigned minimum of two registers. -/
  | minu (d a b : Reg)
  /-- MAXU (R82). Unsigned maximum of two registers. -/
  | maxu (d a b : Reg)
  /-- MUL (R82). Low bits of the product of two registers. -/
  | mul (d a b : Reg) (w : Bool)
  /-- MULH (R82). High 64 bits of the signed 128-bit product. -/
  | mulh (d a b : Reg)
  /-- MULHU (R82). High 64 bits of the unsigned 128-bit product. -/
  | mulhu (d a b : Reg)
  /-- DIV (R83). Signed division truncated toward zero, no fault on zero divisor. -/
  | div (d a b : Reg) (w : Bool)
  /-- DIVU (R83). Unsigned division, all ones on zero divisor. -/
  | divu (d a b : Reg) (w : Bool)
  /-- REM (R83). Signed remainder with the sign of the dividend. -/
  | rem (d a b : Reg) (w : Bool)
  /-- REMU (R83). Unsigned remainder. -/
  | remu (d a b : Reg) (w : Bool)
  /-- ADDI (R84). Adds a sign-extended immediate to a register. -/
  | addi (d a : Reg) (i : BitVec 18)
  /-- ANDI (R84). Bitwise AND with a sign-extended immediate. -/
  | andi (d a : Reg) (i : BitVec 18)
  /-- ORI (R84). Bitwise OR with a zero-extended immediate. -/
  | ori (d a : Reg) (i : BitVec 18)
  /-- XORI (R84). Bitwise XOR with a zero-extended immediate. -/
  | xori (d a : Reg) (i : BitVec 18)
  /-- SLLI (R85). Logical shift left by an immediate amount. -/
  | slli (d a : Reg) (k : BitVec 6)
  /-- SRLI (R85). Logical shift right by an immediate amount. -/
  | srli (d a : Reg) (k : BitVec 6)
  /-- SRAI (R85). Arithmetic shift right by an immediate amount. -/
  | srai (d a : Reg) (k : BitVec 6)
  /-- SLTI (R84). Sets 1 when ra is less than a signed immediate. -/
  | slti (d a : Reg) (i : BitVec 18)
  /-- MOVI (R86). Writes a sign-extended wide constant to a register. -/
  | movi (d : Reg) (i : BitVec 22)
  /-- MOVHI (R87). Replaces the upper 32 bits of a register and keeps the lower half. -/
  | movhi (d : Reg) (i : BitVec 22)
  /-- MAC (R89). Integer multiply-accumulate into acc modulo 2^64. -/
  | mac (a b : Reg)
  /-- MSB (R89). Integer multiply-subtract from acc modulo 2^64. -/
  | msb (a b : Reg)
  /-- FMAC_S (R89). Fused FP32 multiply-accumulate into acc bits 31:0. -/
  | fmacS (a b : Reg)
  /-- FMAC_D (R89). Fused FP64 multiply-accumulate into acc. -/
  | fmacD (a b : Reg)
  /-- FADD (R91). Floating-point addition with one rounding. -/
  | fadd (d a b : Reg) (p : Bool)
  /-- FSUB (R91). Floating-point subtraction with one rounding. -/
  | fsub (d a b : Reg) (p : Bool)
  /-- FMUL (R91). Floating-point multiplication with one rounding. -/
  | fmul (d a b : Reg) (p : Bool)
  /-- FDIV (R91). Floating-point division with one rounding. -/
  | fdiv (d a b : Reg) (p : Bool)
  /-- FSQRT (R91). Floating-point square root with one rounding. -/
  | fsqrt (d a : Reg) (p : Bool)
  /-- FMIN (R93). Returns the lesser operand bit for bit. -/
  | fmin (d a b : Reg) (p : Bool)
  /-- FMAX (R93). Returns the greater operand bit for bit. -/
  | fmax (d a b : Reg) (p : Bool)
  /-- FABS (R94). Clears the sign bit. -/
  | fabs (d a : Reg) (p : Bool)
  /-- FNEG (R94). Inverts the sign bit. -/
  | fneg (d a : Reg) (p : Bool)
  /-- FEQ (R94). Writes 1 when the operands compare equal. -/
  | feq (d a b : Reg) (p : Bool)
  /-- FLT (R94). Writes 1 when ra is less than rb. -/
  | flt (d a b : Reg) (p : Bool)
  /-- FLE (R94). Writes 1 when ra is less than or equal to rb. -/
  | fle (d a b : Reg) (p : Bool)
  /-- FCLASS (R94). Writes a one-hot class of the operand. -/
  | fclass (d a : Reg) (p : Bool)
  /-- FMA (R95). Fused x*y+z with one rounding. -/
  | fma (d a b : Reg) (p : Bool)
  /-- FMS (R95). Fused x*y-z with one rounding. -/
  | fms (d a b : Reg) (p : Bool)
  /-- FNMA (R95). Fused -(x*y)+z with one rounding. -/
  | fnma (d a b : Reg) (p : Bool)
  /-- FNMS (R95). Fused -(x*y)-z with one rounding. -/
  | fnms (d a b : Reg) (p : Bool)
  /-- CVT (R96). Converts between scalar types by one rounding. -/
  | cvt (d a : Reg) (t s : CvtType)
  /-- BEXT (R88). Extracts a zero-extended bit field. -/
  | bext (d a : Reg) (p l : BitVec 6)
  /-- BEXTS (R88). Extracts a sign-extended bit field. -/
  | bexts (d a : Reg) (p l : BitVec 6)
  /-- BINS (R88). Inserts the low bits of ra into a field of rd. -/
  | bins (d a : Reg) (p l : BitVec 6)
  /-- CLZ (R88). Counts leading zero bits. -/
  | clz (d a : Reg)
  /-- CTZ (R88). Counts trailing zero bits. -/
  | ctz (d a : Reg)
  /-- POPC (R88). Counts one bits. -/
  | popc (d a : Reg)
  /-- BSWAP (R88). Reverses the byte order of a register. -/
  | bswap (d a : Reg)
  /-- BEQ (R98). Branches when two registers are equal. -/
  | beq (a b : Reg) (f : BitVec 15)
  /-- BNE (R98). Branches when two registers differ. -/
  | bne (a b : Reg) (f : BitVec 15)
  /-- BLT (R98). Branches when ra is less than rb, signed. -/
  | blt (a b : Reg) (f : BitVec 15)
  /-- BGE (R98). Branches when ra is at least rb, signed. -/
  | bge (a b : Reg) (f : BitVec 15)
  /-- BLTU (R98). Branches when ra is less than rb, unsigned. -/
  | bltu (a b : Reg) (f : BitVec 15)
  /-- BGEU (R98). Branches when ra is at least rb, unsigned. -/
  | bgeu (a b : Reg) (f : BitVec 15)
  /-- BZ (R98). Branches when a register is zero. -/
  | bz (a : Reg) (f : BitVec 15)
  /-- BNZ (R98). Branches when a register is nonzero. -/
  | bnz (a : Reg) (f : BitVec 15)
  /-- BLTZ (R98). Branches when a register is negative. -/
  | bltz (a : Reg) (f : BitVec 15)
  /-- BGEZ (R98). Branches when a register is zero or positive. -/
  | bgez (a : Reg) (f : BitVec 15)
  /-- BGTZ (R98). Branches when a register is positive. -/
  | bgtz (a : Reg) (f : BitVec 15)
  /-- BLEZ (R98). Branches when a register is zero or negative. -/
  | blez (a : Reg) (f : BitVec 15)
  /-- JMP (R99). Jumps to a word-relative target. -/
  | jmp (f : BitVec 26)
  /-- JAL (R99). Jumps relative and links the return address in w7. -/
  | jal (f : BitVec 26)
  /-- JR (R99). Jumps to the address in a register. -/
  | jr (a : Reg)
  /-- JALR (R99). Jumps to a register address and links into rd. -/
  | jalr (d a : Reg)
  /-- DBNZ (R100). Decrements a register and branches while nonzero. -/
  | dbnz (a : Reg) (f : BitVec 15)
  /-- LD (R111). Loads from object memory, locally, by migration or by remote read. -/
  | ld (d : Reg) (b : Ptr) (z : Size) (m : Mode) (o : Order) (c : Scope) (f : BitVec 9)
  /-- LDS (R115). Loads from the scratchpad space of the tile or its quad. -/
  | lds (d : Reg) (b : Ptr) (z : Size) (m : Mode) (o : Order) (c : Scope) (f : BitVec 9)
  /-- ST (R111). Stores to object memory, locally or as a fire-and-forget write. -/
  | st (d : Reg) (b : Ptr) (z : Size) (m : Mode) (o : Order) (c : Scope) (f : BitVec 9)
  /-- STS (R115). Stores to the scratchpad space of the tile or its quad. -/
  | sts (d : Reg) (b : Ptr) (z : Size) (m : Mode) (o : Order) (c : Scope) (f : BitVec 9)
  /-- LDX (R114). Indexed load from object memory. -/
  | ldx (d : Reg) (a : Ptr) (b : Reg) (z : Size) (o : Order) (c : Scope)
  /-- LDSX (R114). Indexed load from the scratchpad space. -/
  | ldsx (d : Reg) (a : Ptr) (b : Reg) (z : Size) (o : Order) (c : Scope)
  /-- STX (R114). Indexed store to object memory. -/
  | stx (d : Reg) (a : Ptr) (b : Reg) (z : Size) (o : Order) (c : Scope)
  /-- STSX (R114). Indexed store to the scratchpad space. -/
  | stsx (d : Reg) (a : Ptr) (b : Reg) (z : Size) (o : Order) (c : Scope)
  /-- LDF (R119). Takes a full word and empties it at its home, or parks. -/
  | ldf (d : Reg) (b : Ptr) (o : Order) (c : Scope) (f : BitVec 9)
  /-- LDFS (R119). Takes a full scratchpad word of the current tile, or parks. -/
  | ldfs (d : Reg) (b : Ptr) (o : Order) (c : Scope) (f : BitVec 9)
  /-- STF (R120). Fills a word, marks it full and wakes its waiters. -/
  | stf (d : Reg) (b : Ptr) (o : Order) (c : Scope) (f : BitVec 9)
  /-- STFS (R120). Fills a scratchpad word of the current tile and wakes waiters. -/
  | stfs (d : Reg) (b : Ptr) (o : Order) (c : Scope) (f : BitVec 9)
  /-- LDR (R117). Reads a word at its home without moving the thread. -/
  | ldr (d : Reg) (b : Ptr) (z : Size) (o : Order) (c : Scope) (f : BitVec 9)
  /-- AADD (R122). Atomic integer add at the home. -/
  | aadd (d : Reg) (a : Ptr) (b : Reg) (n : Bool) (o : Order) (c : Scope) (z : Bool)
  /-- AAND (R122). Atomic bitwise AND at the home. -/
  | aand (d : Reg) (a : Ptr) (b : Reg) (n : Bool) (o : Order) (c : Scope) (z : Bool)
  /-- AOR (R122). Atomic bitwise OR at the home. -/
  | aor (d : Reg) (a : Ptr) (b : Reg) (n : Bool) (o : Order) (c : Scope) (z : Bool)
  /-- AXOR (R122). Atomic bitwise XOR at the home. -/
  | axor (d : Reg) (a : Ptr) (b : Reg) (n : Bool) (o : Order) (c : Scope) (z : Bool)
  /-- AMIN (R122). Atomic signed minimum at the home. -/
  | amin (d : Reg) (a : Ptr) (b : Reg) (n : Bool) (o : Order) (c : Scope) (z : Bool)
  /-- AMAX (R122). Atomic signed maximum at the home. -/
  | amax (d : Reg) (a : Ptr) (b : Reg) (n : Bool) (o : Order) (c : Scope) (z : Bool)
  /-- AMINU (R122). Atomic unsigned minimum at the home. -/
  | aminu (d : Reg) (a : Ptr) (b : Reg) (n : Bool) (o : Order) (c : Scope) (z : Bool)
  /-- AMAXU (R122). Atomic unsigned maximum at the home. -/
  | amaxu (d : Reg) (a : Ptr) (b : Reg) (n : Bool) (o : Order) (c : Scope) (z : Bool)
  /-- ASWP (R122). Atomic swap at the home. -/
  | aswp (d : Reg) (a : Ptr) (b : Reg) (n : Bool) (o : Order) (c : Scope) (z : Bool)
  /-- AFADD (R123). Atomic FP32 add with fixed RNE rounding. -/
  | afadd (d : Reg) (a : Ptr) (b : Reg) (n : Bool) (o : Order) (c : Scope)
  /-- AFMAX (R123). Atomic FP32 maximum. -/
  | afmax (d : Reg) (a : Ptr) (b : Reg) (n : Bool) (o : Order) (c : Scope)
  /-- AFMIN (R123). Atomic FP32 minimum. -/
  | afmin (d : Reg) (a : Ptr) (b : Reg) (n : Bool) (o : Order) (c : Scope)
  /-- ACAS (R124). Atomic compare-and-swap returning the old value. -/
  | acas (d : Reg) (a : Ptr) (b : Reg) (o : Order) (c : Scope) (z : Bool)
  /-- FENCE_ACQ (R126). Orders later accesses after earlier loads. -/
  | fenceAcq (c : Scope)
  /-- FENCE_REL (R126). Waits until earlier accesses reach the scope. -/
  | fenceRel (c : Scope)
  /-- FENCE_AR (R126). Acquire and release fence together. -/
  | fenceAr (c : Scope)
  /-- FENCE_ALL (R126). Acquire-release fence that also writes back UO lines at stack scope or wider. -/
  | fenceAll (c : Scope)
  /-- TRKW (R126). Waits until both tracker handles report zero. -/
  | trkw
  /-- SPAWN (R132). Creates a child thread at a tile or placement level. -/
  | spawn (d a b : Reg)
  /-- SPAWN_M (R132). Creates a migratable child thread. -/
  | spawnM (d a b : Reg)
  /-- EXIT (R134). Releases at wafer reach and ends the thread. -/
  | exit
  /-- EXIT_J (R135). Releases, decrements a join word at its home and ends the thread. -/
  | exitJ (a : Ptr)
  /-- YIELD (R140). Gives the slot to an admissible waiting arrival. -/
  | yield
  /-- HOP (R138). Moves the thread to a named tile. -/
  | hop (a : Reg)
  /-- PIN (R139). Sets pinned and refills pinloads to 64. -/
  | pin
  /-- UNPIN (R139). Clears pinned, pinloads and bounce. -/
  | unpin
  /-- HBEAT (R141). Refills the heartbeat budget. -/
  | hbeat
  /-- JOIN (R136). Waits at a word's home until it is at most a count. -/
  | join (a : Ptr) (b : Reg)
  /-- WAITW_EQ (R136). Waits at a word's home until it equals a value. -/
  | waitwEq (a : Ptr) (b : Reg)
  /-- WAITW_NE (R136). Waits at a word's home until it differs from a value. -/
  | waitwNe (a : Ptr) (b : Reg)
  /-- WAITW_GE (R136). Waits at a word's home until it is at least a value. -/
  | waitwGe (a : Ptr) (b : Reg)
  /-- SEAM (R143). Hands the tile's team state to a successor kernel in place. -/
  | seam (a : Ptr) (m : BitVec 9) (s : BitVec 2) (c : Scope)
  /-- BAR (R142). Waits at the team barrier of the tile. -/
  | bar
  /-- VADD (R152). Elementwise vector addition. -/
  | vadd (d a b l : Ptr) (x y z : Bool)
  /-- VSUB (R152). Elementwise vector subtraction. -/
  | vsub (d a b l : Ptr) (x y z : Bool)
  /-- VMUL (R152). Elementwise vector multiplication. -/
  | vmul (d a b l : Ptr) (x y z : Bool)
  /-- VMIN (R152). Elementwise vector minimum. -/
  | vmin (d a b l : Ptr) (x y z : Bool)
  /-- VMAX (R152). Elementwise vector maximum. -/
  | vmax (d a b l : Ptr) (x y z : Bool)
  /-- VABS (R152). Elementwise absolute value. -/
  | vabs (d a l : Ptr) (x y : Bool)
  /-- VNEG (R152). Elementwise negation. -/
  | vneg (d a l : Ptr) (x y : Bool)
  /-- VRCP (R153). Elementwise reciprocal, one rounding. -/
  | vrcp (d a l : Ptr) (x y : Bool)
  /-- VRSQRT (R153). Elementwise reciprocal square root. -/
  | vrsqrt (d a l : Ptr) (x y : Bool)
  /-- VSQRT (R153). Elementwise square root. -/
  | vsqrt (d a l : Ptr) (x y : Bool)
  /-- VEXP2 (R153). Elementwise power of two. -/
  | vexp2 (d a l : Ptr) (x y : Bool)
  /-- VLOG2 (R153). Elementwise base-2 logarithm. -/
  | vlog2 (d a l : Ptr) (x y : Bool)
  /-- VTANH (R153). Elementwise hyperbolic tangent. -/
  | vtanh (d a l : Ptr) (x y : Bool)
  /-- VSIGM (R153). Elementwise logistic sigmoid. -/
  | vsigm (d a l : Ptr) (x y : Bool)
  /-- VCMPEQ (R152). Elementwise equality compare. -/
  | vcmpeq (d a b l : Ptr) (x y z : Bool)
  /-- VCMPLT (R152). Elementwise less-than compare. -/
  | vcmplt (d a b l : Ptr) (x y z : Bool)
  /-- VCMPLE (R152). Elementwise less-or-equal compare. -/
  | vcmple (d a b l : Ptr) (x y z : Bool)
  /-- VFMA (R152). Elementwise fused pa*pb+pd. -/
  | vfma (d a b l : Ptr) (x y z : Bool)
  /-- VFMS (R152). Elementwise fused pa*pb-pd. -/
  | vfms (d a b l : Ptr) (x y z : Bool)
  /-- VFNMA (R152). Elementwise fused -(pa*pb)+pd. -/
  | vfnma (d a b l : Ptr) (x y z : Bool)
  /-- VSCAL (R152). Scales a vector by the acc value. -/
  | vscal (d a l : Ptr) (x y : Bool)
  /-- VAXPY (R152). Computes acc*pa+pb elementwise. -/
  | vaxpy (d a b l : Ptr) (x y z : Bool)
  /-- VRSUM (R155). Sum reduction into acc. -/
  | vrsum (a l : Ptr) (y : Bool)
  /-- VRMAX (R155). Maximum reduction into acc. -/
  | vrmax (a l : Ptr) (y : Bool)
  /-- VRMIN (R155). Minimum reduction into acc. -/
  | vrmin (a l : Ptr) (y : Bool)
  /-- VRSUMSQ (R155). Sum-of-squares reduction into acc. -/
  | vrsumsq (a l : Ptr) (y : Bool)
  /-- VRDOT (R155). Dot-product reduction into acc. -/
  | vrdot (a b l : Ptr) (y z : Bool)
  /-- VCVT (R154). Converts a vector into the destination macros' formats. -/
  | vcvt (d a l : Ptr) (x y : Bool)
  /-- VCOPY (R154). Moves element codes bit for bit between equal formats. -/
  | vcopy (d a l : Ptr) (x y : Bool)
  /-- VFILL (R154). Fills a vector with the rounded acc value. -/
  | vfill (d l : Ptr) (x : Bool)
  /-- VSEL (R152). Selects pa where pd is nonzero, else pb. -/
  | vsel (d a b l : Ptr) (x y z : Bool)
  /-- BFLY (R172). Issues one butterfly stage to the BFE queue. -/
  | bfly (d : Reg) (p : Ptr)
  /-- BCHAIN (R174). Issues a chain of 1 to 12 butterfly stages. -/
  | bchain (d : Reg) (p : Ptr)
  /-- STN (R169). Issues a command making a macro group stationary. -/
  | stn (d : Reg) (p : Ptr) (q : Reg)
  /-- UNSTN (R169). Issues a command returning stationary macros to plain. -/
  | unstn (d : Reg) (p : Ptr) (q : Reg)
  /-- MFMT (R170). Issues a command setting macro format registers. -/
  | mfmt (d : Reg) (p : Ptr) (q : Reg)
  /-- CPY (R178). Issues a copy between object memory and scratchpad. -/
  | cpy (d : Reg) (p : Ptr)
  /-- CRING (R178). Issues a copy into the next free slot of a buffer. -/
  | cring (d : Reg) (p : Ptr)
  /-- CSEND (R178). Issues a transfer along a static route to its end. -/
  | csend (d : Reg) (p : Ptr)
  /-- CRED (R179). Issues a reducing copy into the scratchpad. -/
  | cred (d : Reg) (p : Ptr)
  /-- CBCAST (R178). Issues a broadcast to every delivering tile of a route. -/
  | cbcast (d : Reg) (p : Ptr)
  /-- CBCFG (R182). Issues configuration of a circular buffer. -/
  | cbcfg (d : Reg) (p : Ptr) (q : Reg)
  /-- CBWAIT (R183). Waits until a buffer has enough filled slots, then acquires. -/
  | cbwait (p : Ptr) (q : Reg)
  /-- CBFREE (R183). Releases the oldest filled slots of a thread-mode buffer. -/
  | cbfree (p : Ptr) (q : Reg)
  /-- CBSTAT (R183). Returns a buffer's counts and indices. -/
  | cbstat (d : Reg) (p : Ptr)
  /-- NRCOPY (R186). Issues an in-stack 2 KiB row copy. -/
  | nrcopy (d : Reg) (p : Ptr)
  /-- NRZERO (R186). Issues zeroing of rows from the hidden zero row. -/
  | nrzero (d : Reg) (p : Ptr)
  /-- NBCOPY (R186). Issues a 64-byte-unit copy through base buffers. -/
  | nbcopy (d : Reg) (p : Ptr)
  /-- NEXPR (R187). Issues a postfix element expression in the stack base. -/
  | nexpr (d : Reg) (p : Ptr)
  /-- NGEMV (R188). Issues a checked INT8A matrix-vector product. -/
  | ngemv (d : Reg) (p : Ptr)
  /-- TLREAD (R168). Reads an engine's timeline counter. -/
  | tlread (d : Reg) (e : Eng)
  /-- TLWAIT (R168). Waits for a timeline ticket, reports errors and flags, and acquires. -/
  | tlwait (p : Ptr) (e : Eng)
  /-- MFS (R191). Reads a special into a register. -/
  | mfs (d : Reg) (s : BitVec 6)
  /-- MTS (R191). Writes a special that has no row of its own. -/
  | mts (a : Reg) (s : BitVec 6)
  /-- ST_WRITE (R23). mts to st, all-or-nothing, governing later rounding and flags. -/
  | stWrite (a : Reg)
  /-- FBUF_WRITE (R192). mts to fbuf clears DROPPED by write-one-to-clear. -/
  | fbufWrite (a : Reg)
  /-- TRAP (R193). Blocks the thread and posts an SVC fault for a software error. -/
  | trap (c : BitVec 10)
  /-- BRK (R193). Blocks the thread and posts a BRK fault. -/
  | brk (c : BitVec 10)
  /-- SVC (R193). Blocks the thread and posts a service request. -/
  | svc (c : BitVec 10)
  /-- REPLY (R197). Answers one fault with a reply kind. -/
  | reply (d a b : Reg)
  /-- REPLAYA (R198). Answers every thread blocked on a granule, or every dropped fault. -/
  | replaya (d a b : Reg)
  /-- XMAP (R199). Maps a granule at its home and releases its pending entry. -/
  | xmap (d a b : Reg)
  /-- XUNMAP (R294). Drains and unmaps a granule. -/
  | xunmap (d a : Reg)
  /-- XDRAIN (R294). Drains a granule and moves it to a new page or home. -/
  | xdrain (d a b : Reg)
  /-- DINVAL (R199). Invalidates an object's records in every directory cache. -/
  | dinval (d a : Reg)
  /-- MSEND (R200). Sends a 32-byte service message. -/
  | msend (d a : Reg)
  /-- MRECV (R196). Waits for and takes the oldest fault or service message. -/
  | mrecv (d : Reg)
  /-- DSTOP (R201). Stops one thread of a debuggable context. -/
  | dstop (d a : Reg)
  /-- DRESUME (R201). Resumes a thread stopped by dstop. -/
  | dresume (d a : Reg)
  /-- XW_EXTENSION (R60). Supplies high immediate bits to the following instruction. -/
  | xwExtension (e : BitVec 25)
  /-- XW_MODIFIER (R60). Supplies .sx or .nt to the following instruction. -/
  | xwModifier (n x : Bool)
  /-- HBEAT_EXPIRY (R141). A thread's heartbeat budget reaches zero and it takes HBEAT at its next boundary. -/
  | hbeatExpiry (t k : Nat)
  /-- WAIT_RESUME (R19). A slot in WAIT returns to READY when its data, acknowledgement, queue entry or condition arrives. -/
  | waitResume (t k : Nat)
  /-- MERGING_FILL (R237). A line fill from the slice or DRAM merges into invalid L1 words and completes a waiting load. -/
  | mergingFill (t k : Nat)
  /-- MIGRATION_DEPARTURE (R204). The router accepts a VC3 flit and the departing slot becomes FREE. -/
  | migrationDeparture (t k : Nat)
  /-- LOAD_DEPARTURE_TIMEOUT (R204). A load's migration flit is not accepted in 4,096 cycles and it becomes a remote read. -/
  | loadDepartureTimeout (t k : Nat)
  /-- QSTALL_TIMEOUT (R204). An ldf, join, waitw, hop or inline resume flit is not accepted in 65,536 cycles and raises QSTALL. -/
  | qstallTimeout (t k : Nat)
  /-- CHILD_FLIT_TIMEOUT (R204). A spawned child's flit is not accepted in 4,096 cycles and counts as refused. -/
  | childFlitTimeout (t k : Nat)
  /-- SPAWN_RETRY (R132). A waiting spawn repeats its full placement attempt every 256 cycles. -/
  | spawnRetry (t k : Nat)
  /-- MIGRATION_FLIT (R206). A VC3 flit arrives and is returned, saved, admitted, queued, spilled or refused. -/
  | migrationFlit (n : Nat)
  /-- SLOT_GRANT (R210). A freed slot or team position goes to a woken waiter, queue head or local spawn. -/
  | slotGrant (t : Nat)
  /-- RING_TO_QUEUE (R208). The oldest spill-ring entry whose queue has room moves into it, or opens a team. -/
  | ringToQueue (t : Nat)
  /-- WAITER_UNSPILL (R216). A spilled waiter returns to the table as an entry frees. -/
  | waiterUnspill (t : Nat)
  /-- PARK_RETRY (R216). A parking instruction refused by a full waiter spill area is attempted again every 256 cycles. -/
  | parkRetry (t k : Nat)
  /-- REMOTE_READ_REQUEST (R117). A VC0 read request is performed at the home. -/
  | remoteReadRequest (n : Nat)
  /-- ATOMIC_REQUEST (R122). A VC0 fetching atomic or acas request is performed at the home. -/
  | atomicRequest (n : Nat)
  /-- PEER_WINDOW_LOAD (R245). A VC0 peer-window load is performed at the partner. -/
  | peerWindowLoad (n : Nat)
  /-- TRACKER_QUERY (R214). A tracker answers a query when its count is zero. -/
  | trackerQuery (n : Nat)
  /-- TRACKER_RELEASE (R214). A tracker handle release or error clear arrives at the tracker's tile. -/
  | trackerRelease (n : Nat)
  /-- PLACEMENT_REQUEST (R212). A tile or controller receives a child placement request. -/
  | placementRequest (n : Nat)
  /-- DIRECTORY_FILL_REQUEST (R289). A directory tile answers a request for a record. -/
  | directoryFillRequest (n : Nat)
  /-- DIRECTORY_INVALIDATE (R289). A tile removes a directory record and answers once lookups using it are decided. -/
  | directoryInvalidate (n : Nat)
  /-- SERVICE_REQUEST (R199). A home receives an extent command or service message request. -/
  | serviceRequest (n : Nat)
  /-- READ_DATA (R117). A read reply arrives and completes a REMOTE load. -/
  | readData (n : Nat)
  /-- ATOMIC_RESULT (R122). An atomic reply arrives and writes the old value. -/
  | atomicResult (n : Nat)
  /-- WRITE_ACKNOWLEDGEMENT (R106). An acknowledgement lowers a tracker count or ends an SO or peer-store wait. -/
  | writeAcknowledgement (n : Nat)
  /-- TRACKER_ANSWER (R214). A tracker's zero-count answer with any error mark arrives. -/
  | trackerAnswer (n : Nat)
  /-- ADMISSION_ANSWER (R132). A spawn target's admission or refusal arrives at the caller. -/
  | admissionAnswer (n : Nat)
  /-- DIRECTORY_FILL (R289). A directory record arrives and is stamped with the current generation. -/
  | directoryFill (n : Nat)
  /-- STALE_RETURN (R107). A returned packet refreshes the directory entry and is resent once or raises STALE. -/
  | staleReturn (n : Nat)
  /-- SERVICE_ANSWER (R259). A service answer arrives, including the dropped mark for a discarded fault. -/
  | serviceAnswer (n : Nat)
  /-- ROUTE_SLOT_GRANT (R254). A delivering tile grants a route transfer a slot. -/
  | routeSlotGrant (n : Nat)
  /-- STORE_WRITE (R107). A VC2 store is performed at its home or held in a pending entry. -/
  | storeWrite (n : Nat)
  /-- STF_WRITE (R120). A VC2 stf fills a word at its home and wakes waiters. -/
  | stfWrite (n : Nat)
  /-- NR_ATOMIC_WRITE (R122). A VC2 fire-and-forget atomic is performed at its home. -/
  | nrAtomicWrite (n : Nat)
  /-- EXIT_J_DECREMENT (R135). A join-word decrement is performed at its home and acknowledged. -/
  | exitJDecrement (n : Nat)
  /-- PEER_WINDOW_STORE (R245). A VC2 peer-window store is performed at the partner and acknowledged. -/
  | peerWindowStore (n : Nat)
  /-- COPY_READ_REQUEST (R181). A copy-engine read request is performed at a home. -/
  | copyReadRequest (n : Nat)
  /-- COPY_READ_DATA (R181). Copy-engine read data arrives at the engine. -/
  | copyReadData (n : Nat)
  /-- COPY_WRITE (R181). A copy-engine write is performed at a home. -/
  | copyWrite (n : Nat)
  /-- COPY_WRITE_ACKNOWLEDGEMENT (R181). A copy-engine write acknowledgement arrives. -/
  | copyWriteAcknowledgement (n : Nat)
  /-- COUNTER_GRID_STORE (R363). A grid or trace record write is performed at its home. -/
  | counterGridStore (n : Nat)
  /-- ROUTE_DATA_FLIT (R254). A VC5 route flit is delivered and forwarded, taking a slot at its first flit. -/
  | routeDataFlit (n : Nat)
  /-- ROUTE_LAST_FLIT (R254). The final flit of a route transfer closes it at each delivering tile. -/
  | routeLastFlit (n : Nat)
  /-- HEADER_CRC_ERROR (R248). A router drops a flit with a bad header CRC and it is resent from its source hop. -/
  | headerCrcError (n : Nat)
  /-- COMMAND_START (R163). An engine starts a team's head command, reads its block and runs its start checks. -/
  | commandStart (t : Nat) (e : Eng)
  /-- BUTTERFLY_STAGE_END (R176). A butterfly stage ends after 16+Q cycles, writing outputs and status points. -/
  | butterflyStageEnd (t : Nat)
  /-- MACRO_CONTROL_END (R176). A stn, unstn or mfmt command ends after 2+c cycles. -/
  | macroControlEnd (t : Nat)
  /-- COPY_ROW_END (R181). A copy-engine row completes, ending a fill or the command. -/
  | copyRowEnd (t : Nat)
  /-- NME_OPERATION_END (R185). A near-memory row operation or command completes. -/
  | nmeOperationEnd (t : Nat)
  /-- BUFFER_SLOT_TAKE (R183). A waiting bfly takes the oldest filled slot of its buffer. -/
  | bufferSlotTake (t : Nat)
  /-- COPY_SLOT_TAKE (R183). A waiting copy command takes a buffer's next free slot. -/
  | copySlotTake (t : Nat)
  /-- SCRUB_START (R243). A due macro scrub starts on a free scrub unit. -/
  | scrubStart (t m : Nat)
  /-- SCRUB_END (R243). A macro scrub ends leaving zeros, full tags and RAW format. -/
  | scrubEnd (t m : Nat)
  /-- TEAM_RETIRE (R311). A team with no threads and no running commands retires and frees its resources. -/
  | teamRetire (t p : Nat)
  /-- FAULT_MESSAGE (R259). A fault message reaches the service tile and is held or dropped. -/
  | faultMessage (n : Nat)
  /-- SERVICE_MESSAGE (R200). A service message or tile monitor notice is queued for a service thread. -/
  | serviceMessage (n : Nat)
  /-- DROPPED_ANSWER_REQUEST (R259). A tile answers every slot with a dropped mark on a replaya of region 0. -/
  | droppedAnswerRequest (n : Nat)
  /-- LAUNCH (R301). The root checks a LAUNCH message and accepts or refuses it. -/
  | launch (r : HostReq)
  /-- LAUNCH_READY (R304). A launch whose dependences completed gets its write-backs and replication and becomes ready. -/
  | launchReady (kin : Nat)
  /-- LAUNCH_RELEASE (R305). The root installs a ready launch's routes and sends it to field controllers. -/
  | launchRelease (kin : Nat)
  /-- FIELD_LAUNCH (R305). A field controller sends admission orders to its tiles. -/
  | fieldLaunch (f kin : Nat)
  /-- ADMISSION_ORDER (R306). An admission order joins the tile's class-ordered queue. -/
  | admissionOrder (t kin : Nat)
  /-- TEAM_ADMISSION (R307). The head admission order is admitted when resources are free. -/
  | teamAdmission (t : Nat)
  /-- PREEMPTION_DECISION (R309). A controller orders the quiesce of lower-class victims for a blocked order. -/
  | preemptionDecision (t : Nat)
  /-- QUIESCE (R338). A tile stops a victim team, saves it and frees its resources. -/
  | quiesce (t p : Nat)
  /-- QUIESCE_ACKNOWLEDGE (R338). A controller counts a tile's quiesce acknowledgement. -/
  | quiesceAcknowledge (t : Nat)
  /-- RESTORE (R341). A tile restores a quiesced team from its save area. -/
  | restore (t a : Nat)
  /-- LIVE_COUNT_REPORT (R312). The root applies a tile's report of live-count changes. -/
  | liveCountReport
  /-- INSTANCE_COMPLETE (R312). The root records an instance complete, removes routes and sends any notice. -/
  | instanceComplete (kin : Nat)
  /-- FREE_SLOT_UPDATE (R212). A tile updates its field controller's free-slot map. -/
  | freeSlotUpdate (t : Nat)
  /-- FREE_COUNT_REFRESH (R212). The root refreshes per-field free counts every 1,024 cycles. -/
  | freeCountRefresh
  /-- SEAM_SEQUENCE (R316). A held team continues the seam sequence once stranded commands, macros and slots allow. -/
  | seamSequence (t p : Nat)
  /-- SUCCESSOR_READY (R324). The root sends ready notices for a successor and held teams start. -/
  | successorReady (kin : Nat)
  /-- EXTENT_DRAIN_COMPLETE (R294). A pending unmap or drain finishes once npin is zero and sends XDONE. -/
  | extentDrainComplete (t i : Nat)
  /-- HELD_PACKET_RESEND (R379). A packet held by a dusk is resent after the generation advance. -/
  | heldPacketResend (n : Nat)
  /-- DAWN (R364). Power-good starts firmware check, map choice, clocking, grid and enabling. -/
  | dawn
  /-- LIVENESS_SWEEP (R383). Controllers and root probe monitors every 1,048,576 cycles. -/
  | livenessSweep
  /-- PROBE_TIMEOUT (R383). A monitor fails two consecutive probes and its site is fenced. -/
  | probeTimeout (t : Nat)
  /-- DUSK (R378). A tile's state moves to a spare and the generation advances. -/
  | dusk (t : Nat)
  /-- LOSSY_DUSK (R384). A fenced tile is replaced without copying and its instances are killed. -/
  | lossyDusk (t : Nat)
  /-- CLOCK_PARENT_SWITCH (R382). A site that loses its clock parent switches to another neighbour. -/
  | clockParentSwitch (site : Nat)
  /-- PATROL_READ (R386). A patrol scrub reads DRAM rows and macros, correcting or poisoning words. -/
  | patrolRead (t key : Nat) (bad : Bool)
  /-- ROW_SPARING (R387). A failing row is copied to a spare row. -/
  | rowSparing (t ch bank sub row : Nat)
  /-- BANK_SPARING (R387). A bank needing a third spare row is copied to the spare bank. -/
  | bankSparing (t ch bank : Nat)
  /-- CHECKSUM_REREAD (R388). The monitor re-reads a failing ngemv tile and disposes of the error. -/
  | checksumReread (t bank : Nat) (bad : Bool)
  /-- ERRCOUNT (R389). Each tile sends its error counts every hour. -/
  | errcount (t : Nat)
  /-- POWER_CHECK (R393). Every 1 ms the controller throttles or restores BFE and DRAM caps. -/
  | powerCheck (watts : Nat)
  /-- MODE_CHANGE_COMPLETE (R394). A change into or out of Enduring mode ends and a MODE notice is sent. -/
  | modeChangeComplete
  /-- LANE_FAILURE (R350). A failing lane is spared, or the port narrows or leaves service. -/
  | laneFailure (port lane : Nat)
  /-- PEER_LOSS (R297). A peer resets or its link fails, in-flight accesses end LINKLOST and descriptors are marked lost. -/
  | peerLoss (m : Nat)
  /-- PEER_ACCESS (R347). An access from a peer module is checked and performed at a home. -/
  | peerAccess (q : PeerReq)
  /-- GRID_INTERVAL (R363). At each interval every tile latches, zeroes and stores its counters. -/
  | gridInterval (t : Nat)
  /-- SAMPLE (R360). When cyc mod 2^p is zero a sample record is written. -/
  | sample (t : Nat)
  /-- MEM_READ (R346). A host MEM read is checked and performed word by word. -/
  | memRead (r : HostReq)
  /-- MEM_WRITE (R346). A host MEM write is checked and performed word by word. -/
  | memWrite (r : HostReq)
  /-- STATUS (R397). Returns the module status word. -/
  | status (r : HostReq)
  /-- MODESET (R394). Changes the power mode. -/
  | modeset (r : HostReq)
  /-- CTXCREATE (R283). Creates a context with its debuggable bit. -/
  | ctxcreate (r : HostReq)
  /-- CTXDESTROY (R283). Destroys a context once it holds nothing. -/
  | ctxdestroy (r : HostReq)
  /-- OBJCREATE (R285). Creates an object descriptor. -/
  | objcreate (r : HostReq)
  /-- OBJDESTROY (R398). Unmaps and destroys an object. -/
  | objdestroy (r : HostReq)
  /-- MGMT_XMAP (R398). Maps a granule as xmap does, from the host. -/
  | mgmtXmap (r : HostReq)
  /-- PORTMAP (R342). Writes the port role map to flash for the next dawn. -/
  | portmap (r : HostReq)
  /-- PEERADMIT (R297). Re-admits a peer module and clears lost. -/
  | peeradmit (r : HostReq)
  /-- SVCRESTART (R195). Restarts a stopped service thread from its firmware entry. -/
  | svcrestart (r : HostReq)
  /-- RETIRE (R377). Starts a dusk of a named logical tile. -/
  | retire (r : HostReq)
  /-- PARTOUT (R395). Takes a pump, power stage or port out of service if the rest suffice. -/
  | partout (r : HostReq)
  /-- PARTIN (R395). Returns a replaced part to service. -/
  | partin (r : HostReq)
  /-- MAPREAD (R369). Returns bytes of the defect map in use. -/
  | mapread (r : HostReq)
  /-- MAPACCEPT (R369). Enables compute on a matching survey map digest. -/
  | mapaccept (r : HostReq)
  /-- MAPLOAD (R398). Stages map chunks and on commit validates and writes the map. -/
  | mapload (r : HostReq)
  /-- FWLOAD (R365). Stages firmware chunks and on commit verifies and writes a slot. -/
  | fwload (r : HostReq)
  /-- TOKENLOAD (R373). Stores a signed feature token. -/
  | tokenload (r : HostReq)
  /-- ATTEST (R353). Returns a signed attestation report. -/
  | attest (r : HostReq)
  /-- DBGSTOP (R354). Stops a thread through its field's service thread. -/
  | dbgstop (r : HostReq)
  /-- DBGRESUME (R354). Resumes a debug-stopped thread. -/
  | dbgresume (r : HostReq)
  /-- DBGREAD (R354). Returns a stopped or blocked thread's context and slot state. -/
  | dbgread (r : HostReq)
  /-- DBGWRITE (R354). Replaces a stopped thread's registers, pc and RW st fields. -/
  | dbgwrite (r : HostReq)
  /-- DBGSTEP (R354). Issues one instruction of a stopped thread. -/
  | dbgstep (r : HostReq)
  /-- DBGBRK (R355). Sets or clears a code breakpoint comparator. -/
  | dbgbrk (r : HostReq)
  /-- TRACESET (R357). Designates or clears a context's trace object. -/
  | traceset (r : HostReq)
  /-- SAMPLESET (R360). Sets or disables sampling for a context. -/
  | sampleset (r : HostReq)
  /-- GRIDSET (R362). Designates the counter grid object and interval. -/
  | gridset (r : HostReq)
  /-- ILLEGAL (R64). Issuing a word of major 0x00, an unassigned major or an unlisted func raises ILLEGAL in DC. -/
  | illegal (w : BitVec 32)
  /-- BREAKPOINT_MATCH (R355). A thread at an instruction boundary whose pc equals a set comparator raises BRK before it issues. -/
  | breakpointMatch (t k : Nat)
  /-- VECTOR_PASS_END (R159). A vector pass ends, performing its writes, and may fault, and the last pass completes the instruction with flags and pointer write-back. -/
  | vectorPassEnd (t : Nat)
  /-- CLOCK_RELOCK (R28). A tile's clock finishes relocking during a change into or out of Enduring mode and issue resumes. -/
  | clockRelock (t : Nat)
  /-- POWER_LOSS (R367). Input power is lost, possibly during a defect-map update, which always leaves one valid copy. -/
  | powerLoss
  /-- LINK_CRC_RESEND (R350). A Kyoster Link flit whose link CRC fails is resent by the link layer and counted. -/
  | linkCrcResend (port : Nat)
  deriving DecidableEq, Repr

end Sys2Proof
end

