-- ==== Sys2Proof/Machine/Num.lean ====
section
/-! DEFINITION. Number formats, the rounding function, conversion and summation (R29-R53): every value is an exact dyadic
number, an infinity or a NaN, and every result is rounded once. A value that is not dyadic (a quotient, a root, an
approximation) is given by more than 160 leading bits and a last bit that records that more follows, which no rounding of
R41 or R42 can tell from the exact value. -/

namespace Sys2Proof.Machine

/-- The exact value of a code (R30, R31). A finite value is `(-1)^neg * m * 2^e`. -/
inductive Val where
  | nan (signalling : Bool)
  | inf (neg : Bool)
  | fin (neg : Bool) (m : Nat) (e : Int)
  deriving DecidableEq, Repr

/-- The sticky flags at their `st` positions less 4 (R22, R40): NX, UF, OF, DZ, NV, NFSKIP from bit 0. -/
abbrev Flags := BitVec 6

namespace Flags
def none : Flags := 0#6
def nx : Flags := 1#6
def uf : Flags := 2#6
def ovf : Flags := 4#6
def dz : Flags := 8#6
def nv : Flags := 16#6
def nfskip : Flags := 32#6
def nvIf (b : Bool) : Flags := if b then nv else none
end Flags

/-- How a format's top exponent is read (R29). -/
inductive TopExp where
  | ieee     -- infinity and NaN
  | e4m3     -- NaN at mantissa 111 only
  | plain    -- ordinary
  deriving DecidableEq, Repr

/-- A floating-point format (R29). -/
structure Fmt where
  expBits : Nat
  manBits : Nat
  bias    : Nat
  top     : TopExp
  deriving DecidableEq, Repr

def fp64 : Fmt := ⟨11, 52, 1023, .ieee⟩
def fp32 : Fmt := ⟨8, 23, 127, .ieee⟩
def bf16 : Fmt := ⟨8, 7, 127, .ieee⟩
def fp16 : Fmt := ⟨5, 10, 15, .ieee⟩
def e4m3 : Fmt := ⟨4, 3, 7, .e4m3⟩
def e5m2 : Fmt := ⟨5, 2, 15, .ieee⟩
def e2m3 : Fmt := ⟨2, 3, 1, .plain⟩
def e3m2 : Fmt := ⟨3, 2, 3, .plain⟩
def e2m1 : Fmt := ⟨2, 1, 1, .plain⟩

namespace Fmt

/-- Width of a code in bits. -/
def width (f : Fmt) : Nat := 1 + f.expBits + f.manBits

/-- The greatest finite magnitude's code. -/
def maxCode (f : Fmt) : Nat :=
  match f.top with
  | .ieee => (2 ^ f.expBits - 2) * 2 ^ f.manBits + (2 ^ f.manBits - 1)
  | .e4m3 => (2 ^ f.expBits - 1) * 2 ^ f.manBits + (2 ^ f.manBits - 2)
  | .plain => 2 ^ (f.expBits + f.manBits) - 1

/-- R31: the canonical NaN; 0 where the format has none (R43). -/
def nanCode (f : Fmt) : Nat :=
  match f.top with
  | .ieee => (2 ^ f.expBits - 1) * 2 ^ f.manBits + 2 ^ (f.manBits - 1)
  | .e4m3 => 0x7F
  | .plain => 0

def signBit (f : Fmt) (neg : Bool) : Nat := if neg then 2 ^ (f.expBits + f.manBits) else 0

/-- R30, R31: the exact value of a code. -/
def value (f : Fmt) (code : Nat) : Val :=
  let neg := (code / 2 ^ (f.expBits + f.manBits)) % 2 = 1
  let ex := (code / 2 ^ f.manBits) % 2 ^ f.expBits
  let m := code % 2 ^ f.manBits
  let finite : Val :=
    if ex = 0 then .fin neg m (1 - (f.bias : Int) - f.manBits)
    else .fin neg (m + 2 ^ f.manBits) ((ex : Int) - f.bias - f.manBits)
  match f.top with
  | .ieee =>
    if ex = 2 ^ f.expBits - 1 then
      if m = 0 then .inf neg else .nan (m < 2 ^ (f.manBits - 1))
    else finite
  | .e4m3 => if ex = 15 ∧ m = 7 then .nan false else finite
  | .plain => finite

end Fmt

/-- R42: the mixing function. -/
def fmix (a : BitVec 32) : BitVec 32 :=
  let b := (a ^^^ (a >>> 16)) * 0x85EBCA6B#32
  let c := (b ^^^ (b >>> 13)) * 0xC2B2AE35#32
  c ^^^ (c >>> 16)

/-- What a rounding needs beside the value (R41, R42): mode, saturation, SR key and position. -/
structure Rnd where
  rm  : Nat
  sat : Bool
  key : BitVec 32
  pos : BitVec 32
  deriving DecidableEq, Repr

/-- RNE with saturation off, as `round(x, f, RNE, 0)` is written in the manual. -/
def rne : Rnd := ⟨0, false, 0#32, 0#32⟩

/-- `floor(log2 (m * 2^e))` of a nonzero magnitude. -/
def leadOf (m : Nat) (e : Int) : Int := (Nat.log2 m : Int) + e

/-- `floor(m * 2^e / 2^q)` and whether something was cut off. -/
def floorAt (m : Nat) (e q : Int) : Nat × Bool :=
  if q ≤ e then (m * 2 ^ (e - q).toNat, false)
  else
    let sh := (q - e).toNat
    if Nat.log2 m < sh then (0, m != 0) else (m >>> sh, (m >>> sh) <<< sh != m)

/-- R42: the FP64 bit pattern of a finite value truncated toward zero, the FP64 maximum beyond its range. -/
def truncFp64 (neg : Bool) (m : Nat) (e : Int) : Nat :=
  if m = 0 then fp64.signBit neg
  else
    let q := max (leadOf m e) (-1022) - 52
    let n := (floorAt m e q).1
    let s := fp64.signBit neg
    if leadOf m e > 1023 then s + fp64.maxCode
    else if n < 2 ^ 52 then s + n
    else s + ((q + 52 + 1023).toNat * 2 ^ 52 + (n - 2 ^ 52))

/-- R42: the random word `u` of a value. -/
def srWord (key pos : BitVec 32) (v : Nat) : BitVec 32 :=
  fmix (key ^^^ fmix (pos ^^^ fmix (BitVec.ofNat 32 v ^^^ fmix (BitVec.ofNat 32 (v / 2 ^ 32)))))

/-- R41: whether the neighbour away from zero is picked for an inexact magnitude whose truncation at `2^q` is `n`. DESIGN
CHOICE (log 42): rm 5 to 7, which only a status reply can write, round to nearest. -/
def pickAway (r : Rnd) (neg : Bool) (m : Nat) (e q : Int) (n : Nat) : Bool :=
  match r.rm with
  | 1 => false
  | 2 => neg
  | 3 => !neg
  | 4 =>
    let t := (floorAt m e (q - 32)).1 % 2 ^ 32
    t + (srWord r.key r.pos (truncFp64 neg m e)).toNat ≥ 2 ^ 32
  | _ =>
    let (h, more) := floorAt m e (q - 1)          -- one bit below the grid
    h % 2 = 1 && (more || n % 2 = 1)

/-- R41: a magnitude on the grid of `2^q`, and whether it is inexact. -/
def roundAt (r : Rnd) (neg : Bool) (m : Nat) (e q : Int) : Nat × Bool :=
  let (n, cut) := floorAt m e q
  if cut then (if pickAway r neg m e q n then n + 1 else n, true) else (n, false)

/-- R41: saturation applies to the narrow formats always and to E5M2 when sat = 1. -/
def Fmt.saturates (f : Fmt) (sat : Bool) : Bool :=
  match f.top with
  | .ieee => f == e5m2 && sat
  | .e4m3 | .plain => true

/-- R41, R43: `round` into a floating-point format, with the flags it sets. -/
def roundTo (f : Fmt) (r : Rnd) : Val → Nat × Flags
  | .nan sig =>
    match f.top with
    | .plain => (0, Flags.nv)
    | .ieee | .e4m3 => (f.nanCode, Flags.nvIf sig)
  | .inf neg =>
    match f.top with
    | .plain => (0, Flags.nv)
    | .e4m3 => (f.signBit neg + f.maxCode, Flags.nv)
    | .ieee =>
      if f.saturates r.sat then (f.signBit neg + f.maxCode, Flags.nv)
      else (f.signBit neg + (2 ^ f.expBits - 1) * 2 ^ f.manBits, Flags.none)
  | .fin neg m e =>
    let s := f.signBit neg
    if m = 0 then (s, Flags.none) else
    let lead := leadOf m e
    let emin : Int := 1 - f.bias
    let q := max lead emin - f.manBits
    let (n, cut) := roundAt r neg m e q
    let fl := (if cut then Flags.nx else Flags.none) ||| (if cut ∧ lead < emin then Flags.uf else Flags.none)
    -- the code grows by one from the top of a binade to the next, so the biased sum carries into the exponent
    let base : Int := if max lead emin = emin then n else (max lead emin - emin) * 2 ^ f.manBits + n
    if base > f.maxCode then
      let toMax := f.saturates r.sat || f.top != .ieee || r.rm == 1 || (r.rm == 2 && !neg) || (r.rm == 3 && neg)
      (s + (if toMax then f.maxCode else (2 ^ f.expBits - 1) * 2 ^ f.manBits),
        fl ||| Flags.ovf ||| Flags.nx)
    else (s + base.toNat, fl)

/-- R44, R50: an exact integer limited to a range; out of range sets NV. -/
def clampInt (lo hi : Int) (x : Int) : Int × Flags :=
  if x < lo then (lo, Flags.nv) else if x > hi then (hi, Flags.nv) else (x, Flags.none)

/-- R96: `round` onto the integer grid within a range; NaN gives 0 (R43). -/
def roundInt (lo hi : Int) (r : Rnd) : Val → Int × Flags
  | .nan _ => (0, Flags.nv)
  | .inf neg => (if neg then lo else hi, Flags.nv)
  | .fin neg m e =>
    -- beyond 2^70 every integer range is left, whatever the exact value
    if m ≠ 0 ∧ leadOf m e > 70 then (if neg then lo else hi, Flags.nv) else
    let (n, cut) := roundAt r neg m e 0
    let x : Int := if neg then -n else n
    let (y, fl) := clampInt lo hi x
    (y, if fl = Flags.none ∧ cut then Flags.nx else fl)

/-- The exact value of an integer. -/
def intVal (x : Int) : Val := .fin (x < 0) x.natAbs 0

/-- R34: a field of `k` bits read as two's complement. -/
def sext (k : Nat) (x : Nat) : Int := if x % 2 ^ k < 2 ^ (k - 1) then (x % 2 ^ k : Nat) else (x % 2 ^ k : Nat) - 2 ^ k

/-- R34: an integer as a field of `k` bits. -/
def toField (k : Nat) (x : Int) : Nat := (x % 2 ^ k).toNat

/-! ### Exact operations (R48, R91, R92, R95) -/

/-- Sum of two finite values, exact; the sign of an exact zero is left to `signZero`. -/
def addFin (n1 : Bool) (m1 : Nat) (e1 : Int) (n2 : Bool) (m2 : Nat) (e2 : Int) : Int × Int :=
  let e := min e1 e2
  let a : Int := (m1 * 2 ^ (e1 - e).toNat : Nat)
  let b : Int := (m2 * 2 ^ (e2 - e).toNat : Nat)
  ((if n1 then -a else a) + (if n2 then -b else b), e)

/-- R92: the sum of two finite values with the sign of an exact zero for rounding mode `rm`. -/
def addSigned (rm : Nat) (n1 : Bool) (m1 : Nat) (e1 : Int) (n2 : Bool) (m2 : Nat) (e2 : Int) : Val :=
  let (s, e) := addFin n1 m1 e1 n2 m2 e2
  if s = 0 then .fin (if m1 = 0 ∧ m2 = 0 ∧ n1 = n2 then n1 else rm == 2) 0 0
  else .fin (s < 0) s.natAbs e

def Val.neg : Val → Val
  | .nan s => .nan s
  | .inf n => .inf !n
  | .fin n m e => .fin (!n) m e

/-- Two magnitudes far apart: the smaller one only marks that the sum is not the larger (R41 needs no more). -/
def Val.isNan : Val → Bool
  | .nan _ => true
  | _ => false

def Val.isSig : Val → Bool
  | .nan s => s
  | _ => false

def Val.isZero : Val → Bool
  | .fin _ 0 _ => true
  | _ => false

def Val.isFinite : Val → Bool
  | .fin _ _ _ => true
  | _ => false

def Val.sign : Val → Bool
  | .nan _ => false
  | .inf n => n
  | .fin n _ _ => n

/-- R48, R91: the exact product; infinity times zero is an invalid NaN, marked signalling. -/
def mulVal (x y : Val) : Val :=
  match x, y with
  | .nan a, .nan b => .nan (a || b)
  | .nan a, _ => .nan a
  | _, .nan b => .nan b
  | .inf a, .inf b => .inf (a != b)
  | .inf a, .fin b m _ => if m = 0 then .nan true else .inf (a != b)
  | .fin a m _, .inf b => if m = 0 then .nan true else .inf (a != b)
  | .fin a m e, .fin b n f => .fin (a != b) (m * n) (e + f)

/-- R91, R92: the exact sum; opposite infinities are an invalid NaN, marked signalling. -/
def addVal (rm : Nat) (x y : Val) : Val :=
  match x, y with
  | .nan a, .nan b => .nan (a || b)
  | .nan a, _ => .nan a
  | _, .nan b => .nan b
  | .inf a, .inf b => if a = b then .inf a else .nan true
  | .inf a, .fin _ _ _ => .inf a
  | .fin _ _ _, .inf b => .inf b
  | .fin a m e, .fin b n f => addSigned rm a m e b n f

/-- R95: `±(x * y) ± z` with one rounding to come; a NaN operand beside infinity times zero still sets NV. -/
def fmaVal (rm : Nat) (x y z : Val) : Val := addVal rm (mulVal x y) z

/-- The extra leading bits computed for a quotient, root or approximation. -/
def extraBits : Nat := 200

/-- R91: a quotient of nonzero finite values, its last bit recording a remainder. -/
def divFin (a : Bool) (m : Nat) (e : Int) (b : Bool) (n : Nat) (f : Int) : Val :=
  let k := extraBits + Nat.log2 n
  let q := (m <<< k) / n
  .fin (a != b) (2 * q + (if q * n = m <<< k then 0 else 1)) (e - f - k - 1)

/-- R91: the quotient and whether DZ arises. DESIGN CHOICE (log 86): a finite value by an infinity gives the zero of the xor of
the signs. -/
def divVal (x y : Val) : Val × Flags :=
  match x, y with
  | .nan a, .nan b => (.nan (a || b), Flags.none)
  | .nan a, _ => (.nan a, Flags.none)
  | _, .nan b => (.nan b, Flags.none)
  | .inf _, .inf _ => (.nan true, Flags.none)
  | .inf a, .fin b _ _ => (.inf (a != b), Flags.none)
  | .fin a _ _, .inf b => (.fin (a != b) 0 0, Flags.none)
  | .fin a m e, .fin b n f =>
    if n = 0 then (if m = 0 then (.nan true, Flags.none) else (.inf (a != b), Flags.dz))
    else if m = 0 then (.fin (a != b) 0 0, Flags.none)
    else (divFin a m e b n f, Flags.none)

/-- Integer square root by bits, from bit `k - 1` down. -/
def isqrtFrom (n : Nat) : Nat → Nat → Nat
  | 0, r => r
  | k + 1, r => isqrtFrom n k (if (r + 2 ^ k) * (r + 2 ^ k) ≤ n then r + 2 ^ k else r)

/-- `floor(sqrt n)`. -/
def isqrt (n : Nat) : Nat := isqrtFrom n (Nat.log2 n / 2 + 1) 0

/-- The square root of a nonzero magnitude, its last bit recording a remainder. -/
def sqrtMag (m : Nat) (e : Int) : Val :=
  let m1 := if e % 2 = 0 then m else 2 * m
  let e1 := if e % 2 = 0 then e else e - 1
  let n := m1 <<< (2 * extraBits)
  let s := isqrt n
  .fin false (2 * s + (if s * s = n then 0 else 1)) (e1 / 2 - extraBits - 1)

/-- R91: square root; a value below zero is invalid. -/
def sqrtVal : Val → Val
  | .nan a => .nan a
  | .inf false => .inf false
  | .inf true => .nan true
  | .fin a m e => if m = 0 then .fin a 0 0 else if a then .nan true else sqrtMag m e

/-- R94: comparison of two values that are no NaN: -1, 0 or 1. -/
def cmpVal (x y : Val) : Int :=
  match x, y with
  | .inf a, .inf b => if a = b then 0 else if a then -1 else 1
  | .inf a, _ => if a then -1 else 1
  | _, .inf b => if b then 1 else -1
  | .fin a m e, .fin b n f => Int.sign (addFin a m e (!b) n f).1
  | _, _ => 0

/-- R93: whether the first operand is the lesser, -0 standing below +0. -/
def lessVal (x y : Val) : Bool :=
  match cmpVal x y with
  | .negSucc _ => true
  | .ofNat 0 => x.isZero && y.isZero && x.sign && !y.sign
  | .ofNat _ => false

/-- R93: which operand `fmin` (or `fmax`) returns. -/
inductive Pick where
  | first | second | nan (nv : Bool)
  deriving DecidableEq, Repr

def pickMinMax (isMax : Bool) (x y : Val) : Pick :=
  if x.isSig || y.isSig then .nan true
  else if x.isNan && y.isNan then .nan false
  else if x.isNan then .second
  else if y.isNan then .first
  else if isMax then (if lessVal x y then .second else .first)
  else (if lessVal y x then .second else .first)

/-! ### Sums (R49-R51) -/

/-- R49: a term cut to the 40-bit window whose lowest bit is `2^q`, in units of it. -/
def windowTerm (q : Int) : Val → Int × Bool
  | .fin neg m e =>
    let (n, cut) := floorAt m e q
    (if neg then -(n : Int) else n, cut)
  | _ => (0, false)

/-- The greatest `floor(log2 |t|)` of the nonzero finite terms. -/
def topLead : List Val → Option Int
  | [] => none
  | .fin _ m e :: ts =>
    if m = 0 then topLead ts
    else match topLead ts with
      | none => some (leadOf m e)
      | some x => some (max x (leadOf m e))
  | _ :: ts => topLead ts

/-- R49: `align_sum`: the exact window sum and the flags it raises; `none` for a sum with no nonzero term. -/
def alignSum (ts : List Val) : Val × Flags :=
  let pinf := ts.any (· == .inf false)
  let ninf := ts.any (· == .inf true)
  if ts.any Val.isNan || (pinf && ninf) then
    (.nan false, Flags.nvIf ((pinf && ninf) || ts.any Val.isSig))
  else if pinf then (.inf false, Flags.none)
  else if ninf then (.inf true, Flags.none)
  else match topLead ts with
    | none => (.fin false 0 0, Flags.none)
    | some e =>
      let q := e - 39
      let parts := ts.map (windowTerm q)
      let s := (parts.map Prod.fst).sum
      (.fin (s < 0) s.natAbs q, if parts.any Prod.snd then Flags.nx else Flags.none)

/-- R50: the rounding of an `align_sum`; nonzero terms that cancel give a zero signed by R92. DESIGN CHOICE (log 122): UF comes from the
rounding of the sum that the window keeps; a sum below the smallest normal that only the window's truncation makes inexact sets NX
alone. -/
def roundSum (f : Fmt) (r : Rnd) (ts : List Val) : Nat × Flags :=
  let (v, fl) := alignSum ts
  let v' : Val := match v with
    | .fin _ 0 e => .fin (r.rm == 2 && (topLead ts).isSome) 0 e
    | w => w
  let (c, fl') := roundTo f r v'
  (c, fl ||| fl')

/-- One level of the tree of R51: adjacent pairs added in FP32. -/
def treeLevel : List (Nat × Flags) → List (Nat × Flags)
  | a :: b :: rest =>
    let (c, fl) := roundTo fp32 rne (addVal 0 (fp32.value a.1) (fp32.value b.1))
    let bad := (match addVal 0 (fp32.value a.1) (fp32.value b.1) with | .nan s => Flags.nvIf s | _ => Flags.none)
    (c, a.2 ||| b.2 ||| fl ||| bad) :: treeLevel rest
  | rest => rest

/-- R51: the pairwise tree over the group results, at most `fuel` levels. -/
def treeSum : Nat → List (Nat × Flags) → Nat × Flags
  | _, [] => (0, Flags.none)
  | _, [x] => x
  | 0, x :: _ => x
  | k + 1, xs => treeSum k (treeLevel xs)

/-! ### The approximations of R153 -/

/-- `exp(y)` for `0 ≤ y < 1` in fixed point of `w` fraction bits by its series, term `k` downward:
`1 + y/1 (1 + y/2 (1 + ...))`. -/
def expSeries (w y : Nat) : Nat → Nat → Nat
  | 0, acc => acc
  | k + 1, acc => expSeries w y k (2 ^ w + (y * acc / 2 ^ w) / (k + 1))

/-- The partial sums of `atanh z / z` in fixed point for `z2 = z^2`. -/
def atanhSeries (w z2 : Nat) : Nat → Nat → Nat
  | 0, acc => acc
  | k + 1, acc => atanhSeries w z2 k (2 ^ w / (2 * k + 1) + z2 * acc / 2 ^ w)

/-- `2 * atanh(a / b)` in fixed point, `a < b / 2`. -/
def twoAtanh (w a b : Nat) : Nat :=
  let z := a * 2 ^ w / b
  2 * (z * atanhSeries w (z * z / 2 ^ w) (w / 3) 0 / 2 ^ w)

/-- `ln 2` in fixed point. -/
def ln2Fix (w : Nat) : Nat := twoAtanh w 1 3

/-- The guard of every fixed-point result here: each series is off by less than `2^20` units. -/
def guardUnits : Nat := 2 ^ 20

/-- Fraction bits of an approximation that are kept. -/
def keptBits : Nat := 230

/-- A function value as a value whose last bit records what follows (log 10). `f w` gives sign, fixed point of `w` fraction
bits within `guardUnits` of the exact value, and exponent. Each width is tried in turn until both ends of the enclosure
agree on the kept bits; at the last, `free` says which of the two the exact value has. -/
def settle (free : Bool) (f : Nat → Bool × Nat × Int) : List Nat → Val
  | [] => .nan false
  | w :: ws =>
    let (neg, x, e) := f w
    let lo := (x - guardUnits) >>> (w - keptBits)
    let hi := (x + guardUnits) >>> (w - keptBits)
    if lo = hi || ws.isEmpty then .fin neg (2 * (if free then lo else hi) + 1) (e - keptBits - 1) else settle free f ws

/-- The widths tried. -/
def settleWidths : List Nat := (List.range 32).map (fun i => 420 * 2 ^ i)

/-- The function values of R153 by number: 0 `vexp2`, 1 `vlog2`, 2 `vtanh`, 3 `vsigm`. -/
def approx (fn : Nat) (neg : Bool) (m : Nat) (e : Int) (f : Nat → Bool × Nat × Int) : Val :=
  settle (Config.freeApprox fn neg m e) f settleWidths

/-- A dyadic value as integer part (rounded down) and fixed-point fraction. -/
def splitFix (w : Nat) (neg : Bool) (m : Nat) (e : Int) : Int × Nat :=
  let x : Int := if 0 ≤ e + w then (m * 2 ^ (e + w).toNat : Nat) else (m >>> (-(e + w)).toNat : Nat)
  let y := if neg then -x else x
  (y / 2 ^ w, (y % 2 ^ w).toNat)

/-- `2^f` of a fixed-point fraction. -/
def exp2Frac (w f : Nat) : Nat := expSeries w (f * ln2Fix w / 2 ^ w) (w / 4 + 5) (2 ^ w)

/-- A value just beside a dyadic one: above it or below it in magnitude. -/
def beside (above : Bool) (neg : Bool) (m : Nat) (e : Int) : Val :=
  .fin neg (2 * (if above then m <<< extraBits else m <<< extraBits - 1) + 1) (e - extraBits - 1)

/-- R153: `2^a`. -/
def exp2Val : Val → Val
  | .nan a => .nan a
  | .inf true => .fin false 0 0
  | .inf false => .inf false
  | .fin neg m e =>
    if m = 0 then .fin false 1 0
    else if leadOf m e > 20 then beside true false 1 (if neg then -(2 ^ 20) else 2 ^ 20)
    else if leadOf m e < -220 then beside (!neg) false 1 0
    else
      if m % 2 ^ (-e).toNat = 0 then .fin false 1 (splitFix 0 neg m e).1
      else approx 0 neg m e (fun w =>
        let (n, f) := splitFix w neg m e
        (false, exp2Frac w f, n))

/-- `ln` of a nonzero magnitude: exponent part `n` and `ln` of the rest, in `[2/3, 4/3]`, as a signed fixed point. -/
def lnParts (w m : Nat) (e : Int) : Int × Int :=
  let k := Nat.log2 m
  let p := 2 ^ k
  let (n, p) : Int × Nat := if 3 * m > 4 * p then (leadOf m e + 1, 2 * p) else (leadOf m e, p)
  (n, if m ≥ p then twoAtanh w (m - p) (m + p) else -(twoAtanh w (p - m) (m + p) : Int))

/-- R153: `log2 a`, with its DZ at zero. -/
def log2Val : Val → Val × Flags
  | .nan a => (.nan a, Flags.none)
  | .inf true => (.nan true, Flags.none)
  | .inf false => (.inf false, Flags.none)
  | .fin neg m e =>
    if m = 0 then (.inf true, Flags.dz)
    else if neg then (.nan true, Flags.none)
    else if m = 2 ^ Nat.log2 m then (intVal (leadOf m e), Flags.none)
    else (approx 1 neg m e (fun w =>
      let (n, l) := lnParts w m e
      let x := n * 2 ^ w + l * 2 ^ w / ln2Fix w
      (x < 0, x.natAbs, 0)), Flags.none)

/-- `e^|a|`-style helper: `e^(-x)` for a positive dyadic `x` as a fixed point `f` and exponent `n`: the value is `f * 2^n`. -/
def expNeg (w m : Nat) (e : Int) : Nat × Int :=
  -- -x = (-x / ln 2) ln 2; the quotient in fixed point, its integer part the exponent
  let x := if 0 ≤ e + w then m * 2 ^ (e + w).toNat else m >>> (-(e + w)).toNat
  let y : Int := -((x * 2 ^ w / ln2Fix w : Nat) : Int)
  (exp2Frac w (y % 2 ^ w).toNat, y / 2 ^ w)

/-- R153: `1 / (1 + e^-a)`. -/
def sigmVal : Val → Val
  | .nan a => .nan a
  | .inf true => .fin false 0 0
  | .inf false => .fin false 1 0
  | .fin neg m e =>
    if m = 0 then .fin false 1 (-1)
    else if leadOf m e < -70 then beside (!neg) false 1 (-1)
    else if leadOf m e > 20 then (if neg then beside true false 1 (-(2 ^ 20)) else beside false false 1 0)
    else if !neg && (expNeg 420 m e).2 < -150 then beside false false 1 0
    else approx 3 neg m e (fun w =>
      let (f, n) := expNeg w m e
      -- t = e^-|a| = f * 2^n with n ≤ 0
      let t := f >>> (-n).toNat
      if neg then (false, f * 2 ^ w / (2 ^ w + t), n) else (false, 2 ^ (2 * w) / (2 ^ w + t), 0))

/-- R153: `tanh a`. -/
def tanhVal : Val → Val
  | .nan a => .nan a
  | .inf neg => .fin neg 1 0
  | .fin neg m e =>
    if m = 0 then .fin neg 0 0
    else if leadOf m e < -110 then beside false neg m e
    else if leadOf m e ≥ 6 then beside false neg 1 0
    else approx 2 neg m e (fun w =>
      let (f, n) := expNeg w m (e + 1)
      let t := f >>> (-n).toNat
      -- the numerator loses at most 110 leading bits, which `keptBits` allows for
      (neg, (2 ^ w - t) * 2 ^ w / (2 ^ w + t), 0))

/-- R153: `1/a` with its DZ. -/
def rcpVal (x : Val) : Val × Flags :=
  match x with
  | .nan a => (.nan a, Flags.none)
  | .inf a => (.fin a 0 0, Flags.none)
  | .fin a m e => if m = 0 then (.inf a, Flags.dz) else (divFin false 1 0 a m e, Flags.none)

/-- R153: `1/sqrt a` with its DZ. -/
def rsqrtVal (x : Val) : Val × Flags :=
  match x with
  | .nan a => (.nan a, Flags.none)
  | .inf false => (.fin false 0 0, Flags.none)
  | .inf true => (.nan true, Flags.none)
  | .fin a m e =>
    if m = 0 then (.inf a, Flags.dz)
    else if a then (.nan true, Flags.none)
    else
      let m1 := if e % 2 = 0 then m else 2 * m
      let e1 := if e % 2 = 0 then e else e - 1
      let k := extraBits + Nat.log2 m1
      let s := isqrt (2 ^ (2 * k) / m1)
      (.fin false (2 * s + (if s * s * m1 = 2 ^ (2 * k) then 0 else 1)) (-(e1 / 2) - k - 1), Flags.none)

end Sys2Proof.Machine
end

