-- ==== Sys2Proof/Machine/Maps.lean ====
section
/-! DEFINITION. Finite maps and lists as plain data: sorted association lists keyed by a natural number. -/

namespace Sys2Proof.Map

variable {α : Type}

/-- The entry listed under a key. -/
def look : Map α → Nat → Option α
  | [], _ => none
  | (j, v) :: m, k => if j = k then some v else look m k

/-- The entry under a key, or a default. -/
def lookD (m : Map α) (k : Nat) (d : α) : α := (m.look k).getD d

/-- Lists a value under a key, keeping ascending order. -/
def put : Map α → Nat → α → Map α
  | [], k, v => [(k, v)]
  | (j, u) :: m, k, v =>
    if k < j then (k, v) :: (j, u) :: m else if k = j then (k, v) :: m else (j, u) :: put m k v

/-- Removes a key. -/
def del (m : Map α) (k : Nat) : Map α := m.filter (fun e => e.1 != k)

/-- The keys in ascending order. -/
def keys (m : Map α) : List Nat := m.map Prod.fst

/-- Applies a function to every listed value. -/
def mapVals (f : α → α) (m : Map α) : Map α := m.map (fun e => (e.1, f e.2))

end Sys2Proof.Map

namespace Sys2Proof

/-- The element at an index replaced by its image. -/
def modifyAt {α : Type} (l : List α) (i : Nat) (f : α → α) : List α :=
  match l, i with
  | [], _ => []
  | x :: xs, 0 => f x :: xs
  | x :: xs, n + 1 => x :: modifyAt xs n f

/-- The list without the element at an index. -/
def dropAt {α : Type} (l : List α) (i : Nat) : List α :=
  match l, i with
  | [], _ => []
  | _ :: xs, 0 => xs
  | x :: xs, n + 1 => x :: dropAt xs n

/-- The first index at which a predicate holds. -/
def firstIdx {α : Type} (p : α → Bool) : List α → Option Nat
  | [] => none
  | x :: xs => if p x then some 0 else (firstIdx p xs).map (· + 1)

/-- An element placed first in a cache of 8 ways: the one of its own key replaced, else the last of its full set. -/
def putWay {α : Type} (key set : α → Nat) (l : List α) (x : α) : List α :=
  let rest := l.filter (fun y => key y != key x)
  let same := rest.filter (fun y => set y == set x)
  match if same.length < 8 then none else same.getLast? with
  | none => x :: rest
  | some v => x :: rest.filter (fun y => key y != key v)

/-- The element of least measure, the first of equals. -/
def leastBy {α : Type} (f : α → Nat) : List α → Option α
  | [] => none
  | x :: xs => match leastBy f xs with
    | none => some x
    | some y => if f y < f x then some y else some x

end Sys2Proof
end

