-- ==== Sys2Proof/Machine/State.lean ====
section
/-! DEFINITION. The state of the CB80-W module: everything the manual gives the machine, as plain data (log 1-12). Logical
tiles are numbered `y * 96 + x`, physical sites `py * 96 + px` (R12, R13, R24). -/

namespace Sys2Proof.Machine

/-! ### Threads (R21-R25, R205, R213-R215) -/

/-- The general registers (R21). -/
structure Regs where
  w0 : Word := 0#64
  w1 : Word := 0#64
  w2 : Word := 0#64
  w3 : Word := 0#64
  w4 : Word := 0#64
  w5 : Word := 0#64
  w6 : Word := 0#64
  w7 : Word := 0#64
  deriving DecidableEq, Repr

/-- The architectural state of a thread (R21) with the transport bits of its handles (R205, R214). -/
structure Thread where
  pc     : Word := 0#64
  regs   : Regs := {}
  acc    : Word := 0#64
  /-- `st` (R22). -/
  st     : Word := 0#64
  /-- Handles A and B of `trk`: 31 valid, 30:24 tracker index, 23:0 tile name (R24). -/
  trkA   : BitVec 32 := 0#32
  trkB   : BitVec 32 := 0#32
  /-- Handle B was opened before handle A (R106). -/
  bOlder : Bool := false
  /-- Drained and error bits of the two handles (R205, R214). -/
  drainA : Bool := false
  drainB : Bool := false
  errA   : Bool := false
  errB   : Bool := false
  /-- Thread number (R24). -/
  tid    : BitVec 32 := 0#32
  /-- Kernel instance and context (R24, R25). -/
  kin    : Nat := 0
  ctx    : Nat := 0
  /-- `seamin` (R24). -/
  seamin : BitVec 12 := 0#12
  /-- A word of the context has failed its check where it was held; the slot that takes it raises UE with extra word 3 (R385). -/
  foul   : Bool := false
  deriving DecidableEq, Repr

/-- A context in a flit, queue, ring or log with its transport bytes (R205). Kind 0 load, 1 `hop`, 2 `ldf`/`join`/`waitw`,
3 spawned child, 4 inline resume, 5 returned STALE; 6 stands for a context that `yield` queued, whose `frm` keeps `prev`. -/
structure Flit where
  kind   : Nat
  th     : Thread
  /-- Name of the tile the context leaves. -/
  frm    : BitVec 24
  window : Nat := 0
  resent : Bool := false
  /-- A child's flit: the slot of the caller that waits for the answer, and whether only a free slot will do (R132, R212). -/
  caller : Option Nat := none
  onlyFree : Bool := false
  /-- A context returned for good: the fault it raises once admitted, with the tile name that returned it (R206, R263). -/
  back : Option (Nat × Word) := none
  /-- A launched thread that starts STOPPED once a slot takes it (R307). -/
  stop : Bool := false
  /-- An inline child whose release and decrement are performed: only its resume flit remains to be sent (R204). -/
  released : Bool := false
  deriving DecidableEq, Repr

/-- A fault a slot is BLOCKED on or about to post (R256-R258). -/
structure FaultRec where
  code  : Nat
  pc    : Word
  addr  : Word
  extra : Word
  /-- Raised at a tracker wait: the tracker's tile and index, whose mark a reply clears (R107). -/
  track : Option (Nat × Nat) := none
  deriving DecidableEq, Repr

/-- Why a slot is in WAIT (R19). The first group ends by a condition that `WAIT_RESUME` tests, after which the instruction
issues again; the second group ends by a packet or a step that completes it. -/
inductive Why where
  | handles                    -- both tracker handles report zero (R105, R126)
  | handle (b : Bool)          -- one handle reports zero (R106 step 3)
  | noTracker                  -- a free tracker (R106 step 2)
  | trackerFull                -- a tracker count below its limit (R214)
  | mac (m : Nat)            -- a macro no longer loading or scrubbing (R116)
  | engine (e : Eng)           -- a free queue entry (R163)
  | timeline (e : Eng)         -- T reaches a ticket (R168)
  | buffer (b : Nat)           -- filled slots (R183)
  | vector                     -- the vector unit (R157)
  | barrier                    -- all members at `bar` (R142)
  | alone                      -- the team's other threads (R143)
  | message                    -- a message for `mrecv` (R196)
  | directory                  -- a record of the object directory cache (R203)
  | fill                       -- an L1 line fill (R237)
  | reply                      -- an acknowledgement, result or answer (R104, R115, R132, R135)
  | extent                     -- an extent operation of the granule to end (R292)
  | link                       -- the copy engine's writes bound for another module (R226)
  | departure (since kind dst gen : Nat)  -- the router accepts a migration flit (R204)
  | childFlit (since dst gen : Nat)       -- the router accepts a child's flit (R204)
  | resumeFlit (since dst gen : Nat)      -- the router accepts an inline resume flit (R204)
  | spawn (since : Nat)        -- a place for a child (R132)
  | park (since : Nat)         -- room in the waiter spill area (R216)
  deriving DecidableEq, Repr

/-- Why a slot is STOPPED (R19): a debug stop, a quiesce or dusk in progress, a fault of the service thread (R195). -/
inductive StopWhy where
  | debug | quiesce | service
  deriving DecidableEq, Repr

/-- Slot states (R17). -/
inductive SlotState where
  | free
  | ready
  | wait (why : Why)
  | parked
  | remote
  | blocked
  | stopped (why : StopWhy)
  deriving DecidableEq, Repr

/-- What a reply completes in the slot that waits for it (R104, R112, R117, R122, R135). -/
inductive Pend where
  | none
  | load (d : Reg) (z : Size) (sx : Bool) (base : Option (Ptr × Word)) (pin : Bool)
  | atomic (d : Reg)
  | store (base : Option (Ptr × Word))
  | exitJ
  | spawn (d : Reg) (target pc : Word) (m : Bool)
  | service (d : Reg) (left sum : Nat)
  | query (second : Bool)
  deriving DecidableEq, Repr

/-- One thread slot (R17). -/
structure Slot where
  state   : SlotState := .free
  th      : Thread := {}
  /-- Address of the word being issued; `th.pc` stays at the first word of its XW run (R62). -/
  ipc     : Word := 0#64
  /-- Payloads of the pending XW extension words, oldest first, and the pending modifiers (R60, R61). -/
  ext     : List (BitVec 25) := []
  sx      : Bool := false
  nt      : Bool := false
  /-- Team position that accounts for the thread (R24). -/
  team    : Nat := 0
  /-- Heartbeat budget in cycles (R141). -/
  budget  : Nat := 0
  /-- First cycle in which the slot may issue (R17). -/
  eligAt  : Nat := 0
  /-- The instruction issues again after a wait and is not counted twice (R213). -/
  retry   : Bool := false
  /-- Pinning state (R213). -/
  prev    : Option (BitVec 24) := none
  window  : Nat := 0
  /-- Fault sequence number (R196). -/
  fseq    : BitVec 8 := 0#8
  fault   : Option FaultRec := none
  /-- A dropped mark (R259); the fault posted no message but joined a pending entry of this tile (R260). -/
  dropped : Bool := false
  joined  : Option Nat := none
  /-- The slot that the thread's posted message names, where a restore has put the thread in another (R266, R341). -/
  msgSlot : Option Nat := none
  /-- A pending stop (R201), a single step (R354) and one issue with comparators suppressed (R355). -/
  stopReq : Bool := false
  stepReq : Option HostReq := none
  brkSkip : Bool := false
  /-- The reply word and accumulator kept for a BLOCKED thread whose team is being quiesced (R266, R339). -/
  kept    : Option (Word × Word) := none
  /-- What the awaited reply completes, and whether its request was returned once (R107). -/
  pend    : Pend := .none
  resent  : Bool := false
  /-- Placement levels, tiles and fields already tried by a waiting `spawn` (R212). -/
  tried   : List Nat := []
  level   : Nat := 0
  /-- It waits on its handles: while one counts a held write, the budget does not fall (R262). -/
  heldWr  : Bool := false
  /-- Its held access has been let go (R294 step 8). -/
  pass    : Bool := false
  /-- The release of an `exit` is complete: only the departure of its resume flit remains (R204). -/
  released : Bool := false
  /-- The cycle in which a vector instruction that waits for the unit issued (R157). -/
  vecSince : Option Nat := none
  /-- Request sequence of the header tag (R248). -/
  reqSeq  : BitVec 4 := 0#4
  deriving DecidableEq, Repr

/-! ### Engines (R163-R190) -/

/-- The commands of the three engines (R163). -/
inductive CmdOp where
  | bfly | bchain | stn | unstn | mfmt
  | cpy | cring | csend | cred | cbcast | cbcfg
  | nrcopy | nrzero | nbcopy | nexpr | ngemv
  deriving DecidableEq, Repr

/-- A queued command (R163, R164): its ticket, parameter-block address, register operands and `st` sampled at issue. -/
structure Cmd where
  op     : CmdOp
  ticket : Nat
  block  : Word
  a      : Word := 0#64
  b      : Word := 0#64
  st     : Word := 0#64
  /-- The instance of the team that issued it, whose routes it may use (R253, R321). -/
  kin    : Nat := 0
  /-- The SR key of that team (R42, R321). -/
  key    : BitVec 32 := 0#32
  deriving DecidableEq, Repr

/-- A team's queue on one engine with its counters, error record and unreported flags (R163, R167, R168). -/
structure EngQ where
  q      : List Cmd := []
  issued : Nat := 0
  done   : Nat := 0
  err    : Option (Nat × Word × Word) := none     -- ticket, status word, address of ENGFAULT
  flags  : BitVec 6 := 0#6
  deriving DecidableEq, Repr

/-- An element as the copy engine or a route carries it (R179, R254): format and group code, element code, the scale and
zero-point entries that serve it, its element index, the macro it came from, poison of its word and of its entries. -/
structure SrcEl where
  fmt    : Nat
  grp    : Nat := 0
  code   : Nat
  scale  : Nat := 0
  zero   : Nat := 0
  idx    : Nat
  src    : Nat := 0
  poison : Bool := false
  foul   : Bool := false
  deriving DecidableEq, Repr

/-- What a running command waits for. -/
inductive RunWait where
  | run            -- nothing: its next step falls due
  | macros         -- macros loading or scrubbing, before its checks (R173, R242)
  | group          -- a macro of the group it controls (R169, R170)
  | slot           -- a filled slot (`bfly`) or a free slot of a buffer (R183)
  | pending        -- a pending entry (R260)
  | remote         -- replies from other homes (R181)
  | grant          -- slot grants of a route's delivering tiles (R254)
  | next           -- stopped at its boundary by a quiesce (R190)
  deriving DecidableEq, Repr

/-- The command an engine runs (R163), with the progress it keeps for restart (R336). -/
structure Run where
  pos    : Nat
  cmd    : Cmd
  /-- The blocks as read at start: eight words each (R165, R174). -/
  blocks : List (List Word) := []
  wait   : RunWait := .run
  /-- Stages, rows, units, elements or tiles completed. -/
  prog   : Nat := 0
  /-- Cycle at which the running stage or macro-control command ends (R176). -/
  due    : Nat := 0
  /-- Cycle since which a macro-control command waits for a macro (R176). -/
  since  : Nat := 0
  /-- Buffer slot being filled (R183); the buffers and slots that a butterfly command holds, in stage order (R327). -/
  slot   : Option Nat := none
  taken  : List (Nat × Nat) := []
  /-- The formats of a butterfly command's or of a copy row's macros, read once: macro, format, group (R244); the running row has
  made its checks. -/
  fmts   : List (Nat × Nat × Nat) := []
  begun  : Bool := false
  /-- The running row is moved as bytes (R45); the elements of a row that a `csend` or `cbcast` sends, and how many of them it has
  sent (R248, R254). -/
  raw    : Bool := false
  row    : List SrcEl := []
  col    : Nat := 0
  flags  : BitVec 6 := 0#6
  /-- Error met by elements that does not stop the command (R172, R179, R187, R188), and its `det`. -/
  err    : Nat := 0
  det    : Nat := 0
  cnt    : Nat := 0
  /-- Pinned granules (R185, R296). -/
  pins   : List (Nat × Nat × Nat) := []
  /-- Object words read for the current row or unit: address, value, poison; those requested from other homes (R181). -/
  got    : Map (Word × Bool) := []
  asked  : List Nat := []
  /-- A row is being written: its destination words not yet performed (R181). -/
  busy   : Bool := false
  writes : List (Word × BitVec 8 × Word × Bool) := []
  /-- Macros of the command still counted as loading (R242). -/
  loading : List Nat := []
  /-- Writes not yet acknowledged, whether some are bound for another module, grants received (R181, R226, R254). -/
  left   : Nat := 0
  peers  : Bool := false
  granted : List Nat := []
  resent : Bool := false
  /-- The pending entry it waited on has been killed (R198); its held access has been let go (R294 step 8). -/
  killed : Bool := false
  pass   : Bool := false
  /-- How often a row has been begun afresh after a quiesce; answers to requests of before find nobody (R336). -/
  tries  : Nat := 0
  deriving DecidableEq, Repr

/-- The vector operations (R71). -/
inductive VecOp where
  | add | sub | mul | min | max | abs | neg | rcp | rsqrt | sqrt | exp2 | log2 | tanh | sigm
  | cmpeq | cmplt | cmple | fma | fms | fnma | scal | axpy | rsum | rmax | rmin | rsumsq | rdot | cvt | copy | fill | sel
  deriving DecidableEq, Repr

/-- A vector instruction: its pointers with their increment bits, and its count register (R149). -/
structure VecForm where
  op : VecOp
  d  : Option (Ptr × Bool) := none
  a  : Option (Ptr × Bool) := none
  b  : Option (Ptr × Bool) := none
  l  : Ptr
  deriving DecidableEq, Repr

/-- The running vector instruction (R157-R161). -/
structure VecRun where
  slot  : Nat
  form  : VecForm
  n     : Nat
  /-- The pass at `at_` has started; the formats of the macros it touches, read once then: macro, format, group (R244). -/
  begun : Bool := false
  fmts  : List (Nat × Nat × Nat) := []
  /-- Positions of a pass; positions performed. -/
  len   : Nat
  at_   : Nat
  /-- Cycle at which the current pass ends. -/
  due   : Nat
  /-- `rm` and `sat` as read at issue (R150). -/
  rm    : Nat
  sat   : Bool
  fl    : BitVec 6 := 0#6
  /-- Rounded group sums of a reduction with their flags, in order; the selected value so far (kind, sign, magnitude and
  exponent); the integer so far (R155). -/
  parts : List (Nat × BitVec 6) := []
  sel   : Option (Nat × Bool × Nat × Int) := none
  ints  : Bool := false
  int   : Int := 0
  deriving DecidableEq, Repr

/-- A resident team (R15, R306-R308). -/
structure Team where
  kin    : Nat
  ctx    : Nat
  fmac   : Nat := 0
  nmac   : Nat := 0
  fcb    : Nat := 0
  ncb    : Nat := 0
  srkey  : BitVec 32 := 0#32
  prio   : Nat := 0
  /-- Instance numbers of the successor entries, 0 where empty; nothing for a team opened by a spawn or arrival (R315). -/
  succ   : List Nat := []
  /-- Order of admission on the tile (R309). -/
  serial : Nat := 0
  bfe    : EngQ := {}
  cpe    : EngQ := {}
  nme    : EngQ := {}
  /-- Held at seam: the step reached, the macro mask, the predecessor's macro and buffer counts (R317). -/
  seam   : Option (Nat × BitVec 256 × Nat × Nat) := none
  /-- Registers the seam hands on: mask, values and index (R319). -/
  seamRegs : Regs := {}
  seamAcc  : Word := 0#64
  seamIn   : BitVec 12 := 0#12
  /-- A quiesce or dusk is in progress: nothing is admitted (R338). -/
  closed : Bool := false
  /-- Commands that a quiesce stopped at their boundary, to be resumed by their engines (R190, R336, R341). -/
  runB   : Option Run := none
  runC   : Option Run := none
  runN   : Option Run := none
  deriving DecidableEq, Repr

/-- Macro states (R242). -/
inductive MState where
  | plain | loading | ready | stationary | scrubbing
  deriving DecidableEq, Repr

/-- One scratchpad macro (R241-R244); its bytes are in memory. -/
structure Macro where
  owner : Option Nat := none
  fmt   : BitVec 4 := 0#4
  grp   : BitVec 2 := 0#2
  state : MState := .plain
  loads : Nat := 0
  /-- A scrub is due on a loading macro (R242); the cycle in which a scrub unit took it (R243). -/
  due   : Bool := false
  since : Option Nat := none
  deriving DecidableEq, Repr

/-- One circular buffer (R182, R183). `cfg` is word 0 of its configuration. -/
structure CBuf where
  owner  : Option Nat := none
  cfg    : Option Word := none
  filled : Nat := 0
  free   : Nat := 0
  held   : Nat := 0
  fill   : Nat := 0
  take   : Nat := 0
  /-- Slots whose fill has ended while that of an earlier slot in the ring goes on (R183). -/
  ended  : List Nat := []
  /-- The cycle in which `cbfree` last freed a slot of it (R246). -/
  freedAt : Option Nat := none
  deriving DecidableEq, Repr

/-! ### Per-tile structures -/

/-- A write tracker (R106, R107, R214, R262). -/
structure Tracker where
  open_ : Bool := false
  count : Nat := 0
  held  : Nat := 0
  err   : Option (Nat × Word × Word) := none      -- code, address, extra word
  /-- The instance of a killed thread whose writes it still counts (R232). -/
  kin   : Nat := 0
  deriving DecidableEq, Repr

/-- Forms of a waiter entry (R215). -/
inductive WForm where
  | ldf (d : Reg) | ldfs (d : Reg) | join | waitEq | waitNe | waitGe
  deriving DecidableEq, Repr

/-- An entry of the waiter table or its spill area (R215, R216). `key` locates the word. -/
structure Waiter where
  key   : Nat
  ctx   : Nat
  addr  : Word
  form  : WForm
  b     : Word
  seq   : BitVec 32
  slot  : Option Nat
  th    : Option Thread := none
  woken : Bool := false
  quiesced : Bool := false
  /-- Instruction and next pc of the parked thread. -/
  next  : Word
  /-- What stays with the context of an evicted thread (R141, R213, R337): heartbeat budget and pinning state. -/
  hb     : Nat := 0
  prev   : Option (BitVec 24) := none
  window : Nat := 0
  deriving DecidableEq, Repr

/-- One word of a cached line (R235, R239). -/
structure LWord where
  data   : Word := 0#64
  valid  : Bool := true
  dirty  : BitVec 8 := 0#8
  poison : Bool := false
  empty  : Bool := false
  /-- An error in the stored check bits that nothing has met yet (R385): one that can be corrected, one that cannot. -/
  soft   : Bool := false
  weak   : Bool := false
  deriving DecidableEq, Repr

/-- A line of the L1 instruction cache (R14, R304): context, object, offset bits 39:6 and sixteen instruction words. -/
structure ILine where
  ctx   : Nat
  obj   : Nat
  ln    : Nat
  words : List (BitVec 32)
  deriving DecidableEq, Repr

/-- A line of the L1 or of a memory-side slice: context, object, offset bits 39:6, UO bit and eight words. -/
structure Line where
  ctx   : Nat
  obj   : Nat
  ln    : Nat
  uo    : Bool
  words : List LWord
  deriving DecidableEq, Repr

/-- Kinds of directory records (R289). -/
inductive RecKind where
  | desc | mask (i : Nat) | home (i : Nat)
  deriving DecidableEq, Repr

/-- The name of a directory record. -/
structure RecKey where
  ctx  : Nat
  obj  : Nat
  kind : RecKind
  deriving DecidableEq, Repr

/-- An entry of an object directory cache: the record, its generation stamp and what it held when it was filled (R289). -/
structure OdcEntry where
  key   : RecKey
  stamp : Nat
  valid : Bool := true
  lost  : Bool := false
  homes : List (BitVec 32) := []
  deriving DecidableEq, Repr

/-- Extent states (R291). -/
inductive ExtState where
  | mapped | draining | moving
  deriving DecidableEq, Repr

/-- An extent entry (R291). -/
structure Extent where
  ctx   : Nat
  obj   : Nat
  gran  : Nat
  state : ExtState := .mapped
  page  : Nat
  npin  : Nat := 0
  deriving DecidableEq, Repr

/-! ### Packets (R247-R250) -/

/-- Extent commands and service requests sent to a home (R194, R199). -/
inductive SvcOp where
  | xmap | xunmap | xdrain | dinval
  deriving DecidableEq, Repr

/-- Who waits for an answer: a slot, the host, or nobody. -/
inductive Asker where
  | slot (t k : Nat)
  | host (r : HostReq)
  | nobody
  deriving DecidableEq, Repr

/-- A 32-byte message for a service thread with its handle fields (R196, R257, R389). -/
structure Msg where
  kind : Nat
  seq  : BitVec 8 := 0#8
  slot : Nat := 0
  tile : BitVec 24
  w0   : Word
  w1   : Word
  w2   : Word
  w3   : Word
  deriving DecidableEq, Repr

/-- A flit of a route transfer (R254): the route and its instance, the address of its row or the buffer, the row, its length and
the element of the row at which the flit's data begin, the output rounding, whether every listed tile takes it, and the input port by
which it reaches the next of them. -/
structure RouteFlit where
  num : Nat
  kin : Nat
  dst : Word
  cbn : Option Nat
  row : Nat
  len : Nat
  off : Nat
  rm  : Nat
  sat : Bool
  key : BitVec 32
  all : Bool
  inp : Nat
  data : List SrcEl
  /-- Rows of the transfer and the distance of their destinations (R179, R242). -/
  rows : Nat := 1
  step : Word := 0#64
  deriving DecidableEq, Repr

/-- What a packet carries. The comment names VC and class (R247). -/
inductive Body where
  | readReq (ctx : Nat) (a : Word) (z : Size)                                        -- 0.0
  | atomicReq (ctx : Nat) (a : Word) (op : Option AtomOp) (wide : Bool) (b c : Word) -- 0.1, `none` for `acas`
  | peerLoad (ctx kin : Nat) (a : Word) (z : Size)                                   -- 0.2
  | trackQuery (i : Nat) (second : Bool)                                             -- 0.3
  | trackRelease (i : Nat) (free : Bool) (kin : Nat)                                 -- 0.4
  | placeReq (th : Thread)                                                           -- 0.5
  | dirReq (key : RecKey)                                                            -- 0.6
  | dirInval (key : RecKey) (op : Nat)                                               -- 0.6 with the invalidate code
  | svcReq (op : SvcOp) (ctx : Nat) (a w : Word) (who : Asker)                       -- 0.7
  | svcMsg (m : Msg) (mon : Bool)                                                    -- 0.7, `mon` for a tile monitor
  | faultMsg (m : Msg) (t k : Nat)                                                   -- 0.7
  | droppedReq (w : Word) (acc : Word)                                               -- 0.7, `replaya` of region 0
  | readData (v : Word)                                                              -- 1.0
  | atomicResult (v : Word)                                                          -- 1.1
  | failed (code : Nat) (addr extra : Word)                                          -- 1.0 or 1.1 with a fault
  | writeAck (tracker : Option Nat) (err : Option (Nat × Word × Word))               -- 1.2
  | heldMark (i : Nat) (up : Bool)                                                   -- 1.2 with the held mark (R262)
  | trackAnswer (second : Bool) (err : Option (Nat × Word × Word))                   -- 1.3
  | admission (tid : Option (BitVec 32))                                             -- 1.4
  | dirFill (e : OdcEntry)                                                           -- 1.5
  | invalDone (op : Nat)                                                             -- 1.5
  | svcAnswer (w : Word)                                                             -- 1.7
  | droppedMark (t k : Nat) (seq : BitVec 8)                                         -- 1.7
  | routeGrant (t num kin err : Nat)                                                   -- 1.8
  | store (ctx : Nat) (a : Word) (z : Size) (v : Word) (nt : Bool) (tracker : Option Nat)             -- 2.0
  | stf (ctx : Nat) (a v : Word) (tracker : Option Nat)                              -- 2.1
  | nrAtomic (ctx : Nat) (a : Word) (op : AtomOp) (wide : Bool) (b : Word) (tracker : Option Nat)     -- 2.2
  | exitJ (ctx : Nat) (a : Word)                                                     -- 2.3
  | peerStore (ctx kin : Nat) (a : Word) (z : Size) (v : Word)                       -- 2.4
  | migrate (f : Flit)                                                               -- 3
  | copyReadReq (pos ctx : Nat) (a : Word) (i : Nat)                                 -- 4.0, one word
  | copyData (i : Nat) (v : Word) (poison : Bool) (err : Nat)                        -- 4.1
  | copyWrite (pos ctx : Nat) (a : Word) (mask : BitVec 8) (v : Word) (poison : Bool)  -- 4.2
  | copyAck (err : Nat)                                                              -- 4.3
  | gridStore (ctx : Nat) (a : Word) (v : List Word) (phase : Nat)                   -- 4.4 or trace record
  | route (f : RouteFlit)                                                            -- 5.0
  | routeLast (f : RouteFlit)                                                        -- 5.1
  deriving DecidableEq, Repr

/-- How a packet stands: under way, returned STALE, or returned during a dusk's window (R107, R249, R379). -/
inductive Ret where
  | no | stale | hold | fenced
  deriving DecidableEq, Repr

/-- The words of a MEM or peer request that wait (R345, R380), those read so far, and whether one was not mapped. -/
structure HeldWords where
  left   : List Word
  got    : List (Word × LWord) := []
  absent : Bool := false
  deriving DecidableEq, Repr

/-- A packet in the fabric. `src` and `dst` are a logical tile, 16384 + m for peer module m, or 32768 + p for the monitor of spare
site p (R361). -/
structure Packet where
  vc     : Nat
  src    : Nat
  dst    : Nat
  gen    : Nat
  /-- Issuing slot of the header tag; 16 for an engine or the tile itself (R248). -/
  slot   : Nat := 16
  body   : Body
  ret    : Ret := .no
  resent : Bool := false
  /-- Sequence of VC0 and VC2 flits from source to destination (R250). -/
  seq    : Nat := 0
  /-- The place of a thread's request or write in the order in which its tile issued them, which a resend keeps (R105); of a flit of a
  route in the order of its transfers (R254). -/
  ord    : Nat := 0
  /-- Waits at its home for an extent operation or a pending entry to end (R260, R292). -/
  held   : Bool := false
  /-- Generation of the source name and request sequence of the header tag (R248). -/
  sgen   : Nat := 0
  rseq   : BitVec 4 := 0#4
  /-- The instance of a killed thread that issued it (R232). -/
  kin    : Nat := 0
  /-- An uncorrectable error stands in its entry of the held-write area (R385). -/
  foul   : Bool := false
  deriving DecidableEq, Repr

/-- An access that a home holds while an extent operation of its granule is under way, or while no pending entry is free: a
packet, the instruction of a slot of the tile, an engine's command there, a request of the host or of a peer (R260, R292). -/
inductive HeldAcc where
  | packet (p : Packet)
  | slot (k ctx : Nat) (a : Word)
  | engine (e : Eng) (pos ticket ctx : Nat) (a : Word)
  | host (r : HostReq) (a : Word)
  | peer (r : PeerReq) (a : Word)
  deriving DecidableEq, Repr

/-- A pending entry of the extent translation unit (R260, R261, R292). Held writes are kept in arrival order. -/
structure Pending where
  ctx  : Nat
  obj  : Nat
  gran : Nat
  writes : List Packet := []
  /-- The posting thread: its tile, slot and `tid`; none where a write or an engine opened the entry (R274). -/
  poster : Option (Nat × Nat × BitVec 32) := none
  /-- The instance of the posting thread, which with the `tid` names it wherever it runs (R24). -/
  posterKin : Nat := 0
  /-- Slots (tile, slot) blocked on the entry without having posted. -/
  threads : List (Nat × Nat) := []
  /-- Engines of this tile that wait for it, with the team position and ticket of the command. -/
  engines : List (Eng × Nat × Nat) := []
  /-- An extent operation of the granule is under way; the accesses it holds, in arrival order (R292, R294). -/
  drain : Bool := false
  held : List HeldAcc := []
  deriving DecidableEq, Repr

/-- A pending extent operation of a home (R294): its step and outstanding invalidations. -/
structure XOp where
  id   : Nat
  op   : SvcOp
  ctx  : Nat
  a    : Word
  w    : Word
  who  : Asker
  step : Nat
  acks : Nat := 0
  page : Nat := 0
  home : Option Nat := none
  status : Word := 0#64
  /-- The form has returned PENDING and XDONE will report its end. -/
  async : Bool := false
  deriving DecidableEq, Repr

/-- An admission order (R305, R306): instance and class. A tile keeps its orders by class and then by release. -/
structure AdmOrder where
  kin  : Nat
  prio : Nat
  deriving DecidableEq, Repr

/-- An arrival queue (R207, R210). -/
structure AQueue where
  depth : Nat
  pos   : Nat
  q     : List Flit := []
  deriving DecidableEq, Repr

/-- A spawn frame (R133): the caller and the slot-independent place of its child. -/
structure Frame where
  th    : Thread
  child : BitVec 32
  depth : Nat
  deriving DecidableEq, Repr

/-- A saved thread record (R337): the slot's content, the saved state and a stored reply. -/
structure SavedSlot where
  /-- The slot the thread held (R257). -/
  k     : Nat
  slot  : Slot
  state : Nat
  widx  : Nat := 0
  reply : Option (Word × Word) := none
  deriving DecidableEq, Repr

/-- A save area (R332-R337); macro images are in memory. -/
structure Save where
  team   : Team
  pos    : Nat
  slots  : List SavedSlot
  macros : List Macro
  bufs   : List CBuf
  log    : List Flit := []
  /-- The copy is complete and the team's resources are free (R338 step 4): accesses go to the images (R339). Until then only
  the arrival log is in use. -/
  images : Bool := false
  deriving DecidableEq, Repr

/-- An entry of a router's static route table (R253). Ports 0 N, 1 E, 2 S, 3 W, 4 L. -/
structure RouteEntry where
  num : Nat
  kin : Nat
  inp : Nat
  out : Nat
  deliver : Bool
  last : Bool
  deriving DecidableEq, Repr

/-- A transfer that a delivering tile receives on a route (R254). -/
structure Recv where
  num : Nat
  kin : Nat
  pos : Nat
  src : Nat
  buf : Option Nat
  slot : Nat := 0
  /-- The input port of the router pass that delivers here (R278); the formats of the current row's macros (R244). -/
  inp : Nat := 4
  fmts : List (Nat × Nat × Nat) := []
  /-- Macros counted as loading; the transfer has failed here and its flits are dropped. -/
  loading : List Nat := []
  dead : Bool := false
  deriving DecidableEq, Repr

/-- Error counts of a tile (R385, R389). -/
structure Errs where
  corrDram : Nat := 0
  uncDram  : Nat := 0
  corrSram : Nat := 0
  uncSram  : Nat := 0
  checksum : Nat := 0
  link     : Nat := 0
  deriving DecidableEq, Repr

/-- An issued instruction as a sample record shows it (R358-R360), with the READY and eligible slots of its cycle. -/
structure Issued where
  slot  : Nat
  pc    : Word
  tid   : BitVec 32
  kin   : Nat
  ctx   : Nat
  ready : Nat
  elig  : Nat
  deriving DecidableEq, Repr

/-- One logical tile (R14). -/
structure Tile where
  slots   : List Slot
  teams   : Map Team := []
  /-- Rotating pointer of the issue arbiter (R18) and the cycle after the last issue (model). -/
  ptr     : Nat := 0
  nextIssue : Nat := 0
  /-- What issued in the last cycle of issue (R360). -/
  issued  : Option Issued := none
  /-- Clock relock in progress and the cycle in which the mode change asked for it (R28), closed by a dusk (R378), fenced
  (R383) and since which cycle. -/
  relock  : Bool := false
  relockAt : Nat := 0
  closed  : Bool := false
  fenced  : Bool := false
  fencedAt : Nat := 0
  /-- R384: no granule of the tile is mapped since a lossy dusk. -/
  lossy   : Bool := false
  /-- The granules that `xmap` has mapped since then (R384). -/
  remapped : List Nat := []
  /-- The generation that the last lossy dusk entered: trackers of older handles are lost (R214, R384). -/
  lossGen : Option Nat := none
  /-- Next value of the thread sequence (R24). -/
  nextSeq : Nat := 16
  serial  : Nat := 0
  /-- Arrival engine (R206-R210). -/
  queues  : Map AQueue := []
  lastQ   : Nat := 3
  ring    : List Flit := []
  trackers : List Tracker
  /-- Waiter table and spill area (R215, R216). -/
  waiters : List Waiter := []
  spilled : List Waiter := []
  wseq    : BitVec 32 := 0#32
  frames  : List Frame := []
  macros  : List Macro
  bufs    : List CBuf
  vec     : Option VecRun := none
  bfe     : Option Run := none
  cpe     : Option Run := none
  nme     : Option Run := none
  lastBfe : Nat := 3
  lastCpe : Nat := 3
  lastNme : Nat := 3
  l1i     : List ILine := []
  l1      : List Line := []
  slices  : List Line := []
  odc     : List OdcEntry := []
  extents : Map Extent := []
  /-- Extent TLB (R291): granule keys and pages, the most recently used first. -/
  tlb     : List (Nat × Nat) := []
  pendings : List Pending := []
  /-- Accesses that wait for a free pending entry (R260). -/
  overflow : List HeldAcc := []
  xops    : List XOp := []
  nextOp  : Nat := 0
  orders  : List AdmOrder := []
  saves   : Map Save := []
  /-- Victims whose quiesce the controller has ordered and not seen acknowledged (R338). -/
  victims : List Nat := []
  acked   : List Nat := []
  recvs   : List Recv := []
  /-- Buffered trace records and the record count of the segment, per context (R357). -/
  trace   : List (Nat × List Word) := []
  traceN  : Map Nat := []
  traceLost : Map Nat := []
  errs    : Errs := {}
  /-- The cycle of the last ERRCOUNT notice (R389). -/
  errsAt  : Option Nat := none
  /-- Wafer times of checksum failures per bank; spare rows used per subarray; spare banks used per channel (R387, R388). -/
  chkFail : Map (List Nat) := []
  /-- Weight tiles whose check failed and that the monitor has still to read again (R388): context, instance and address. -/
  chkTiles : List (Nat × Nat × Word) := []
  rowsUsed : Map Nat := []
  banksUsed : Map Nat := []
  /-- Wafer times of the corrected errors of each row; rows a checksum failure is traced to; rows already spared (R387). -/
  corrRow : Map (List Nat) := []
  traced : List Nat := []
  /-- Rows in which an uncorrectable word has been met and that have not been spared since (R387). -/
  uncRows : List Nat := []
  /-- Banks, with their channels, that three checksum failures within a day have condemned (R388). -/
  bankDue : List Nat := []
  spared : List Nat := []
  /-- Instructions issued since the counter grid's last latch (R361). -/
  issuedN : Nat := 0
  /-- Values of the per-destination sequence counters (R250); how many requests and writes the tile's slots have issued (R105). -/
  seqTo   : Map Nat := []
  ordN    : Nat := 0
  /-- Missed probes of the monitor (R383). -/
  missed  : Nat := 0
  /-- Messages sent to the tile monitor (R200). -/
  monq    : List Msg := []
  /-- The generation entered by the last dusk of this tile (R266, R381). -/
  duskGen : Option Nat := none
  /-- Free-slot count last reported to the controller; since which cycle it differs from the slots (R212). -/
  reported : Nat := 16
  freeSince : Option Nat := none
  deriving DecidableEq, Repr

/-! ### Module-wide structures -/

/-- The memory of the module: bytes, words whose tag is empty and words that are poisoned, by key (log 3). -/
structure Mem where
  cells  : List Host.Cell := []
  empty  : List Nat := []
  poison : List Nat := []
  /-- Words whose stored check bits hold an uncorrectable error that nothing has met yet (R264, R385). -/
  weak   : List Nat := []
  /-- Words with an error that is corrected when it is met (R385). -/
  soft   : List Nat := []
  deriving DecidableEq, Repr

/-- The counter grid of a site (R361-R363): the cycle of the last latch, the interval number, the link CRC resends of ports N, E, S
and W since then, and the latched records still to be stored, oldest first, each of 32 words; the phase under way of the first and the
acknowledgements that it awaits. -/
structure SiteGrid where
  at_     : Nat := 0
  seq     : BitVec 16 := 0#16
  resends : List Nat := [0, 0, 0, 0]
  recs    : List (List Word) := []
  phase   : Nat := 0
  left    : Nat := 0
  /-- Whether the site's tile has relocked since the last latch (R362). -/
  relockSeen : Bool := false
  deriving DecidableEq, Repr

/-- An object of a context with the fields of its descriptor (R284). -/
structure Object where
  desc : BitVec 512
  /-- Bits of its tile mask as ranks in the rectangle, read once at creation (R285, R286). -/
  set  : Option (List Nat) := none
  /-- A code object that a launch has replicated (R304). -/
  replicated : Bool := false
  deriving DecidableEq, Repr

/-- A context (R283) with its debug facilities (R355, R357, R360). -/
structure Context where
  debuggable : Bool
  brk    : List Word := [0#64, 0#64, 0#64, 0#64]
  trace  : Word := 0#64
  sample : Nat := 0
  /-- Destruction requested, waiting until the context holds nothing (R283). -/
  dying  : Option HostReq := none
  deriving DecidableEq, Repr

/-- A static route of a launch (R300). -/
structure Route where
  num   : Nat
  tiles : List Nat
  deriving DecidableEq, Repr

/-- A launch record as the root read it (R298-R300). -/
structure Launch where
  entry : Word
  srkey : BitVec 32
  args  : Word
  x0 : Nat
  y0 : Nat
  w  : Nat
  h  : Nat
  /-- Tiles of the region whose mask bit is 1. -/
  tiles : List Nat
  fmac : Nat
  nmac : Nat
  fcb  : Nat
  ncb  : Nat
  thr  : Nat
  prio : Nat
  hk   : Nat
  aq   : Nat
  trace : Bool
  stop  : Bool
  mig   : Bool
  notify : Bool
  routes : List Route
  succ  : List Word
  htag  : Word
  ops   : List (Nat × Nat)       -- object and mode
  deriving DecidableEq, Repr

/-- How far a launch has come (R303-R305). -/
inductive InstState where
  | waiting | ready | released | successor | complete
  deriving DecidableEq, Repr

/-- A kernel instance at the root (R302, R312, R325). -/
structure Inst where
  ctx    : Nat
  rec_   : Launch
  state  : InstState
  /-- Instances it waits for (R303) and the one it succeeds (R324). -/
  deps   : List Nat
  pred   : Option Nat := none
  /-- Its successor instances, 0 for an empty entry; whether they have been read (R302). -/
  succ   : List Nat := [0, 0, 0, 0]
  read   : Bool := true
  succReady : Bool := false
  started : Bool := false
  live   : Nat := 0
  /-- Teams resident, held at seam or quiesced; teams admitted by an order or handed on by a seam (R312, R313, R325). -/
  teams  : Nat := 0
  admitted : Nat := 0
  killed : Bool := false
  routed : Bool := false
  order  : Nat := 0
  /-- Objects that the homes write back before it is ready (R304); its predecessor was killed before it started (R312). -/
  flush  : List Nat := []
  orphaned : Bool := false
  deriving DecidableEq, Repr

/-- One field (R12, R192, R196, R212, R259, R305): its service tile, service thread's buffers and launch controller. -/
structure Field where
  tile    : Nat
  fbuf    : List Msg := []
  dropped : Bool := false
  mq      : List Msg := []
  svctx   : Nat := 0
  /-- The contexts that `svctx` has named since the service thread started (R240). -/
  svcUsed : List Nat := []
  freeMap : Map Nat := []
  /-- Launches released to the controller and not yet sent to its tiles; orders sent and not yet received (tile, instance). -/
  launches : List Nat := []
  sent     : List (Nat × Nat) := []
  deriving DecidableEq, Repr

/-- A link port (R342, R350). Role 0 unused, 1 host, 2 peer. -/
structure Port where
  role   : Nat := 0
  module : Nat := 0
  /-- The lanes, 0-17, that have failed (R350). -/
  bad    : List Nat := []
  up     : Bool := true
  deriving DecidableEq, Repr

/-- R350: good lanes of the 18. -/
def Port.good (p : Port) : Nat := 18 - p.bad.length

/-- A copy of the defect map (R366), sites and map kept as exceptions: a site listed is defective; a logical tile listed
lies elsewhere than R372 places it on a wafer without defects. -/
structure DefectMap where
  version : Nat
  nrows   : Nat
  signer  : Nat
  epoch   : Nat
  serial  : Nat
  bad     : List Nat := []
  map     : Map Nat := []
  repairs : List (BitVec 128) := []
  sig     : List Byte := []
  deriving DecidableEq, Repr

/-- Module flash (R342, R365, R366, R373): it survives a power loss. -/
structure Flash where
  fw1   : List Byte
  fw2   : List Byte
  map1  : Option DefectMap
  map2  : Option DefectMap
  token : List Byte := []
  ports : List Byte
  deriving DecidableEq, Repr

/-- A message to the host (R344). -/
structure HostMsg where
  port : Nat
  cls  : Nat
  op   : Nat
  ctx  : Nat := 0
  tag  : Nat := 0
  addr : Word := 0#64
  len  : Nat := 0
  status : Word := 0#64
  data : List Byte := []
  deriving DecidableEq, Repr

/-- A dusk in progress (R378): the tile, its spare and whether its window is open. -/
structure DuskRec where
  tile  : Nat
  spare : Nat
  opened : Bool
  /-- The cycle in which the window opened (R378). -/
  since : Nat := 0
  req   : Option HostReq := none
  deriving DecidableEq, Repr

/-- One entry of the schedule (model, log 1): a step of the opcode table that has no instruction word, the issue of a slot,
or the passage of cycles. -/
inductive Sched where
  | event (i : Instr)
  | issue (t k : Nat)
  | tick (n : Nat)
  deriving DecidableEq, Repr

/-- The module. -/
structure State where
  /-- Core cycles since dawn (R24) and wafer time in ninths of a nanosecond (R24, R27). -/
  now    : Nat
  wall9  : Nat
  /-- Wafer generation (R375, R381) and logical rows (R13). -/
  gen    : Nat
  rows   : Nat
  /-- Logical tiles that lie elsewhere than R372 places them; sites defective or fenced; clock parents changed (R382). -/
  siteOf : Map Nat
  bad    : List Nat
  /-- Sites that do not forward the reference clock (R370, R382), with the cycle since when. -/
  noClock : Map Nat
  fencedSites : List Nat
  /-- Sites that the routing tables avoid: those defective or fenced at the last dawn or dusk (R249). -/
  tabOut : List Nat
  parents : Map Nat
  /-- The site at which the reference clock enters (R370). -/
  clockRoot : Nat
  /-- R364, R376: dawn step, compute enabled, map attested, survey ended, rows granted. -/
  step   : Nat
  enabled : Bool
  attested : Bool
  survey : Bool
  dmap   : Option DefectMap
  fw     : List Byte
  /-- R393, R394: mode, previous mode, change in progress, caps in percent, throttling. -/
  mode   : Nat
  oldMode : Nat
  changing : Bool
  bfeCap : Nat
  dramCap : Nat
  /-- The cycle of the last comparison of the input power with the cap (R393). -/
  powerAt : Option Nat
  pumpsOut : List Nat
  stagesOut : List Nat
  unrec  : Bool
  fencedCount : Nat
  serial : Nat
  flash  : Flash
  /-- An update of the map has been written to copy 2 and not yet to copy 1 (R367); a map and a token received before step 6 of dawn,
  which are written after it (R376). -/
  mapHalf : Bool
  laterMap : Option DefectMap
  laterToken : Option (List Byte)
  ports  : List Port
  myModule : Nat
  stageMap : List Host.Cell
  stageFw  : List Host.Cell
  /-- Peer modules marked lost (R297). -/
  lostPeers : List Nat
  tiles  : Map Tile
  /-- The extents of replicated code on every tile that `tiles` does not list (R287). -/
  freshExtents : Map Extent
  fields : Map Field
  mem    : Mem
  net    : List Packet
  ctxs   : Map Context
  objects : Map Object
  homeMap : Map (BitVec 32)
  insts  : Map Inst
  nextKin : Nat
  nextOrder : Nat
  freeCounts : Map Nat
  /-- The cycle of the first change of a controller's map that the root's counts do not show (R212). -/
  freeAt : Option Nat
  /-- Falls of live counts not yet reported to the root (R312): instance numbers. -/
  falls  : List Nat
  routers : Map (List RouteEntry)
  hostOut : List HostMsg
  /-- MEM requests and peer accesses some of whose words wait for an extent operation, each in its place in a pending entry, or for
  the end of a dusk's window (R345, R347, R380). -/
  hostHeld : List (HostReq × HeldWords)
  peerHeld : List (PeerReq × HeldWords)
  /-- Objects whose destruction waits for their granules: context, number, request (R398). -/
  objDying : List (Nat × Nat × HostReq)
  gridObj : Word
  gridCtx : Nat
  gridUs  : Nat
  /-- The counter grids of the sites (R361-R363). -/
  grids   : Map SiteGrid
  sweep  : Nat
  lastAdvance : Option Nat
  dusk   : Option DuskRec
  /-- Tiles whose dusk has been asked for, oldest first (R377). -/
  duskQueue : List Nat
  /-- The RETIRE requests among them, by tile (R377, R398). -/
  retires : List (Nat × HostReq)
  held   : List Packet
  /-- The requests DBGSTOP and DBGRESUME (true) that service threads have still to perform (R354). -/
  dbgReqs : List (HostReq × Bool)
  /-- For each tile the last cycle in which a packet on VC2, VC0 or VC4 reached its pipeline, with the rank of the latest (R228). -/
  portAt : Map (Nat × Nat)
  /-- Schedule, issuing thread and counter of free values (model, log 1, 5). -/
  agenda : List Sched
  cur    : Nat × Nat
  fresh  : Nat
  deriving DecidableEq, Repr

/-- Why the model stops. -/
inductive Fault where
  /-- Raised by `exec` for a step that cannot occur in the state, such as the arrival of a packet that is not in the
  fabric or an issue by a slot that holds no READY thread. Safe: the machine takes no such step. -/
  | notEnabled
  /-- Raised by `step` when no thread can issue, no packet is under way and no later time changes that: the machine waits
  for the host. Safe: the machine only idles. -/
  | idle
  deriving DecidableEq, Repr

/-- Why the model gives an instruction no meaning. -/
inductive Refusal where
  /-- Raised by `exec` for an instruction whose meaning is not written. Safe. -/
  | notModelled (mnemonic : String)
  deriving DecidableEq, Repr

/-! ### Reset -/

/-- R11: whether a site exists. -/
def siteExists (site : Nat) : Bool :=
  let px := site % 96
  let py := site / 96
  py < 88 && !((px < 8 || px ≥ 88) && (py < 8 || py ≥ 80))

/-- R372 on a wafer without defects: columns 8-87 place logical row y at py = y + 4; columns 0-7 and 88-95 begin at py 8
and place rows 0-71 at y + 8. Their rows 72-79 take the nearest spares, which is `State.reset`'s list of exceptions. -/
def plainSite (tile : Nat) : Nat :=
  let x := tile % 96
  let y := tile / 96
  (if 8 ≤ x ∧ x < 88 then y + 4 else y + 8) * 96 + x

/-- Manhattan distance of two sites. -/
def siteDist (a b : Nat) : Nat :=
  let ax := a % 96
  let ay := a / 96
  let bx := b % 96
  let by' := b / 96
  (max ax bx - min ax bx) + (max ay by' - min ay by')

/-- R372: on a wafer without defects the sites that the column loop leaves are py 84-87 and 0-3 of columns 8-87. -/
def plainSpares : List Nat :=
  (List.range 4).flatMap (fun y => (List.range 80).map (fun x => y * 96 + x + 8)) ++
  (List.range 4).flatMap (fun y => (List.range 80).map (fun x => (84 + y) * 96 + x + 8))

/-- R372: each unplaced tile in row-major order takes the nearest spare, with ties to the lower py and then the lower px. -/
def placeLeft : List Nat → List Nat → Map Nat → Map Nat
  | [], _, m => m
  | t :: ts, spares, m =>
    match leastBy (siteDist (t + 4 * 96)) spares with
    | none => placeLeft ts spares m
    | some p => placeLeft ts (spares.filter (· != p)) (m.put t p)

/-- The logical tiles that R372's column loop leaves unplaced on a wafer without defects. -/
def plainUnplaced : List Nat :=
  (List.range 8).flatMap (fun i =>
    (List.range 8).map (fun x => (72 + i) * 96 + x) ++ (List.range 8).map (fun x => (72 + i) * 96 + 88 + x))

/-- R12: the field number of field coordinates, or `none` for the absent corners. -/
def fieldNum (fx fy : Nat) : Option Nat :=
  if fy = 0 then (if 1 ≤ fx ∧ fx ≤ 10 then some (fx - 1) else none)
  else if fy ≤ 9 then (if fx ≤ 11 then some (10 + (fy - 1) * 12 + fx) else none)
  else if fy = 10 then (if 1 ≤ fx ∧ fx ≤ 10 then some (117 + fx) else none)
  else none

/-- R12: the field coordinates of a field number. -/
def fieldXY (f : Nat) : Nat × Nat :=
  if f < 10 then (f + 1, 0) else if f < 118 then ((f - 10) % 12, (f - 10) / 12 + 1) else (f - 117, 10)

/-- R374 on a wafer without defects. The site nearest the field's centre term is at offset (3, 3), or (3, 4) in the top
row of fields, where logical rows begin at py 4; all of them hold a logical tile. -/
def plainService (f : Nat) : Nat :=
  let (fx, fy) := fieldXY f
  let px := 8 * fx + 3
  let py := if fy = 0 then 4 else 8 * fy + 3
  (if 8 ≤ px ∧ px < 88 then py - 4 else py - 8) * 96 + px

/-- The firmware entry of the service threads: object 1 of context 0, offset 0 (log 2). -/
def firmwareEntry : Word := 0x0000010000000000#64

/-- The service thread in slot 15 as firmware starts it (R26, R195, R374). -/
def serviceSlot : Slot := { state := .ready, th := { pc := firmwareEntry }, ipc := firmwareEntry }

/-- R378, R383: a tile closed by a dusk or fenced takes no step. -/
def Tile.shut (x : Tile) : Bool := x.closed || x.fenced

def Tile.noMacros : List Macro := List.replicate 256 {}
def Tile.noBufs : List CBuf := List.replicate 16 {}
def Tile.noTrackers : List Tracker := List.replicate 128 {}

/-- A tile as dawn leaves it (R375). -/
def Tile.fresh : Tile :=
  { slots := List.replicate 16 {}, trackers := Tile.noTrackers, macros := Tile.noMacros, bufs := Tile.noBufs }

/-- A service tile as dawn leaves it (R374). -/
def Tile.service : Tile := { Tile.fresh with slots := List.replicate 15 {} ++ [serviceSlot] }

/-- The 128 service tiles of a wafer without defects. -/
def plainServices : Map Nat := (List.range 128).map (fun f => (f, plainService f))

/-- R372: where the logical grid of 80 rows on a wafer without defects departs from `plainSite`. -/
def plainMap : Map Nat := placeLeft plainUnplaced plainSpares []

/-- The factory image that reset presumes (log 2): no defects, epoch 1, signed by the vendor. -/
def factoryMap : DefectMap :=
  { version := 1, nrows := 80, signer := 0, epoch := 1, serial := 0, map := plainMap }

/-- The module at the end of dawn: compute enabled on an attested map without defects (R364, R375; log 2). -/
def State.reset : State where
  now := 0
  wall9 := 0
  gen := 0
  rows := 80
  siteOf := plainMap
  bad := []
  fencedSites := []
  noClock := []
  tabOut := []
  parents := []
  clockRoot := 43 * 96 + 47
  step := 6
  enabled := true
  attested := true
  survey := false
  dmap := some factoryMap
  fw := []
  mode := 0
  oldMode := 0
  changing := false
  bfeCap := 75
  dramCap := 80
  powerAt := none
  pumpsOut := []
  stagesOut := []
  unrec := false
  fencedCount := 0
  serial := 0
  flash := { fw1 := [], fw2 := [], map1 := some factoryMap, map2 := some factoryMap, ports := 1#8 :: List.replicate 39 0#8 }
  ports := { role := 1 } :: List.replicate 15 {}
  mapHalf := false
  laterMap := none
  laterToken := none
  myModule := 0
  stageMap := []
  stageFw := []
  lostPeers := []
  tiles := (plainServices.map Prod.snd).foldl (fun m t => m.put t Tile.service) []
  freshExtents := []
  fields := plainServices.map (fun e => (e.1, { tile := e.2 }))
  mem := {}
  net := []
  ctxs := []
  objects := []
  homeMap := []
  insts := []
  nextKin := 1
  nextOrder := 0
  freeCounts := []
  freeAt := none
  falls := []
  routers := []
  hostOut := []
  hostHeld := []
  peerHeld := []
  objDying := []
  gridObj := 0#64
  gridCtx := 0
  gridUs := 100
  grids := []
  sweep := 0
  lastAdvance := none
  dusk := none
  duskQueue := []
  retires := []
  held := []
  dbgReqs := []
  portAt := []
  agenda := []
  cur := (0, 0)
  fresh := 0

end Sys2Proof.Machine
end

