-- ==== Sys2Proof/Machine/Operands.lean ====
section
/-! DEFINITION. Register operands, immediates extended by XW words, effective addresses and scratchpad addresses
(R21, R54, R56, R58, R60, R102, R115). -/

namespace Sys2Proof.Machine

/-! ### Registers (R21, R56) -/

def Regs.get (r : Regs) (n : Ptr) : Word :=
  match n.toNat with
  | 0 => r.w0 | 1 => r.w1 | 2 => r.w2 | 3 => r.w3 | 4 => r.w4 | 5 => r.w5 | 6 => r.w6 | _ => r.w7

def Regs.set (r : Regs) (n : Ptr) (v : Word) : Regs :=
  match n.toNat with
  | 0 => { r with w0 := v } | 1 => { r with w1 := v } | 2 => { r with w2 := v } | 3 => { r with w3 := v }
  | 4 => { r with w4 := v } | 5 => { r with w5 := v } | 6 => { r with w6 := v } | _ => { r with w7 := v }

/-- R56: the value a register field names; `zr` reads zero. -/
def Thread.reg (th : Thread) : Reg → Word
  | .w n => th.regs.get n
  | .acc => th.acc
  | .zr => 0#64

/-- R56: a write through a register field; `zr` discards it. -/
def Thread.setReg (th : Thread) (r : Reg) (v : Word) : Thread :=
  match r with
  | .w n => { th with regs := th.regs.set n v }
  | .acc => { th with acc := v }
  | .zr => th

/-- The register code of a field (R56, R79). -/
def regCode : Reg → Nat
  | .w n => n.toNat
  | .acc => 8
  | .zr => 15

/-- A register code 0-8 read back, as reply kind 2 names it (R197). -/
def regOfCode (n : Nat) : Reg := if n < 8 then .w (BitVec.ofNat 3 n) else if n = 8 then .acc else .zr

/-! ### Immediates (R54, R60, R84-R87) -/

/-- R60: the payloads of the pending XW words in front of an immediate of `k` bits: value and width of the whole field. -/
def extField (ext : List (BitVec 25)) (k v : Nat) : Nat × Nat :=
  ext.foldr (fun e acc => (e.toNat * 2 ^ acc.2 + acc.1, acc.2 + 25)) (v, k)

/-- R54, R60: the immediate read as two's complement over its extended width. -/
def extSigned (ext : List (BitVec 25)) (k v : Nat) : Int :=
  let (x, w) := extField ext k v
  if x < 2 ^ (w - 1) then (x : Int) else (x : Int) - 2 ^ w

/-- R84: the immediate read unsigned. -/
def extUnsigned (ext : List (BitVec 25)) (k v : Nat) : Nat := (extField ext k v).1

/-- A signed immediate as a 64-bit pattern. -/
def immWord (ext : List (BitVec 25)) {k : Nat} (i : BitVec k) : Word := BitVec.ofInt 64 (extSigned ext k i.toNat)

/-- R84: `ori` and, without extension, `xori` take the immediate unsigned. -/
def immUnsigned (ext : List (BitVec 25)) {k : Nat} (i : BitVec k) : Word :=
  BitVec.ofNat 64 (extUnsigned ext k i.toNat)

/-- R97: a relative target: the branch word's own address plus four times the extended offset. -/
def relTarget (ipc : Word) (ext : List (BitVec 25)) {k : Nat} (f : BitVec k) : Word := ipc + immWord ext f * 4#64

/-! ### Sizes and addresses (R58, R102) -/

/-- Bytes of an access size. -/
def sizeBytes : Size → Nat
  | .b => 1 | .h => 2 | .w => 4 | .d => 8

/-- R58, R102: the effective address of a format M access and the new base value of an incrementing mode. -/
def addrM (th : Thread) (base : Ptr) (m : Mode) (bytes : Nat) (ext : List (BitVec 25)) (f : BitVec 9) :
    Word × Option (Ptr × Word) :=
  let b := th.regs.get base
  let o := immWord ext f * BitVec.ofNat 64 bytes
  match m with
  | .offset => (b + o, none)
  | .post => (b, some (base, b + o))
  | .pre => (b + o, some (base, b + o))

/-- The write-back of a base register (R102). -/
def Thread.setBase (th : Thread) : Option (Ptr × Word) → Thread
  | none => th
  | some (p, v) => { th with regs := th.regs.set p v }

/-- R102: the address of an indexed form. -/
def addrX (th : Thread) (a : Ptr) (b : Reg) (bytes : Nat) : Word :=
  th.regs.get a + th.reg b * BitVec.ofNat 64 bytes

/-- R111: a loaded value extended to a register. -/
def extendLoad (z : Size) (sx : Bool) (v : Nat) : Word :=
  let k := 8 * sizeBytes z
  if sx && v % 2 ^ k ≥ 2 ^ (k - 1) then BitVec.ofInt 64 ((v % 2 ^ k : Nat) - 2 ^ k) else BitVec.ofNat 64 (v % 2 ^ k)

/-- Bits `hi:lo` of a word as a number. -/
def bits (x : Word) (hi lo : Nat) : Nat := (x.toNat >>> lo) % 2 ^ (hi + 1 - lo)

/-- Object number, granule and offset of an object-space address (R202). -/
def objOf (a : Word) : Nat := bits a 63 40
def granOf (a : Word) : Nat := bits a 39 16
def offOf (a : Word) : Nat := bits a 39 0

/-- Macro number and byte offset of a scratchpad address (R115). -/
def macroOf (a : Word) : Nat := bits a 21 14
def macroOff (a : Word) : Nat := bits a 13 0
def peerCode (a : Word) : Nat := bits a 23 22

/-- A scratchpad address (R115). -/
def spadAddr (m off : Nat) : Word := BitVec.ofNat 64 (m * 2 ^ 14 + off)

/-- The byte mask of an access of `n` bytes at an offset within its word. -/
def byteMask (off n : Nat) : BitVec 8 := BitVec.ofNat 8 ((2 ^ n - 1) <<< (off % 8))

/-- A value shifted to its place in its word, and taken from it. -/
def placeBytes (off : Nat) (v : Word) : Word := v <<< (8 * (off % 8))
def takeBytes (off n : Nat) (w : Word) : Nat := (w.toNat >>> (8 * (off % 8))) % 2 ^ (8 * n)

/-- R111, R113: bytes of a word replaced under a mask. -/
def mergeBytes (mask : BitVec 8) (new old : Word) : Word :=
  (List.range 8).foldl (fun (acc : Word) i =>
    if mask.getLsbD i then (acc &&& ~~~(0xFF#64 <<< (8 * i))) ||| (new &&& (0xFF#64 <<< (8 * i))) else acc) old

/-! ### `st` fields (R22) -/

def Thread.rm (th : Thread) : Nat := bits th.st 2 0
def Thread.sat (th : Thread) : Bool := th.st.getLsbD 3
def Thread.inline (th : Thread) : Nat := bits th.st 12 10
def Thread.bounce (th : Thread) : Nat := bits th.st 15 13
def Thread.pinned (th : Thread) : Bool := th.st.getLsbD 16
def Thread.pinloads (th : Thread) : Nat := bits th.st 23 17
def Thread.migratable (th : Thread) : Bool := th.st.getLsbD 24
def Thread.debuggable (th : Thread) : Bool := th.st.getLsbD 25
def Thread.trace (th : Thread) : Bool := th.st.getLsbD 26
def Thread.vprog (th : Thread) : Nat := bits th.st 47 32

/-- Bits `hi:lo` of a word replaced. -/
def setBits (x : Word) (hi lo v : Nat) : Word :=
  let m : Word := BitVec.ofNat 64 ((2 ^ (hi + 1 - lo) - 1) <<< lo)
  (x &&& ~~~m) ||| (BitVec.ofNat 64 (v <<< lo) &&& m)

def Thread.setSt (th : Thread) (hi lo v : Nat) : Thread := { th with st := setBits th.st hi lo v }
def Thread.setPinned (th : Thread) (p : Bool) (n : Nat) : Thread :=
  (th.setSt 16 16 (if p then 1 else 0)).setSt 23 17 n
def Thread.setBounce (th : Thread) (n : Nat) : Thread := th.setSt 15 13 n
def Thread.setVprog (th : Thread) (n : Nat) : Thread := th.setSt 47 32 n

end Sys2Proof.Machine
end

