-- ==== Sys2Proof/Machine/Flags.lean ====
section
/-! DEFINITION. Flag computation: the sticky flags of `st` and the rounding that scalar instructions take from it
(R22, R23, R40, R41, R79, R90). -/

namespace Sys2Proof.Machine

/-- R40: flags are sticky: they are ORed into `st` bits 9:4. -/
def Thread.orFlags (th : Thread) (f : Flags) : Thread := { th with st := th.st ||| ((f.zeroExtend 64) <<< 4) }

/-- R79: rounding mode and saturation from `st`; SR uses the team's key and the destination register's position. -/
def Thread.rnd (th : Thread) (key : BitVec 32) (sat : Bool) (d : Nat) : Rnd :=
  ⟨th.rm, sat && th.sat, key, BitVec.ofNat 32 (0x40000000 + d)⟩

/-- R90: the format of a `.s` or `.d` form. -/
def fpFmt (dbl : Bool) : Fmt := if dbl then fp64 else fp32

/-- R90: a source operand: bits 31:0, or all 64. -/
def fpBits (dbl : Bool) (x : Word) : Nat := if dbl then x.toNat else x.toNat % 2 ^ 32

def fpVal (dbl : Bool) (x : Word) : Val := (fpFmt dbl).value (fpBits dbl x)

/-- R23: `st` after an `mts` of `v`: RO fields keep their value; `none` where it raises ILLEGAL. -/
def writeSt (st v : Word) : Option Word :=
  if bits v 63 48 ≠ 0 ∨ bits v 31 27 ≠ 0 ∨ bits v 2 0 > 4 then none
  else
    let keep : Word := 0x0000FFFF02FFFC00#64       -- vprog, debuggable, pinloads, pinned, bounce, inline
    let new := (st &&& keep) ||| (v &&& 0x00000000050003FF#64)
    some (if new.getLsbD 25 then new else new &&& ~~~0x0000000004000000#64)

end Sys2Proof.Machine
end

