-- ==== Sys2Proof/Machine/Obj.lean ====
section
/-! DEFINITION. Object descriptors and the home of a granule (R202, R284-R288). -/

namespace Sys2Proof.Machine

namespace Object
def size (o : Object) : Nat := (o.desc.extractLsb' 64 40).toNat + 1
def attr (o : Object) : Nat := (o.desc.extractLsb' 5 2).toNat
def place (o : Object) : Nat := (o.desc.extractLsb' 3 2).toNat
def isCode (o : Object) : Bool := o.desc.getLsbD 2
def writable (o : Object) : Bool := o.desc.getLsbD 1
def hvis (o : Object) : Bool := o.desc.getLsbD 0
def peer (o : Object) : Bool := o.desc.getLsbD 8
def module (o : Object) : Nat := (o.desc.extractLsb' 304 8).toNat
def lost (o : Object) : Bool := o.desc.getLsbD 312
def robj (o : Object) : Nat := (o.desc.extractLsb' 280 24).toNat
def rctx (o : Object) : Nat := (o.desc.extractLsb' 268 12).toNat
def x0 (o : Object) : Nat := (o.desc.extractLsb' 352 8).toNat
def y0 (o : Object) : Nat := (o.desc.extractLsb' 360 8).toNat
def w (o : Object) : Nat := (o.desc.extractLsb' 368 8).toNat
def h (o : Object) : Nat := (o.desc.extractLsb' 376 8).toNat
def seed (o : Object) : BitVec 32 := o.desc.extractLsb' 416 32
def maskAddr (o : Object) : Word := o.desc.extractLsb' 448 64
def setLost (o : Object) (on : Bool) : Object :=
  { o with desc := if on then o.desc ||| (1#512 <<< 312) else o.desc &&& ~~~(1#512 <<< 312) }
/-- R109: attribute codes. -/
def isSO (o : Object) : Bool := o.attr == 0
def isUO (o : Object) : Bool := o.attr == 2
end Object

def objKey (ctx obj : Nat) : Nat := ctx * 2 ^ 24 + obj
def granKey (ctx obj g : Nat) : Nat := objKey ctx obj * 2 ^ 24 + g

def State.object (s : State) (ctx obj : Nat) : Option Object := if obj = 0 then none else s.objects.look (objKey ctx obj)

/-- R286: the rank of the tile of granule `g` in the set, and the tile it gives. -/
def hashRank (seed : BitVec 32) (m g : Nat) : Nat := (fmix (seed ^^^ fmix (BitVec.ofNat 32 g))).toNat * m / 2 ^ 32

def hashHome (o : Object) (g : Nat) : Nat :=
  let k := match o.set with
    | none => hashRank o.seed (o.w * o.h) g
    | some l => l.getD (hashRank o.seed l.length g) 0
  (o.y0 + k / o.w) * 96 + o.x0 + k % o.w

/-- R288: a home-map entry: valid bit, y and x. -/
def homeEntry (t : Nat) : BitVec 32 := BitVec.ofNat 32 (2 ^ 31 + t / 96 * 256 + t % 96)
def entryTile (e : BitVec 32) : Option Nat :=
  if e.getLsbD 31 then some ((e.toNat / 256 % 256) * 96 + e.toNat % 256) else none

/-- R288: the directory tile of an object. -/
def dirTile (ctx obj : Nat) : Nat :=
  (fmix (BitVec.ofNat 32 obj ^^^ fmix (BitVec.ofNat 32 ctx))).toNat * 7680 / 2 ^ 32

/-- The home that the directory itself names now: the truth every cache follows (R202, R287). `here` serves REPL. -/
def State.trueHome (s : State) (ctx : Nat) (a : Word) (here : Nat) : Option Nat :=
  match s.object ctx (objOf a) with
  | none => none
  | some o =>
    if o.peer then none
    else match o.place with
      | 0 => some (hashHome o (granOf a))
      | 1 => some (o.y0 * 96 + o.x0)
      | 2 => (s.homeMap.look (granKey ctx (objOf a) (granOf a))).bind entryTile
      | _ => some here

end Sys2Proof.Machine
end

