-- ==== Sys2Proof/Machine/Ops.lean ====
section
/-! DEFINITION. The named operations over the state: tiles, slots and names; memory by key; packets; ending an instruction;
taking a fault, which is this machine's exception entry (R256), and its return (R197). -/

namespace Sys2Proof.Machine

abbrev Out := Host.Outcome State Fault Refusal

/-! ### Tiles, slots, names -/

def State.tile (s : State) (t : Nat) : Tile := s.tiles.lookD t { Tile.fresh with extents := s.freshExtents }
def State.setTile (s : State) (t : Nat) (x : Tile) : State := { s with tiles := s.tiles.put t x }
/-- A tile that is as a fresh one need not be listed (log 15). -/
def State.unlist (s : State) (t : Nat) : State :=
  let s' : State := { s with tiles := s.tiles.del t }
  if s'.tile t = s.tile t then s' else s
def State.modTile (s : State) (t : Nat) (f : Tile → Tile) : State := s.setTile t (f (s.tile t))
def Tile.slot (x : Tile) (k : Nat) : Slot := x.slots.getD k {}
def State.slot (s : State) (t k : Nat) : Slot := (s.tile t).slot k
def Tile.modSlot (x : Tile) (k : Nat) (f : Slot → Slot) : Tile := { x with slots := modifyAt x.slots k f }
def State.modSlot (s : State) (t k : Nat) (f : Slot → Slot) : State := s.modTile t (fun x => x.modSlot k f)
/-- R157: whether another slot's vector instruction that waits for the unit issued before cycle `c`. -/
def Tile.vecAhead (x : Tile) (k c : Nat) : Bool :=
  x.slots.zipIdx.any (fun e => e.2 != k && (match e.1.vecSince with | some d => d < c | none => false))
def Tile.mac (x : Tile) (m : Nat) : Macro := x.macros.getD m {}
def Tile.modMacro (x : Tile) (m : Nat) (f : Macro → Macro) : Tile := { x with macros := modifyAt x.macros m f }
def Tile.buf (x : Tile) (b : Nat) : CBuf := x.bufs.getD b {}
def Tile.modBuf (x : Tile) (b : Nat) (f : CBuf → CBuf) : Tile := { x with bufs := modifyAt x.bufs b f }
def State.modTeam (s : State) (t p : Nat) (f : Team → Team) : State :=
  s.modTile t (fun x => match x.teams.look p with
    | none => x
    | some tm => { x with teams := x.teams.put p (f tm) })

/-- Whether an index names a tile of the logical grid (R13). -/
def State.isTile (s : State) (t : Nat) : Bool := t < s.rows * 96

/-- R24: a tile name of 24 bits: generation, y, x. -/
def nameOf (gen t : Nat) : BitVec 24 := BitVec.ofNat 24 (gen % 256 * 65536 + t / 96 % 256 * 256 + t % 96)
def State.name (s : State) (t : Nat) : BitVec 24 := nameOf s.gen t
def nameGen (n : BitVec 24) : Nat := n.toNat / 65536
def nameX (n : BitVec 24) : Nat := n.toNat % 256
def nameY (n : BitVec 24) : Nat := n.toNat / 256 % 256
/-- The tile a name's coordinates give. -/
def nameTile (n : BitVec 24) : Nat := nameY n * 96 + nameX n
/-- R130, R199: a name whose x and y are a tile of the logical grid. -/
def State.nameOk (s : State) (n : BitVec 24) : Bool := nameX n < 96 && nameY n < s.rows

/-- R245: the quad partner a peer code names. -/
def partner (t code : Nat) : Nat :=
  let x := t % 96
  let y := t / 96
  let x' := if code % 2 = 1 then (if x % 2 = 0 then x + 1 else x - 1) else x
  let y' := if code / 2 % 2 = 1 then (if y % 2 = 0 then y + 1 else y - 1) else y
  y' * 96 + x'

/-- R13: the site of a logical tile. -/
def State.site (s : State) (t : Nat) : Nat := (s.siteOf.look t).getD (plainSite t)

/-- R11, R12: the field of a site. -/
def fieldOfSite (site : Nat) : Nat := (fieldNum (site % 96 / 8) (site / 96 / 8)).getD 0
def State.fieldOf (s : State) (t : Nat) : Nat := fieldOfSite (s.site t)
def State.field (s : State) (f : Nat) : Field := s.fields.lookD f { tile := 0 }
def State.modField (s : State) (f : Nat) (g : Field → Field) : State := { s with fields := s.fields.put f (g (s.field f)) }
/-- R13: the logical tile placed at a site. -/
def State.tileAt (s : State) (site : Nat) : Option Nat :=
  match s.siteOf.find? (fun e => e.2 == site) with
  | some e => some e.1
  | none =>
    let px := site % 96
    let py := site / 96
    let d := if 8 ≤ px ∧ px < 88 then 4 else 8
    if !siteExists site || py < d then none
    else
      let t := (py - d) * 96 + px
      if t < s.rows * 96 && (s.siteOf.look t).isNone && plainSite t == site then some t else none
/-- Ports: 0 N, 1 E, 2 S, 3 W, 4 L (R251); north is the lower py, west the lower px (R249). -/
def siteStep (site dir : Nat) : Option Nat :=
  let px := site % 96
  let py := site / 96
  match dir with
  | 0 => if py = 0 then none else some (site - 96)
  | 1 => if px = 95 then none else some (site + 1)
  | 2 => if py ≥ 87 then none else some (site + 96)
  | _ => if px = 0 then none else some (site - 1)

def siteNeighbours (site : Nat) : List Nat := [0, 1, 2, 3].filterMap (siteStep site)

/-- The input port of the next router. -/
def oppositePort (k : Nat) : Nat := (k + 2) % 4

/-- R249, R383: a good site that is not fenced. -/
def State.usable (s : State) (site : Nat) : Bool := siteExists site && !s.bad.contains site && !s.fencedSites.contains site
/-- R249: a site that the routing tables use, which change only at dawn and dusk. -/
def State.routable (s : State) (site : Nat) : Bool := siteExists site && !s.tabOut.contains site

/-- The sites at distances 0, 1, … from the head of `front` over the tables' sites, nearest last, until one holds `goal`. -/
def State.layers (s : State) (goal : Nat) (seen front : List Nat) (done : List (List Nat)) : Nat → List (List Nat)
  | 0 => done
  | n + 1 =>
    if front.isEmpty || front.contains goal then front :: done
    else
      let next := ((front.flatMap siteNeighbours).filter (fun u => (s.routable u || u == goal) && !seen.contains u)).eraseDups
      s.layers goal (seen ++ next) next (front :: done) n

/-- R249: the port that the router of a site takes toward `d`, among the neighbours of the next layer. -/
def routePort (site d : Nat) (next : List Nat) : Nat :=
  let px := site % 96
  let dim := if px < d % 96 then 1 else if px > d % 96 then 3 else if site / 96 < d / 96 then 2 else 0
  match ([dim, 0, 3, 2, 1].find? (fun k => match siteStep site k with | some u => next.contains u | none => false)) with
  | some k => k
  | none => 4

/-- The ports of the path from a site to `d`. -/
def pathPorts (site d : Nat) : List (List Nat) → List Nat
  | [] => []
  | next :: rest =>
    let k := routePort site d next
    k :: pathPorts ((siteStep site k).getD site) d rest

/-- R249: the ports of the path between two sites by the tables. -/
def State.path (s : State) (a d : Nat) : List Nat := pathPorts a d ((s.layers a [d] [d] [] 8448).drop 1)

/-- R12: the logical tiles of a field, in order. -/
def State.fieldTiles (s : State) (f : Nat) : List Nat :=
  let (fx, fy) := fieldXY f
  (List.range 64).filterMap (fun i => s.tileAt ((8 * fy + i / 8) * 96 + 8 * fx + i % 8))
/-- R374: whether a tile is its field's service tile. -/
def State.isService (s : State) (t : Nat) : Bool := s.fields.any (fun e => e.2.tile == t)
/-- R26: whether a slot holds the service level. -/
def State.atService (s : State) (t k : Nat) : Bool := k == 15 && s.isService t
/-- R15: the slots that kernels may use on a tile. -/
def State.kernelSlots (s : State) (t : Nat) : List Nat := List.range (if s.isService t then 15 else 16)

/-- R210: the FREE slots of a tile that kernels may take. -/
def State.freeSlots (s : State) (t : Nat) : Nat :=
  ((s.kernelSlots t).filter (fun k => (s.slot t k).state == .free)).length

/-- R228: whether a packet, or an engine's access, has reached the pipeline of a tile in this cycle: what its slots access comes in the
next. -/
def State.portBusy (s : State) (t : Nat) : Bool := match s.portAt.look t with
  | some (c, _) => c == s.now
  | none => false

/-- R24, R27: whole nanoseconds of wafer time. -/
def State.wall (s : State) : Word := BitVec.ofNat 64 (s.wall9 / 9)

/-- A fresh draw for a free value (log 5). -/
def State.draw (s : State) : Nat × State := (s.fresh, { s with fresh := s.fresh + 1 })

/-- R42: the SR key of the team that accounts for a slot. DESIGN CHOICE (log 83): 0 for the service thread, which has no team
(R191). -/
def State.srkey (s : State) (t k : Nat) : BitVec 32 :=
  if s.atService t k then 0#32 else match (s.tile t).teams.look (s.slot t k).team with
  | none => 0#32
  | some tm => tm.srkey

/-! ### Memory by key (log 3) -/

/-- The key of a byte of a tile's DRAM, of the replicated code, of a scratchpad, of a macro image in a save area. -/
def dramKey (t page off : Nat) : Nat := t * 2 ^ 31 + page * 2 ^ 16 + off % 2 ^ 16
def codeKey (ctx obj off : Nat) : Nat := 2 ^ 80 + (ctx * 2 ^ 24 + obj) * 2 ^ 40 + off
def spadKey (t m off : Nat) : Nat := 2 ^ 120 + t * 2 ^ 22 + m * 2 ^ 14 + off
def imageKey (t a m off : Nat) : Nat := 2 ^ 121 + (t * 4 + a) * 2 ^ 22 + m * 2 ^ 14 + off

/-- What an unlisted byte reads as (log 3; R199, R243 give zero for mapped pages and scrubbed macros). -/
def Mem.unlisted : Byte := 0#8

def readCell : List Host.Cell → Nat → Byte
  | [], _ => Mem.unlisted
  | (b, v) :: cs, a => if b = a then v else readCell cs a

def eraseCell : List Host.Cell → Nat → List Host.Cell
  | [], _ => []
  | (b, v) :: cs, a => if b = a then cs else (b, v) :: eraseCell cs a

def insertCell : List Host.Cell → Nat → Byte → List Host.Cell
  | [], a, v => [(a, v)]
  | (b, u) :: cs, a, v =>
    if a < b then (a, v) :: (b, u) :: cs
    else if a = b then (a, v) :: cs
    else (b, u) :: insertCell cs a v

/-- A byte written in canonical form. -/
def writeCell (cs : List Host.Cell) (a : Nat) (v : Byte) : List Host.Cell :=
  if v = Mem.unlisted then eraseCell cs a else insertCell cs a v

def insertNat : List Nat → Nat → List Nat
  | [], a => [a]
  | b :: bs, a => if a < b then a :: b :: bs else if a = b then b :: bs else b :: insertNat bs a

def eraseNat : List Nat → Nat → List Nat
  | [], _ => []
  | b :: bs, a => if a = b then bs else b :: eraseNat bs a

/-- Membership in an ascending list set or cleared. -/
def setNat (l : List Nat) (a : Nat) (on : Bool) : List Nat := if on then insertNat l a else eraseNat l a

def cellsWf : List Host.Cell → Bool
  | [] => true
  | [(_, v)] => v != Mem.unlisted
  | (a, v) :: (b, u) :: cs => v != Mem.unlisted && a < b && cellsWf ((b, u) :: cs)

def natsWf : List Nat → Bool
  | [] => true
  | [_] => true
  | a :: b :: l => a < b && natsWf (b :: l)

/-- A rising list of the keys of words. -/
def wordsWf (l : List Nat) : Bool := natsWf l && l.all (fun a => a % 8 == 0)

/-- The canonical form of memory: addresses strictly rising, no entry equal to the unlisted byte, tags and marks at words. -/
def Mem.wf (m : Mem) : Bool := cellsWf m.cells && wordsWf m.empty && wordsWf m.poison && wordsWf m.weak && wordsWf m.soft

def Mem.byte (m : Mem) (a : Nat) : Byte := readCell m.cells a
def Mem.setByte (m : Mem) (a : Nat) (v : Byte) : Mem := { m with cells := writeCell m.cells a v }

/-- The key of the word that holds a byte. -/
def wordKey (a : Nat) : Nat := a / 8 * 8

def Mem.word (m : Mem) (a : Nat) : Word :=
  (List.range 8).foldr (fun i (acc : Word) => (acc <<< 8) ||| (m.byte (wordKey a + i)).zeroExtend 64) 0#64

/-- R113, R385: a reader finds a word poisoned that is marked so or whose stored bits cannot be corrected. -/
def Mem.isPoison (m : Mem) (a : Nat) : Bool := m.poison.contains (wordKey a) || m.weak.contains (wordKey a)
/-- Whether an uncorrectable error stands in a word. -/
def Mem.isWeak (m : Mem) (a : Nat) : Bool := m.weak.contains (wordKey a)
def Mem.isEmpty (m : Mem) (a : Nat) : Bool := m.empty.contains (wordKey a)
def Mem.setPoison (m : Mem) (a : Nat) (on : Bool) : Mem :=
  { m with poison := setNat m.poison (wordKey a) on, weak := eraseNat m.weak (wordKey a), soft := eraseNat m.soft (wordKey a) }
def Mem.setEmpty (m : Mem) (a : Nat) (on : Bool) : Mem := { m with empty := setNat m.empty (wordKey a) on }

/-- The bytes under a mask of the word at a key; tag and poison stay. -/
def Mem.merge (m : Mem) (a : Nat) (mask : BitVec 8) (v : Word) : Mem :=
  (List.range 8).foldl (fun m i => if mask.getLsbD i then m.setByte (wordKey a + i) (v.extractLsb' (8 * i) 8) else m) m

/-- R113: a write of bytes of one word: all eight clear its poison. -/
def Mem.write (m : Mem) (a : Nat) (mask : BitVec 8) (v : Word) : Mem :=
  let m := m.merge a mask v
  if mask = 0xFF#8 then m.setPoison a false else m

/-- Clears a run of `n` words: zero bytes, tags full, no poison (R118, R199, R243). -/
def Mem.clear (m : Mem) (a n : Nat) : Mem :=
  { cells := m.cells.filter (fun c => c.1 < a || c.1 ≥ a + 8 * n)
    empty := m.empty.filter (fun c => c < a || c ≥ a + 8 * n)
    poison := m.poison.filter (fun c => c < a || c ≥ a + 8 * n)
    weak := m.weak.filter (fun c => c < a || c ≥ a + 8 * n)
    soft := m.soft.filter (fun c => c < a || c ≥ a + 8 * n) }

/-- R385: the words of a run of `n` whose stored bits cannot be corrected, and those that a read corrects. -/
def Mem.weakIn (m : Mem) (a n : Nat) : List Nat := m.weak.filter (fun c => a ≤ c && c < a + 8 * n)
def Mem.softIn (m : Mem) (a n : Nat) : List Nat := m.soft.filter (fun c => a ≤ c && c < a + 8 * n)

/-- R385: a read of a run of `n` words meets its uncorrectable words, which become poisoned, and corrects the others. -/
def Mem.meet (m : Mem) (a n : Nat) : Mem :=
  (m.weakIn a n).foldl (fun m c => m.setPoison c true) { m with soft := m.soft.filter (fun c => c < a || c ≥ a + 8 * n) }

/-- Copies a run of `n` words with tags and poison (R294, R333, R380). -/
def Mem.move (m : Mem) (src dst n : Nat) : Mem :=
  let m := m.meet src n
  let from_ := m.cells.filter (fun c => src ≤ c.1 && c.1 < src + 8 * n)
  let m1 := m.clear dst n
  let m2 := from_.foldl (fun m c => m.setByte (dst + (c.1 - src)) c.2) m1
  let m3 := (m.empty.filter (fun c => src ≤ c && c < src + 8 * n)).foldl (fun m c => m.setEmpty (dst + (c - src)) true) m2
  (m.poison.filter (fun c => src ≤ c && c < src + 8 * n)).foldl (fun m c => m.setPoison (dst + (c - src)) true) m3

def State.modMem (s : State) (f : Mem → Mem) : State := { s with mem := f s.mem }

/-- R390: the keys under which a tile counts spare rows (channel, bank, subarray) and spare banks (channel). -/
def subKey (ch bank sub : Nat) : Nat := (ch * 16 + bank) * 32 + sub
def rowNumber (ch bank sub row : Nat) : Nat := subKey ch bank sub * 256 + row

/-- The row that holds a byte at an offset into a tile's DRAM (R185, R390). -/
def rowOfByte (off : Nat) : Nat :=
  let page := off / 65536
  let i := off / 2048 % 32
  rowNumber (i % 8) (page % 4 * 4 + i / 8) (page / 1024 % 32) (page / 4 % 256)

/-- R387, R388: a day in ninths of a nanosecond. -/
def day9 : Nat := 86400 * 1000000000 * 9

def State.withinDay (s : State) (l : List Nat) : List Nat := l.filter (fun c => c + day9 > s.wall9)

/-- R385, R387: a tile counts the corrected errors of DRAM words (keys `soft`), each with the time for its row, and uncorrectable ones
(`weak`), whose rows are to be spared. -/
def State.countDram (s : State) (t : Nat) (soft weak : List Nat) : State :=
  s.modTile t (fun x =>
    { x with errs := { x.errs with corrDram := x.errs.corrDram + soft.length, uncDram := x.errs.uncDram + weak.length }
             corrRow := soft.foldl (fun (m : Map (List Nat)) a =>
               let n := rowOfByte (a % 2 ^ 31)
               m.put n (s.withinDay (m.lookD n []) ++ [s.wall9])) x.corrRow
             uncRows := weak.foldl (fun l a => insertNat l (rowOfByte (a % 2 ^ 31))) x.uncRows })

/-- The same of words of the scratchpad, the L1 or a slice. -/
def State.countSram (s : State) (t soft weak : Nat) : State :=
  s.modTile t (fun x => { x with errs := { x.errs with corrSram := x.errs.corrSram + soft, uncSram := x.errs.uncSram + weak } })

/-- R385: an access of tile `t` reads `n` words of its DRAM at a key, and the errors that it meets there are counted. -/
def State.meetDram (s : State) (t key n : Nat) : State :=
  if (s.mem.softIn key n).isEmpty && (s.mem.weakIn key n).isEmpty then s
  else (s.countDram t (s.mem.softIn key n) (s.mem.weakIn key n)).modMem (fun m => m.meet key n)

/-- The same for words of a macro or of its image. -/
def State.meetSpad (s : State) (t key n : Nat) : State :=
  if (s.mem.softIn key n).isEmpty && (s.mem.weakIn key n).isEmpty then s
  else (s.countSram t (s.mem.softIn key n).length (s.mem.weakIn key n).length).modMem (fun m => m.meet key n)

/-! ### Packets (R247-R250) -/

/-- R247: the class code of a packet on its VC. -/
def Body.cls : Body → Nat
  | .readReq .. | .readData .. | .failed .. | .store .. | .copyReadReq .. | .route _ => 0
  | .atomicReq .. | .atomicResult _ | .stf .. | .copyData .. | .routeLast _ => 1
  | .peerLoad .. | .writeAck .. | .heldMark .. | .nrAtomic .. | .copyWrite .. => 2
  | .trackQuery .. | .trackAnswer .. | .exitJ .. | .copyAck _ => 3
  | .gridStore _ _ _ ph => if ph < 10 then 4 else 2
  | .trackRelease .. | .admission _ | .peerStore .. => 4
  | .placeReq _ | .dirFill _ | .invalDone _ => 5
  | .dirReq _ | .dirInval .. => 6
  | .svcReq .. | .svcMsg .. | .faultMsg .. | .droppedReq .. | .svcAnswer _ | .droppedMark .. => 7
  | .routeGrant .. => 8
  | .migrate f => f.kind

/-- A packet enters the fabric. One whose name bears another generation is returned by its first router (R249); one for a
fenced tile is refused at its neighbours (R383). VC0 and VC2 take the next sequence value (R250); a request or write of a slot keeps
its first place in the order of its tile (R105), as does a flit of a route (R254). -/
def State.send (s : State) (p : Packet) : State :=
  let x := s.tile p.src
  let asks := (p.vc == 0 || p.vc == 2) && p.slot < 16
  let ordered := asks || p.vc == 5
  let n := x.seqTo.lookD p.dst 0
  let counted := p.vc == 0 || p.vc == 2
  let ret : Ret := if p.dst ≥ 16384 then .no
    else if p.gen ≠ s.gen && p.vc ≠ 1 then .stale
    else if (s.tile p.dst).fenced && p.vc ≠ 1 then .fenced else .no
  let rseq := (x.slot p.slot).reqSeq
  let x := if asks then x.modSlot p.slot (fun sl => { sl with reqSeq := sl.reqSeq + 1#4 }) else x
  let ord := if ordered && p.ord == 0 then x.ordN + 1 else p.ord
  let s := if counted || p.vc == 5 then
      s.setTile p.src { x with seqTo := if counted then x.seqTo.put p.dst (n + 1) else x.seqTo, ordN := max x.ordN ord }
    else s
  { s with net := s.net ++ [{ p with seq := n, ord := ord, ret := ret, sgen := s.gen, rseq := if asks then rseq else p.rseq }] }

/-- R13: where a tile lies on a map: its site, or the one that R372 gives it. -/
def DefectMap.siteAt (d : DefectMap) (t : Nat) : Nat := (d.map.look t).getD (plainSite t)

/-- R371: a spare: a good site that holds no logical tile and that no entry of the map names, rows not granted included. -/
def State.isSpare (s : State) (p : Nat) : Bool :=
  s.usable p && (s.tileAt p).isNone && (match s.dmap with
    | none => true
    | some d => !((List.range (d.nrows * 96)).drop (s.rows * 96)).any (fun t => d.siteAt t == p))

/-- A reply from a tile to a slot or engine of another. -/
def State.answer (s : State) (src dst slot : Nat) (b : Body) : State :=
  s.send { vc := 1, src := src, dst := dst, gen := s.gen, slot := slot, body := b }

/-- R248: the reply to a packet, with the request sequence of its tag. -/
def State.answerTo (s : State) (p : Packet) (b : Body) : State :=
  s.send { vc := 1, src := p.dst, dst := p.src, gen := s.gen, slot := p.slot, body := b, rseq := p.rseq }

/-- R343, R350: whether a message leaves the module: an answer does only while its port is in service. -/
def State.sends (s : State) (m : HostMsg) : Bool :=
  m.cls == 4 || (match s.ports[m.port]? with
    | some p => p.up && (m.cls != 0 || p.role == 2)
    | none => false)

/-- A message to the host or to a peer through a port. -/
def State.toHost (s : State) (m : HostMsg) : State := { s with hostOut := s.hostOut ++ (if s.sends m then [m] else []) }

def wordBytes (w : Word) : List Byte := (List.range 8).map (fun i => w.extractLsb' (8 * i) 8)
def bytesWord (l : List Byte) : Word := (l.take 8).foldr (fun b (acc : Word) => (acc <<< 8) ||| b.zeroExtend 64) 0#64

/-- R343: the lowest-numbered host port in service; 0 when there is none. -/
def State.hostPort (s : State) : Nat := (firstIdx (fun (p : Port) => p.role == 1 && p.up) s.ports).getD 0

/-- R342: whether a request's port is a host port in service. -/
def State.hostUp (s : State) (r : HostReq) : Bool :=
  match s.ports[r.port]? with
  | some p => p.role == 1 && p.up
  | none => false

/-- R349: a NOTIFY of a kind with four payload words. -/
def State.notify (s : State) (kind : Nat) (w0 w1 w2 w3 : Word) : State :=
  s.toHost { port := s.hostPort, cls := 4, op := kind, data := wordBytes w0 ++ wordBytes w1 ++ wordBytes w2 ++ wordBytes w3 }

/-! ### Ending an instruction -/

/-- The slot at an instruction boundary: nothing pending, the next word at `pc` (R62). -/
def Slot.goto (sl : Slot) (pc : Word) : Slot :=
  { sl with th := { sl.th with pc := pc }, ipc := pc, ext := [], sx := false, nt := false, retry := false,
            resent := false, pend := .none, tried := [], level := 0, heldWr := false, released := false, vecSince := none, pass := false }

/-- The instruction is complete: the next word follows its own (R60, R98). -/
def Slot.finish (sl : Slot) : Slot := sl.goto (sl.ipc + 4#64)

/-- The slot holds its thread READY at the word after the instruction. -/
def Slot.finishReady (sl : Slot) : Slot := { sl.finish with state := .ready }

/-- The instruction has had no effect and will issue again from the first word of its XW run (R62). -/
def Slot.rewind (sl : Slot) : Slot := { sl with ipc := sl.th.pc, ext := [], sx := false, nt := false, vecSince := none, pass := false }

/-- The slot waits with its instruction, which goes on when the condition holds (R19). -/
def Slot.waitFor (sl : Slot) (w : Why) : Slot := { sl with state := .wait w, retry := true }

/-- R60: a modifier word is pending: the run holds more words than extension payloads. -/
def Slot.hasMod (sl : Slot) : Bool := sl.ipc != sl.th.pc + BitVec.ofNat 64 (4 * sl.ext.length)

/-- R60: whether the pending run takes one more XW word: at most two, and none after a modifier. -/
def Slot.takesXw (sl : Slot) : Bool := !(sl.ext.length ≥ 2 || sl.hasMod)
def Slot.withExt (sl : Slot) (e : BitVec 25) : Slot := { sl with ipc := sl.ipc + 4#64, ext := sl.ext ++ [e] }
def Slot.withMod (sl : Slot) (n x : Bool) : Slot := { sl with ipc := sl.ipc + 4#64, sx := x, nt := n }

/-- R62: the slot stands at the first word of an instruction with its XW run. -/
def Slot.atBoundary (sl : Slot) : Bool := sl.ext.isEmpty && !sl.sx && !sl.nt && sl.ipc == sl.th.pc

/-- R62: where a stop may fall: at a boundary, or with an instruction that has issued and waits to issue again. -/
def Slot.canStop (sl : Slot) : Bool := sl.atBoundary || sl.retry

def State.curSlot (s : State) : Slot := s.slot s.cur.1 s.cur.2
def State.modCur (s : State) (f : Slot → Slot) : State := s.modSlot s.cur.1 s.cur.2 f

/-- Whether the slot named by `cur` can issue (R17). -/
def State.issuing (s : State) : Bool := s.cur.2 < 16 && (s.curSlot.state == .ready) && s.cur.2 < (s.tile s.cur.1).slots.length

/-- An instruction whose only effect is on its thread (R78, R80): `f` gives the thread after it. -/
def onThread (s : State) (f : Slot → Thread) : Out :=
  if s.issuing then .next (s.modCur (fun sl => { sl with th := f sl }.finish)) else .fault .notEnabled

/-- An instruction that also chooses the next `pc` (R98-R100). -/
def onFlow (s : State) (f : Slot → Thread × Word) : Out :=
  if s.issuing then .next (s.modCur (fun sl => { sl with th := (f sl).1 }.goto (f sl).2)) else .fault .notEnabled

/-- An instruction with an effect on the state: a total function of tile, slot and slot content. -/
def onIssue (s : State) (f : Nat → Nat → Slot → State → State) : Out :=
  if s.issuing then .next (f s.cur.1 s.cur.2 s.curSlot s) else .fault .notEnabled

/-- A step without an encoding: its effect where it is enabled. -/
def onEvent (_before : State) (ok : Bool) (t : State) : Out := if ok then .next t else .fault .notEnabled

/-! ### Messages of the host (R344, R396) -/

/-! The status codes of R194. -/
namespace Status
def done := 0
def gone := 1
def badArg := 2
def refused := 3
def pending := 4
def noSpace := 5
def present := 6
end Status

/-- The answer of a MGMT command (R344, R396). -/
def State.mgmtAnswer (s : State) (r : HostReq) (op : Nat) (st : Nat) (hi : Nat) (data : List Byte) : State :=
  s.toHost
    { port := r.port, cls := 3, op := op, ctx := r.ctx, tag := r.tag, status := BitVec.ofNat 64 (hi * 256 + st), len := data.length, data := data }

/-- The dword `i` of a payload. -/
def dword (r : HostReq) (i : Nat) : Word := bytesWord (r.data.drop (8 * i))

/-- R344, R350, R361, R389: an error of a link port is counted at the tile of its site. -/
def State.linkError (s : State) (port : Nat) : State :=
  match s.tileAt (Config.portSite port) with
  | none => s
  | some t => s.modTile t (fun x => { x with errs := { x.errs with link := x.errs.link + 1 } })

/-- R396: the commands that there are. -/
def listedOp (op : Nat) : Bool := (1 ≤ op && op ≤ 0x0D) || (0x10 ≤ op && op ≤ 0x15) || (0x18 ≤ op && op ≤ 0x20)

/-- R344, R396: a message of the host: `go` takes one whose header is that of the step; a command that is not listed is answered BADARG,
and a message of another class is discarded and counted as a link error. DESIGN CHOICE (log 107): so is a LAUNCH or MEM of another op. -/
def hostMsg (s : State) (r : HostReq) (go : Out) : Out :=
  match r.head with
  | none => go
  | some (3, op) => onEvent s (s.hostUp r && s.step != 0 && op < 256 && !listedOp op) (s.mgmtAnswer r op Status.badArg 0 [])
  | some (cls, op) =>
    onEvent s (s.hostUp r && s.step != 0 && cls < 256 && op < 256 && !(cls == 1 && op == 0) && !(cls == 2 && op < 2)) (s.linkError r.port)

/-! ### Trace (R357-R359) -/

/-- R358: the four words of a record. -/
def State.traceWords (s : State) (t k kind : Nat) (sl : Slot) (extra : Word) : List Word :=
  [ BitVec.ofNat 64 (sl.th.tid.toNat + sl.th.kin % 2 ^ 20 * 2 ^ 32 + k % 16 * 2 ^ 52 + kind * 2 ^ 56),
    BitVec.ofNat 64 ((s.name t).toNat + (s.wall9 / 9) % 2 ^ 40 * 2 ^ 24),
    sl.th.pc, extra ]

/-- R357: segment size and address of a tile's segment in the trace object of a context. -/
def State.segment (s : State) (ctx t : Nat) : Word × Nat :=
  let a := match s.ctxs.look ctx with | some c => c.trace | none => 0#64
  let size := match s.objects.look (ctx * 2 ^ 24 + objOf a) with
    | some o => (o.desc.extractLsb' 64 40).toNat + 1 | none => 0
  let seg := 32 * (size / (96 * s.rows * 32))
  (a + BitVec.ofNat 64 (t * seg), seg)

/-- Sends the first buffered trace record to its home (phase 10) or the header after it (phase 11). -/
def State.traceSend (s : State) (t phase : Nat) : State :=
  match (s.tile t).trace with
  | [] => s
  | (ctx, ws) :: _ =>
    let (a, seg) := s.segment ctx t
    let cap := (seg - 32) / 32
    let n := (s.tile t).traceN.lookD ctx 0
    let r := a + BitVec.ofNat 64 (32 + 32 * (n % (if cap = 0 then 1 else cap)))
    if phase = 10 then
      s.send { vc := 4, src := t, dst := (s.trueHome ctx r t).getD t, gen := s.gen, slot := 18, body := .gridStore ctx r ws 10 }
    else
      s.send { vc := 4, src := t, dst := (s.trueHome ctx a t).getD t, gen := s.gen, slot := 18,
               body := .gridStore ctx a [BitVec.ofNat 64 (n + 1),
                 BitVec.ofNat 64 ((s.tile t).traceLost.lookD ctx 0), BitVec.ofNat 64 cap, 0#64] 11 }

/-- R357: a trace record joins the tile's buffer; a full buffer drops and counts it. The first record of an empty buffer
leaves for its home at once (log 13). -/
def State.pushTrace (s : State) (t ctx : Nat) (ws : List Word) : State :=
  let x := s.tile t
  if x.trace.length ≥ 64 then s.setTile t { x with traceLost := x.traceLost.put ctx (x.traceLost.lookD ctx 0 + 1) }
  else
    let s := s.setTile t { x with trace := x.trace ++ [(ctx, ws)] }
    if x.trace.isEmpty then s.traceSend t 10 else s

/-- R357: a thread's record, while its `st`.trace = 1 and its context has a trace object. -/
def State.emit (s : State) (t k kind : Nat) (extra : Word) : State :=
  let sl := s.slot t k
  match s.ctxs.look sl.th.ctx with
  | none => s
  | some c => if sl.th.trace && c.trace ≠ 0#64 then s.pushTrace t sl.th.ctx (s.traceWords t k kind sl extra) else s

/-! ### Taking a fault (R195, R256-R258) -/

/-- R257: word 0 of a fault message. -/
def faultWord0 (code tpos ctx slot : Nat) (tid : BitVec 32) : Word :=
  BitVec.ofNat 64 (code % 256 * 2 ^ 56 + tpos % 4 * 2 ^ 54 + ctx % 4096 * 2 ^ 40 + slot % 16 * 2 ^ 36 + tid.toNat)

/-- R256 items 3 and 4: the sequence number rises and the message of R257 goes to the field's service tile on VC0. -/
def State.postFault (s : State) (t k : Nat) (f : FaultRec) : State :=
  let s := s.modSlot t k (fun sl => { sl with fseq := sl.fseq + 1#8 })
  let sl := s.slot t k
  let m : Msg := { kind := 1, seq := sl.fseq, slot := k, tile := s.name t,
                   w0 := faultWord0 f.code sl.team sl.th.ctx k sl.th.tid, w1 := f.pc, w2 := f.addr, w3 := f.extra }
  let s := s.send { vc := 0, src := t, dst := (s.field (s.fieldOf t)).tile, gen := s.gen, slot := k, body := .faultMsg m t k }
  s.emit t k 3 (BitVec.ofNat 64 f.code)

/-- The slot BLOCKED on a fault with `pc` at the first word of its XW run (R256 items 1 and 2). -/
def Slot.block (sl : Slot) (f : FaultRec) : Slot :=
  { sl.rewind with state := .blocked, fault := some f, retry := false, pend := .none, resent := false, joined := none,
                   heldWr := false, msgSlot := none }

/-- R354: a single-stepped instruction leaves its thread PARKED, REMOTE or BLOCKED, or takes it out of its slot: the step is answered
PENDING and the stop is pending; a departure discards it (R201). -/
def State.stepLeft (s : State) (t k : Nat) : State :=
  match (s.slot t k).stepReq with
  | none => s
  | some r => (s.modSlot t k (fun sl => { sl with stepReq := none, stopReq := true })).toHost
      { port := r.port, cls := 3, op := 0x1C, tag := r.tag, status := 4#64 }

/-- R256: a fault of a user thread; R195: a fault of the service thread. -/
def State.raiseRec (s : State) (t k : Nat) (f : FaultRec) : State :=
  if s.atService t k then
    let s := s.modSlot t k (fun sl => { sl.block f with state := .stopped .service })
    s.notify 3 (BitVec.ofNat 64 f.code) f.pc f.addr (BitVec.ofNat 64 (s.fieldOf t))
  else
    ((s.modSlot t k (fun sl => sl.block f)).stepLeft t k).postFault t k f

/-- A fault at the instruction the slot stands at. -/
def State.raise (s : State) (t k code : Nat) (addr extra : Word) : State :=
  s.raiseRec t k { code := code, pc := (s.slot t k).th.pc, addr := addr, extra := extra }

namespace FaultCode
def illegal := 0x01
def priv := 0x02
def align := 0x03
def bounds := 0x04
def noObj := 0x05
def perm := 0x06
def notRes := 0x07
def stale := 0x08
def peerGone := 0x09
def ue := 0x0A
def hbeat := 0x0B
def linkLost := 0x0C
def seamShape := 0x0D
def fenced := 0x0E
def brk := 0x0F
def svc := 0x10
def statLock := 0x11
def qstall := 0x12
def engFault := 0x13
end FaultCode

/-- A fault that an instruction raises as its effect. -/
def raiseCur (s : State) (code : Nat) (addr extra : Word) : Out :=
  if s.issuing then .next (s.raise s.cur.1 s.cur.2 code addr extra) else .fault .notEnabled

/-- R200, R389: a message for the service thread of a tile's field. -/
def State.toService (s : State) (src : Nat) (f : Nat) (m : Msg) : State :=
  s.send { vc := 0, src := src, dst := (s.field f).tile, gen := s.gen, body := .svcMsg m false }

/-- R389: word 0 of a tile monitor notice. -/
def noticeWord0 (code ctx : Nat) (tile : BitVec 24) : Word :=
  BitVec.ofNat 64 (code * 2 ^ 56 + ctx % 4096 * 2 ^ 40 + tile.toNat)

/-- R389: a tile monitor notice to the field's service thread, and for some codes to the host. -/
def State.notice (s : State) (t code ctx : Nat) (a b c : Word) : State :=
  let w0 := noticeWord0 code ctx (s.name t)
  let s := s.toService t (s.fieldOf t) { kind := 3, tile := s.name t, w0 := w0, w1 := a, w2 := b, w3 := c }
  if code = 0x40 ∨ code = 0x41 ∨ code = 0x43 ∨ code = 0x46 then s.notify 8 w0 a b c else s

/-- R257, R260, R264: a notice in the layout of a fault message, with tid 0. -/
def State.chargeNotice (s : State) (t code ctx : Nat) (a extra : Word) : State :=
  s.toService t (s.fieldOf t) { kind := 3, tile := s.name t, w0 := faultWord0 code 0 ctx 0 0#32, w1 := 0#64, w2 := a, w3 := extra }

end Sys2Proof.Machine
end

