-- ==== Sys2Proof/Machine/Home.lean ====
section
/-! DEFINITION. The home of a word as a tile finds it (R202, R203), residency (R292), the caches of a tile (R235-R240), one
access at the home's memory pipeline (R219, R236), and the wake-up test of waiters (R137, R217). -/

namespace Sys2Proof.Machine

/-! ### Directory cache (R202, R203, R289) -/

/-- What the issuing tile finds as the home of an address. -/
inductive Home where
  | miss (key : RecKey)
  | noObj
  | peer (o : Object) (lost : Bool)
  | here (o : Object)
  | tile (o : Object) (t gen : Nat)
  | unset (o : Object)
  deriving DecidableEq, Repr

def Tile.odcFind (x : Tile) (key : RecKey) : Option OdcEntry := x.odc.find? (fun e => e.key == key)

/-- R289: the first mask record of a HASH object that the cache lacks. -/
def Tile.maskMiss (x : Tile) (ctx obj : Nat) (o : Object) : Option RecKey :=
  match o.set with
  | none => none
  | some _ =>
    ((List.range ((o.w * o.h + 511) / 512)).map (fun i => (⟨ctx, obj, .mask i⟩ : RecKey))).find?
      (fun key => (x.odcFind key).isNone)

/-- R202: `home_of`, by the directory cache of tile `t`. -/
def State.homeOf (s : State) (t ctx : Nat) (a : Word) : Home :=
  let x := s.tile t
  let obj := objOf a
  if obj = 0 then .noObj
  else match x.odcFind ⟨ctx, obj, .desc⟩ with
    | none => .miss ⟨ctx, obj, .desc⟩
    | some e =>
      if !e.valid then .noObj
      else match s.object ctx obj with
        | none => .noObj
        | some o =>
          if o.peer then .peer o e.lost
          else match o.place with
            | 3 => .here o
            | 1 => .tile o (o.y0 * 96 + o.x0) e.stamp
            | 0 => match x.maskMiss ctx obj o with
              | some key => .miss key
              | none => .tile o (hashHome o (granOf a)) e.stamp
            | _ => match x.odcFind ⟨ctx, obj, .home (granOf a / 16)⟩ with
              | none => .miss ⟨ctx, obj, .home (granOf a / 16)⟩
              | some h => match entryTile (h.homes.getD (granOf a % 16) 0#32) with
                | none => .unset o
                | some t' => .tile o t' h.stamp

/-- R202: whether a record serves the lookup of an address in an object: the descriptor, the masks, the home-map record. -/
def RecKey.serves (key : RecKey) (ctx : Nat) (a : Word) : Bool :=
  key.ctx == ctx && key.obj == objOf a && (match key.kind with
    | .desc | .mask _ => true
    | .home i => i == granOf a / 16)

/-- The records of an address move to the front (least recently used replacement, R203); an entry that describes no object
serves one lookup (log 6). -/
def State.odcUse (s : State) (t ctx : Nat) (a : Word) : State :=
  s.modTile t (fun x =>
    let mine (e : OdcEntry) : Bool := e.key.serves ctx a
    { x with odc := (x.odc.filter (fun e => mine e && e.valid)) ++ x.odc.filter (fun e => !mine e) })

/-- R283: whether the destruction of an object has been asked for and its records are being invalidated: the directory gives them to
nobody and nothing maps its granules any more. -/
def State.objectGoing (s : State) (ctx obj : Nat) : Bool :=
  (s.tile (dirTile ctx obj)).xops.any (fun o => o.step == 10 && o.ctx == ctx && objOf o.a == obj)

/-- R289: a record as its directory tile answers it now. -/
def State.dirRecord (s : State) (key : RecKey) : OdcEntry :=
  match (if s.objectGoing key.ctx key.obj then none else s.object key.ctx key.obj) with
  | none => { key := key, stamp := s.gen, valid := false }
  | some o => match key.kind with
    | .desc => { key := key, stamp := s.gen, lost := o.lost }
    | .mask _ => { key := key, stamp := s.gen }
    | .home i => { key := key, stamp := s.gen,
                   homes := (List.range 16).map (fun j => s.homeMap.lookD (granKey key.ctx key.obj (16 * i + j)) 0#32) }

/-- R203: the request for a missing record. -/
def State.askRecord (s : State) (t k : Nat) (key : RecKey) : State :=
  s.send { vc := 0, src := t, dst := dirTile key.ctx key.obj, gen := s.gen, slot := k, body := .dirReq key }

/-- What the checks of an object-space access lead to (R103, R104). -/
inductive Reach where
  | fault (code : Nat) (extra : Word)
  | miss (key : RecKey)
  | own (o : Object)
  | remote (o : Object) (t gen : Nat)
  | peer (o : Object)
  deriving DecidableEq, Repr

/-- R103, R125, R203: a missing record comes first; then the checks of an access of `n` bytes in their order, then where it
is performed. -/
def State.reach (s : State) (t ctx : Nat) (a : Word) (n : Nat) (write peerOk : Bool) : Reach :=
  let checked (r : Reach) : Reach := if a.toNat % n ≠ 0 then .fault FaultCode.align 0#64 else r
  let go (o : Object) (r : Reach) : Reach :=
    checked (if offOf a + n > o.size then .fault FaultCode.bounds 0#64
      else if write && (o.isCode || !o.writable) then .fault FaultCode.perm 0#64
      else r)
  match s.homeOf t ctx a with
  | .miss key => .miss key
  | .noObj => checked (.fault FaultCode.noObj 0#64)
  | .peer o lost => go o (if !peerOk then .fault FaultCode.perm 0#64
      else if lost then .fault FaultCode.peerGone (BitVec.ofNat 64 o.module) else .peer o)
  | .here o => go o (.own o)
  | .unset o => go o (.fault FaultCode.notRes 1#64)
  | .tile o t' g => go o (if t' = t then .own o else .remote o t' g)

/-! ### Residency (R291, R292) -/

inductive Resid where
  | code
  | page (p : Nat)
  | draining
  | absent
  | lost
  | elsewhere
  deriving DecidableEq, Repr

def Tile.extent (x : Tile) (ctx obj g : Nat) : Option Extent :=
  (x.extents.find? (fun e => e.2.ctx == ctx && e.2.obj == obj && e.2.gran == g)).map Prod.snd

/-- R292: how a home decides an arriving access by its extent entry. -/
def State.resid (s : State) (t ctx : Nat) (a : Word) : Resid :=
  let x := s.tile t
  match s.object ctx (objOf a) with
  | none => .absent
  | some o =>
    match x.extent ctx (objOf a) (granOf a) with
      | some e => if e.state ≠ .mapped then .draining else if o.place = 3 then .code else .page e.page
      | none =>
        if s.trueHome ctx a t ≠ some t then .elsewhere
        else if x.lossy && !x.remapped.contains (granKey ctx (objOf a) (granOf a)) then .lost else .absent

/-! ### Lines (R235-R239) -/

def lineNo (a : Word) : Nat := offOf a / 64
def wordIdx (a : Word) : Nat := offOf a / 8 % 8

def l1Set (l : Line) : Nat := (l.ln % 256) ^^^ (l.obj % 256)
/-- Slice and set of a line: offset bits 13:6 and 14 (log 11). -/
def sliceSet (l : Line) : Nat := l.ln % 512

def Line.is (l : Line) (ctx obj ln : Nat) : Bool := l.ctx == ctx && l.obj == obj && l.ln == ln
def findLine (ls : List Line) (ctx obj ln : Nat) : Option Line := ls.find? (fun l => l.is ctx obj ln)

/-- A line placed first, the least recently used line of its full set given out (8 ways). -/
def placeLine (setOf : Line → Nat) (ls : List Line) (l : Line) : List Line × Option Line :=
  let rest := ls.filter (fun m => !m.is l.ctx l.obj l.ln)
  let same := rest.filter (fun m => setOf m == setOf l)
  if same.length < 8 then (l :: rest, none)
  else match same.getLast? with
    | none => (l :: rest, none)
    | some v => (l :: rest.filter (fun m => !m.is v.ctx v.obj v.ln), some v)

/-- R237, R113: bytes written into a word of a line. -/
def LWord.write (w : LWord) (mask : BitVec 8) (v : Word) : LWord :=
  let w := { w with data := mergeBytes mask v w.data, dirty := w.dirty ||| mask }
  if mask = 0xFF#8 then { w with valid := true, poison := false } else w

def Line.word (l : Line) (i : Nat) : LWord := l.words.getD i {}
def Line.mod (l : Line) (i : Nat) (f : LWord → LWord) : Line := { l with words := modifyAt l.words i f }
def Line.clean (l : Line) : Line := { l with words := l.words.map (fun (w : LWord) => { w with dirty := 0#8 }) }
/-- R385: an error in a stored word is corrected when it is met, or poisons the word. -/
def LWord.meet (w : LWord) : LWord := { w with poison := w.poison || w.weak, soft := false, weak := false }
def Line.meet (l : Line) : Line := { l with words := l.words.map LWord.meet }
def Line.softs (l : Line) : Nat := (l.words.filter (·.soft)).length
def Line.weaks (l : Line) : Nat := (l.words.filter (·.weak)).length
def Line.isDirty (l : Line) : Bool := l.words.any (fun w => w.dirty != 0#8)

/-- The words of a line as DRAM holds them. -/
def Mem.lineWords (m : Mem) (key : Nat) : List LWord :=
  (List.range 8).map (fun i =>
    { data := m.word (key + 8 * i), poison := m.isPoison (key + 8 * i), empty := m.isEmpty (key + 8 * i) })

/-- R113, R238, R264: the poison of a DRAM word after the slice's word has been written to it: eight dirty bytes bring the
slice's own; fewer poison a word that is uncorrectable; a poisoned word of the slice poisons it; else it keeps its own. -/
def Mem.putPoison (m : Mem) (k : Nat) (w : LWord) : Mem :=
  if w.dirty = 0xFF#8 then m.setPoison k w.poison
  else if w.poison || (w.dirty != 0#8 && m.isWeak k) then m.setPoison k true else m

/-- DRAM takes a slice line: dirty bytes, tags and poison (R238, R239). -/
def Mem.putLine (m : Mem) (key : Nat) (l : Line) : Mem :=
  (List.range 8).foldl (fun (m : Mem) i =>
    let w := l.word i
    let k := key + 8 * i
    ((m.merge k w.dirty w.data).putPoison k w).setEmpty k w.empty) m

/-- R291: the page of a granule as the extent TLB holds it, or on a miss the extent table. An entry of the TLB goes with its extent
(R295; log 82). -/
def Tile.translate (x : Tile) (ctx obj g : Nat) : Option Nat :=
  match x.tlb.find? (fun e => e.1 == granKey ctx obj g) with
  | some e => some e.2
  | none => (x.extent ctx obj g).map (·.page)

/-- The DRAM key of a line of a granule that tile `t` maps. -/
def State.lineKey (s : State) (t : Nat) (l : Line) : Option Nat :=
  ((s.tile t).translate l.ctx l.obj (l.ln / 1024)).map (fun p => dramKey t p (l.ln % 1024 * 64))

/-- R291: the extent TLB serves or takes the translation of a line's granule (log 82). -/
def Tile.tlbUse (x : Tile) (l : Line) : Tile :=
  match x.translate l.ctx l.obj (l.ln / 1024) with
  | none => x
  | some p => { x with tlb := putWay Prod.fst (fun e => e.1 % 128) x.tlb (granKey l.ctx l.obj (l.ln / 1024), p) }

/-- R295: the TLB's translation of a granule goes with the mapping. -/
def Tile.tlbDrop (x : Tile) (ctx obj g : Nat) : Tile := { x with tlb := x.tlb.filter (fun e => e.1 != granKey ctx obj g) }

/-- R264: a write-back has merged into an uncorrectable word; the context of the line is charged. -/
def State.mergeNotice (s : State) (t : Nat) (l : Line) (i : Nat) : State :=
  s.chargeNotice t FaultCode.ue l.ctx (BitVec.ofNat 64 (l.obj * 2 ^ 40 + l.ln * 64 + 8 * i)) 1#64

/-- R385: an access of a line meets the errors of its words in the L1 and in its slice, which are counted. -/
def State.meetLine (s : State) (t ctx obj ln : Nat) : State :=
  let x := s.tile t
  let ls := (x.l1 ++ x.slices).filter (fun l => l.is ctx obj ln && (l.softs != 0 || l.weaks != 0))
  if ls.isEmpty then s
  else
    let fix (l : Line) : Line := if l.is ctx obj ln then l.meet else l
    (s.countSram t ((ls.map Line.softs).foldl (· + ·) 0) ((ls.map Line.weaks).foldl (· + ·) 0)).modTile t (fun x =>
      { x with l1 := x.l1.map fix, slices := x.slices.map fix })

/-- R239: a slice line written to DRAM. -/
def State.sliceOut (s : State) (t : Nat) (l : Line) : State :=
  match s.lineKey t l with
  | none => s
  | some key =>
    let met := (List.range 8).filter (fun i => (l.word i).dirty != 0#8 && s.mem.isWeak (key + 8 * i))
    let s := if met.isEmpty then s else s.countDram t [] (met.map (fun i => key + 8 * i))
    let s := (s.modTile t (fun x => if l.isDirty then x.tlbUse l else x)).modMem (fun m => m.putLine key l)
    met.foldl (fun s i => s.mergeNotice t l i) s

/-- R239, R385: a line read from DRAM, whose uncorrectable words become poisoned. The bytes of replicated code are kept once
for all tiles, its tags and poison by tile (log 3). -/
def State.readLine (s : State) (t : Nat) (l : Line) : State × List LWord :=
  match s.lineKey t l with
  | none => (s, List.replicate 8 {})
  | some key =>
    let ws := s.mem.lineWords key
    let s := (s.modTile t (fun x => x.tlbUse l)).meetDram t key 8
    match s.object l.ctx l.obj with
    | some o =>
      if o.place = 3 then
        (s, ws.zipIdx.map (fun e => { e.1 with data := s.mem.word (codeKey l.ctx l.obj (l.ln * 64 + 8 * e.2)) }))
      else (s, ws)
    | none => (s, ws)

/-- R239: the line in its slice, read from DRAM on a miss; an evicted line goes to DRAM. -/
def State.sliceIn (s : State) (t ctx obj ln : Nat) (uo : Bool) : State :=
  let s := s.meetLine t ctx obj ln
  let (s, l) : State × Line := match findLine (s.tile t).slices ctx obj ln with
    | some l => (s, l)
    | none =>
      let l : Line := { ctx := ctx, obj := obj, ln := ln, uo := uo, words := [] }
      let (s, ws) := s.readLine t l
      (s, { l with words := ws })
  let x := s.tile t
  let (ls, out) := placeLine sliceSet x.slices l
  let s := s.setTile t { x with slices := ls }
  match out with
  | none => s
  | some v => s.sliceOut t v

def State.sliceWord (s : State) (t ctx : Nat) (a : Word) : LWord :=
  match findLine (s.tile t).slices ctx (objOf a) (lineNo a) with
  | none => {}
  | some l => l.word (wordIdx a)

def State.sliceMod (s : State) (t ctx : Nat) (a : Word) (f : LWord → LWord) : State :=
  s.modTile t (fun x => { x with slices := x.slices.map (fun l =>
    if l.is ctx (objOf a) (lineNo a) then l.mod (wordIdx a) f else l) })

/-- R238: a word of a slice line takes the dirty bytes of the L1's word; one that its writer poisoned brings its poison. -/
def LWord.take (w v : LWord) : LWord :=
  if v.dirty = 0#8 then w else
    let w := w.write v.dirty v.data
    if v.valid && v.poison then { w with poison := true } else w

/-- R264: the words of an L1 line whose dirty bytes are bound for an uncorrectable word of DRAM, where the slice lacks the line. -/
def State.l1Meets (s : State) (t : Nat) (l : Line) : List Nat :=
  if (findLine (s.tile t).slices l.ctx l.obj l.ln).isSome then []
  else match s.lineKey t l with
    | none => []
    | some key => (List.range 8).filter (fun i => (l.word i).dirty != 0#8 && s.mem.isWeak (key + 8 * i))

/-- R238: the dirty bytes of an L1 line go to the slice; an uncorrectable word that they meet is charged to the line's context
(R264). -/
def State.l1Out (s : State) (t : Nat) (l : Line) : State :=
  if !l.isDirty then s
  else
    let met := s.l1Meets t l
    let s := s.sliceIn t l.ctx l.obj l.ln l.uo
    let s := s.modTile t (fun x => { x with slices := x.slices.map (fun m =>
      if m.is l.ctx l.obj l.ln then { m with words := (m.words.zip l.words).map (fun p => p.1.take p.2) } else m) })
    met.foldl (fun s i => s.mergeNotice t l i) s

/-- A line placed in the L1, its victim written back (R235, R238). -/
def State.l1Put (s : State) (t : Nat) (l : Line) : State :=
  let x := s.tile t
  let (ls, out) := placeLine l1Set x.l1 l
  let s := s.setTile t { x with l1 := ls }
  match out with
  | none => s
  | some v => s.l1Out t v

/-- R236: the L1 line of a word written back if dirty and dropped. -/
def State.l1Drop (s : State) (t ctx : Nat) (a : Word) : State :=
  match findLine (s.tile t).l1 ctx (objOf a) (lineNo a) with
  | none => s
  | some l =>
    (s.modTile t (fun x => { x with l1 := x.l1.filter (fun m => !m.is ctx (objOf a) (lineNo a)) })).l1Out t l

/-- R237: a merging fill: every invalid word takes the memory bytes that are not dirty and the memory poison. -/
def State.l1Fill (s : State) (t ctx : Nat) (a : Word) (uo : Bool) : State :=
  let s := s.sliceIn t ctx (objOf a) (lineNo a) uo
  let src := (findLine (s.tile t).slices ctx (objOf a) (lineNo a)).getD
    { ctx := ctx, obj := objOf a, ln := lineNo a, uo := uo, words := List.replicate 8 {} }
  let old := (findLine (s.tile t).l1 ctx (objOf a) (lineNo a)).getD
    { src with words := List.replicate 8 { valid := false } }
  s.l1Put t { old with words := (old.words.zip src.words).map (fun p =>
    if p.1.valid then p.1
    else { p.1 with data := mergeBytes p.1.dirty p.1.data p.2.data, valid := true, poison := p.2.poison }) }

/-- Whether a load finds its word valid in the L1 (R236, R237). -/
def State.l1Has (s : State) (t ctx : Nat) (a : Word) : Bool :=
  match findLine (s.tile t).l1 ctx (objOf a) (lineNo a) with
  | none => false
  | some l => (l.word (wordIdx a)).valid

/-- R109: whether an address lies in a UO object. -/
def State.uoOf (s : State) (ctx : Nat) (a : Word) : Bool :=
  match s.object ctx (objOf a) with
  | some o => o.isUO
  | none => false

/-! ### One access at the home (R219, R236) -/

/-- A word as its home reads it for an arriving, `.nt`, engine or host access: through the L1 on a hit, else in the slice. -/
def State.homeRead (s : State) (t ctx : Nat) (a : Word) : State × LWord :=
  let s := s.meetLine t ctx (objOf a) (lineNo a)
  match findLine (s.tile t).l1 ctx (objOf a) (lineNo a) with
  | some l =>
    let s := if (l.word (wordIdx a)).valid then s.l1Put t l else s.l1Fill t ctx a l.uo
    let l := (findLine (s.tile t).l1 ctx (objOf a) (lineNo a)).getD l
    (s, l.word (wordIdx a))
  | none =>
    let s := s.sliceIn t ctx (objOf a) (lineNo a) (s.uoOf ctx a)
    (s, s.sliceWord t ctx a)

/-- Bytes of a word written at its home; `alloc` for a thread store, which allocates its line without fetching (R237). -/
def State.homePut (s : State) (t ctx : Nat) (a : Word) (mask : BitVec 8) (v : Word) (alloc uo : Bool) : State :=
  let s := s.meetLine t ctx (objOf a) (lineNo a)
  match findLine (s.tile t).l1 ctx (objOf a) (lineNo a) with
  | some l => s.l1Put t (l.mod (wordIdx a) (fun w => w.write mask v))
  | none =>
    if alloc then
      let l : Line := { ctx := ctx, obj := objOf a, ln := lineNo a, uo := uo, words := List.replicate 8 { valid := false } }
      s.l1Put t (l.mod (wordIdx a) (fun w => w.write mask v))
    else
      (s.sliceIn t ctx (objOf a) (lineNo a) uo).sliceMod t ctx a (fun w => w.write mask v)

/-- R236: the word in the slice with its tag, after the L1 line has been dropped. -/
def State.slicePrep (s : State) (t ctx : Nat) (a : Word) (uo : Bool) : State :=
  ((s.meetLine t ctx (objOf a) (lineNo a)).l1Drop t ctx a).sliceIn t ctx (objOf a) (lineNo a) uo

/-- A word poisoned by its writer (R172, R179, R187): in the L1 on a hit, which writes it back whole, else in the slice (R236). -/
def State.homePoison (s : State) (t ctx : Nat) (a : Word) : State :=
  match findLine (s.tile t).l1 ctx (objOf a) (lineNo a) with
  | some l =>
    let s := if (l.word (wordIdx a)).valid then s else s.l1Fill t ctx a l.uo
    let l := (findLine (s.tile t).l1 ctx (objOf a) (lineNo a)).getD l
    s.l1Put t (l.mod (wordIdx a) (fun w => { w with poison := true, dirty := 0xFF#8 }))
  | none =>
    (s.sliceIn t ctx (objOf a) (lineNo a) (s.uoOf ctx a)).sliceMod t ctx a (fun w => { w with poison := true, dirty := 0xFF#8 })

/-! ### Waiters (R137, R215-R217) -/

/-- The key of the word a waiter waits at: object words by name, scratchpad words by macro. -/
def objWordKey (ctx : Nat) (a : Word) : Nat := objKey ctx (objOf a) * 2 ^ 40 + offOf a / 8 * 8
def spadWordKey (a : Word) : Nat := 2 ^ 100 + macroOf a * 2 ^ 14 + macroOff a / 8 * 8

/-- R136: whether a waiter's condition holds for a value. `ldf` waiters are woken by a fill only. -/
def WForm.holds (f : WForm) (v b : Word) : Bool :=
  match f with
  | .ldf _ | .ldfs _ => false
  | .join => v.sle b
  | .waitEq => v == b
  | .waitNe => v != b
  | .waitGe => b.sle v

/-- R119, R136, R217: the context of a woken thread: an `ldf` takes the word, and the `pc` is past the instruction. -/
def Waiter.wokenThread (w : Waiter) (take : Option Word) (th : Thread) : Thread :=
  let th := match w.form, take with
    | .ldf d, some v => th.setReg d v
    | .ldfs d, some v => th.setReg d v
    | _, _ => th
  { th with pc := w.next }

/-- R339: the entry of a quiesced waiter, or of one without a slot, marked woken. -/
def Tile.markWoken (x : Tile) (w : Waiter) (take : Option Word) : Tile :=
  let mark (l : List Waiter) : List Waiter :=
    l.map (fun (u : Waiter) => if u.seq == w.seq then { u with woken := true, th := u.th.map (w.wokenThread take) } else u)
  { x with waiters := mark x.waiters, spilled := mark x.spilled }

/-- R339: the record of a quiesced thread that was PARKED in its slot takes state 3, its context the word. -/
def Tile.wakeSaved (x : Tile) (w : Waiter) (take : Option Word) : Tile :=
  { x with saves := Map.mapVals (fun (v : Save) => { v with slots := v.slots.map (fun (r : SavedSlot) =>
      if r.state = 1 ∧ r.widx = w.seq.toNat then
        { r with state := 3, slot := { r.slot with th := w.wokenThread take r.slot.th } }
      else r) }) x.saves }

/-- A waiter wakes: in its slot it becomes READY at the next instruction, else its entry is marked woken (R217). `take`
gives the word to an `ldf`. One that is quiesced (R339) keeps its slot, PARKED, until its team is copied, or has its record changed. -/
def State.wakeOne (s : State) (t : Nat) (w : Waiter) (take : Option Word) : State :=
  let gone (l : List Waiter) : List Waiter := l.filter (fun u => u.seq != w.seq)
  match w.slot with
  | some k =>
    if w.quiesced then
      s.modTile t (fun x => (x.markWoken w take).modSlot k (fun sl => { sl with th := w.wokenThread take sl.th }))
    else
      let s := s.emit t k 8 w.addr
      s.modTile t (fun x =>
        { x with waiters := gone x.waiters, spilled := gone x.spilled }.modSlot k (fun sl =>
          ({ sl with th := w.wokenThread take sl.th, state := .ready }.goto w.next)))
  | none => s.modTile t (fun x => (if w.quiesced then x.wakeSaved w take else x).markWoken w take)

/-- The waiters of a word on one tile, in order of installation. -/
def Tile.waitersAt (x : Tile) (key : Nat) : List Waiter := (x.waiters ++ x.spilled).filter (fun w => w.key == key && !w.woken)

/-- The waiters of a word whose home is tile `t`: those of `t`, then those that parked on a tile which was its home before
(log 46). A word of a scratchpad has no other home. -/
def State.waitersAt (s : State) (t key : Nat) : List (Nat × Waiter) :=
  (((s.tile t).waitersAt key).map (fun w => (t, w))) ++
  (if key < 2 ^ 100 then
    (s.tiles.filter (fun e => e.1 != t)).flatMap (fun e => (e.2.waitersAt key).map (fun w => (e.1, w)))
  else [])

/-- R137: a performed write leaves `v` in a word: waiters whose condition holds wake in order of installation. -/
def State.wake (s : State) (t key : Nat) (v : Word) : State :=
  ((s.waitersAt t key).filter (fun e => e.2.form.holds v e.2.b)).foldl (fun s e => s.wakeOne e.1 e.2 none) s

/-- R120, R217: the first `ldf` waiter of a filled word, which takes it. -/
def State.takeWaiter (s : State) (t key : Nat) : Option (Nat × Waiter) :=
  (s.waitersAt t key).find? (fun e => match e.2.form with | .ldf _ | .ldfs _ => true | _ => false)

/-- R385: whether the context that an entry of the reserve holds is lost. -/
def Waiter.foul (w : Waiter) : Bool := match w.th with
  | some th => th.foul
  | none => false

/-- R216: spilled entries return to the table while it has room, oldest first; a lost one does not (R385). -/
def Tile.unspill (x : Tile) : Tile :=
  let n := 256 - x.waiters.length
  let good := x.spilled.filter (fun w => !w.foul)
  { x with waiters := x.waiters ++ good.take n, spilled := x.spilled.filter Waiter.foul ++ good.drop n }

/-- R216: whether a waiter can be installed. -/
def Tile.canPark (x : Tile) : Bool := x.unspill.waiters.length < 256 || x.unspill.spilled.length < 32768

/-- R215, R216: a waiter installed in the table, or in the spill area when the table is full. -/
def Tile.install (x : Tile) (w : Waiter) : Tile :=
  let x := x.unspill
  let w := { w with seq := x.wseq }
  let x := { x with wseq := x.wseq + 1#32 }
  if x.waiters.length < 256 then { x with waiters := x.waiters ++ [w] } else { x with spilled := x.spilled ++ [w] }

/-- R119, R136: the slot PARKED with its waiter entry, or waiting for room (R216). -/
def State.park (s : State) (t k key ctx : Nat) (a : Word) (form : WForm) (b : Word) : State :=
  let x := s.tile t
  if x.canPark then
    let s := s.setTile t (x.install { key := key, ctx := ctx, addr := a, form := form, b := b, seq := 0#32, slot := some k,
                                      next := (x.slot k).ipc + 4#64,
                                      quiesced := match x.teams.look (x.slot k).team with | some tm => tm.closed | none => false })
    ((s.modSlot t k (fun sl => { sl.rewind with state := .parked, retry := false })).stepLeft t k).emit t k 7 a
  else s.modSlot t k (fun sl => { sl.rewind.waitFor (.park s.now) with retry := true })

/-! ### Performed writes -/

/-- A write of bytes performed at the home, and its wake-up test (R137). -/
def State.homeStore (s : State) (t ctx : Nat) (a : Word) (mask : BitVec 8) (v : Word) (alloc uo : Bool) : State :=
  let s := s.homePut t ctx a mask v alloc uo
  let key := objWordKey ctx a
  if (s.waitersAt t key).isEmpty then s
  else
    let (s, w) := s.homeRead t ctx a
    s.wake t key w.data

/-- R120: an `stf` fills the word, marks it full and wakes; the first `ldf` waiter takes it in the same step (R217). -/
def State.homeFill (s : State) (t ctx : Nat) (a v : Word) (uo : Bool) : State :=
  let key := objWordKey ctx a
  let s := (s.slicePrep t ctx a uo).sliceMod t ctx a (fun w => { w.write 0xFF#8 v with empty := false })
  let s := s.wake t key v
  match s.takeWaiter t key with
  | none => s
  | some e => (s.sliceMod t ctx a (fun w => { w with empty := true })).wakeOne e.1 e.2 (some v)

/-- The scratchpad's counterparts: a macro's word has no cache (R227). -/
def State.spadRead (s : State) (t : Nat) (a : Word) : Word × Bool :=
  let k := spadKey t (macroOf a) (macroOff a)
  (s.mem.word k, s.mem.isPoison k)

def State.spadStore (s : State) (t : Nat) (a : Word) (mask : BitVec 8) (v : Word) : State :=
  let k := spadKey t (macroOf a) (macroOff a)
  let s := s.modMem (fun m => m.write k mask v)
  s.wake t (spadWordKey a) (s.mem.word k)

def State.spadFill (s : State) (t : Nat) (a v : Word) : State :=
  let k := spadKey t (macroOf a) (macroOff a)
  let s := s.modMem (fun m => (m.write k 0xFF#8 v).setEmpty k false)
  match s.takeWaiter t (spadWordKey a) with
  | none => s
  | some e => (s.modMem (fun m => m.setEmpty k true)).wakeOne e.1 e.2 (some v)

/-! ### Write-back (R108, R225, R240) -/

/-- R240: the dirty L1 and slice lines of a tile that `want` selects are written to DRAM and stay valid. -/
def State.writeBack (s : State) (t : Nat) (want : Line → Bool) : State :=
  let s := ((s.tile t).l1 ++ (s.tile t).slices).foldl (fun s l => if want l then s.meetLine t l.ctx l.obj l.ln else s) s
  let s := ((s.tile t).l1.filter want).foldl (fun s l => s.l1Out t l) s
  let s := s.modTile t (fun x => { x with l1 := x.l1.map (fun l => if want l then l.clean else l) })
  let s := ((s.tile t).slices.filter (fun l => want l)).foldl (fun s l => s.sliceOut t l) s
  s.modTile t (fun x => { x with slices := x.slices.map (fun l => if want l then l.clean else l) })

/-- Lines dropped after a write-back (R294 step 3). -/
def State.dropLines (s : State) (t : Nat) (want : Line → Bool) : State :=
  (s.writeBack t want).modTile t (fun x =>
    { x with l1 := x.l1.filter (fun l => !want l), slices := x.slices.filter (fun l => !want l) })

/-- R108, R240: a release at `.stack` or wider scope writes back the lines of the contexts under which the thread wrote. -/
def State.releaseLines (s : State) (t : Nat) (ctxs : List Nat) (all : Bool) : State :=
  s.writeBack t (fun l => ctxs.contains l.ctx && (all || !l.uo))

end Sys2Proof.Machine
end

