-- ==== Sys2Proof/Machine/Formats.lean ====
section
/-! DEFINITION. Macro formats (R35-R38) and the block conversions (R46, R47): elements of a macro as exact values, and codes
written back. -/

namespace Sys2Proof.Machine

/-! ### Layouts (R38) -/

/-- Element bits of a format code. -/
def elemBits (c : Nat) : Nat := [8, 32, 16, 16, 8, 8, 8, 8, 6, 6, 4, 8, 32, 8, 4].getD c 8
/-- Capacity of a macro in elements. -/
def fmtCap (c : Nat) : Nat :=
  [16384, 4096, 8192, 8192, 16384, 16384, 14336, 14336, 16384, 16384, 24576, 16384, 4096, 14336, 24576].getD c 16384
/-- Whether a format shares one E8M0 scale among eight elements. -/
def isBlock (c : Nat) : Bool := 6 ≤ c && c ≤ 10
/-- INT8A and INT4A. -/
def isAffine (c : Nat) : Bool := c == 13 || c == 14
def isIntFmt (c : Nat) : Bool := c == 11 || c == 12
/-- Byte offset of the scale plane and of the zero-point plane. -/
def scaleOff (c : Nat) : Nat := if c = 6 ∨ c = 7 ∨ c = 13 then 14336 else 12288
def zeroOff (c : Nat) : Nat := if c = 13 then 15232 else 13824
/-- R37: elements of a group. -/
def groupLen (grp : Nat) : Nat := 32 * 2 ^ grp
/-- The floating-point format of an element. -/
def elemFmt (c : Nat) : Fmt :=
  match c with
  | 1 => fp32 | 2 => bf16 | 3 => fp16 | 4 | 6 => e4m3 | 5 | 7 => e5m2 | 8 => e2m3 | 9 => e3m2 | _ => e2m1
/-- R46: emax of an element format. -/
def elemMax (c : Nat) : Int := match c with | 6 => 8 | 7 => 15 | 8 => 2 | 9 => 4 | _ => 2

/-- R35: a field of `n` bits at a bit offset of a little-endian plane. -/
def Mem.field (m : Mem) (base bit n : Nat) : Nat :=
  let lo := bit / 8
  let k := (bit % 8 + n + 7) / 8
  ((List.range k).foldr (fun i acc => acc * 256 + (m.byte (base + lo + i)).toNat) 0 >>> (bit % 8)) % 2 ^ n

/-- The field replaced. -/
def Mem.setField (m : Mem) (base bit n v : Nat) : Mem :=
  let lo := bit / 8
  let k := (bit % 8 + n + 7) / 8
  let old := (List.range k).foldr (fun i acc => acc * 256 + (m.byte (base + lo + i)).toNat) 0
  let hi := old >>> (bit % 8 + n)
  let new := old % 2 ^ (bit % 8) + (v % 2 ^ n) * 2 ^ (bit % 8) + hi * 2 ^ (bit % 8 + n)
  (List.range k).foldl (fun m i => m.setByte (base + lo + i) (BitVec.ofNat 8 (new >>> (8 * i)))) m

/-! ### Elements -/

def State.fmtAt (s : State) (t m : Nat) : Nat := ((s.tile t).mac m).fmt.toNat
def State.grpAt (s : State) (t m : Nat) : Nat := ((s.tile t).mac m).grp.toNat

/-- The code of element `e` of macro `m`. -/
def State.elemCode (s : State) (t m e : Nat) : Nat :=
  let b := elemBits (s.fmtAt t m)
  s.mem.field (spadKey t m 0) (e * b) b

/-- R36: the scale code of the block of an element. -/
def State.scaleCode (s : State) (t m e : Nat) : Nat := s.mem.field (spadKey t m 0) ((scaleOff (s.fmtAt t m) + e / 8) * 8) 8

/-- A value times a power of two. -/
def Val.scale (v : Val) (k : Int) : Val :=
  match v with
  | .fin neg m e => .fin neg m (e + k)
  | w => w

/-- R37: scale and zero point of the group of an element. -/
def State.groupScale (s : State) (t m e : Nat) : Val :=
  let c := s.fmtAt t m
  fp16.value (s.mem.field (spadKey t m 0) ((scaleOff c + 2 * (e / groupLen (s.grpAt t m))) * 8) 16)
def State.groupZero (s : State) (t m e : Nat) : Int :=
  let c := s.fmtAt t m
  sext 8 (s.mem.field (spadKey t m 0) ((zeroOff c + e / groupLen (s.grpAt t m)) * 8) 8)

/-- R44: the exact value of element `e` of macro `m`. -/
def State.elem (s : State) (t m e : Nat) : Val :=
  let c := s.fmtAt t m
  let code := s.elemCode t m e
  if isIntFmt c then intVal (sext (elemBits c) code)
  else if isAffine c then mulVal (s.groupScale t m e) (intVal (sext (elemBits c) code - s.groupZero t m e))
  else if isBlock c then
    let sc := s.scaleCode t m e
    if sc = 0xFF then .nan false else ((elemFmt c).value code).scale ((sc : Int) - 127)
  else if c = 0 then intVal code
  else (elemFmt c).value code

/-- The words that hold an element and its scale and zero-point entries, as byte offsets in the macro. -/
def State.elemWords (s : State) (t m e : Nat) : List Nat :=
  let c := s.fmtAt t m
  let b := elemBits c
  [e * b / 64 * 8, (e * b + b - 1) / 64 * 8] ++
  (if isBlock c then [(scaleOff c + e / 8) / 8 * 8]
   else if isAffine c then
     let g := e / groupLen (s.grpAt t m)
     [(scaleOff c + 2 * g) / 8 * 8, (zeroOff c + g) / 8 * 8]
   else [])

/-- The first poisoned word that reading elements of macros meets: its scratchpad address. -/
def State.poisonIn (s : State) (t : Nat) (es : List (Nat × Nat)) : Option Word :=
  if s.mem.poison.isEmpty then none
  else (es.flatMap (fun p => (s.elemWords t p.1 p.2).map (fun w => (p.1, w)))).findSome? (fun p =>
    if s.mem.isPoison (spadKey t p.1 p.2) then some (spadAddr p.1 p.2) else none)

/-! ### Rounding into a macro (R43, R46, R47) -/

/-- An element code of a format without a shared scale, with its flags. -/
def encodeElem (c : Nat) (r : Rnd) (v : Val) : Nat × Flags :=
  if isIntFmt c then
    let b := elemBits c
    let (x, fl) := roundInt (-(2 ^ (b - 1))) (2 ^ (b - 1) - 1) r v
    (toField b x, fl)
  else roundTo (elemFmt c) r v

/-- The greatest `floor(log2 |x|)` of a block, `none` for eight zeros. -/
def blockLead (vs : List Val) : Option Int := topLead vs

/-- R46: eight values converted into one block of format `c`: scale code, element codes and flags. `rs` gives each element's
rounding. -/
def encodeBlock (c : Nat) (rs : List Rnd) (vs : List Val) : Nat × List Nat × Flags :=
  if vs.any (fun v => !v.isFinite) then (0xFF, vs.map (fun _ => 0), Flags.nv)
  else
    let e : Int := match blockLead vs with
      | none => -127
      | some l => max (-127) (min 127 (l - elemMax c))
    let out := (vs.zip rs).map (fun p => roundTo (elemFmt c) { p.2 with sat := true } (p.1.scale (-e)))
    ((e + 127).toNat, out.map Prod.fst, out.foldl (fun f x => f ||| x.2) Flags.none)

/-- R47: the exact expansions: the scale is copied and each element re-encoded. -/
def expands (src dst : Nat) : Bool := [(10, 8), (10, 6), (8, 6), (9, 7)].contains (src, dst)

def expandBlock (src dst sc : Nat) (codes : List Nat) : Nat × List Nat × Flags :=
  (sc, codes.map (fun k => (roundTo (elemFmt dst) rne ((elemFmt src).value k)).1), Flags.none)

/-! ### Writing bits of macros -/

/-- Bits written by one pass or row: macro, bit offset, width and value. -/
abbrev BitWrite := Nat × Nat × Nat × Nat

/-- The bits of a write that fall in each word it touches: (macro, word offset, bits). -/
def touched (w : BitWrite) : List (Nat × Nat × Nat) :=
  let (m, bit, n, _) := w
  let a := bit / 64
  let b := (bit + n - 1) / 64
  if n = 0 then [] else if a = b then [(m, a * 8, n)] else [(m, a * 8, (a + 1) * 64 - bit), (m, b * 8, bit + n - b * 64)]

/-- The distinct words of a list with the number of their bits written. -/
def wordTally : List (Nat × Nat × Nat) → List (Nat × Nat × Nat)
  | [] => []
  | (m, w, n) :: rest =>
    let r := wordTally rest
    if r.any (fun x => x.1 == m && x.2.1 == w) then
      r.map (fun x => if x.1 == m && x.2.1 == w then (m, w, x.2.2 + n) else x)
    else (m, w, n) :: r

/-- R113, R137, R159: the writes performed: a word whose 64 bits are all written loses its poison, and each word written
wakes its waiters. -/
def State.spadBits (s : State) (t : Nat) (ws : List BitWrite) : State :=
  let s := s.modMem (fun m => ws.foldl (fun (m : Mem) w => m.setField (spadKey t w.1 0) w.2.1 w.2.2.1 w.2.2.2) m)
  let tally := wordTally (ws.flatMap touched)
  let s := s.modMem (fun m => tally.foldl (fun (m : Mem) x =>
    if x.2.2 ≥ 64 then m.setPoison (spadKey t x.1 x.2.1) false else m) m)
  tally.foldl (fun s x => s.wake t (spadWordKey (spadAddr x.1 x.2.1)) (s.mem.word (spadKey t x.1 x.2.1))) s

end Sys2Proof.Machine
end

