-- ==== Sys2Proof/WellFormed.lean ====
section
/-! DEFINITION. The checks a decoded instruction must meet beyond the ranges of its fields: the reserved combinations
of R59, the field bounds of R67, the destination rules of R66, R69, R149 and R196. A step without an encoding is well
formed as it stands. -/

namespace Sys2Proof

/-- R59: order codes a load may carry. -/
def Order.loadOk : Order → Bool
  | .plain | .acq => true
  | .rel | .ar => false

/-- R59: order codes a store or a `.nr` atomic may carry. -/
def Order.storeOk : Order → Bool
  | .plain | .rel => true
  | .acq | .ar => false

/-- R59: scopes a scratchpad access may carry. -/
def Scope.spadOk : Scope → Bool
  | .tile | .wafer => true
  | .stack | .host => false

/-- R59: a pre- or post-increment load may not load its own base. -/
def Mode.loadOk (m : Mode) (d : Reg) (b : Ptr) : Bool :=
  match m with
  | .offset => true
  | .post | .pre => d != .w b

/-- R67: `pos + len` does not pass bit 63; `l` is `len - 1`. -/
def fieldOk (p l : BitVec 6) : Bool := p.toNat + l.toNat + 1 ≤ 64

/-- R149: two used pointer fields name one register only when no inc bit is set on either. -/
def incOk (a b : Ptr) (x y : Bool) : Bool := a != b || !(x || y)

/-- R69: a fire-and-forget atomic names `zr` and is plain or release. -/
def nrOk (n : Bool) (d : Reg) (o : Order) : Bool := !n || (d == .zr && o.storeOk)

/-- R196: `mrecv` writes `w4` to `w7`, `acc` or `zr`. -/
def recvOk : Reg → Bool
  | .w n => 4 ≤ n.toNat
  | .acc | .zr => true

/-- An instruction the decoder can deliver. -/
def Instr.wellFormed : Instr → Bool
  | .add _ _ _ _ => true
  | .sub _ _ _ _ => true
  | .and _ _ _ => true
  | .or _ _ _ => true
  | .xor _ _ _ => true
  | .sll _ _ _ _ => true
  | .srl _ _ _ _ => true
  | .sra _ _ _ _ => true
  | .slt _ _ _ => true
  | .sltu _ _ _ => true
  | .min _ _ _ => true
  | .max _ _ _ => true
  | .minu _ _ _ => true
  | .maxu _ _ _ => true
  | .mul _ _ _ _ => true
  | .mulh _ _ _ => true
  | .mulhu _ _ _ => true
  | .div _ _ _ _ => true
  | .divu _ _ _ _ => true
  | .rem _ _ _ _ => true
  | .remu _ _ _ _ => true
  | .addi _ _ _ => true
  | .andi _ _ _ => true
  | .ori _ _ _ => true
  | .xori _ _ _ => true
  | .slli _ _ _ => true
  | .srli _ _ _ => true
  | .srai _ _ _ => true
  | .slti _ _ _ => true
  | .movi _ _ => true
  | .movhi _ _ => true
  | .mac _ _ => true
  | .msb _ _ => true
  | .fmacS _ _ => true
  | .fmacD _ _ => true
  | .fadd _ _ _ _ => true
  | .fsub _ _ _ _ => true
  | .fmul _ _ _ _ => true
  | .fdiv _ _ _ _ => true
  | .fsqrt _ _ _ => true
  | .fmin _ _ _ _ => true
  | .fmax _ _ _ _ => true
  | .fabs _ _ _ => true
  | .fneg _ _ _ => true
  | .feq _ _ _ _ => true
  | .flt _ _ _ _ => true
  | .fle _ _ _ _ => true
  | .fclass _ _ _ => true
  | .fma _ _ _ _ => true
  | .fms _ _ _ _ => true
  | .fnma _ _ _ _ => true
  | .fnms _ _ _ _ => true
  | .cvt _ _ t s => t != s
  | .bext _ _ p l => fieldOk p l
  | .bexts _ _ p l => fieldOk p l
  | .bins _ _ p l => fieldOk p l
  | .clz _ _ => true
  | .ctz _ _ => true
  | .popc _ _ => true
  | .bswap _ _ => true
  | .beq _ _ _ => true
  | .bne _ _ _ => true
  | .blt _ _ _ => true
  | .bge _ _ _ => true
  | .bltu _ _ _ => true
  | .bgeu _ _ _ => true
  | .bz _ _ => true
  | .bnz _ _ => true
  | .bltz _ _ => true
  | .bgez _ _ => true
  | .bgtz _ _ => true
  | .blez _ _ => true
  | .jmp _ => true
  | .jal _ => true
  | .jr _ => true
  | .jalr _ _ => true
  | .dbnz _ _ => true
  | .ld d b _ m o _ _ => m.loadOk d b && o.loadOk
  | .lds d b _ m o c _ => m.loadOk d b && o.loadOk && c.spadOk
  | .st _ _ _ _ o _ _ => o.storeOk
  | .sts _ _ _ _ o c _ => o.storeOk && c.spadOk
  | .ldx _ _ _ _ o _ => o.loadOk
  | .ldsx _ _ _ _ o c => o.loadOk && c.spadOk
  | .stx _ _ _ _ o _ => o.storeOk
  | .stsx _ _ _ _ o c => o.storeOk && c.spadOk
  | .ldf _ _ o _ _ => o.loadOk
  | .ldfs _ _ o c _ => o.loadOk && c.spadOk
  | .stf _ _ o _ _ => o.storeOk
  | .stfs _ _ o c _ => o.storeOk && c.spadOk
  | .ldr _ _ _ o _ _ => o.loadOk
  | .aadd d _ _ n o _ _ => nrOk n d o
  | .aand d _ _ n o _ _ => nrOk n d o
  | .aor d _ _ n o _ _ => nrOk n d o
  | .axor d _ _ n o _ _ => nrOk n d o
  | .amin d _ _ n o _ _ => nrOk n d o
  | .amax d _ _ n o _ _ => nrOk n d o
  | .aminu d _ _ n o _ _ => nrOk n d o
  | .amaxu d _ _ n o _ _ => nrOk n d o
  | .aswp d _ _ n o _ _ => nrOk n d o
  | .afadd d _ _ n o _ => nrOk n d o
  | .afmax d _ _ n o _ => nrOk n d o
  | .afmin d _ _ n o _ => nrOk n d o
  | .acas _ _ _ _ _ _ => true
  | .fenceAcq _ => true
  | .fenceRel _ => true
  | .fenceAr _ => true
  | .fenceAll _ => true
  | .trkw => true
  | .spawn _ _ _ => true
  | .spawnM _ _ _ => true
  | .exit => true
  | .exitJ _ => true
  | .yield => true
  | .hop _ => true
  | .pin => true
  | .unpin => true
  | .hbeat => true
  | .join _ _ => true
  | .waitwEq _ _ => true
  | .waitwNe _ _ => true
  | .waitwGe _ _ => true
  | .seam _ _ _ _ => true
  | .bar => true
  | .vadd d a b _ x y z => incOk d a x y && incOk d b x z && incOk a b y z
  | .vsub d a b _ x y z => incOk d a x y && incOk d b x z && incOk a b y z
  | .vmul d a b _ x y z => incOk d a x y && incOk d b x z && incOk a b y z
  | .vmin d a b _ x y z => incOk d a x y && incOk d b x z && incOk a b y z
  | .vmax d a b _ x y z => incOk d a x y && incOk d b x z && incOk a b y z
  | .vabs d a _ x y => incOk d a x y
  | .vneg d a _ x y => incOk d a x y
  | .vrcp d a _ x y => incOk d a x y
  | .vrsqrt d a _ x y => incOk d a x y
  | .vsqrt d a _ x y => incOk d a x y
  | .vexp2 d a _ x y => incOk d a x y
  | .vlog2 d a _ x y => incOk d a x y
  | .vtanh d a _ x y => incOk d a x y
  | .vsigm d a _ x y => incOk d a x y
  | .vcmpeq d a b _ x y z => incOk d a x y && incOk d b x z && incOk a b y z
  | .vcmplt d a b _ x y z => incOk d a x y && incOk d b x z && incOk a b y z
  | .vcmple d a b _ x y z => incOk d a x y && incOk d b x z && incOk a b y z
  | .vfma d a b _ x y z => incOk d a x y && incOk d b x z && incOk a b y z
  | .vfms d a b _ x y z => incOk d a x y && incOk d b x z && incOk a b y z
  | .vfnma d a b _ x y z => incOk d a x y && incOk d b x z && incOk a b y z
  | .vscal d a _ x y => incOk d a x y
  | .vaxpy d a b _ x y z => incOk d a x y && incOk d b x z && incOk a b y z
  | .vrsum _ _ _ => true
  | .vrmax _ _ _ => true
  | .vrmin _ _ _ => true
  | .vrsumsq _ _ _ => true
  | .vrdot a b _ y z => incOk a b y z
  | .vcvt d a _ x y => incOk d a x y
  | .vcopy d a _ x y => incOk d a x y
  | .vfill _ _ _ => true
  | .vsel d a b _ x y z => incOk d a x y && incOk d b x z && incOk a b y z
  | .bfly _ _ => true
  | .bchain _ _ => true
  | .stn _ _ _ => true
  | .unstn _ _ _ => true
  | .mfmt _ _ _ => true
  | .cpy _ _ => true
  | .cring _ _ => true
  | .csend _ _ => true
  | .cred _ _ => true
  | .cbcast _ _ => true
  | .cbcfg _ _ _ => true
  | .cbwait _ _ => true
  | .cbfree _ _ => true
  | .cbstat _ _ => true
  | .nrcopy _ _ => true
  | .nrzero _ _ => true
  | .nbcopy _ _ => true
  | .nexpr _ _ => true
  | .ngemv _ _ => true
  | .tlread _ _ => true
  | .tlwait _ _ => true
  | .mfs _ _ => true
  | .mts _ _ => true
  | .stWrite _ => true
  | .fbufWrite _ => true
  | .trap _ => true
  | .brk _ => true
  | .svc _ => true
  | .reply _ _ _ => true
  | .replaya _ _ _ => true
  | .xmap _ _ _ => true
  | .xunmap _ _ => true
  | .xdrain _ _ _ => true
  | .dinval _ _ => true
  | .msend _ _ => true
  | .mrecv d => recvOk d
  | .dstop _ _ => true
  | .dresume _ _ => true
  | .xwExtension _ => true
  | .xwModifier _ _ => true
  | .hbeatExpiry _ _ => true
  | .waitResume _ _ => true
  | .mergingFill _ _ => true
  | .migrationDeparture _ _ => true
  | .loadDepartureTimeout _ _ => true
  | .qstallTimeout _ _ => true
  | .childFlitTimeout _ _ => true
  | .spawnRetry _ _ => true
  | .migrationFlit _ => true
  | .slotGrant _ => true
  | .ringToQueue _ => true
  | .waiterUnspill _ => true
  | .parkRetry _ _ => true
  | .remoteReadRequest _ => true
  | .atomicRequest _ => true
  | .peerWindowLoad _ => true
  | .trackerQuery _ => true
  | .trackerRelease _ => true
  | .placementRequest _ => true
  | .directoryFillRequest _ => true
  | .directoryInvalidate _ => true
  | .serviceRequest _ => true
  | .readData _ => true
  | .atomicResult _ => true
  | .writeAcknowledgement _ => true
  | .trackerAnswer _ => true
  | .admissionAnswer _ => true
  | .directoryFill _ => true
  | .staleReturn _ => true
  | .serviceAnswer _ => true
  | .routeSlotGrant _ => true
  | .storeWrite _ => true
  | .stfWrite _ => true
  | .nrAtomicWrite _ => true
  | .exitJDecrement _ => true
  | .peerWindowStore _ => true
  | .copyReadRequest _ => true
  | .copyReadData _ => true
  | .copyWrite _ => true
  | .copyWriteAcknowledgement _ => true
  | .counterGridStore _ => true
  | .routeDataFlit _ => true
  | .routeLastFlit _ => true
  | .headerCrcError _ => true
  | .commandStart _ _ => true
  | .butterflyStageEnd _ => true
  | .macroControlEnd _ => true
  | .copyRowEnd _ => true
  | .nmeOperationEnd _ => true
  | .bufferSlotTake _ => true
  | .copySlotTake _ => true
  | .scrubStart _ _ => true
  | .scrubEnd _ _ => true
  | .teamRetire _ _ => true
  | .faultMessage _ => true
  | .serviceMessage _ => true
  | .droppedAnswerRequest _ => true
  | .launch _ => true
  | .launchReady _ => true
  | .launchRelease _ => true
  | .fieldLaunch _ _ => true
  | .admissionOrder _ _ => true
  | .teamAdmission _ => true
  | .preemptionDecision _ => true
  | .quiesce _ _ => true
  | .quiesceAcknowledge _ => true
  | .restore _ _ => true
  | .liveCountReport => true
  | .instanceComplete _ => true
  | .freeSlotUpdate _ => true
  | .freeCountRefresh => true
  | .seamSequence _ _ => true
  | .successorReady _ => true
  | .extentDrainComplete _ _ => true
  | .heldPacketResend _ => true
  | .dawn => true
  | .livenessSweep => true
  | .probeTimeout _ => true
  | .dusk _ => true
  | .lossyDusk _ => true
  | .clockParentSwitch _ => true
  | .patrolRead _ _ _ => true
  | .rowSparing _ _ _ _ _ => true
  | .bankSparing _ _ _ => true
  | .checksumReread _ _ _ => true
  | .errcount _ => true
  | .powerCheck _ => true
  | .modeChangeComplete => true
  | .laneFailure _ _ => true
  | .peerLoss _ => true
  | .peerAccess _ => true
  | .gridInterval _ => true
  | .sample _ => true
  | .memRead _ => true
  | .memWrite _ => true
  | .status _ => true
  | .modeset _ => true
  | .ctxcreate _ => true
  | .ctxdestroy _ => true
  | .objcreate _ => true
  | .objdestroy _ => true
  | .mgmtXmap _ => true
  | .portmap _ => true
  | .peeradmit _ => true
  | .svcrestart _ => true
  | .retire _ => true
  | .partout _ => true
  | .partin _ => true
  | .mapread _ => true
  | .mapaccept _ => true
  | .mapload _ => true
  | .fwload _ => true
  | .tokenload _ => true
  | .attest _ => true
  | .dbgstop _ => true
  | .dbgresume _ => true
  | .dbgread _ => true
  | .dbgwrite _ => true
  | .dbgstep _ => true
  | .dbgbrk _ => true
  | .traceset _ => true
  | .sampleset _ => true
  | .gridset _ => true
  | .illegal _ => true
  | .breakpointMatch _ _ => true
  | .vectorPassEnd _ => true
  | .clockRelock _ => true
  | .powerLoss => true
  | .linkCrcResend _ => true

end Sys2Proof
end

