-- ==== Sys2Proof/Decode.lean ====
section
/-! DEFINITION. Decoding a 32-bit word (R54-R72), total on every word and rejecting by name, and the encoder written from
the same tables. The level of the issuing slot (R64 step 1) is not the decoder's: see Machine/Step.lean. -/

namespace Sys2Proof

/-- Why a word is no instruction (R64 step 2). -/
inductive Reject where
  /-- major 0x00 or unassigned (R63) -/
  | major
  /-- a func, cond or type code its group does not list -/
  | func
  /-- a register code that R56 or the group forbids -/
  | register
  /-- a nonzero bit in an unused field (R57) -/
  | unused
  /-- a reserved combination (R59, R66, R67, R69, R149, R196) -/
  | combination
  deriving DecidableEq, Repr

/-- The 4-bit code of a register (R56). -/
def Reg.code : Reg → BitVec 4
  | .w n => 0#1 ++ n
  | .acc => 8#4
  | .zr => 15#4

/-- R56: the register of a 4-bit field. -/
def regOf (c : BitVec 4) : Except Reject Reg :=
  if c.toNat < 8 then .ok (.w (c.extractLsb' 0 3))
  else if c = 8#4 then .ok .acc
  else if c = 15#4 then .ok .zr
  else .error .register

/-- R56: the base, pointer or address register of a 4-bit field. -/
def ptrOf (c : BitVec 4) : Except Reject Ptr :=
  if c.toNat < 8 then .ok (c.extractLsb' 0 3) else .error .register

def Ptr.code (p : Ptr) : BitVec 4 := 0#1 ++ p

def Size.code : Size → BitVec 2
  | .b => 0#2 | .h => 1#2 | .w => 2#2 | .d => 3#2

def sizeOf2 (c : BitVec 2) : Size :=
  if c = 0#2 then .b else if c = 1#2 then .h else if c = 2#2 then .w else .d

def Mode.code : Mode → BitVec 2
  | .offset => 0#2 | .post => 1#2 | .pre => 2#2

/-- R58: mode 0b11 is illegal. -/
def modeOf (c : BitVec 2) : Except Reject Mode :=
  if c = 0#2 then .ok .offset else if c = 1#2 then .ok .post else if c = 2#2 then .ok .pre else .error .func

def Order.code : Order → BitVec 2
  | .plain => 0#2 | .acq => 1#2 | .rel => 2#2 | .ar => 3#2

def orderOf (c : BitVec 2) : Order :=
  if c = 0#2 then .plain else if c = 1#2 then .acq else if c = 2#2 then .rel else .ar

def Scope.code : Scope → BitVec 2
  | .tile => 0#2 | .stack => 1#2 | .wafer => 2#2 | .host => 3#2

def scopeOf (c : BitVec 2) : Scope :=
  if c = 0#2 then .tile else if c = 1#2 then .stack else if c = 2#2 then .wafer else .host

def Eng.code : Eng → BitVec 2
  | .bfe => 0#2 | .cpe => 1#2 | .nme => 2#2

/-- R72: engine code 0b11 is illegal. -/
def engOf (c : BitVec 2) : Except Reject Eng :=
  if c = 0#2 then .ok .bfe else if c = 1#2 then .ok .cpe else if c = 2#2 then .ok .nme else .error .func

def CvtType.code : CvtType → BitVec 4
  | .s64 => 0#4 | .n64 => 1#4 | .s32 => 2#4 | .n32 => 3#4 | .f64 => 4#4
  | .f32 => 5#4 | .bf16 => 6#4 | .f16 => 7#4 | .e4m3 => 8#4 | .e5m2 => 9#4

/-- R66: type codes 10 to 15 are illegal. -/
def cvtOf (c : BitVec 4) : Except Reject CvtType :=
  match c.toNat with
  | 0 => .ok .s64 | 1 => .ok .n64 | 2 => .ok .s32 | 3 => .ok .n32 | 4 => .ok .f64
  | 5 => .ok .f32 | 6 => .ok .bf16 | 7 => .ok .f16 | 8 => .ok .e4m3 | 9 => .ok .e5m2
  | _ => .error .func

/-! ### Formats (R55) -/

def fmtA (maj : BitVec 6) (x y z : BitVec 4) (fn : BitVec 14) : BitVec 32 := maj ++ x ++ y ++ z ++ fn
def fmtI (maj : BitVec 6) (d a : BitVec 4) (i : BitVec 18) : BitVec 32 := maj ++ d ++ a ++ i
def fmtI22 (maj : BitVec 6) (d : BitVec 4) (i : BitVec 22) : BitVec 32 := maj ++ d ++ i
def fmtM (maj : BitVec 6) (d b : BitVec 4) (z : BitVec 2) (sp : BitVec 1) (m o c : BitVec 2) (f : BitVec 9) :
    BitVec 32 := maj ++ d ++ b ++ z ++ sp ++ m ++ o ++ c ++ f
def fmtB (maj : BitVec 6) (a b : BitVec 4) (cond : BitVec 3) (f : BitVec 15) : BitVec 32 := maj ++ a ++ b ++ cond ++ f
def fmtJ (maj : BitVec 6) (f : BitVec 26) : BitVec 32 := maj ++ f
def fmtV (maj : BitVec 6) (d a b : BitVec 4) (l : Ptr) (x y z : Bool) (fn : BitVec 8) : BitVec 32 :=
  maj ++ d ++ a ++ b ++ l ++ BitVec.ofBool x ++ BitVec.ofBool y ++ BitVec.ofBool z ++ fn
def fmtXW (kind : BitVec 1) (payload : BitVec 25) : BitVec 32 := 0x3F#6 ++ kind ++ payload

/-- The func of an ALU, FP or FMA word: width bit 6 over op 5:0 (R65). -/
def fnW (w : Bool) (op : BitVec 6) : BitVec 14 := 0#7 ++ BitVec.ofBool w ++ op
/-- The func of an indexed word (R69). -/
def fnX (z : BitVec 2) (sp : BitVec 1) (o c : BitVec 2) : BitVec 14 := z ++ sp ++ o ++ c ++ 0#7
/-- The func of an atomic, `acas` or fence word (R69). -/
def fnT (op : BitVec 4) (n : Bool) (o c : BitVec 2) (z : Bool) : BitVec 14 :=
  op ++ BitVec.ofBool n ++ o ++ c ++ BitVec.ofBool z ++ 0#4

/-! ### Fields -/

/-- R57: an unused field holds zero. -/
def zeroField {n : Nat} (f : BitVec n) : Except Reject Unit := if f = 0#n then .ok () else .error .unused

/-- A form that R59 and its kin allow. -/
def combine (i : Instr) : Except Reject Instr := if i.wellFormed then .ok i else .error .combination

def fieldD (w : BitVec 32) : BitVec 4 := w.extractLsb' 22 4
def fieldA (w : BitVec 32) : BitVec 4 := w.extractLsb' 18 4
def fieldB (w : BitVec 32) : BitVec 4 := w.extractLsb' 14 4
def fieldF (w : BitVec 32) : BitVec 14 := w.extractLsb' 0 14
def fieldI (w : BitVec 32) : BitVec 18 := w.extractLsb' 0 18
def fieldO (w : BitVec 32) : BitVec 15 := w.extractLsb' 0 15
def bitAt (w : BitVec 32) (n : Nat) : Bool := w.getLsbD n

/-- R65: the 64-bit or `.w` width bit exists only for the marked operations. -/
def noWidth (wd : Bool) (i : Instr) : Except Reject Instr := if wd then .error .func else .ok i

/-- Majors 0x01, 0x0B and 0x0C (R65). -/
def decodeAlu (w : BitVec 32) : Except Reject Instr := do
  zeroField (w.extractLsb' 7 7)
  let d ← regOf (fieldD w)
  let a ← regOf (fieldA w)
  let b ← regOf (fieldB w)
  let p := bitAt w 6
  match (w.extractLsb' 0 6).toNat with
  | 0x0 => .ok (.add d a b p)
  | 0x1 => .ok (.sub d a b p)
  | 0x2 => noWidth p (.and d a b)
  | 0x3 => noWidth p (.or d a b)
  | 0x4 => noWidth p (.xor d a b)
  | 0x5 => .ok (.sll d a b p)
  | 0x6 => .ok (.srl d a b p)
  | 0x7 => .ok (.sra d a b p)
  | 0x8 => noWidth p (.slt d a b)
  | 0x9 => noWidth p (.sltu d a b)
  | 0xA => noWidth p (.min d a b)
  | 0xB => noWidth p (.max d a b)
  | 0xC => noWidth p (.minu d a b)
  | 0xD => noWidth p (.maxu d a b)
  | 0x10 => .ok (.mul d a b p)
  | 0x11 => noWidth p (.mulh d a b)
  | 0x12 => noWidth p (.mulhu d a b)
  | 0x14 => .ok (.div d a b p)
  | 0x15 => .ok (.divu d a b p)
  | 0x16 => .ok (.rem d a b p)
  | 0x17 => .ok (.remu d a b p)
  | _ => .error .func

def decodeFp (w : BitVec 32) : Except Reject Instr := do
  zeroField (w.extractLsb' 7 7)
  let d ← regOf (fieldD w)
  let a ← regOf (fieldA w)
  let b ← regOf (fieldB w)
  let p := bitAt w 6
  match (w.extractLsb' 0 6).toNat with
  | 0x0 => .ok (.fadd d a b p)
  | 0x1 => .ok (.fsub d a b p)
  | 0x2 => .ok (.fmul d a b p)
  | 0x3 => .ok (.fdiv d a b p)
  | 0x4 => do zeroField (fieldB w); .ok (.fsqrt d a p)
  | 0x5 => .ok (.fmin d a b p)
  | 0x6 => .ok (.fmax d a b p)
  | 0x7 => do zeroField (fieldB w); .ok (.fabs d a p)
  | 0x8 => do zeroField (fieldB w); .ok (.fneg d a p)
  | 0x9 => .ok (.feq d a b p)
  | 0xA => .ok (.flt d a b p)
  | 0xB => .ok (.fle d a b p)
  | 0xC => do zeroField (fieldB w); .ok (.fclass d a p)
  | _ => .error .func

def decodeFma (w : BitVec 32) : Except Reject Instr := do
  zeroField (w.extractLsb' 7 7)
  let d ← regOf (fieldD w)
  let a ← regOf (fieldA w)
  let b ← regOf (fieldB w)
  let p := bitAt w 6
  match (w.extractLsb' 0 6).toNat with
  | 0x0 => .ok (.fma d a b p)
  | 0x1 => .ok (.fms d a b p)
  | 0x2 => .ok (.fnma d a b p)
  | 0x3 => .ok (.fnms d a b p)
  | _ => .error .func

def decodeShift (w : BitVec 32) : Except Reject Instr := do
  zeroField (w.extractLsb' 8 10)
  let d ← regOf (fieldD w)
  let a ← regOf (fieldA w)
  let k := w.extractLsb' 0 6
  match (w.extractLsb' 6 2).toNat with
  | 0 => .ok (.slli d a k)
  | 1 => .ok (.srli d a k)
  | 2 => .ok (.srai d a k)
  | _ => .error .func

def decodeAcc (w : BitVec 32) : Except Reject Instr := do
  zeroField (fieldD w)
  let a ← regOf (fieldA w)
  let b ← regOf (fieldB w)
  match (fieldF w).toNat with
  | 0 => .ok (.mac a b)
  | 1 => .ok (.msb a b)
  | 2 => .ok (.fmacS a b)
  | 3 => .ok (.fmacD a b)
  | _ => .error .func

def decodeCvt (w : BitVec 32) : Except Reject Instr := do
  zeroField (fieldB w)
  zeroField (w.extractLsb' 8 6)
  combine (.cvt (← regOf (fieldD w)) (← regOf (fieldA w)) (← cvtOf (w.extractLsb' 4 4)) (← cvtOf (w.extractLsb' 0 4)))

def decodeBitfield (w : BitVec 32) : Except Reject Instr := do
  zeroField (fieldB w)
  let d ← regOf (fieldD w)
  let a ← regOf (fieldA w)
  let p := w.extractLsb' 6 6
  let l := w.extractLsb' 0 6
  match (w.extractLsb' 12 2).toNat with
  | 0 => combine (.bext d a p l)
  | 1 => combine (.bexts d a p l)
  | 2 => combine (.bins d a p l)
  | _ =>
    zeroField l
    match p.toNat with
    | 0 => .ok (.clz d a)
    | 1 => .ok (.ctz d a)
    | 2 => .ok (.popc d a)
    | 3 => .ok (.bswap d a)
    | _ => .error .func

def decodeBranch (w : BitVec 32) : Except Reject Instr := do
  let a ← regOf (fieldD w)
  let b ← regOf (fieldA w)
  let f := fieldO w
  match (w.extractLsb' 15 3).toNat with
  | 0 => .ok (.beq a b f)
  | 1 => .ok (.bne a b f)
  | 2 => .ok (.blt a b f)
  | 3 => .ok (.bge a b f)
  | 4 => .ok (.bltu a b f)
  | 5 => .ok (.bgeu a b f)
  | _ => .error .func

def decodeBranchZ (w : BitVec 32) : Except Reject Instr := do
  zeroField (fieldA w)
  let a ← regOf (fieldD w)
  let f := fieldO w
  match (w.extractLsb' 15 3).toNat with
  | 0 => .ok (.bz a f)
  | 1 => .ok (.bnz a f)
  | 2 => .ok (.bltz a f)
  | 3 => .ok (.bgez a f)
  | 4 => .ok (.bgtz a f)
  | 5 => .ok (.blez a f)
  | _ => .error .func

def decodeJr (w : BitVec 32) : Except Reject Instr := do
  zeroField (fieldB w)
  let a ← regOf (fieldA w)
  match (fieldF w).toNat with
  | 0 => do zeroField (fieldD w); .ok (.jr a)
  | 1 => do return .jalr (← regOf (fieldD w)) a
  | _ => .error .func

def decodeDbnz (w : BitVec 32) : Except Reject Instr := do
  zeroField (fieldA w)
  if w.extractLsb' 15 3 = 0#3 then return .dbnz (← regOf (fieldD w)) (fieldO w) else .error .func

/-- Majors 0x18 and 0x19 (R110). -/
def decodeMem (load : Bool) (w : BitVec 32) : Except Reject Instr := do
  let d ← regOf (fieldD w)
  let b ← ptrOf (fieldA w)
  let z := sizeOf2 (w.extractLsb' 16 2)
  let m ← modeOf (w.extractLsb' 13 2)
  let o := orderOf (w.extractLsb' 11 2)
  let c := scopeOf (w.extractLsb' 9 2)
  let f := w.extractLsb' 0 9
  match load, bitAt w 15 with
  | true, false => combine (.ld d b z m o c f)
  | true, true => combine (.lds d b z m o c f)
  | false, false => combine (.st d b z m o c f)
  | false, true => combine (.sts d b z m o c f)

/-- Majors 0x1A and 0x1B (R114). -/
def decodeIndexed (load : Bool) (w : BitVec 32) : Except Reject Instr := do
  zeroField (w.extractLsb' 0 7)
  let d ← regOf (fieldD w)
  let a ← ptrOf (fieldA w)
  let b ← regOf (fieldB w)
  let z := sizeOf2 (w.extractLsb' 12 2)
  let o := orderOf (w.extractLsb' 9 2)
  let c := scopeOf (w.extractLsb' 7 2)
  match load, bitAt w 11 with
  | true, false => combine (.ldx d a b z o c)
  | true, true => combine (.ldsx d a b z o c)
  | false, false => combine (.stx d a b z o c)
  | false, true => combine (.stsx d a b z o c)

/-- Major 0x1C (R117). -/
def decodeFull (w : BitVec 32) : Except Reject Instr := do
  let d ← regOf (fieldD w)
  let b ← ptrOf (fieldA w)
  let z := sizeOf2 (w.extractLsb' 16 2)
  let o := orderOf (w.extractLsb' 11 2)
  let c := scopeOf (w.extractLsb' 9 2)
  let f := w.extractLsb' 0 9
  match (w.extractLsb' 13 2).toNat, bitAt w 15 with
  | 0, false => if z = .d then combine (.ldf d b o c f) else .error .combination
  | 0, true => if z = .d then combine (.ldfs d b o c f) else .error .combination
  | 1, false => if z = .d then combine (.stf d b o c f) else .error .combination
  | 1, true => if z = .d then combine (.stfs d b o c f) else .error .combination
  | 2, false => combine (.ldr d b z o c f)
  | _, _ => .error .func

def decodeAtomic (w : BitVec 32) : Except Reject Instr := do
  zeroField (w.extractLsb' 0 4)
  let d ← regOf (fieldD w)
  let a ← ptrOf (fieldA w)
  let b ← regOf (fieldB w)
  let n := bitAt w 9
  let o := orderOf (w.extractLsb' 7 2)
  let c := scopeOf (w.extractLsb' 5 2)
  let z := bitAt w 4
  match (w.extractLsb' 10 4).toNat with
  | 0 => combine (.aadd d a b n o c z)
  | 1 => combine (.aand d a b n o c z)
  | 2 => combine (.aor d a b n o c z)
  | 3 => combine (.axor d a b n o c z)
  | 4 => combine (.amin d a b n o c z)
  | 5 => combine (.amax d a b n o c z)
  | 6 => combine (.aminu d a b n o c z)
  | 7 => combine (.amaxu d a b n o c z)
  | 8 => combine (.aswp d a b n o c z)
  | 9 => if z then .error .combination else combine (.afadd d a b n o c)
  | 10 => if z then .error .combination else combine (.afmax d a b n o c)
  | 11 => if z then .error .combination else combine (.afmin d a b n o c)
  | _ => .error .func

def decodeAcas (w : BitVec 32) : Except Reject Instr := do
  zeroField (w.extractLsb' 0 4)
  zeroField (w.extractLsb' 9 5)
  return .acas (← regOf (fieldD w)) (← ptrOf (fieldA w)) (← regOf (fieldB w)) (orderOf (w.extractLsb' 7 2))
    (scopeOf (w.extractLsb' 5 2)) (bitAt w 4)

/-- Major 0x1F (R126). -/
def decodeFence (w : BitVec 32) : Except Reject Instr := do
  zeroField (w.extractLsb' 14 12)
  zeroField (w.extractLsb' 0 5)
  let c := scopeOf (w.extractLsb' 5 2)
  match (w.extractLsb' 9 5).toNat, orderOf (w.extractLsb' 7 2) with
  | 0, .acq => .ok (.fenceAcq c)
  | 0, .rel => .ok (.fenceRel c)
  | 0, .ar => .ok (.fenceAr c)
  | 2, .plain => .ok (.fenceAll c)
  | 4, .plain => if c = .tile then .ok .trkw else .error .unused
  | _, _ => .error .func

def decodeSpawn (w : BitVec 32) : Except Reject Instr := do
  let d ← regOf (fieldD w)
  let a ← regOf (fieldA w)
  let b ← regOf (fieldB w)
  match (fieldF w).toNat with
  | 0 => .ok (.spawn d a b)
  | 1 => .ok (.spawnM d a b)
  | _ => .error .func

def decodeThread (w : BitVec 32) : Except Reject Instr := do
  zeroField (fieldD w)
  zeroField (fieldB w)
  match (fieldF w).toNat with
  | 0 => do zeroField (fieldA w); .ok .exit
  | 1 => do return .exitJ (← ptrOf (fieldA w))
  | 2 => do zeroField (fieldA w); .ok .yield
  | 3 => do return .hop (← regOf (fieldA w))
  | 4 => do zeroField (fieldA w); .ok .pin
  | 5 => do zeroField (fieldA w); .ok .unpin
  | 6 => do zeroField (fieldA w); .ok .hbeat
  | _ => .error .func

def decodeJoin (w : BitVec 32) : Except Reject Instr := do
  zeroField (fieldD w)
  let a ← ptrOf (fieldA w)
  let b ← regOf (fieldB w)
  match (fieldF w).toNat with
  | 0 => .ok (.join a b)
  | 1 => .ok (.waitwEq a b)
  | 2 => .ok (.waitwNe a b)
  | 3 => .ok (.waitwGe a b)
  | _ => .error .func

def decodeSeam (w : BitVec 32) : Except Reject Instr := do
  zeroField (fieldD w)
  zeroField (fieldB w)
  zeroField (w.extractLsb' 0 1)
  return .seam (← ptrOf (fieldA w)) (w.extractLsb' 5 9) (w.extractLsb' 3 2) (scopeOf (w.extractLsb' 1 2))

def decodeBar (w : BitVec 32) : Except Reject Instr := do
  zeroField (w.extractLsb' 0 26)
  return .bar

/-! ### Vector group (R71, R149) -/

/-- A field that the form does not use holds 15 and its inc bit is clear (R71). -/
def unusedPtr (f : BitVec 4) (inc : Bool) : Except Reject Unit :=
  if f = 15#4 ∧ inc = false then .ok () else .error .register

def vec3 (w : BitVec 32) (mk : Ptr → Ptr → Ptr → Ptr → Bool → Bool → Bool → Instr) : Except Reject Instr := do
  combine (mk (← ptrOf (fieldD w)) (← ptrOf (fieldA w)) (← ptrOf (fieldB w)) (w.extractLsb' 11 3)
    (bitAt w 10) (bitAt w 9) (bitAt w 8))

def vec2 (w : BitVec 32) (mk : Ptr → Ptr → Ptr → Bool → Bool → Instr) : Except Reject Instr := do
  unusedPtr (fieldB w) (bitAt w 8)
  combine (mk (← ptrOf (fieldD w)) (← ptrOf (fieldA w)) (w.extractLsb' 11 3) (bitAt w 10) (bitAt w 9))

def vecR (w : BitVec 32) (mk : Ptr → Ptr → Bool → Instr) : Except Reject Instr := do
  unusedPtr (fieldD w) (bitAt w 10)
  unusedPtr (fieldB w) (bitAt w 8)
  return mk (← ptrOf (fieldA w)) (w.extractLsb' 11 3) (bitAt w 9)

def decodeVector (w : BitVec 32) : Except Reject Instr :=
  match (w.extractLsb' 26 6).toNat, (w.extractLsb' 0 8).toNat with
  | 0x28, 0x0 => vec3 w .vadd
  | 0x28, 0x1 => vec3 w .vsub
  | 0x28, 0x2 => vec3 w .vmul
  | 0x28, 0x3 => vec3 w .vmin
  | 0x28, 0x4 => vec3 w .vmax
  | 0x28, 0x5 => vec2 w .vabs
  | 0x28, 0x6 => vec2 w .vneg
  | 0x28, 0x8 => vec2 w .vrcp
  | 0x28, 0x9 => vec2 w .vrsqrt
  | 0x28, 0xA => vec2 w .vsqrt
  | 0x28, 0xB => vec2 w .vexp2
  | 0x28, 0xC => vec2 w .vlog2
  | 0x28, 0xD => vec2 w .vtanh
  | 0x28, 0xE => vec2 w .vsigm
  | 0x28, 0x10 => vec3 w .vcmpeq
  | 0x28, 0x11 => vec3 w .vcmplt
  | 0x28, 0x12 => vec3 w .vcmple
  | 0x29, 0x0 => vec3 w .vfma
  | 0x29, 0x1 => vec3 w .vfms
  | 0x29, 0x2 => vec3 w .vfnma
  | 0x29, 0x3 => vec2 w .vscal
  | 0x29, 0x4 => vec3 w .vaxpy
  | 0x2A, 0x0 => vecR w .vrsum
  | 0x2A, 0x1 => vecR w .vrmax
  | 0x2A, 0x2 => vecR w .vrmin
  | 0x2A, 0x3 => vecR w .vrsumsq
  | 0x2A, 0x4 => do unusedPtr (fieldD w) (bitAt w 10); combine (.vrdot (← ptrOf (fieldA w)) (← ptrOf (fieldB w)) (w.extractLsb' 11 3) (bitAt w 9) (bitAt w 8))
  | 0x2B, 0x0 => vec2 w .vcvt
  | 0x2C, 0x0 => vec2 w .vcopy
  | 0x2C, 0x1 => do unusedPtr (fieldA w) (bitAt w 9); unusedPtr (fieldB w) (bitAt w 8); return .vfill (← ptrOf (fieldD w)) (w.extractLsb' 11 3) (bitAt w 10)
  | 0x2C, 0x2 => vec3 w .vsel
  | _, _ => .error .func

/-! ### Engine group (R72) -/

/-- Forms with a ticket and a parameter block. -/
def eng1 (w : BitVec 32) (mk : Reg → Ptr → Instr) : Except Reject Instr := do
  zeroField (fieldB w)
  return mk (← regOf (fieldD w)) (← ptrOf (fieldA w))

/-- Forms with a ticket, a first register and a second one. -/
def eng2 (w : BitVec 32) (mk : Reg → Ptr → Reg → Instr) : Except Reject Instr := do
  return mk (← regOf (fieldD w)) (← ptrOf (fieldA w)) (← regOf (fieldB w))

def eng0 (w : BitVec 32) (mk : Ptr → Reg → Instr) : Except Reject Instr := do
  zeroField (fieldD w)
  return mk (← ptrOf (fieldA w)) (← regOf (fieldB w))

def decodeTimeline (w : BitVec 32) : Except Reject Instr := do
  zeroField (fieldB w)
  match (w.extractLsb' 2 12).toNat with
  | 0 => do zeroField (fieldA w); return .tlread (← regOf (fieldD w)) (← engOf (w.extractLsb' 0 2))
  | 2 => do zeroField (fieldD w); return .tlwait (← ptrOf (fieldA w)) (← engOf (w.extractLsb' 0 2))
  | _ => .error .func

def decodeEngine (w : BitVec 32) : Except Reject Instr :=
  match (w.extractLsb' 26 6).toNat, (fieldF w).toNat with
  | 0x30, 0x0 => eng1 w .bfly
  | 0x30, 0x1 => eng1 w .bchain
  | 0x31, 0x0 => eng2 w .stn
  | 0x31, 0x1 => eng2 w .unstn
  | 0x31, 0x2 => eng2 w .mfmt
  | 0x32, 0x0 => eng1 w .cpy
  | 0x32, 0x1 => eng1 w .cring
  | 0x32, 0x2 => eng1 w .csend
  | 0x32, 0x3 => eng1 w .cred
  | 0x32, 0x4 => eng1 w .cbcast
  | 0x33, 0x0 => eng2 w .cbcfg
  | 0x33, 0x1 => eng0 w .cbwait
  | 0x33, 0x2 => eng0 w .cbfree
  | 0x33, 0x3 => eng1 w .cbstat
  | 0x34, 0x0 => eng1 w .nrcopy
  | 0x34, 0x1 => eng1 w .nrzero
  | 0x34, 0x2 => eng1 w .nbcopy
  | 0x34, 0x3 => eng1 w .nexpr
  | 0x34, 0x4 => eng1 w .ngemv
  | 0x35, _ => decodeTimeline w
  | _, _ => .error .func

/-! ### System and service groups (R70, R194) and XW (R60) -/

def decodeSystem (w : BitVec 32) : Except Reject Instr := do
  zeroField (fieldB w)
  match (w.extractLsb' 10 4).toNat with
  | 0 => do
    zeroField (fieldA w)
    zeroField (w.extractLsb' 6 4)
    return .mfs (← regOf (fieldD w)) (w.extractLsb' 0 6)
  | 1 => do
    zeroField (fieldD w)
    zeroField (w.extractLsb' 6 4)
    return .mts (← regOf (fieldA w)) (w.extractLsb' 0 6)
  | 2 => do zeroField (w.extractLsb' 18 8); .ok (.trap (w.extractLsb' 0 10))
  | 3 => do zeroField (w.extractLsb' 18 8); .ok (.brk (w.extractLsb' 0 10))
  | 4 => do zeroField (w.extractLsb' 18 8); .ok (.svc (w.extractLsb' 0 10))
  | _ => .error .func

def decodeService (w : BitVec 32) : Except Reject Instr := do
  let d ← regOf (fieldD w)
  let a ← regOf (fieldA w)
  let b ← regOf (fieldB w)
  match (fieldF w).toNat with
  | 0 => .ok (.reply d a b)
  | 1 => .ok (.replaya d a b)
  | 2 => .ok (.xmap d a b)
  | 3 => do zeroField (fieldB w); .ok (.xunmap d a)
  | 4 => .ok (.xdrain d a b)
  | 5 => do zeroField (fieldB w); .ok (.dinval d a)
  | 6 => do zeroField (fieldB w); .ok (.msend d a)
  | 7 => do zeroField (fieldA w); zeroField (fieldB w); combine (.mrecv d)
  | 8 => do zeroField (fieldB w); .ok (.dstop d a)
  | 9 => do zeroField (fieldB w); .ok (.dresume d a)
  | _ => .error .func

def decodeXw (w : BitVec 32) : Except Reject Instr :=
  if bitAt w 25 then
    if w.extractLsb' 2 23 = 0#23 then .ok (.xwModifier (bitAt w 1) (bitAt w 0)) else .error .unused
  else .ok (.xwExtension (w.extractLsb' 0 25))

/-- R63, R64: the instruction of a word, or why it is none. -/
def decode (w : BitVec 32) : Except Reject Instr :=
  match (w.extractLsb' 26 6).toNat with
  | 0x01 => decodeAlu w
  | 0x02 => do return .addi (← regOf (fieldD w)) (← regOf (fieldA w)) (fieldI w)
  | 0x03 => do return .andi (← regOf (fieldD w)) (← regOf (fieldA w)) (fieldI w)
  | 0x04 => do return .ori (← regOf (fieldD w)) (← regOf (fieldA w)) (fieldI w)
  | 0x05 => do return .xori (← regOf (fieldD w)) (← regOf (fieldA w)) (fieldI w)
  | 0x07 => do return .slti (← regOf (fieldD w)) (← regOf (fieldA w)) (fieldI w)
  | 0x06 => decodeShift w
  | 0x08 => do return .movi (← regOf (fieldD w)) (w.extractLsb' 0 22)
  | 0x09 => do return .movhi (← regOf (fieldD w)) (w.extractLsb' 0 22)
  | 0x0A => decodeAcc w
  | 0x0B => decodeFp w
  | 0x0C => decodeFma w
  | 0x0D => decodeCvt w
  | 0x0E => decodeBitfield w
  | 0x10 => decodeBranch w
  | 0x11 => decodeBranchZ w
  | 0x12 => .ok (.jmp (w.extractLsb' 0 26))
  | 0x13 => .ok (.jal (w.extractLsb' 0 26))
  | 0x14 => decodeJr w
  | 0x15 => decodeDbnz w
  | 0x18 => decodeMem true w
  | 0x19 => decodeMem false w
  | 0x1A => decodeIndexed true w
  | 0x1B => decodeIndexed false w
  | 0x1C => decodeFull w
  | 0x1D => decodeAtomic w
  | 0x1E => decodeAcas w
  | 0x1F => decodeFence w
  | 0x20 => decodeSpawn w
  | 0x21 => decodeThread w
  | 0x22 => decodeJoin w
  | 0x23 => decodeSeam w
  | 0x24 => decodeBar w
  | 0x28 | 0x29 | 0x2A | 0x2B | 0x2C => decodeVector w
  | 0x30 | 0x31 | 0x32 | 0x33 | 0x34 | 0x35 => decodeEngine w
  | 0x38 => decodeSystem w
  | 0x39 => decodeService w
  | 0x3F => decodeXw w
  | _ => .error .major

/-- R54: the word of four bytes, little-endian. -/
def wordOfBytes (b0 b1 b2 b3 : Byte) : BitVec 32 := b3 ++ b2 ++ b1 ++ b0

/-- Decoding the first word of a byte list, with the bytes that follow it. -/
def decodeBytes : List Byte → Except Reject (Instr × List Byte)
  | b0 :: b1 :: b2 :: b3 :: rest => (decode (wordOfBytes b0 b1 b2 b3)).map (·, rest)
  | _ => .error .major

/-- The decoder's reading of an opcode-table word; every encoded row is one 32-bit word. -/
def decodeTableWord (nbits w : Nat) : Option Instr :=
  if nbits ≤ 32 then (decode (BitVec.ofNat 32 w)).toOption else none

/-- The word of an instruction, `none` for a step without an encoding. -/
def encode : Instr → Option (BitVec 32)
  | .add d a b w => some (fmtA 0x1#6 d.code a.code b.code (fnW w 0x0#6))
  | .sub d a b w => some (fmtA 0x1#6 d.code a.code b.code (fnW w 0x1#6))
  | .and d a b => some (fmtA 0x1#6 d.code a.code b.code (fnW false 0x2#6))
  | .or d a b => some (fmtA 0x1#6 d.code a.code b.code (fnW false 0x3#6))
  | .xor d a b => some (fmtA 0x1#6 d.code a.code b.code (fnW false 0x4#6))
  | .sll d a b w => some (fmtA 0x1#6 d.code a.code b.code (fnW w 0x5#6))
  | .srl d a b w => some (fmtA 0x1#6 d.code a.code b.code (fnW w 0x6#6))
  | .sra d a b w => some (fmtA 0x1#6 d.code a.code b.code (fnW w 0x7#6))
  | .slt d a b => some (fmtA 0x1#6 d.code a.code b.code (fnW false 0x8#6))
  | .sltu d a b => some (fmtA 0x1#6 d.code a.code b.code (fnW false 0x9#6))
  | .min d a b => some (fmtA 0x1#6 d.code a.code b.code (fnW false 0xA#6))
  | .max d a b => some (fmtA 0x1#6 d.code a.code b.code (fnW false 0xB#6))
  | .minu d a b => some (fmtA 0x1#6 d.code a.code b.code (fnW false 0xC#6))
  | .maxu d a b => some (fmtA 0x1#6 d.code a.code b.code (fnW false 0xD#6))
  | .mul d a b w => some (fmtA 0x1#6 d.code a.code b.code (fnW w 0x10#6))
  | .mulh d a b => some (fmtA 0x1#6 d.code a.code b.code (fnW false 0x11#6))
  | .mulhu d a b => some (fmtA 0x1#6 d.code a.code b.code (fnW false 0x12#6))
  | .div d a b w => some (fmtA 0x1#6 d.code a.code b.code (fnW w 0x14#6))
  | .divu d a b w => some (fmtA 0x1#6 d.code a.code b.code (fnW w 0x15#6))
  | .rem d a b w => some (fmtA 0x1#6 d.code a.code b.code (fnW w 0x16#6))
  | .remu d a b w => some (fmtA 0x1#6 d.code a.code b.code (fnW w 0x17#6))
  | .addi d a i => some (fmtI 0x2#6 d.code a.code i)
  | .andi d a i => some (fmtI 0x3#6 d.code a.code i)
  | .ori d a i => some (fmtI 0x4#6 d.code a.code i)
  | .xori d a i => some (fmtI 0x5#6 d.code a.code i)
  | .slli d a k => some (fmtI 0x6#6 d.code a.code (0#10 ++ 0x0#2 ++ k))
  | .srli d a k => some (fmtI 0x6#6 d.code a.code (0#10 ++ 0x1#2 ++ k))
  | .srai d a k => some (fmtI 0x6#6 d.code a.code (0#10 ++ 0x2#2 ++ k))
  | .slti d a i => some (fmtI 0x7#6 d.code a.code i)
  | .movi d i => some (fmtI22 0x8#6 d.code i)
  | .movhi d i => some (fmtI22 0x9#6 d.code i)
  | .mac a b => some (fmtA 0xA#6 0#4 a.code b.code 0x0#14)
  | .msb a b => some (fmtA 0xA#6 0#4 a.code b.code 0x1#14)
  | .fmacS a b => some (fmtA 0xA#6 0#4 a.code b.code 0x2#14)
  | .fmacD a b => some (fmtA 0xA#6 0#4 a.code b.code 0x3#14)
  | .fadd d a b p => some (fmtA 0xB#6 d.code a.code b.code (fnW p 0x0#6))
  | .fsub d a b p => some (fmtA 0xB#6 d.code a.code b.code (fnW p 0x1#6))
  | .fmul d a b p => some (fmtA 0xB#6 d.code a.code b.code (fnW p 0x2#6))
  | .fdiv d a b p => some (fmtA 0xB#6 d.code a.code b.code (fnW p 0x3#6))
  | .fsqrt d a p => some (fmtA 0xB#6 d.code a.code 0#4 (fnW p 0x4#6))
  | .fmin d a b p => some (fmtA 0xB#6 d.code a.code b.code (fnW p 0x5#6))
  | .fmax d a b p => some (fmtA 0xB#6 d.code a.code b.code (fnW p 0x6#6))
  | .fabs d a p => some (fmtA 0xB#6 d.code a.code 0#4 (fnW p 0x7#6))
  | .fneg d a p => some (fmtA 0xB#6 d.code a.code 0#4 (fnW p 0x8#6))
  | .feq d a b p => some (fmtA 0xB#6 d.code a.code b.code (fnW p 0x9#6))
  | .flt d a b p => some (fmtA 0xB#6 d.code a.code b.code (fnW p 0xA#6))
  | .fle d a b p => some (fmtA 0xB#6 d.code a.code b.code (fnW p 0xB#6))
  | .fclass d a p => some (fmtA 0xB#6 d.code a.code 0#4 (fnW p 0xC#6))
  | .fma d a b p => some (fmtA 0xC#6 d.code a.code b.code (fnW p 0x0#6))
  | .fms d a b p => some (fmtA 0xC#6 d.code a.code b.code (fnW p 0x1#6))
  | .fnma d a b p => some (fmtA 0xC#6 d.code a.code b.code (fnW p 0x2#6))
  | .fnms d a b p => some (fmtA 0xC#6 d.code a.code b.code (fnW p 0x3#6))
  | .cvt d a t s => some (fmtA 0xD#6 d.code a.code 0#4 (0#6 ++ t.code ++ s.code))
  | .bext d a p l => some (fmtA 0xE#6 d.code a.code 0#4 (0x0#2 ++ p ++ l))
  | .bexts d a p l => some (fmtA 0xE#6 d.code a.code 0#4 (0x1#2 ++ p ++ l))
  | .bins d a p l => some (fmtA 0xE#6 d.code a.code 0#4 (0x2#2 ++ p ++ l))
  | .clz d a => some (fmtA 0xE#6 d.code a.code 0#4 0x3000#14)
  | .ctz d a => some (fmtA 0xE#6 d.code a.code 0#4 0x3040#14)
  | .popc d a => some (fmtA 0xE#6 d.code a.code 0#4 0x3080#14)
  | .bswap d a => some (fmtA 0xE#6 d.code a.code 0#4 0x30C0#14)
  | .beq a b f => some (fmtB 0x10#6 a.code b.code 0x0#3 f)
  | .bne a b f => some (fmtB 0x10#6 a.code b.code 0x1#3 f)
  | .blt a b f => some (fmtB 0x10#6 a.code b.code 0x2#3 f)
  | .bge a b f => some (fmtB 0x10#6 a.code b.code 0x3#3 f)
  | .bltu a b f => some (fmtB 0x10#6 a.code b.code 0x4#3 f)
  | .bgeu a b f => some (fmtB 0x10#6 a.code b.code 0x5#3 f)
  | .bz a f => some (fmtB 0x11#6 a.code 0#4 0x0#3 f)
  | .bnz a f => some (fmtB 0x11#6 a.code 0#4 0x1#3 f)
  | .bltz a f => some (fmtB 0x11#6 a.code 0#4 0x2#3 f)
  | .bgez a f => some (fmtB 0x11#6 a.code 0#4 0x3#3 f)
  | .bgtz a f => some (fmtB 0x11#6 a.code 0#4 0x4#3 f)
  | .blez a f => some (fmtB 0x11#6 a.code 0#4 0x5#3 f)
  | .jmp f => some (fmtJ 0x12#6 f)
  | .jal f => some (fmtJ 0x13#6 f)
  | .jr a => some (fmtA 0x14#6 0#4 a.code 0#4 0x0#14)
  | .jalr d a => some (fmtA 0x14#6 d.code a.code 0#4 0x1#14)
  | .dbnz a f => some (fmtB 0x15#6 a.code 0#4 0x0#3 f)
  | .ld d b z m o c f => some (fmtM 0x18#6 d.code (Ptr.code b) z.code 0x0#1 m.code o.code c.code f)
  | .lds d b z m o c f => some (fmtM 0x18#6 d.code (Ptr.code b) z.code 0x1#1 m.code o.code c.code f)
  | .st d b z m o c f => some (fmtM 0x19#6 d.code (Ptr.code b) z.code 0x0#1 m.code o.code c.code f)
  | .sts d b z m o c f => some (fmtM 0x19#6 d.code (Ptr.code b) z.code 0x1#1 m.code o.code c.code f)
  | .ldx d a b z o c => some (fmtA 0x1A#6 d.code (Ptr.code a) b.code (fnX z.code 0x0#1 o.code c.code))
  | .ldsx d a b z o c => some (fmtA 0x1A#6 d.code (Ptr.code a) b.code (fnX z.code 0x1#1 o.code c.code))
  | .stx d a b z o c => some (fmtA 0x1B#6 d.code (Ptr.code a) b.code (fnX z.code 0x0#1 o.code c.code))
  | .stsx d a b z o c => some (fmtA 0x1B#6 d.code (Ptr.code a) b.code (fnX z.code 0x1#1 o.code c.code))
  | .ldf d b o c f => some (fmtM 0x1C#6 d.code (Ptr.code b) 3#2 0x0#1 0x0#2 o.code c.code f)
  | .ldfs d b o c f => some (fmtM 0x1C#6 d.code (Ptr.code b) 3#2 0x1#1 0x0#2 o.code c.code f)
  | .stf d b o c f => some (fmtM 0x1C#6 d.code (Ptr.code b) 3#2 0x0#1 0x1#2 o.code c.code f)
  | .stfs d b o c f => some (fmtM 0x1C#6 d.code (Ptr.code b) 3#2 0x1#1 0x1#2 o.code c.code f)
  | .ldr d b z o c f => some (fmtM 0x1C#6 d.code (Ptr.code b) z.code 0x0#1 0x2#2 o.code c.code f)
  | .aadd d a b n o c z => some (fmtA 0x1D#6 d.code (Ptr.code a) b.code (fnT 0x0#4 n o.code c.code z))
  | .aand d a b n o c z => some (fmtA 0x1D#6 d.code (Ptr.code a) b.code (fnT 0x1#4 n o.code c.code z))
  | .aor d a b n o c z => some (fmtA 0x1D#6 d.code (Ptr.code a) b.code (fnT 0x2#4 n o.code c.code z))
  | .axor d a b n o c z => some (fmtA 0x1D#6 d.code (Ptr.code a) b.code (fnT 0x3#4 n o.code c.code z))
  | .amin d a b n o c z => some (fmtA 0x1D#6 d.code (Ptr.code a) b.code (fnT 0x4#4 n o.code c.code z))
  | .amax d a b n o c z => some (fmtA 0x1D#6 d.code (Ptr.code a) b.code (fnT 0x5#4 n o.code c.code z))
  | .aminu d a b n o c z => some (fmtA 0x1D#6 d.code (Ptr.code a) b.code (fnT 0x6#4 n o.code c.code z))
  | .amaxu d a b n o c z => some (fmtA 0x1D#6 d.code (Ptr.code a) b.code (fnT 0x7#4 n o.code c.code z))
  | .aswp d a b n o c z => some (fmtA 0x1D#6 d.code (Ptr.code a) b.code (fnT 0x8#4 n o.code c.code z))
  | .afadd d a b n o c => some (fmtA 0x1D#6 d.code (Ptr.code a) b.code (fnT 0x9#4 n o.code c.code false))
  | .afmax d a b n o c => some (fmtA 0x1D#6 d.code (Ptr.code a) b.code (fnT 0xA#4 n o.code c.code false))
  | .afmin d a b n o c => some (fmtA 0x1D#6 d.code (Ptr.code a) b.code (fnT 0xB#4 n o.code c.code false))
  | .acas d a b o c z => some (fmtA 0x1E#6 d.code (Ptr.code a) b.code (fnT 0#4 false o.code c.code z))
  | .fenceAcq c => some (fmtA 0x1F#6 0#4 0#4 0#4 (fnT 0x0#4 false 0x1#2 c.code false))
  | .fenceRel c => some (fmtA 0x1F#6 0#4 0#4 0#4 (fnT 0x0#4 false 0x2#2 c.code false))
  | .fenceAr c => some (fmtA 0x1F#6 0#4 0#4 0#4 (fnT 0x0#4 false 0x3#2 c.code false))
  | .fenceAll c => some (fmtA 0x1F#6 0#4 0#4 0#4 (fnT 0x1#4 false 0x0#2 c.code false))
  | .trkw => some (fmtA 0x1F#6 0#4 0#4 0#4 (fnT 2#4 false 0#2 0#2 false))
  | .spawn d a b => some (fmtA 0x20#6 d.code a.code b.code 0x0#14)
  | .spawnM d a b => some (fmtA 0x20#6 d.code a.code b.code 0x1#14)
  | .exit => some (fmtA 0x21#6 0#4 0#4 0#4 0x0#14)
  | .exitJ a => some (fmtA 0x21#6 0#4 (Ptr.code a) 0#4 0x1#14)
  | .yield => some (fmtA 0x21#6 0#4 0#4 0#4 0x2#14)
  | .hop a => some (fmtA 0x21#6 0#4 a.code 0#4 0x3#14)
  | .pin => some (fmtA 0x21#6 0#4 0#4 0#4 0x4#14)
  | .unpin => some (fmtA 0x21#6 0#4 0#4 0#4 0x5#14)
  | .hbeat => some (fmtA 0x21#6 0#4 0#4 0#4 0x6#14)
  | .join a b => some (fmtA 0x22#6 0#4 (Ptr.code a) b.code 0x0#14)
  | .waitwEq a b => some (fmtA 0x22#6 0#4 (Ptr.code a) b.code 0x1#14)
  | .waitwNe a b => some (fmtA 0x22#6 0#4 (Ptr.code a) b.code 0x2#14)
  | .waitwGe a b => some (fmtA 0x22#6 0#4 (Ptr.code a) b.code 0x3#14)
  | .seam a m s c => some (fmtA 0x23#6 0#4 (Ptr.code a) 0#4 (m ++ s ++ c.code ++ 0#1))
  | .bar => some (fmtA 0x24#6 0#4 0#4 0#4 0#14)
  | .vadd d a b l x y z => some (fmtV 0x28#6 (Ptr.code d) (Ptr.code a) (Ptr.code b) l x y z 0x0#8)
  | .vsub d a b l x y z => some (fmtV 0x28#6 (Ptr.code d) (Ptr.code a) (Ptr.code b) l x y z 0x1#8)
  | .vmul d a b l x y z => some (fmtV 0x28#6 (Ptr.code d) (Ptr.code a) (Ptr.code b) l x y z 0x2#8)
  | .vmin d a b l x y z => some (fmtV 0x28#6 (Ptr.code d) (Ptr.code a) (Ptr.code b) l x y z 0x3#8)
  | .vmax d a b l x y z => some (fmtV 0x28#6 (Ptr.code d) (Ptr.code a) (Ptr.code b) l x y z 0x4#8)
  | .vabs d a l x y => some (fmtV 0x28#6 (Ptr.code d) (Ptr.code a) 15#4 l x y false 0x5#8)
  | .vneg d a l x y => some (fmtV 0x28#6 (Ptr.code d) (Ptr.code a) 15#4 l x y false 0x6#8)
  | .vrcp d a l x y => some (fmtV 0x28#6 (Ptr.code d) (Ptr.code a) 15#4 l x y false 0x8#8)
  | .vrsqrt d a l x y => some (fmtV 0x28#6 (Ptr.code d) (Ptr.code a) 15#4 l x y false 0x9#8)
  | .vsqrt d a l x y => some (fmtV 0x28#6 (Ptr.code d) (Ptr.code a) 15#4 l x y false 0xA#8)
  | .vexp2 d a l x y => some (fmtV 0x28#6 (Ptr.code d) (Ptr.code a) 15#4 l x y false 0xB#8)
  | .vlog2 d a l x y => some (fmtV 0x28#6 (Ptr.code d) (Ptr.code a) 15#4 l x y false 0xC#8)
  | .vtanh d a l x y => some (fmtV 0x28#6 (Ptr.code d) (Ptr.code a) 15#4 l x y false 0xD#8)
  | .vsigm d a l x y => some (fmtV 0x28#6 (Ptr.code d) (Ptr.code a) 15#4 l x y false 0xE#8)
  | .vcmpeq d a b l x y z => some (fmtV 0x28#6 (Ptr.code d) (Ptr.code a) (Ptr.code b) l x y z 0x10#8)
  | .vcmplt d a b l x y z => some (fmtV 0x28#6 (Ptr.code d) (Ptr.code a) (Ptr.code b) l x y z 0x11#8)
  | .vcmple d a b l x y z => some (fmtV 0x28#6 (Ptr.code d) (Ptr.code a) (Ptr.code b) l x y z 0x12#8)
  | .vfma d a b l x y z => some (fmtV 0x29#6 (Ptr.code d) (Ptr.code a) (Ptr.code b) l x y z 0x0#8)
  | .vfms d a b l x y z => some (fmtV 0x29#6 (Ptr.code d) (Ptr.code a) (Ptr.code b) l x y z 0x1#8)
  | .vfnma d a b l x y z => some (fmtV 0x29#6 (Ptr.code d) (Ptr.code a) (Ptr.code b) l x y z 0x2#8)
  | .vscal d a l x y => some (fmtV 0x29#6 (Ptr.code d) (Ptr.code a) 15#4 l x y false 0x3#8)
  | .vaxpy d a b l x y z => some (fmtV 0x29#6 (Ptr.code d) (Ptr.code a) (Ptr.code b) l x y z 0x4#8)
  | .vrsum a l y => some (fmtV 0x2A#6 15#4 (Ptr.code a) 15#4 l false y false 0x0#8)
  | .vrmax a l y => some (fmtV 0x2A#6 15#4 (Ptr.code a) 15#4 l false y false 0x1#8)
  | .vrmin a l y => some (fmtV 0x2A#6 15#4 (Ptr.code a) 15#4 l false y false 0x2#8)
  | .vrsumsq a l y => some (fmtV 0x2A#6 15#4 (Ptr.code a) 15#4 l false y false 0x3#8)
  | .vrdot a b l y z => some (fmtV 0x2A#6 15#4 (Ptr.code a) (Ptr.code b) l false y z 0x4#8)
  | .vcvt d a l x y => some (fmtV 0x2B#6 (Ptr.code d) (Ptr.code a) 15#4 l x y false 0x0#8)
  | .vcopy d a l x y => some (fmtV 0x2C#6 (Ptr.code d) (Ptr.code a) 15#4 l x y false 0x0#8)
  | .vfill d l x => some (fmtV 0x2C#6 (Ptr.code d) 15#4 15#4 l x false false 0x1#8)
  | .vsel d a b l x y z => some (fmtV 0x2C#6 (Ptr.code d) (Ptr.code a) (Ptr.code b) l x y z 0x2#8)
  | .bfly d p => some (fmtA 0x30#6 d.code (Ptr.code p) 0#4 0x0#14)
  | .bchain d p => some (fmtA 0x30#6 d.code (Ptr.code p) 0#4 0x1#14)
  | .stn d p q => some (fmtA 0x31#6 d.code (Ptr.code p) q.code 0x0#14)
  | .unstn d p q => some (fmtA 0x31#6 d.code (Ptr.code p) q.code 0x1#14)
  | .mfmt d p q => some (fmtA 0x31#6 d.code (Ptr.code p) q.code 0x2#14)
  | .cpy d p => some (fmtA 0x32#6 d.code (Ptr.code p) 0#4 0x0#14)
  | .cring d p => some (fmtA 0x32#6 d.code (Ptr.code p) 0#4 0x1#14)
  | .csend d p => some (fmtA 0x32#6 d.code (Ptr.code p) 0#4 0x2#14)
  | .cred d p => some (fmtA 0x32#6 d.code (Ptr.code p) 0#4 0x3#14)
  | .cbcast d p => some (fmtA 0x32#6 d.code (Ptr.code p) 0#4 0x4#14)
  | .cbcfg d p q => some (fmtA 0x33#6 d.code (Ptr.code p) q.code 0x0#14)
  | .cbwait p q => some (fmtA 0x33#6 0#4 (Ptr.code p) q.code 0x1#14)
  | .cbfree p q => some (fmtA 0x33#6 0#4 (Ptr.code p) q.code 0x2#14)
  | .cbstat d p => some (fmtA 0x33#6 d.code (Ptr.code p) 0#4 0x3#14)
  | .nrcopy d p => some (fmtA 0x34#6 d.code (Ptr.code p) 0#4 0x0#14)
  | .nrzero d p => some (fmtA 0x34#6 d.code (Ptr.code p) 0#4 0x1#14)
  | .nbcopy d p => some (fmtA 0x34#6 d.code (Ptr.code p) 0#4 0x2#14)
  | .nexpr d p => some (fmtA 0x34#6 d.code (Ptr.code p) 0#4 0x3#14)
  | .ngemv d p => some (fmtA 0x34#6 d.code (Ptr.code p) 0#4 0x4#14)
  | .tlread d e => some (fmtA 0x35#6 d.code 0#4 0#4 (0#10 ++ 0x0#2 ++ e.code))
  | .tlwait p e => some (fmtA 0x35#6 0#4 (Ptr.code p) 0#4 (0#10 ++ 0x2#2 ++ e.code))
  | .mfs d s => some (fmtA 0x38#6 d.code 0#4 0#4 (0#8 ++ s))
  | .mts a s => some (fmtA 0x38#6 0#4 a.code 0#4 (1#4 ++ 0#4 ++ s))
  | .stWrite _ => none
  | .fbufWrite _ => none
  | .trap c => some (fmtA 0x38#6 0#4 0#4 0#4 (0x2#4 ++ c))
  | .brk c => some (fmtA 0x38#6 0#4 0#4 0#4 (0x3#4 ++ c))
  | .svc c => some (fmtA 0x38#6 0#4 0#4 0#4 (0x4#4 ++ c))
  | .reply d a b => some (fmtA 0x39#6 d.code a.code b.code 0x0#14)
  | .replaya d a b => some (fmtA 0x39#6 d.code a.code b.code 0x1#14)
  | .xmap d a b => some (fmtA 0x39#6 d.code a.code b.code 0x2#14)
  | .xunmap d a => some (fmtA 0x39#6 d.code a.code 0#4 0x3#14)
  | .xdrain d a b => some (fmtA 0x39#6 d.code a.code b.code 0x4#14)
  | .dinval d a => some (fmtA 0x39#6 d.code a.code 0#4 0x5#14)
  | .msend d a => some (fmtA 0x39#6 d.code a.code 0#4 0x6#14)
  | .mrecv d => some (fmtA 0x39#6 d.code 0#4 0#4 0x7#14)
  | .dstop d a => some (fmtA 0x39#6 d.code a.code 0#4 0x8#14)
  | .dresume d a => some (fmtA 0x39#6 d.code a.code 0#4 0x9#14)
  | .xwExtension e => some (fmtXW 0#1 e)
  | .xwModifier n x => some (fmtXW 1#1 (0#23 ++ BitVec.ofBool n ++ BitVec.ofBool x))
  | .hbeatExpiry _ _ => none
  | .waitResume _ _ => none
  | .mergingFill _ _ => none
  | .migrationDeparture _ _ => none
  | .loadDepartureTimeout _ _ => none
  | .qstallTimeout _ _ => none
  | .childFlitTimeout _ _ => none
  | .spawnRetry _ _ => none
  | .migrationFlit _ => none
  | .slotGrant _ => none
  | .ringToQueue _ => none
  | .waiterUnspill _ => none
  | .parkRetry _ _ => none
  | .remoteReadRequest _ => none
  | .atomicRequest _ => none
  | .peerWindowLoad _ => none
  | .trackerQuery _ => none
  | .trackerRelease _ => none
  | .placementRequest _ => none
  | .directoryFillRequest _ => none
  | .directoryInvalidate _ => none
  | .serviceRequest _ => none
  | .readData _ => none
  | .atomicResult _ => none
  | .writeAcknowledgement _ => none
  | .trackerAnswer _ => none
  | .admissionAnswer _ => none
  | .directoryFill _ => none
  | .staleReturn _ => none
  | .serviceAnswer _ => none
  | .routeSlotGrant _ => none
  | .storeWrite _ => none
  | .stfWrite _ => none
  | .nrAtomicWrite _ => none
  | .exitJDecrement _ => none
  | .peerWindowStore _ => none
  | .copyReadRequest _ => none
  | .copyReadData _ => none
  | .copyWrite _ => none
  | .copyWriteAcknowledgement _ => none
  | .counterGridStore _ => none
  | .routeDataFlit _ => none
  | .routeLastFlit _ => none
  | .headerCrcError _ => none
  | .commandStart _ _ => none
  | .butterflyStageEnd _ => none
  | .macroControlEnd _ => none
  | .copyRowEnd _ => none
  | .nmeOperationEnd _ => none
  | .bufferSlotTake _ => none
  | .copySlotTake _ => none
  | .scrubStart _ _ => none
  | .scrubEnd _ _ => none
  | .teamRetire _ _ => none
  | .faultMessage _ => none
  | .serviceMessage _ => none
  | .droppedAnswerRequest _ => none
  | .launch _ => none
  | .launchReady _ => none
  | .launchRelease _ => none
  | .fieldLaunch _ _ => none
  | .admissionOrder _ _ => none
  | .teamAdmission _ => none
  | .preemptionDecision _ => none
  | .quiesce _ _ => none
  | .quiesceAcknowledge _ => none
  | .restore _ _ => none
  | .liveCountReport => none
  | .instanceComplete _ => none
  | .freeSlotUpdate _ => none
  | .freeCountRefresh => none
  | .seamSequence _ _ => none
  | .successorReady _ => none
  | .extentDrainComplete _ _ => none
  | .heldPacketResend _ => none
  | .dawn => none
  | .livenessSweep => none
  | .probeTimeout _ => none
  | .dusk _ => none
  | .lossyDusk _ => none
  | .clockParentSwitch _ => none
  | .patrolRead _ _ _ => none
  | .rowSparing _ _ _ _ _ => none
  | .bankSparing _ _ _ => none
  | .checksumReread _ _ _ => none
  | .errcount _ => none
  | .powerCheck _ => none
  | .modeChangeComplete => none
  | .laneFailure _ _ => none
  | .peerLoss _ => none
  | .peerAccess _ => none
  | .gridInterval _ => none
  | .sample _ => none
  | .memRead _ => none
  | .memWrite _ => none
  | .status _ => none
  | .modeset _ => none
  | .ctxcreate _ => none
  | .ctxdestroy _ => none
  | .objcreate _ => none
  | .objdestroy _ => none
  | .mgmtXmap _ => none
  | .portmap _ => none
  | .peeradmit _ => none
  | .svcrestart _ => none
  | .retire _ => none
  | .partout _ => none
  | .partin _ => none
  | .mapread _ => none
  | .mapaccept _ => none
  | .mapload _ => none
  | .fwload _ => none
  | .tokenload _ => none
  | .attest _ => none
  | .dbgstop _ => none
  | .dbgresume _ => none
  | .dbgread _ => none
  | .dbgwrite _ => none
  | .dbgstep _ => none
  | .dbgbrk _ => none
  | .traceset _ => none
  | .sampleset _ => none
  | .gridset _ => none
  | .illegal _ => none
  | .breakpointMatch _ _ => none
  | .vectorPassEnd _ => none
  | .clockRelock _ => none
  | .powerLoss => none
  | .linkCrcResend _ => none

end Sys2Proof
end

