-- ==== Sys2Proof/Machine/Track.lean ====
section
/-! DEFINITION. Write trackers, the waits on their handles, and releases (R105-R108, R214, R223, R240, R262). -/

namespace Sys2Proof.Machine

/-- R24: a handle of `trk`. -/
def handle (name : BitVec 24) (i : Nat) : BitVec 32 := BitVec.ofNat 32 (2 ^ 31 + i % 128 * 2 ^ 24 + name.toNat)
def handleValid (h : BitVec 32) : Bool := h.getLsbD 31
def handleIdx (h : BitVec 32) : Nat := h.toNat / 2 ^ 24 % 128
def handleName (h : BitVec 32) : BitVec 24 := h.extractLsb' 0 24
def handleTile (h : BitVec 32) : Nat := nameTile (handleName h)

def Thread.handle (th : Thread) (second : Bool) : BitVec 32 := if second then th.trkB else th.trkA
def Thread.drained (th : Thread) (second : Bool) : Bool := if second then th.drainB else th.drainA
def Thread.errBit (th : Thread) (second : Bool) : Bool := if second then th.errB else th.errA
/-- A handle set, with its drained and error bits clear. -/
def Thread.setHandle (th : Thread) (second : Bool) (h : BitVec 32) : Thread :=
  if second then { th with trkB := h, drainB := false, errB := false } else { th with trkA := h, drainA := false, errA := false }
def Thread.setDrained (th : Thread) (second d e : Bool) : Thread :=
  if second then { th with drainB := d, errB := e } else { th with drainA := d, errA := e }

def Tile.tracker (x : Tile) (i : Nat) : Tracker := x.trackers.getD i {}
def Tile.modTracker (x : Tile) (i : Nat) (f : Tracker → Tracker) : Tile := { x with trackers := modifyAt x.trackers i f }

/-- What a wait on a handle meets (R106, R107, R214). -/
inductive HWait where
  | ok
  | wait
  | query (second : Bool)
  | error (f : FaultRec)
  | fenced (second : Bool)
  deriving DecidableEq, Repr

/-- R214, R384: whether a handle's tracker was lost in a lossy dusk of its tile. -/
def State.handleLost (s : State) (h : BitVec 32) : Bool :=
  match (s.tile (handleTile h)).lossGen with
  | none => false
  | some g => (s.gen + 255 - nameGen (handleName h) % 255) % 255 > (s.gen + 255 - g) % 255

/-- R107, R214: one handle: zero with no error, not yet zero, on another tile and not drained, or an error to raise. -/
def State.handleWait (s : State) (t k : Nat) (second : Bool) : HWait :=
  let th := (s.slot t k).th
  let h := th.handle second
  let drained := th.drained second && !th.errBit second
  if !handleValid h then .ok
  else if drained && (handleTile h != t || s.handleLost h) then .ok
  else if s.handleLost h then .fenced second
  else if handleTile h = t then
    let tr := (s.tile t).tracker (handleIdx h)
    if tr.count > 0 then .wait
    else match tr.err with
      | none => .ok
      | some (code, addr, extra) => .error { code := code, pc := th.pc, addr := addr, extra := extra, track := some (t, handleIdx h) }
  else if (s.tile (handleTile h)).fenced then .fenced second
  else .query second

/-- A wait on both handles, A first. -/
def State.handlesWait (s : State) (t k : Nat) : HWait :=
  match s.handleWait t k false with
  | .ok => s.handleWait t k true
  | r => r

/-- R262, R379: whether a thread waits on its handles while a write that one of them counts is held at its home, or by a dusk's
window. -/
def State.heldBack (s : State) (t k : Nat) : Bool :=
  let sl := s.slot t k
  sl.heldWr && [false, true].any (fun b =>
    let h := sl.th.handle b
    handleValid h && !s.handleLost h && (((s.tile (handleTile h)).tracker (handleIdx h)).held > 0 ||
      s.held.any (fun p => p.src == handleTile h && (match p.body with
        | .store _ _ _ _ _ tr | .stf _ _ _ tr | .nrAtomic _ _ _ _ _ tr => tr == some (handleIdx h)
        | _ => false))))

/-- R214: a query to the tile of a handle; the slot waits for the answer. -/
def State.askTracker (s : State) (t k : Nat) (second : Bool) : State :=
  let h := (s.slot t k).th.handle second
  let s := s.send { vc := 0, src := t, dst := handleTile h, gen := nameGen (handleName h), slot := k,
                    body := .trackQuery (handleIdx h) second }
  s.modSlot t k (fun sl => { sl.waitFor .reply with pend := .query second, heldWr := true })

/-- R214: FENCED for a tracker on a fenced tile: its name is the address, and the handle is released. -/
def State.fencedHandle (s : State) (t k : Nat) (second : Bool) : State :=
  let h := (s.slot t k).th.handle second
  let n : Word := (handleName h).zeroExtend 64
  (s.modSlot t k (fun sl => { sl with th := sl.th.setHandle second 0#32 })).raise t k FaultCode.fenced n n

/-- A wait on handles, `w` telling which; `cont` is what follows once it is satisfied (R105, R107, R214). -/
def State.onHandles (s : State) (t k : Nat) (r : HWait) (w : Why) (cont : State → State) : State :=
  match r with
  | .ok => cont s
  | .wait => s.modSlot t k (fun sl => { sl.waitFor w with heldWr := true })
  | .query b => s.askTracker t k b
  | .error f => s.raiseRec t k f
  | .fenced b => s.fencedHandle t k b

/-- R105, R126: both handles at zero. -/
def State.drain (s : State) (t k : Nat) (cont : State → State) : State := s.onHandles t k (s.handlesWait t k) .handles cont

/-- The context whose object space a slot's accesses name: its own, or `svctx` for the service thread (R192). -/
def State.memCtx (s : State) (t k : Nat) : Nat :=
  if s.atService t k then (s.field (s.fieldOf t)).svctx else (s.slot t k).th.ctx

/-- The contexts under which a slot's thread has written: its own, or those that `svctx` has named for the service thread (R240). -/
def State.memCtxs (s : State) (t k : Nat) : List Nat :=
  if s.atService t k then insertNat (s.field (s.fieldOf t)).svcUsed (s.field (s.fieldOf t)).svctx else [(s.slot t k).th.ctx]

/-- The copy commands of a tile, running or stopped by a quiesce. -/
def Tile.copies (x : Tile) : List Run :=
  x.cpe.toList ++ x.teams.filterMap (fun e => e.2.runC) ++ x.saves.filterMap (fun e => e.2.team.runC)

/-- R226: whether a copy engine, of the thread's tile or of one that it has left, has unacknowledged writes bound for another module
in a command of the thread's instance. DESIGN CHOICE (log 106): the commands of the instance's other threads are waited for too. -/
def State.linkBound (s : State) (t k : Nat) : Bool :=
  !s.atService t k && s.tiles.any (fun e => e.2.copies.any (fun r => r.cmd.kin == (s.slot t k).th.kin && r.peers && r.left > 0))

/-- R108, R223, R226: a release at a scope; `all` for `fence.all`, which also writes back UO lines. -/
def State.release (s : State) (t k : Nat) (c : Scope) (all : Bool) (cont : State → State) : State :=
  match c with
  | .tile => cont s
  | .stack => cont (s.releaseLines t (s.memCtxs t k) all)
  | .wafer => s.drain t k (fun s => cont (s.releaseLines t (s.memCtxs t k) all))
  | .host => s.drain t k (fun s =>
      if s.linkBound t k then s.modSlot t k (fun sl => sl.waitFor .link) else cont (s.releaseLines t (s.memCtxs t k) all))

def orderRel : Sys2Proof.Order → Bool
  | .rel | .ar => true
  | .plain | .acq => false

/-- R108: the release that an access's order field asks for. -/
def State.releaseIf (s : State) (t k : Nat) (rel : Bool) (c : Scope) (cont : State → State) : State :=
  if rel then s.release t k c false cont else cont s

/-- R106: what a fire-and-forget write counts on. -/
inductive Count where
  | on (i : Nat) (th : Thread)      -- counted by tracker `i` of this tile
  | full                            -- R214: the tracker's count is at its limit
  | noFree                          -- R106 step 2
  | older (second : Bool)           -- R106 step 3
  deriving DecidableEq, Repr

/-- R106 steps 1-3. -/
def State.countOn (s : State) (t : Nat) (th : Thread) : Count :=
  let x := s.tile t
  let mine (b : Bool) : Bool := handleValid (th.handle b) && handleTile (th.handle b) == t && !s.handleLost (th.handle b)
  let at_ (b : Bool) : Count :=
    let i := handleIdx (th.handle b)
    if (x.tracker i).count ≥ 2 ^ 20 - 1 then .full else .on i (th.setDrained b false (th.errBit b))
  if mine false then at_ false
  else if mine true then at_ true
  else if handleValid th.trkA && handleValid th.trkB then .older th.bOlder
  else match firstIdx (fun (tr : Tracker) => !tr.open_) x.trackers with
    | none => .noFree
    | some i =>
      let second := handleValid th.trkA
      let th := th.setHandle second (handle (s.name t) i)
      .on i { th with bOlder := if second then false else handleValid th.trkB }

/-- R106, R214: a handle released: at once on its own tile, by a message on VC0 elsewhere. A tracker that still counts
writes is marked with code 0 and freed at zero; `kin` names the instance of a killed thread (R232). -/
def State.releaseHandle (s : State) (t : Nat) (h : BitVec 32) (kin : Nat) : State :=
  if !handleValid h || s.handleLost h then s
  else if handleTile h = t then s.modTile t (fun x => x.modTracker (handleIdx h) (fun (tr : Tracker) =>
    if tr.count = 0 then {} else { tr with open_ := true, err := some (0, 0#64, 0#64), kin := kin }))
  else s.send { vc := 0, src := t, dst := handleTile h, gen := nameGen (handleName h),
                body := .trackRelease (handleIdx h) true kin }

/-- R134, R197: both handles of a thread released. -/
def State.releaseHandles (s : State) (t : Nat) (th : Thread) (kin : Nat) : State :=
  (s.releaseHandle t th.trkA kin).releaseHandle t th.trkB kin

/-- R106: a fire-and-forget write: `go` sends it with its tracker once one counts it; an SO write is not counted (R104). -/
def State.counted (s : State) (t k : Nat) (go : State → Nat → State) : State :=
  match s.countOn t (s.slot t k).th with
  | .on i th =>
    let s := s.modTile t (fun x => (x.modTracker i (fun tr =>
      { tr with open_ := true, count := tr.count + 1 })).modSlot k (fun sl => { sl with th := th }))
    go s i
  | .full => s.modSlot t k (fun sl => sl.waitFor .trackerFull)
  | .noFree => s.modSlot t k (fun sl => sl.waitFor .noTracker)
  | .older b => s.onHandles t k (s.handleWait t k b) (.handle b) (fun s =>
      let th := (s.slot t k).th
      let s := s.releaseHandle t (th.handle b) 0
      let s := s.modSlot t k (fun sl => { sl with th := sl.th.setHandle b 0#32 })
      match s.countOn t (s.slot t k).th with
      | .on i th =>
        go (s.modTile t (fun x => (x.modTracker i (fun tr =>
          { tr with open_ := true, count := tr.count + 1 })).modSlot k (fun sl => { sl with th := th }))) i
      | _ => s.modSlot t k (fun sl => sl.waitFor .noTracker))

/-- R106, R107: an acknowledgement lowers the count; a discarded write marks the tracker. A released tracker (marked with
code 0) frees at zero. -/
def Tracker.acked (tr : Tracker) (err : Option (Nat × Word × Word)) : Tracker :=
  let n := tr.count - 1
  match tr.err with
  | some (0, _, _) => if n = 0 then {} else { tr with count := n }
  | some e => { tr with count := n, err := some e }
  | none => { tr with count := n, err := err }

end Sys2Proof.Machine
end

