-- ==== Sys2Proof/Machine/Issue.lean ====
section
/-! DEFINITION. Choosing and fetching the next instruction: eligibility and the issue arbiter (R17, R18), occupancy (R20,
R101), fetch (R97), XW runs (R60-R62), the boundary stops (R141, R201, R355), the passage of time with the bounds and instants
that it may not pass (R204, R360, R363, R383, R389, R393), the parents in the clock tree (R382), and the default order of the
steps that have no instruction word (log 1). -/

namespace Sys2Proof.Machine

/-! ### Occupancy -/

/-- R20, R101: the occupancy of an instruction. -/
def occupancy : Instr → Nat
  | .div _ _ _ w | .divu _ _ _ w | .rem _ _ _ w | .remu _ _ _ w => if w then 24 else 40
  | .fdiv _ _ _ p => if p then 40 else 24
  | .fsqrt _ _ p => if p then 40 else 24
  | .fma _ _ _ p | .fms _ _ _ p | .fnma _ _ _ p | .fnms _ _ _ p => if p then 16 else 8
  | .fmacD _ _ => 16
  | _ => 8

/-! ### Arbiter (R17, R18) -/

/-- Whether the team of a slot is being quiesced (R338). -/
def State.teamClosed (s : State) (t k : Nat) : Bool :=
  let x := s.tile t
  !s.atService t k && (match x.teams.look (x.slot k).team with | some tm => tm.closed | none => false)

/-- R62, R338: a thread of a team being quiesced stops at its boundary; an instruction that waited for a reply completes first
(R127), as does an `exit` that is released (R144). -/
def State.quiescing (s : State) (t k : Nat) : Bool :=
  let sl := s.slot t k
  !sl.released && sl.atBoundary && !sl.retry && s.teamClosed t k

/-- What keeps a READY thread from issuing: a relock (R28) or a quiesce at its boundary, a tile closed by a dusk (R378) or
fenced, its own running vector instruction (R157), and a packet that has reached the tile's pipeline in this cycle (R228). -/
def State.barred (s : State) (t k : Nat) : Bool :=
  let x := s.tile t
  s.portBusy t ||
  (x.relock && (x.slot k).canStop) || x.closed || x.fenced || s.quiescing t k ||
    (match x.vec with | some v => v.slot == k | none => false)

/-- R17: eligible in the present cycle. -/
def State.eligible (s : State) (t k : Nat) : Bool :=
  let sl := s.slot t k
  s.enabled && sl.state == .ready && sl.eligAt ≤ s.now && !s.barred t k

/-- A slot whose waiting instruction can now go on: it takes no issue slot and no new occupancy (R19, R20). -/
def State.resumed (s : State) (t k : Nat) : Bool :=
  let sl := s.slot t k
  s.enabled && sl.state == .ready && sl.retry && !s.barred t k

/-- R18: the slot the arbiter of a tile issues in this cycle, after any that resumes a wait. -/
def State.arbiter (s : State) (t : Nat) : Option Nat :=
  let x := s.tile t
  match (List.range 16).find? (fun k => s.resumed t k) with
  | some k => some k
  | none =>
  if s.now < x.nextIssue then none
  else ((List.range 16).map (fun k => (x.ptr + k) % 16)).find? (fun k => s.eligible t k)

/-- R228: the ranks of what reaches a tile's pipeline in one cycle after its slots and its butterfly engine: the copy engine, the
near-memory engine, and packets of VC2, VC0 and VC4. -/
def engRank : Eng → Nat
  | .bfe | .cpe => 0
  | .nme => 1

/-- R228: whether what has rank `r` has its turn at the pipeline of a tile in this cycle: the slots have made their accesses, and nothing
of a later rank has come before it. -/
def State.turn (s : State) (t r : Nat) : Bool :=
  (s.arbiter t).isNone && (match s.portAt.look t with
    | some (c, q) => c != s.now || q ≤ r
    | none => true)

/-- R228: an access of rank `r` has reached the pipeline of a tile in this cycle. -/
def State.noteTurn (s : State) (t r : Nat) : State := { s with portAt := s.portAt.put t (s.now, r) }

/-! ### Fetch (R97) -/

def ILine.is (l : ILine) (ctx : Nat) (a : Word) : Bool := l.ctx == ctx && l.obj == objOf a && l.ln == offOf a / 64

/-- A word of a code object as memory holds it. -/
def Mem.codeWord (m : Mem) (ctx obj off : Nat) : BitVec 32 :=
  (m.word (codeKey ctx obj off)).extractLsb' (if off % 8 = 4 then 32 else 0) 32

/-- R97: the instruction word at an address as tile `t` fetches it, or the fault of its fetch: through the L1 instruction
cache, else from the code object. Object 1 of context 0 is the firmware's code (log 8). DESIGN CHOICE (log 84): PERM goes
before BOUNDS, and code that no launch has replicated yet is read all the same. -/
def State.fetch (s : State) (t ctx : Nat) (a : Word) : Except Nat (BitVec 32) :=
  match s.object ctx (objOf a) with
  | some o =>
    if !o.isCode then .error FaultCode.perm
    else if offOf a ≥ o.size then .error FaultCode.bounds
    else match (s.tile t).l1i.find? (fun l => l.is ctx a) with
      | some l => .ok (l.words.getD (offOf a / 4 % 16) 0#32)
      | none => .ok (s.mem.codeWord ctx (objOf a) (offOf a))
  | none =>
    if ctx = 0 ∧ objOf a = 1 then
      let l := Config.firmwareCode s.fw
      if offOf a ≥ l.length then .error FaultCode.bounds
      else .ok ((bytesWord ((l.drop (offOf a)).take 4)).extractLsb' 0 32)
    else .error FaultCode.noObj

/-- R14: the line of an address in the L1 instruction cache, read on a miss: 1,024 lines, 8 ways by 128 sets (log 82). -/
def State.lineFetched (s : State) (t ctx : Nat) (a : Word) : State :=
  let l := match (s.tile t).l1i.find? (fun l => l.is ctx a) with
    | some l => l
    | none => { ctx := ctx, obj := objOf a, ln := offOf a / 64,
                words := (List.range 16).map (fun i => s.mem.codeWord ctx (objOf a) (offOf a / 64 * 64 + 4 * i)) }
  if (s.object ctx (objOf a)).isNone then s
  else s.modTile t (fun x => { x with
    l1i := putWay (fun (l : ILine) => objKey l.ctx l.obj * 2 ^ 34 + l.ln) (fun l => l.ln % 128) x.l1i l })

/-! ### XW runs (R61, R62) -/

/-- R61: whether an instruction accepts extension words, `.sx` and `.nt`. -/
def xwAccepts : Instr → Bool × Bool × Bool
  | .addi .. | .andi .. | .xori .. | .slti .. | .ori .. | .movi .. | .movhi .. => (true, false, false)
  | .beq .. | .bne .. | .blt .. | .bge .. | .bltu .. | .bgeu .. | .bz .. | .bnz .. | .bltz .. | .bgez .. | .bgtz ..
  | .blez .. | .dbnz .. | .jmp .. | .jal .. => (true, false, false)
  | .ld .. | .lds .. => (true, true, true)
  | .st .. | .sts .. => (true, false, true)
  | .ldx .. | .ldsx .. => (false, true, true)
  | .stx .. | .stsx .. => (false, false, true)
  | .ldf .. | .ldfs .. | .stf .. | .stfs .. => (true, false, false)
  | .ldr .. => (true, true, false)
  | _ => (false, false, false)

def Instr.isXw : Instr → Bool
  | .xwExtension _ | .xwModifier _ _ => true
  | _ => false

/-- R62: whether an instruction may follow the pending run. XW words themselves check the run's form when they issue. -/
def Slot.runOk (sl : Slot) (i : Instr) : Bool :=
  if Instr.isXw i then true
  else
    let (e, sx, nt) := xwAccepts i
    (e || sl.ext.isEmpty) && (sx || nt || !sl.hasMod) && (sx || !sl.sx) && (nt || !sl.nt)

/-! ### Issue -/

/-- What an issue by a slot leads to. -/
inductive Prep where
  | no                              -- the slot does not issue in this cycle
  | done (s : State)                -- a stop or a fault before anything issues
  | run (i : Instr) (s : State)     -- the instruction issues
  | illegal (w : BitVec 32) (s : State)   -- a word that decoding refuses (R64)
  | breakpoint (s : State)                -- a comparator matches (R355)
  | hbeat (s : State)                     -- the budget has reached zero (R141)

/-- R355: the comparator that matches the slot's `pc` at a boundary. -/
def State.breakAt (s : State) (t k : Nat) : Option Nat :=
  let sl := s.slot t k
  if sl.brkSkip || sl.retry || !sl.atBoundary then none
  else match s.ctxs.look sl.th.ctx with
    | none => none
    | some c => firstIdx (fun a => a != 0#64 && a == sl.th.pc) c.brk

/-- R64: the first word of a run, which an ILLEGAL of the run carries. -/
def State.runWord (s : State) (t ctx : Nat) (sl : Slot) (w : BitVec 32) : BitVec 32 :=
  if sl.ipc = sl.th.pc then w else match s.fetch t ctx sl.th.pc with
    | .ok x => x
    | .error _ => w

/-- R18, R213: the bookkeeping for an issue: the fetched line, pointer, occupancy and the pinning window. -/
def State.charge (s : State) (t k : Nat) (i : Instr) : State :=
  if (s.slot t k).retry then s
  else (s.lineFetched t (s.slot t k).th.ctx (s.slot t k).ipc).modTile t (fun x =>
    { x.modSlot k (fun sl => { sl with
        eligAt := s.now + occupancy i, brkSkip := false,
        window := if !Instr.isXw i && sl.th.bounce ≥ 1 then min 65535 (sl.window + 1) else sl.window }) with
      ptr := (k + 1) % 16, nextIssue := s.now + 1, issuedN := x.issuedN + 1,
      issued := some { slot := k, pc := (x.slot k).th.pc, tid := (x.slot k).th.tid, kin := (x.slot k).th.kin, ctx := (x.slot k).th.ctx,
                       ready := ((List.range 16).filter (fun j => (x.slot j).state == .ready)).length,
                       elig := ((List.range 16).filter (fun j => s.eligible t j)).length } })

/-- The context whose code a slot runs: its own, or context 0 for the service thread (R283). -/
def Slot.codeCtx (sl : Slot) : Nat := sl.th.ctx

/-- R64: a word of major 0x39 at user level. -/
def State.privWord (s : State) (t k : Nat) (w : BitVec 32) : Bool := w.toNat / 2 ^ 26 == 0x39 && !s.atService t k

/-- R62, R266: whether a run and its instruction, at which a slot stands, raise a fault by their fetch or decoding. -/
def State.runBad (s : State) (t k : Nat) : Nat → Slot → Bool
  | 0, _ => true
  | n + 1, sl => match s.fetch t sl.codeCtx sl.ipc with
    | .error _ => true
    | .ok w => s.privWord t k w || (match decode w with
      | .error _ => true
      | .ok i => !sl.runOk i || (match i with
        | .xwExtension e => !sl.takesXw || s.runBad t k n (sl.withExt e)
        | .xwModifier nt x => !sl.takesXw || s.runBad t k n (sl.withMod nt x)
        | _ => false))

/-- R141, R266: a thread at a boundary whose budget is gone takes HBEAT, unless the next instruction raises a fault before it
issues. -/
def State.hbeatDue (s : State) (t k : Nat) : Bool :=
  let sl := s.slot t k
  sl.state == .ready && !s.barred t k && sl.atBoundary && !sl.retry && sl.budget == 0 && !s.atService t k && !s.runBad t k 4 sl

/-- The issue of slot `k` of tile `t`, which must be the arbiter's choice (R18): a stop at a boundary (R201), a failed check of
the context (R385), a breakpoint (R355), HBEAT at a boundary (R141, R266), the fetch (R97), decoding (R64), then the
instruction. A word whose fetch or decoding faults takes the cycle and an occupancy of 8. -/
def State.prepare (s0 : State) (t k : Nat) : Prep :=
  if s0.arbiter t ≠ some k then .no
  else
    let s := { s0 with cur := (t, k) }
    let sl := s.slot t k
    if sl.atBoundary && !sl.retry && sl.stopReq && !sl.released then
      let s := s.modSlot t k (fun sl =>
        { sl.rewind with state := .stopped .debug, stopReq := false, stepReq := none, retry := false })
      .done (match sl.stepReq with
        | none => s
        | some r => s.toHost { port := r.port, cls := 3, op := 0x1C, tag := r.tag })
    else if sl.th.foul then
      .done ((s.modSlot t k (fun sl => { sl with th := { sl.th with foul := false } })).raise t k FaultCode.ue 0#64 3#64)
    else if (s.breakAt t k).isSome then .breakpoint s
    else if s.hbeatDue t k then .hbeat s
    else match s.fetch t sl.codeCtx sl.ipc with
      | .error code => .done ((s.charge t k .trkw).raise t k code sl.ipc 0#64)
      | .ok w =>
        if s.privWord t k w then .done ((s.charge t k .trkw).raise t k FaultCode.priv 0#64 (w.zeroExtend 64))
        else match decode w with
          | .error _ => .illegal (s.runWord t sl.codeCtx sl w) (s.charge t k .trkw)
          | .ok i =>
            if !sl.runOk i then .illegal (s.runWord t sl.codeCtx sl w) (s.charge t k .trkw)
            else
              let s := s.charge t k i
              .run i (if sl.stepReq.isSome then s.modSlot t k (fun sl => { sl with stopReq := true }) else s)

/-! ### Stops (R127, R144, R161, R201) -/

/-- R127, R144: whether an instruction in WAIT has had no effect yet and is stopped where it stands; one that waits for a
reply, or has a flit to send for an `exit` or a `spawn`, completes first. A query of a tracker is part of its wait. -/
def Slot.stops (sl : Slot) : Bool :=
  match sl.state with
  | .wait .reply => (match sl.pend with | .query _ => true | _ => false)
  | .wait .fill | .wait .directory | .wait (.resumeFlit ..) | .wait (.childFlit ..) => false
  | .wait _ => true
  | _ => false

/-- The slot STOPPED with `pc` at its instruction or XW run. -/
def Slot.halt (sl : Slot) (why : StopWhy) : Slot :=
  { sl.rewind with state := .stopped why, stopReq := false, retry := false, heldWr := false, pend := .none, tried := [],
                   level := 0, resent := false, vecSince := none }

/-- R127, R144, R338: a quiesce stops the slot where it stands, with its waiting instruction not begun; a run of XW words goes
on to its instruction (R62), and an issued form to the end of its occupancy, whose cycles the budget counts (R80, R101). -/
def Slot.quiesce (sl : Slot) (now : Nat) : Slot :=
  if (sl.state = .ready ∧ sl.atBoundary ∧ !sl.retry ∧ !sl.released ∧ sl.eligAt ≤ now) ∨ sl.stops then { sl.halt .quiesce with stopReq := sl.stopReq }
  else sl

/-- R127, R144: a stop or a quiesce that is under way finds the slot's instruction in a wait that it stops. -/
def State.stopWait (s : State) (t k : Nat) : State :=
  let sl := s.slot t k
  if !sl.stops then s
  else if sl.stopReq && sl.stepReq.isNone then s.modSlot t k (fun sl => sl.halt .debug)
  else if s.teamClosed t k then s.modSlot t k (·.quiesce s.now)
  else s

/-- R127, R144: after an issue; the wait of a single-stepped instruction goes on (R354). -/
def State.settle (s : State) (t k : Nat) : State := if (s.slot t k).stepReq.isSome then s else s.stopWait t k

/-! ### Time (R24, R27, R141) -/

/-- R141: whether a slot's budget falls in a cycle. -/
def Slot.burns (sl : Slot) : Bool :=
  match sl.state with
  | .ready | .remote => true
  | .wait (.engine _) | .wait (.timeline _) | .wait (.buffer _) => false
  | .wait _ => true
  | _ => false

/-- `n` cycles pass on a tile from cycle `now`, where the budgets of some slots do not fall (R262, R379). While the tile's clock
relocks or its dusk is under way only the rest of an issued form's occupancy counts (R28, R101). -/
def Tile.age (x : Tile) (now n : Nat) (held : List Nat) : Tile :=
  { x with slots := x.slots.zipIdx.map (fun e =>
    if e.1.burns && !held.contains e.2 then
      { e.1 with budget := e.1.budget - (if x.relock || x.closed then (if e.1.state = .ready then min n (e.1.eligAt - now) else 0) else n) }
    else e.1) }

/-- R212: since which cycle a tile's report of its free slots is due, where `n` are free at the end of cycle `now`. -/
def Tile.watchFree (x : Tile) (n now : Nat) : Tile :=
  { x with freeSince := if x.reported = n then none else some (x.freeSince.getD now) }

/-- R27: ninths of a nanosecond in a cycle. DESIGN CHOICE (log 85): one count of cycles for the whole wafer, at 1.0 GHz while a
change into or out of the Enduring mode is in progress. -/
def State.ninths (s : State) : Nat := if s.mode = 3 ∧ !s.changing then 10 else 9

/-- R204, R211: the cycle by which a departure wait has ended, where one is on. -/
def Why.bound : Why → Option Nat
  | .departure c 0 _ _ | .childFlit c _ _ => some (c + 4096)
  | .departure c _ _ _ | .resumeFlit c _ _ => some (c + 65536)
  | _ => none

/-- R16, R204: whether the flit of a departure wait has been formed. -/
def Why.formed (w : Why) (now : Nat) : Bool :=
  match w with
  | .departure c .. | .childFlit c .. | .resumeFlit c .. => c ≤ now
  | _ => true

/-- The cycles by which a tile's bounded waits have ended: departures (R204), scrubs (R243), a relock (R28) and the report of its free
slots (R212). -/
def Tile.bounds (x : Tile) : List Nat :=
  x.slots.filterMap (fun sl => match sl.state with | .wait w => w.bound | _ => none) ++
  x.macros.filterMap (fun m => m.since.map (· + 256)) ++ (if x.relock then [x.relockAt + 4096] else []) ++
  (match x.freeSince with | some c => [c + 64] | none => [])

/-! #### What falls at fixed instants (R360, R363, R383, R389, R393) -/

/-- Whether this cycle is the first at or after a wafer-time multiple of `ns` nanoseconds. -/
def State.atInstant (s : State) (ns : Nat) : Bool := s.wall9 % (9 * ns) < s.ninths

/-- The same from the first multiple on. -/
def State.wallDue (s : State) (ns : Nat) : Bool := s.wall9 ≥ 9 * ns && s.atInstant ns

/-- Whether no such cycle lies within the next `n` but the first. -/
def State.wallClear (s : State) (ns n : Nat) : Bool := (s.wall9 + (n - 1) * s.ninths) / (9 * ns) == s.wall9 / (9 * ns)

/-- R360: whether this cycle's instruction of a tile is to be sampled. -/
def State.sampleDue (s : State) (t : Nat) : Bool :=
  let x := s.tile t
  match x.issued with
  | none => false
  | some i => match s.ctxs.look i.ctx with
    | none => false
    | some c => c.sample != 0 && s.now % 2 ^ c.sample == 0 && x.nextIssue == s.now + 1 && c.trace != 0#64 && !x.shut

/-- R383: the probes of this cycle have not been sent. -/
def State.sweepDue (s : State) : Bool := s.step == 6 && s.now % 1048576 == 0 && s.sweep < s.now / 1048576

/-- R393: the input power has not been compared at this millisecond. -/
def State.powerDue (s : State) : Bool := s.step != 0 && s.wallDue 1000000 && s.powerAt != some s.now

/-- R361: the counters of a site. -/
def State.siteGrid (s : State) (p : Nat) : SiteGrid := s.grids.lookD p {}

/-- R361: a site's router sends a flit again through port `k` (N, E, S, W). -/
def State.countResend (s : State) (site k : Nat) : State :=
  { s with grids := s.grids.put site { s.siteGrid site with resends := modifyAt (s.siteGrid site).resends k (· + 1) } }

/-- R361, R363: whether a site has an interval of the counter grid to close in this cycle: a good one, a spare included. -/
def State.gridOpen (s : State) (p : Nat) : Bool :=
  s.enabled && s.gridObj != 0#64 && s.wallDue (s.gridUs * 1000) && p < 8448 && s.usable p && (s.siteGrid p).at_ != s.now

def State.gridDue (s : State) : List Nat :=
  if s.enabled && s.gridObj != 0#64 && s.wallDue (s.gridUs * 1000) then (List.range 8448).filter s.gridOpen else []

/-- R389: the tiles that have an hour's error counts to report. -/
def State.errsDue (s : State) : List Nat :=
  if s.step == 6 && s.wallDue 3600000000000 then
    (List.range (96 * s.rows)).filter (fun t => !(s.tile t).fenced && (s.tile t).errsAt != some s.now) else []

/-- R212: the cycle at which the root's counts are to be refreshed, and whether that is past. -/
def State.freshAt (s : State) : Option Nat := s.freeAt.map (fun c => (c / 1024 + 1) * 1024)
def State.freshDue (s : State) : Bool := match s.freshAt with
  | some c => c ≤ s.now
  | none => false

/-- Whether all that falls at this cycle has been done and nothing falls within the next `n` before the last. -/
def State.instantsDone (s : State) (n : Nat) : Bool :=
  s.tiles.keys.all (fun t => !s.sampleDue t) &&
  (s.step == 0 || (!s.powerDue && s.wallClear 1000000 n)) &&
  (s.step != 6 || (!s.sweepDue && s.errsDue.isEmpty && (s.now + n - 1) / 1048576 == s.now / 1048576 && s.wallClear 3600000000000 n)) &&
  (!s.enabled || s.gridObj == 0#64 || (s.gridDue.isEmpty && s.wallClear (s.gridUs * 1000) n)) &&
  s.freshAt.all (fun c => s.now + n ≤ c)

/-- The next cycle at which something falls at a fixed instant. -/
def State.nextInstant (s : State) : Option Nat :=
  let wall (ns : Nat) : Nat := s.now + ((s.wall9 / (9 * ns) + 1) * (9 * ns) - s.wall9 + s.ninths - 1) / s.ninths
  if s.step = 0 then none
  else some (((if s.step = 6 then [wall 3600000000000, (s.now / 1048576 + 1) * 1048576] else []) ++
    (if !s.enabled || s.gridObj == 0#64 then [] else [wall (s.gridUs * 1000)]) ++ s.freshAt.toList).foldl min (wall 1000000))

/-! #### Bounds on waits -/

/-- R370 on a wafer without defects, whose root is (47, 43): the parent of a site, the horizontal neighbour toward the root in every
quadrant but the south-east one, where it is the northern neighbour. -/
def plainParent (site : Nat) : Nat :=
  let px := site % 96
  let py := site / 96
  if px = 47 then (if py > 43 then site - 96 else site + 96)
  else if px < 47 then site + 1
  else if py > 43 then site - 96 else site - 1

def State.parentOf (s : State) (site : Nat) : Nat := (s.parents.look site).getD (plainParent site)

/-- Whether the clock of `u` comes through `site`. -/
def State.descends (s : State) (u site : Nat) : Nat → Bool
  | 0 => false
  | n + 1 => u == site || (u != s.clockRoot && s.descends (s.parentOf u) site n)

/-- R370, R382: whether a site forwards the clock that it receives. A retired one does; DEDUCED (log 73): a fenced one does not. -/
def State.forwards (s : State) (site : Nat) : Bool := siteExists site && (s.noClock.look site).isNone

/-- R382: whether the reference clock reaches a site. -/
def State.clocked (s : State) (site : Nat) : Nat → Bool
  | 0 => false
  | n + 1 => s.forwards site && (site == s.clockRoot || s.clocked (s.parentOf site) n)

/-- R382: the neighbour from which a site takes its clock when its parent has gone. -/
def State.newParent (s : State) (site : Nat) : Option Nat :=
  (siteNeighbours site).find? (fun u => s.clocked u 8448 && !s.descends u site 8448)

/-- R382: whether a site has lost its clock parent and can take another. -/
def State.unclocked (s : State) (site : Nat) : Bool :=
  s.forwards site && site != s.clockRoot && !s.forwards (s.parentOf site) && (s.newParent site).isSome

/-- R382: the sites that have lost their parent, with the cycle in which it went. -/
def State.orphans (s : State) : List (Nat × Nat) :=
  s.noClock.flatMap (fun e => ((siteNeighbours e.1).filter s.unclocked).map (fun p => (p, e.2)))

/-- R383: the cycle by which a fenced tile has a replacement, while a spare remains and no other dusk is in progress. -/
def State.fenceBounds (s : State) (t : Nat) : List Nat :=
  let x := s.tile t
  if x.fenced && (match s.dusk with | some d => d.tile == t | none => true) &&
    (List.range 8448).any s.isSpare then [x.fencedAt + 65536] else []

/-- R28, R370: the tiles at whose sites a change of the clock arrives next, past sites that hold none. -/
def State.clockTiles (s : State) : Nat → List Nat → List Nat
  | 0, _ => []
  | _, [] => []
  | n + 1, p :: ps => match s.tileAt p with
    | some t => t :: s.clockTiles n ps
    | none => s.clockTiles n (ps ++ (siteNeighbours p).filter (fun q => s.forwards q && q != s.clockRoot && s.parentOf q == p))

/-- R18: time does not pass a cycle in which an eligible slot has not issued, nor the end of a bounded wait or window, nor an instant
at which something falls; the next cycle brings the accesses that a packet's has put off (R228). -/
def State.mayPass (s : State) (n : Nat) : Bool :=
  s.instantsDone n && (match s.dusk with | some d => s.now + n ≤ d.since + 262144 | none => true) &&
  s.orphans.all (fun e => s.now + n ≤ e.2 + 4096) &&
  s.tiles.keys.all (fun t =>
    let x := s.tile t
    (s.fenceBounds t).all (fun c => s.now + n ≤ c) && (n == 1 || !s.portBusy t) &&
    (x.shut || x.bounds.all (fun c => s.now + n ≤ c)) &&
    (List.range 16).all (fun k =>
      let sl := x.slot k
      !(s.enabled && sl.state == .ready && !s.barred t k) || (!sl.retry && max sl.eligAt x.nextIssue ≥ s.now + n)))

def State.tick (s : State) (n : Nat) : Out :=
  if n = 0 || !s.mayPass n then .fault .notEnabled
  else
    let held (t : Nat) : List Nat :=
      (s.held.filter (fun p => p.src == t && p.slot < 16)).map (·.slot) ++ (List.range 16).filter (fun k => s.heldBack t k)
    .next { s with
      now := s.now + n, wall9 := s.wall9 + n * s.ninths, mapHalf := false
      flash := if s.mapHalf then { s.flash with map1 := s.flash.map2 } else s.flash
      tiles := s.tiles.map (fun e => (e.1, (e.2.age s.now n (held e.1)).watchFree (s.freeSlots e.1) s.now)) }

/-! ### The default schedule (log 1) -/

/-- The steps without an instruction word that the module takes of itself. -/
inductive Auto where
  | waitResume (t k : Nat)
  | mergingFill (t k : Nat)
  | migrationDeparture (t k : Nat)
  | loadDepartureTimeout (t k : Nat)
  | qstallTimeout (t k : Nat)
  | childFlitTimeout (t k : Nat)
  | spawnRetry (t k : Nat)
  | migrationFlit (n : Nat)
  | slotGrant (t : Nat)
  | ringToQueue (t : Nat)
  | waiterUnspill (t : Nat)
  | parkRetry (t k : Nat)
  | remoteReadRequest (n : Nat)
  | atomicRequest (n : Nat)
  | peerWindowLoad (n : Nat)
  | trackerQuery (n : Nat)
  | trackerRelease (n : Nat)
  | placementRequest (n : Nat)
  | directoryFillRequest (n : Nat)
  | directoryInvalidate (n : Nat)
  | serviceRequest (n : Nat)
  | readData (n : Nat)
  | atomicResult (n : Nat)
  | writeAcknowledgement (n : Nat)
  | trackerAnswer (n : Nat)
  | admissionAnswer (n : Nat)
  | directoryFill (n : Nat)
  | staleReturn (n : Nat)
  | serviceAnswer (n : Nat)
  | routeSlotGrant (n : Nat)
  | storeWrite (n : Nat)
  | stfWrite (n : Nat)
  | nrAtomicWrite (n : Nat)
  | exitJDecrement (n : Nat)
  | peerWindowStore (n : Nat)
  | copyReadRequest (n : Nat)
  | copyReadData (n : Nat)
  | copyWrite (n : Nat)
  | copyWriteAcknowledgement (n : Nat)
  | counterGridStore (n : Nat)
  | routeDataFlit (n : Nat)
  | routeLastFlit (n : Nat)
  | commandStart (t : Nat) (e : Eng)
  | butterflyStageEnd (t : Nat)
  | macroControlEnd (t : Nat)
  | copyRowEnd (t : Nat)
  | nmeOperationEnd (t : Nat)
  | bufferSlotTake (t : Nat)
  | copySlotTake (t : Nat)
  | scrubStart (t m : Nat)
  | scrubEnd (t m : Nat)
  | teamRetire (t p : Nat)
  | faultMessage (n : Nat)
  | serviceMessage (n : Nat)
  | droppedAnswerRequest (n : Nat)
  | launchReady (kin : Nat)
  | launchRelease (kin : Nat)
  | fieldLaunch (f kin : Nat)
  | admissionOrder (t kin : Nat)
  | teamAdmission (t : Nat)
  | preemptionDecision (t : Nat)
  | quiesce (t p : Nat)
  | quiesceAcknowledge (t : Nat)
  | restore (t a : Nat)
  | liveCountReport
  | instanceComplete (kin : Nat)
  | freeSlotUpdate (t : Nat)
  | seamSequence (t p : Nat)
  | successorReady (kin : Nat)
  | extentDrainComplete (t i : Nat)
  | heldPacketResend (n : Nat)
  | dusk (t : Nat)
  | lossyDusk (t : Nat)
  | modeChangeComplete
  | vectorPassEnd (t : Nat)
  | clockRelock (t : Nat)
  | clockParentSwitch (site : Nat)
  | sample (t : Nat)
  | livenessSweep
  | powerCheck
  | gridInterval (site : Nat)
  | freeCountRefresh
  | errcount (t : Nat)

/-- The step that delivers a packet. -/
def deliverStep (n : Nat) (p : Packet) : Auto :=
  match p.body with
  | .migrate _ => .migrationFlit n
  | _ =>
    if p.ret ≠ .no then .staleReturn n
    else match p.body with
    | .readReq .. => .remoteReadRequest n
    | .atomicReq .. => .atomicRequest n
    | .peerLoad .. => .peerWindowLoad n
    | .trackQuery .. => .trackerQuery n
    | .trackRelease .. => .trackerRelease n
    | .placeReq .. => .placementRequest n
    | .dirReq .. => .directoryFillRequest n
    | .dirInval .. => .directoryInvalidate n
    | .svcReq .. => .serviceRequest n
    | .svcMsg .. => .serviceMessage n
    | .faultMsg .. => .faultMessage n
    | .droppedReq .. => .droppedAnswerRequest n
    | .readData .. => .readData n
    | .failed .. => .readData n
    | .atomicResult .. => .atomicResult n
    | .writeAck .. | .heldMark .. => .writeAcknowledgement n
    | .trackAnswer .. => .trackerAnswer n
    | .admission .. => .admissionAnswer n
    | .dirFill .. | .invalDone .. => .directoryFill n
    | .svcAnswer .. | .droppedMark .. => .serviceAnswer n
    | .routeGrant .. => .routeSlotGrant n
    | .store .. => .storeWrite n
    | .stf .. => .stfWrite n
    | .nrAtomic .. => .nrAtomicWrite n
    | .exitJ .. => .exitJDecrement n
    | .peerStore .. => .peerWindowStore n
    | .migrate _ => .migrationFlit n
    | .copyReadReq .. => .copyReadRequest n
    | .copyData .. => .copyReadData n
    | .copyWrite .. => .copyWrite n
    | .copyAck .. => .copyWriteAcknowledgement n
    | .gridStore _ _ _ ph => if ph < 10 then .counterGridStore n else .copyWrite n
    | .route .. => .routeDataFlit n
    | .routeLast .. => .routeLastFlit n

/-- The steps of a slot that is not READY. -/
def slotSteps (t k : Nat) (sl : Slot) : List Auto :=
  match sl.state with
  | .wait .fill => [.mergingFill t k]
  | .wait (.departure ..) => [.migrationDeparture t k, .loadDepartureTimeout t k, .qstallTimeout t k]
  | .wait (.childFlit ..) => [.migrationDeparture t k, .childFlitTimeout t k]
  | .wait (.resumeFlit ..) => [.migrationDeparture t k, .qstallTimeout t k]
  | .wait (.spawn _) => [.spawnRetry t k]
  | .wait (.park _) => [.parkRetry t k]
  | .wait .reply => []
  | .wait _ => [.waitResume t k]
  | _ => []

/-- R228, R246: what the slots and the engines of a tile do: slots in ascending order, then BFE, CPE and NME, and after the ends of
fills and butterflies `bfly` takes a slot before the tile's own copy engine does. -/
def engineSteps (t : Nat) (x : Tile) : List Auto :=
  ((List.range 16).flatMap (fun k => slotSteps t k (x.slot k))) ++
  (if x.vec.isSome then [.vectorPassEnd t] else []) ++
  [.butterflyStageEnd t, .macroControlEnd t, .copyRowEnd t, .nmeOperationEnd t, .bufferSlotTake t, .copySlotTake t]

/-- The other steps a tile can take of itself. -/
def tileSteps (t : Nat) (x : Tile) : List Auto :=
  [.commandStart t .bfe, .commandStart t .cpe, .commandStart t .nme, .slotGrant t, .ringToQueue t, .waiterUnspill t,
   .teamAdmission t, .clockRelock t, .freeSlotUpdate t] ++
  ((List.range 256).filter (fun m => (x.mac m).state == .scrubbing || (x.mac m).due)).flatMap
    (fun m => [.scrubEnd t m, .scrubStart t m]) ++
  (x.teams.keys.flatMap (fun p => [.seamSequence t p, .teamRetire t p])) ++
  (x.victims.map (fun p => .quiesce t p)) ++ [.quiesceAcknowledge t, .preemptionDecision t] ++
  (x.saves.keys.map (fun a => .restore t a)) ++
  (x.xops.map (fun o => .extentDrainComplete t o.id))

/-- The route number of a flit on VC5. -/
def Packet.routeNum (p : Packet) : Nat := match p.body with
  | .route f | .routeLast f => f.num
  | _ => 0

/-- An entry put before those of a greater key. -/
def insertByKey {α : Type} (f : α → Nat) (e : α) : List α → List α
  | [] => [e]
  | x :: xs => if f e ≤ f x then e :: x :: xs else x :: insertByKey f e xs

/-- R228, R246: the packets under way, in the order in which those that arrive together are taken: VC2, VC0, VC4, the flits of routes by
route number, then the rest. -/
def State.arrivals (s : State) : List (Packet × Nat) :=
  let key (e : Packet × Nat) : Nat := match e.1.vc with
    | 2 => 0
    | 0 => 1
    | 4 => 2
    | 5 => 3 + e.1.routeNum
    | _ => 2 ^ 20
  s.net.zipIdx.foldr (insertByKey key) []

/-- The steps the module can take of itself, in the default order. -/
def State.autoSteps (s : State) : List Auto :=
  ((s.tiles.keys.filter s.sampleDue).map Auto.sample) ++
  (if s.sweepDue then [.livenessSweep] else []) ++ (if s.powerDue then [.powerCheck] else []) ++
  (if s.freshDue then [.freeCountRefresh] else []) ++
  s.gridDue.map Auto.gridInterval ++ s.errsDue.map Auto.errcount ++
  s.tiles.flatMap (fun e => engineSteps e.1 e.2) ++
  (s.arrivals.map (fun e => deliverStep e.2 e.1)) ++
  (List.range s.held.length).map Auto.heldPacketResend ++
  s.tiles.flatMap (fun e => tileSteps e.1 e.2) ++
  s.insts.flatMap (fun e => [.launchReady e.1, .launchRelease e.1, .successorReady e.1, .instanceComplete e.1]) ++
  s.fields.flatMap (fun e => e.2.launches.map (fun kin => .fieldLaunch e.1 kin) ++
    e.2.sent.map (fun u => .admissionOrder u.1 u.2)) ++
  [.liveCountReport] ++
  (match s.dusk with | some d => [.dusk d.tile] | none => (s.duskQueue.take 1).map Auto.dusk) ++
  (s.orphans.map (fun e => Auto.clockParentSwitch e.1)) ++
  ((s.tiles.filter (fun e => e.2.fenced)).map (fun e => Auto.lossyDusk e.1)) ++
  (if s.changing then [.modeChangeComplete] else [])

/-- The next cycle at which something under way falls due. -/
def State.nextWork (s : State) : Option Nat :=
  let times : List Nat := s.tiles.flatMap (fun e =>
    let x := e.2
    x.bounds ++
    (x.slots.flatMap (fun sl => match sl.state with
      | .ready => [max sl.eligAt x.nextIssue]
      | .wait (.spawn c) | .wait (.park c) => [c + 256]
      | .wait (.departure c ..) | .wait (.childFlit c ..) | .wait (.resumeFlit c ..) => [c]
      | _ => [])) ++
    (match x.vec with | some v => [v.due] | none => []) ++
    (match x.bfe with | some r => [r.due] | none => []) ++
    (if s.portBusy e.1 || x.bufs.any (fun b => b.freedAt == some s.now) then [s.now + 1] else [])) ++ s.orphans.map (fun e => e.2 + 4096) ++
    (match s.lastAdvance with | some c => if s.duskQueue.isEmpty then [] else [c + 1048576] | none => [])
  (times.filter (· > s.now)).foldl (fun m c => match m with | none => some c | some d => some (min c d)) none

/-- The next cycle at which something of the module falls due. -/
def State.nextDue (s : State) : Option Nat :=
  match s.nextWork, s.nextInstant with
  | some c, some d => some (min c d)
  | some c, none => some c
  | none, o => o

end Sys2Proof.Machine
end

