-- ==== Sys2Proof/Machine/Life.lean ====
section
/-! DEFINITION. Threads come, wait for slots and end: thread numbers (R24), teams opened by arrivals (R131, R206), the order
in which slots are given (R210, R308), the arrival engine (R206-R208), and killed threads (R197, R312). -/

namespace Sys2Proof.Machine

/-! ### Instances and teams -/

def State.modInst (s : State) (kin : Nat) (f : Inst → Inst) : State :=
  match s.insts.look kin with
  | none => s
  | some i => { s with insts := s.insts.put kin (f i) }

/-- R141: the full budget of a kernel's threads. -/
def State.fullBudget (s : State) (kin : Nat) : Nat :=
  2 ^ (match s.insts.look kin with | some i => i.rec_.hk | none => 16)

/-- R312: a thread of the instance has ended; its tile reports it later. -/
def State.fall (s : State) (kin : Nat) : State := { s with falls := s.falls ++ [kin] }

/-- R24: a thread number. -/
def tidOf (t seq : Nat) : BitVec 32 := BitVec.ofNat 32 (t * 2 ^ 19 + seq % 2 ^ 19)
def birthTile (tid : BitVec 32) : Nat := tid.toNat / 2 ^ 19

/-- R24: the next spawned thread's number on a tile: 16 upward, wrapping from 524,287 to 16. -/
def State.newTid (s : State) (t : Nat) : BitVec 32 × State :=
  let n := (s.tile t).nextSeq
  (tidOf t n, s.modTile t (fun x => { x with nextSeq := if n ≥ 524287 then 16 else n + 1 }))

/-- The position of an instance's team on a tile. -/
def Tile.posOf (x : Tile) (kin : Nat) : Option Nat := (x.teams.find? (fun e => e.2.kin == kin)).map Prod.fst
/-- R307: the lowest free team position. -/
def Tile.freePos (x : Tile) : Option Nat := (List.range 4).find? (fun p => (x.teams.look p).isNone)

/-- R338, R339: whether an instance is quiesced on a tile. -/
def Tile.quiesced (x : Tile) (kin : Nat) : Bool :=
  x.teams.any (fun e => e.2.kin == kin && e.2.closed) || x.saves.any (fun e => e.2.team.kin == kin)

/-- The instruction a slot stands at. -/
def State.waiting (s : State) (t k : Nat) : Option Instr :=
  let sl := s.slot t k
  match s.fetch t sl.codeCtx sl.ipc with
  | .error _ => none
  | .ok w => match decode w with
    | .ok i => some i
    | .error _ => none

/-- R143: whether a slot waits at `seam`, for its team's other threads or for its release. -/
def State.seamWait (s : State) (t k : Nat) : Bool :=
  let sl := s.slot t k
  let begun : Bool := match sl.state with
    | .wait _ => true
    | .ready => sl.retry
    | _ => false
  let spawns : Bool := match sl.pend with
    | .spawn .. => true
    | _ => false
  sl.state == .wait .alone || (begun && !spawns && (match s.waiting t k with | some (.seam ..) => true | _ => false))

/-- R143, R317: threads of a team whose last thread is at `seam`, or of the predecessor of a team held at seam, resident or
quiesced, are not admitted. -/
def State.atSeam (s : State) (t kin : Nat) : Bool :=
  let x := s.tile t
  let held (tm : Team) : Bool := tm.seam.isSome && (match s.insts.look tm.kin with | some i => i.pred == some kin | none => false)
  x.slots.zipIdx.any (fun e => e.1.th.kin == kin && s.seamWait t e.2) ||
  x.teams.any (fun e => held e.2) || x.saves.any (fun e => held e.2.team)

/-- R131, R206: whether a thread of an instance can take a slot: its team is here or a position is free. -/
def State.canSeat (s : State) (t kin : Nat) : Bool :=
  let x := s.tile t
  !x.quiesced kin && !s.atSeam t kin && ((x.posOf kin).isSome || x.freePos.isSome)

/-- R131, R207: the team of an instance, opened without resources where there is none, with its context's queue. -/
def State.openTeam (s : State) (t kin ctx : Nat) : Nat × State :=
  let x := s.tile t
  match x.posOf kin with
  | some p => (p, s)
  | none =>
    let p := x.freePos.getD 0
    let i := s.insts.look kin
    let tm : Team := { kin := kin, ctx := ctx, srkey := match i with | some i => i.rec_.srkey | none => 0#32,
                       prio := match i with | some i => i.rec_.prio | none => 0, serial := x.serial }
    let q := if (x.queues.look ctx).isSome then x.queues
      else x.queues.put ctx { depth := match i with | some i => i.rec_.aq | none => 2, pos := p }
    (p, (s.setTile t { x with teams := x.teams.put p tm, queues := q, serial := x.serial + 1 }).modInst kin
      (fun i => { i with teams := i.teams + 1 }))

/-! ### Giving slots (R210, R215, R308) -/

/-- R210: the lowest-numbered FREE slot for kernels. -/
def State.freeSlot (s : State) (t : Nat) : Option Nat :=
  (s.kernelSlots t).find? (fun k => (s.slot t k).state == .free)

/-- R210 item 1: the oldest woken waiter that has left its slot. -/
def State.wokenClaim (s : State) (t : Nat) : Option Waiter :=
  let x := s.tile t
  (x.waiters ++ x.spilled).find? (fun w => w.woken && w.slot.isNone && !w.quiesced &&
    (match w.th with | some th => s.canSeat t th.kin | none => false))

/-- R308: the queue class of a context on a tile. -/
def Tile.queueClass (x : Tile) (ctx : Nat) : Nat :=
  (x.teams.filter (fun e => e.2.ctx == ctx)).foldl (fun n e => max n e.2.prio) 0

/-- R210: the position of a context's queue in the rotation. -/
def Tile.queuePos (x : Tile) (ctx : Nat) : Nat :=
  match x.teams.find? (fun e => e.2.ctx == ctx) with
  | some e => e.1
  | none => match x.queues.look ctx with | some q => q.pos | none => 3

/-- R210 item 2, R308: the context whose queue's head takes the next slot. -/
def State.queueClaim (s : State) (t : Nat) : Option Nat :=
  let x := s.tile t
  let ready := x.queues.filter (fun e => match e.2.q with | f :: _ => s.canSeat t f.th.kin | [] => false)
  (leastBy (fun (e : Nat × AQueue) => (3 - min 3 (x.queueClass e.1)) * 4 + (x.queuePos e.1 + 3 - x.lastQ) % 4) ready).map Prod.fst

/-- R307, R316: the slots that a launch's or a seam's threads take at once on a tile. -/
def State.thrOn (s : State) (t kin : Nat) : Nat :=
  match s.insts.look kin with
  | some i => if s.isService t && i.rec_.thr = 16 then 15 else i.rec_.thr
  | none => 0

/-- R306, R317: whether the head order of a tile stands ahead of a team held at seam of class `c`. -/
def Tile.orderAhead (x : Tile) (c : Nat) : Bool := match x.orders with | [] => false | o :: _ => o.prio > c

/-- R317: the step of a team held at seam. -/
def Team.seamStep (tm : Team) : Option Nat := tm.seam.map Prod.fst

/-- R317: the slots that teams held at seam claim ahead of every arrival; not one behind an order of a higher class. -/
def State.reserved (s : State) (t : Nat) : Nat :=
  let x := s.tile t
  (x.teams.filter (fun e => e.2.seamStep == some 7 && !x.orderAhead e.2.prio)).foldl (fun n e => n + s.thrOn t e.2.kin) 0

/-- R210, R317: the slot that a claimant of R210 can take. -/
def State.grantSlot (s : State) (t : Nat) : Option Nat := if s.freeSlots t ≤ s.reserved t then none else s.freeSlot t

/-- R132: whether the target is a placement request. -/
def isPlacement (target : Word) : Bool := bits target 23 16 = 0xFF

/-- R210 item 3: the lowest slot that waits in `spawn` for a place on its own tile. -/
def State.localSpawner (s : State) (t : Nat) : Option Nat :=
  (List.range 16).find? (fun k =>
    let sl := s.slot t k
    match sl.state, sl.pend with
    | .wait (.spawn _), .spawn _ target _ _ =>
      (isPlacement target || nameTile (target.extractLsb' 0 24) == t) && s.canSeat t sl.th.kin
    | _, _ => false)

/-- R210: the slot that a waiting spawner takes: none where items 1 and 2 wait. -/
def State.spawnerSlot (s : State) (t : Nat) : Option Nat :=
  if (s.wokenClaim t).isSome || (s.queueClaim t).isSome then none else s.grantSlot t

/-- R210: whether a slot counts as free for a spawn or an arrival: no claimant waits for it. -/
def State.openSlot (s : State) (t : Nat) : Option Nat :=
  if (s.localSpawner t).isSome then none else s.spawnerSlot t

/-- Macros and buffers that nothing owns and no scrub holds. -/
def Tile.macrosFree (x : Tile) (f n : Nat) : Bool :=
  (List.range n).all (fun j => let c := x.mac (f + j)
    c.owner.isNone && c.state != .scrubbing && !c.due && c.loads == 0)
def Tile.bufsFree (x : Tile) (f n : Nat) : Bool := (List.range n).all (fun j => (x.buf (f + j)).owner.isNone)

/-- R306: position, macros and buffers of an order; the slots are the rest of it. -/
def State.orderRoom (s : State) (t : Nat) (o : AdmOrder) : Bool :=
  let x := s.tile t
  match s.insts.look o.kin with
  | none => false
  | some i => s.canSeat t o.kin && x.macrosFree i.rec_.fmac i.rec_.nmac && x.bufsFree i.rec_.fcb i.rec_.ncb

/-- R308: the highest class among the arrivals that wait for a slot. -/
def State.waitingClass (s : State) (t : Nat) : Option Nat :=
  let x := s.tile t
  (x.queues.filter (fun e => match e.2.q with | f :: _ => s.canSeat t f.th.kin | [] => false)).foldl
    (fun o e => some (max (o.getD 0) (x.queueClass e.1))) none

/-- R308: whether the head order takes slots ahead of the queues. -/
def State.passesQueues (s : State) (t : Nat) (o : AdmOrder) : Bool :=
  match s.waitingClass t with
  | none => true
  | some c => o.prio > c

/-- R317: a team held at seam whose steps 6 and 7 stand ahead of orders of class `c`. -/
def State.heldAhead (s : State) (t c : Nat) : Bool :=
  (s.tile t).teams.any (fun e => match e.2.seam with | some (n, _) => n ≥ 6 && e.2.prio ≥ c | none => false)

/-- R210, R308: the queue that takes the next slot, unless an admission order of a higher class waits only for slots. -/
def State.queueNext (s : State) (t : Nat) : Option Nat :=
  let held := match (s.tile t).orders with
    | [] => false
    | o :: _ => s.orderRoom t o && s.passesQueues t o && !s.heldAhead t o.prio
  if held then none else s.queueClaim t

/-- R140, R206, R210: whether the head of a context's queue takes the slot that a thread gives up. -/
def State.queueTakes (s : State) (t ctx : Nat) : Bool :=
  (s.wokenClaim t).isNone && s.freeSlots t ≥ s.reserved t && s.queueNext t == some ctx

/-- R207: queues that neither a team nor an entry keeps are removed. -/
def Tile.tidyQueues (x : Tile) : Tile :=
  { x with queues := x.queues.filter (fun e => !e.2.q.isEmpty || x.teams.any (fun u => u.2.ctx == e.1) ||
      x.ring.any (fun f => f.th.ctx == e.1)) }

/-- R215: the parked thread with the oldest installation that holds its slot. -/
def State.evictable (s : State) (t : Nat) : Option Waiter :=
  let x := s.tile t
  (x.waiters ++ x.spilled).find? (fun w => !w.woken && !w.quiesced &&
    (match w.slot with | some k => (s.slot t k).state == .parked | none => false))

/-- A slot without a thread; its fault sequence number (R196), the end of its last instruction's occupancy (R17) and its request
sequence (R248) stay. -/
def Slot.vacant (sl : Slot) : Slot := { fseq := sl.fseq, eligAt := sl.eligAt, reqSeq := sl.reqSeq }

/-! ### Members of a team and their barrier (R142) -/

/-- Whether a slot holds a thread of a team position. -/
def State.member (s : State) (t p k : Nat) : Bool :=
  !s.atService t k && (s.slot t k).state != .free && (s.slot t k).team == p

/-- R142: all members of the team are at `bar`. -/
def State.allAtBar (s : State) (t p : Nat) : Bool :=
  (List.range 16).all (fun k => !s.member t p k || (s.slot t k).state == .wait .barrier)

/-- R142: where all members are at `bar` they go on together. -/
def State.barrier (s : State) (t p : Nat) : State :=
  if s.allAtBar t p then
    s.modTile t (fun x => (List.range 16).foldl (fun x k => if s.member t p k then x.modSlot k Slot.finishReady else x) x)
  else s

/-- R142: the slot gives up its thread, which is no member any longer; the members left at `bar` go on at that moment. -/
def State.vacate (s : State) (t k : Nat) : State := ((s.stepLeft t k).modSlot t k Slot.vacant).barrier t (s.slot t k).team

/-- R215: its context moves into its waiter entry and the slot is given away; its heartbeat budget and its pinning state stay with it
(R337, R341; log 26). -/
def State.evict (s : State) (t : Nat) (w : Waiter) : State :=
  match w.slot with
  | none => s
  | some k =>
    let sl := s.slot t k
    let mv (l : List Waiter) : List Waiter :=
      l.map (fun (u : Waiter) => if u.seq == w.seq then
        { u with slot := none, th := some sl.th, hb := sl.budget, prev := sl.prev, window := sl.window } else u)
    (s.modTile t (fun x => { x with waiters := mv x.waiters, spilled := mv x.spilled })).vacate t k

/-- R213: the pinning state an arrival of a kind sets. -/
def Slot.pinState (sl : Slot) (f : Flit) : Slot :=
  if f.kind = 0 then { sl with prev := some f.frm, window := f.window }
  else if f.kind = 5 then { sl with window := f.window, resent := true }
  else if f.kind = 6 then { sl with prev := if f.frm = 0xFFFFFF#24 then none else some f.frm, window := f.window }
  else { sl with th := sl.th.setBounce 0 }

/-! ### The instruction a slot stands at -/

/-- The instruction at a slot's `pc` with the payloads and the modifier of its XW run (R60). -/
def State.runAt (s : State) (t ctx : Nat) (pc : Word) (ext : List (BitVec 25)) : Nat → Option (Instr × List (BitVec 25))
  | 0 => none
  | n + 1 => match s.fetch t ctx pc with
    | .error _ => none
    | .ok w => match decode w with
      | .ok (.xwExtension e) => s.runAt t ctx (pc + 4#64) (ext ++ [e]) n
      | .ok (.xwModifier _ _) => s.runAt t ctx (pc + 4#64) ext n
      | .ok i => some (i, ext)
      | .error _ => none

/-- R204, R258: the effective address of the instruction, or the tile name of a `hop` or `spawn`, 24 bits of its register; 0 for
any other. -/
def effAddr (th : Thread) (i : Instr) (ext : List (BitVec 25)) : Word :=
  match i with
  | .ld _ b z m _ _ f | .st _ b z m _ _ f => (addrM th b m (sizeBytes z) ext f).1
  | .ldx _ a b z _ _ | .stx _ a b z _ _ => addrX th a b (sizeBytes z)
  | .ldf _ b _ _ f | .stf _ b _ _ f => th.regs.get b + immWord ext f * 8#64
  | .ldr _ b z _ _ f => th.regs.get b + immWord ext f * BitVec.ofNat 64 (sizeBytes z)
  | .join a _ | .waitwEq a _ | .waitwNe a _ | .waitwGe a _ | .exitJ a => th.regs.get a
  | .aadd _ a _ _ _ _ _ | .aand _ a _ _ _ _ _ | .aor _ a _ _ _ _ _ | .axor _ a _ _ _ _ _ | .amin _ a _ _ _ _ _
  | .amax _ a _ _ _ _ _ | .aminu _ a _ _ _ _ _ | .amaxu _ a _ _ _ _ _ | .aswp _ a _ _ _ _ _ => th.regs.get a
  | .afadd _ a _ _ _ _ | .afmax _ a _ _ _ _ | .afmin _ a _ _ _ _ => th.regs.get a
  | .acas _ a _ _ _ _ => th.regs.get a
  | .hop a | .spawn _ a _ | .spawnM _ a _ => th.reg a &&& 0xFFFFFF#64
  | _ => 0#64

def State.addrAt (s : State) (t k : Nat) : Word :=
  let th := (s.slot t k).th
  match s.runAt t th.ctx th.pc [] 3 with
  | some (i, ext) => effAddr th i ext
  | none => 0#64

/-- R206: a context takes slot `k`: READY with a full budget, its team opened if need be; it issues once the occupancy of the slot's
last instruction has ended (R17). One that a launch starts stopped is STOPPED (R307). -/
def State.seat (s : State) (t k : Nat) (f : Flit) : State :=
  let (p, s) := s.openTeam t f.th.kin f.th.ctx
  let full := s.fullBudget f.th.kin
  let s := s.modSlot t k (fun sl =>
    ({ state := if f.stop then .stopped .debug else .ready, th := f.th, ipc := f.th.pc, team := p, budget := full,
       eligAt := sl.eligAt, fseq := sl.fseq, reqSeq := sl.reqSeq, released := f.released } : Slot).pinState f)
  let s := s.emit t k 2 (if f.kind = 6 then 0#64 else f.frm.zeroExtend 64)
  match f.back with
  | none => s
  | some (code, n) => s.raise t k code (s.addrAt t k) n

/-! ### Killed threads (R197, R312) -/

def HeldAcc.mapPacket (f : Packet → Packet) : HeldAcc → HeldAcc
  | .packet p => .packet (f p)
  | h => h

/-- Every packet on its way or held, changed. -/
def State.mapPackets (s : State) (f : Packet → Packet) : State :=
  { s with net := s.net.map f, held := s.held.map f,
           tiles := Map.mapVals (fun (x : Tile) =>
             { x with pendings := x.pendings.map (fun (e : Pending) =>
                        { e with writes := e.writes.map f, held := e.held.map (·.mapPacket f) })
                      overflow := x.overflow.map (·.mapPacket f) }) s.tiles }

/-- Packets of a killed thread's requests, whose replies find nobody: slot 20 stands for none. Its instance does not complete
before they are performed (R232). -/
def State.orphan (s : State) (t k : Nat) : State :=
  let kin := (s.slot t k).th.kin
  s.mapPackets (fun p =>
    if p.src == t && p.slot == k && p.vc != 1 then { p with slot := 20, kin := kin }
    else if p.dst == t && p.slot == k && p.vc == 1 then { p with slot := 20 } else p)

/-- R197: the inline callers of a thread, pushed on its behalf, are killed with it. -/
def State.killCallers (s : State) (tid : BitVec 32) : Nat → State
  | 0 => s
  | n + 1 =>
    let b := birthTile tid
    match (s.tile b).frames.find? (fun f => f.child == tid) with
    | none => s
    | some f =>
      let s := s.modTile b (fun x => { x with frames := x.frames.filter (fun g => g.child != tid) })
      (s.releaseHandles b f.th f.th.kin).killCallers f.th.tid n

/-- R197, R312: a context outside a slot ends as killed. -/
def State.killContext (s : State) (t : Nat) (th : Thread) : State :=
  ((s.releaseHandles t th th.kin).killCallers th.tid th.inline).fall th.kin

/-- R197 kind 4: the slot becomes FREE, the handles are released, and the inline callers end too. -/
def State.killThread (s : State) (t k : Nat) : State :=
  let th := (s.slot t k).th
  let s := (s.orphan t k).killContext t th
  (s.modTile t (fun x =>
    { x with waiters := x.waiters.filter (fun w => w.slot != some k)
             spilled := x.spilled.filter (fun w => w.slot != some k)
             vec := match x.vec with | some v => if v.slot = k then none else some v | none => none })).vacate t k

/-! ### Arrivals (R206-R208) -/

/-- What a tile does with an arriving context. -/
inductive Arrival where
  | took (s : State)       -- admitted or queued
  | refused                -- a child that no slot or queue takes
  | dropped (s : State)    -- of a killed instance
  | full                   -- the flit is not accepted (R209)
  deriving DecidableEq, Repr

/-- R132, R312: a child that is admitted or queued: numbered by the tile that takes it, and counted. -/
def State.birth (s : State) (t : Nat) (f : Flit) : Flit × State :=
  if f.kind ≠ 3 then (f, s)
  else
    let (tid, s) := s.newTid t
    ({ f with th := { f.th with tid := tid } }, s.modInst f.th.kin (fun i => { i with live := i.live + 1 }))

def State.killedInst (s : State) (kin : Nat) : Bool :=
  match s.insts.look kin with | some i => i.killed | none => true

/-- R131: the child's context before a tile numbers it. -/
def childOf (th : Thread) (pc : Word) (m debug : Bool) : Thread :=
  { pc := pc, regs := { w0 := th.regs.w0, w1 := th.regs.w1, w2 := th.regs.w2, w3 := th.regs.w3 },
    st := (th.st &&& 0x0400000F#64) ||| (if m || th.migratable then 0x01000000#64 else 0#64) |||
      (if debug then 0x02000000#64 else 0#64),
    kin := th.kin, ctx := th.ctx }

def State.debuggable (s : State) (ctx : Nat) : Bool := match s.ctxs.look ctx with | some c => c.debuggable | none => false

/-- The flit of the child of the `spawn` that slot `k` waits at. -/
def State.childFlit (s : State) (t k : Nat) (pc : Word) (m onlyFree : Bool) : Flit :=
  let th := (s.slot t k).th
  { kind := 3, th := childOf th pc m (s.debuggable th.ctx), frm := s.name t, caller := some k, onlyFree := onlyFree }

/-- R132: the child is admitted or queued: the caller goes on. -/
def State.spawned (s : State) (t k : Nat) (d : Reg) (tid : BitVec 32) : State :=
  (s.emit t k 4 (tid.zeroExtend 64)).modSlot t k
    (fun sl => { sl with th := sl.th.setReg d (tid.zeroExtend 64), state := .ready }.finish)

/-- R132: the child in slot `j` of its caller's tile. -/
def State.spawnIn (s : State) (t k j : Nat) (d : Reg) (pc : Word) (m : Bool) : State :=
  let (f, s) := s.birth t (s.childFlit t k pc m true)
  (s.seat t j f).spawned t k d f.th.tid

/-- R132, R210 item 3: each slot that a waiting spawner of the tile can take is given to it at once, before anything else may have it;
at most as many as the tile has slots. -/
def State.serveSpawners (s : State) (t : Nat) : Nat → State
  | 0 => s
  | n + 1 => match s.localSpawner t, s.spawnerSlot t with
    | some k, some j => match (s.slot t k).pend with
      | .spawn d _ pc m => (s.spawnIn t k j d pc m).serveSpawners t n
      | _ => s
    | _, _ => s

/-- R206 steps 2 and 3, for a flit whose generation is current. A slot that a waiting spawner takes is not free for it (R210). -/
def State.arrive (s : State) (t : Nat) (f : Flit) : Arrival :=
  let x := s.tile t
  let kin := f.th.kin
  if s.killedInst kin then (if f.kind = 3 then .refused else .dropped (s.killContext t f.th))
  else
    let ring : Arrival := if f.kind = 3 then .refused
      else if x.ring.length < 65536 then .took (s.modTile t (fun x => { x with ring := x.ring ++ [f] })) else .full
    if x.quiesced kin then
      match x.saves.find? (fun e => e.2.team.kin == kin) with
      | some (a, v) =>
        if v.log.length < 14848 then
          let (f, s) := s.birth t f
          .took (s.modTile t (fun x => { x with saves := x.saves.put a { v with log := v.log ++ [f] } }))
        else ring
      | none => ring
    else
      let s := s.serveSpawners t 16
      match s.openSlot t, s.canSeat t kin with
      | some k, true =>
        let (f, s) := s.birth t f
        .took (s.seat t k f)
      | _, _ =>
        if f.onlyFree then .refused
        else match (s.tile t).queues.look f.th.ctx with
          | some q =>
            if q.q.length < q.depth then
              let (f, s) := s.birth t f
              .took (s.modTile t (fun x => { x with queues := x.queues.put f.th.ctx { q with q := q.q ++ [f] } }))
            else ring
          | none => ring

/-- The number of the child that a tile has just taken. -/
def State.lastTid (s : State) (t : Nat) : BitVec 32 :=
  let n := (s.tile t).nextSeq
  tidOf t (if n = 16 then 524287 else n - 1)

end Sys2Proof.Machine
end

