-- ==== Sys2Proof/Machine/Access.lean ====
section
/-! DEFINITION. An access that reaches its home: residency and pending entries (R260-R262, R292), the atomic operations
(R122-R124), writes performed at the home, and the mapping of a granule (R199, R260). -/

namespace Sys2Proof.Machine

/-! ### Atomic operations -/

/-- R123: the FP32 atomics' fixed rules. -/
def atomFp (op : AtomOp) (old b : Nat) : Nat :=
  let x := fp32.value old
  let y := fp32.value b
  match op with
  | .fadd => (roundTo fp32 rne (addVal 0 x y)).1
  | .fmax | .fmin => match pickMinMax (op == .fmax) x y with
    | .first => old
    | .second => b
    | .nan _ => fp32.nanCode
  | _ => old

/-- R122: the new word of an atomic on an `n`-bit word. -/
def atomNew (op : AtomOp) {n : Nat} (old b : BitVec n) : BitVec n :=
  match op with
  | .add => old + b
  | .and => old &&& b
  | .or => old ||| b
  | .xor => old ^^^ b
  | .min => if b.slt old then b else old
  | .max => if old.slt b then b else old
  | .minu => if b.ult old then b else old
  | .maxu => if old.ult b then b else old
  | .swp => b
  | .fadd | .fmax | .fmin => BitVec.ofNat n (atomFp op old.toNat b.toNat)

/-- R122, R124: old value, new value and whether the word is written; `none` for `acas` with compare value `c`. -/
def atomStep (op : Option AtomOp) {n : Nat} (old b c : BitVec n) : BitVec n × Bool :=
  match op with
  | some op => (atomNew op old b, true)
  | none => if old = c then (b, true) else (old, false)

/-- The old value of the atomic, zero-extended, and the word it leaves at an address. -/
def atomWord (op : Option AtomOp) (wide : Bool) (a w b c : Word) : Word × Word × Bool :=
  if wide then
    let (v, wr) := atomStep op w b c
    (w, v, wr)
  else
    let old : BitVec 32 := BitVec.ofNat 32 (takeBytes (offOf a) 4 w)
    let (v, wr) := atomStep op old (b.extractLsb' 0 32) (c.extractLsb' 0 32)
    (old.zeroExtend 64, placeBytes (offOf a) (v.zeroExtend 64), wr)

/-- The atomic performed in the slice of the home (R121, R236); on a poisoned word it changes nothing (R113). -/
def State.homeAtomic (s : State) (t ctx : Nat) (a : Word) (op : Option AtomOp) (wide : Bool) (b c : Word) (uo : Bool) :
    State × Word × Bool :=
  let s := s.slicePrep t ctx a uo
  let w := s.sliceWord t ctx a
  if w.poison then (s, 0#64, true)
  else
    let (old, v, wr) := atomWord op wide a w.data b c
    if wr then
      let s := s.sliceMod t ctx a (fun w => w.write (byteMask (offOf a) (if wide then 8 else 4)) v)
      (s.wake t (objWordKey ctx a) (s.sliceWord t ctx a).data, old, false)
    else (s, old, false)

/-! ### Residency of an access (R260, R292) -/

/-- How a home takes an access. -/
inductive Gate where
  | go
  | hold                  -- an extent operation of the granule is under way
  | lost                  -- R384
  | elsewhere             -- the granule's home is another tile
  | join                  -- not resident, with a pending entry
  | open_                 -- not resident, with an entry free
  | full                  -- not resident, and no entry is free
  deriving DecidableEq, Repr

def Pending.is (p : Pending) (ctx obj g : Nat) : Bool := p.ctx == ctx && p.obj == obj && p.gran == g
def Tile.pendingOf (x : Tile) (ctx : Nat) (a : Word) : Option Pending := x.pendings.find? (fun p => p.is ctx (objOf a) (granOf a))

/-- R294 step 8: whether accesses of a granule are still held; an access that has been let go passes them. -/
def Tile.holds (x : Tile) (ctx : Nat) (a : Word) (pass : Bool) : Bool :=
  !pass && (match x.pendingOf ctx a with | some p => p.drain | none => false)

def State.gate (s : State) (t ctx : Nat) (a : Word) (pass : Bool := false) : Gate :=
  let x := s.tile t
  match s.resid t ctx a with
  | .draining => .hold
  | .code | .page _ => if x.holds ctx a pass then .hold else .go
  | .lost => if x.holds ctx a pass then .hold else .lost
  | .elsewhere => if x.holds ctx a pass then .hold else .elsewhere
  | .absent =>
    if x.holds ctx a pass then .hold
    else if (x.pendingOf ctx a).isSome then .join else if x.pendings.length < 64 then .open_ else .full

def State.modPending (s : State) (t ctx : Nat) (a : Word) (f : Pending → Pending) : State :=
  s.modTile t (fun x => { x with pendings := x.pendings.map (fun p => if p.is ctx (objOf a) (granOf a) then f p else p) })

/-- R274: a thread as a pending entry records it: its tile, slot and `tid`. -/
def State.asPoster (s : State) (t k : Nat) : Nat × Nat × BitVec 32 := (t, k, (s.slot t k).th.tid)

/-- R274: whether a thread is the one that posted for an entry, in whatever slot it now runs. -/
def Pending.postedBy (p : Pending) (th : Thread) : Bool :=
  p.posterKin == th.kin && (match p.poster with | some w => w.2.2 == th.tid | none => false)

/-- R274: whether a thread is the posting thread of the entry of a granule at home `h`. -/
def State.posted (s : State) (h ctx : Nat) (a : Word) (t k : Nat) : Bool :=
  match (s.tile h).pendingOf ctx a with
  | some p => p.postedBy (s.slot t k).th
  | none => false

/-- R260: an entry opened at home `t` by a write or an engine. -/
def State.openPending (s : State) (t ctx : Nat) (a : Word) : State :=
  s.modTile t (fun x => { x with pendings := x.pendings ++ [{ ctx := ctx, obj := objOf a, gran := granOf a }] })

/-- R274: the thread in slot `k` of tile `u` as the posting thread of an entry of home `h`. -/
def State.setPoster (s : State) (h ctx : Nat) (a : Word) (u k : Nat) : State :=
  s.modPending h ctx a (fun p => { p with poster := some (s.asPoster u k), posterKin := (s.slot u k).th.kin })

/-- R260, R274: an entry of home `h` opened by a posting thread. -/
def State.openPosted (s : State) (h ctx : Nat) (a : Word) (u k : Nat) : State := (s.openPending h ctx a).setPoster h ctx a u k

/-- The key of a granule by which a blocked slot names the entry it joined. -/
def joinKey (ctx : Nat) (a : Word) : Nat := granKey ctx (objOf a) (granOf a)

/-- R260: slot `k` of tile `t` blocks on the pending entry at home `h`, without a message. -/
def State.joinPending (s : State) (h ctx : Nat) (a : Word) (t k : Nat) : State :=
  let s := s.modPending h ctx a (fun p => { p with threads := p.threads ++ [(t, k)] })
  s.modSlot t k (fun sl =>
    { sl.block { code := FaultCode.notRes, pc := sl.th.pc, addr := a, extra := 0#64 } with joined := some (joinKey ctx a) })

/-- R261: held accesses of all entries of a tile. -/
def Tile.heldCount (x : Tile) : Nat :=
  (x.pendings.map (fun p => p.writes.length + p.held.length)).foldl (· + ·) 0 + x.overflow.length

/-- R261: whether another access can be held for a granule. -/
def Tile.canHold (x : Tile) (ctx : Nat) (a : Word) : Bool :=
  (match x.pendingOf ctx a with | some e => e.writes.length + e.held.length | none => 0) < 4096 && x.heldCount < 65536

/-- A held access of a slot or an engine command is held once: an earlier one, given up by a stop, is forgotten. -/
def HeldAcc.sameAs (h g : HeldAcc) : Bool :=
  match h, g with
  | .slot k _ _, .slot j _ _ => k == j
  | .engine e p n _ _, .engine f q m _ _ => e == f && p == q && n == m
  | _, _ => false
def Tile.unhold (x : Tile) (h : HeldAcc) : Tile :=
  { x with pendings := x.pendings.map (fun (p : Pending) => { p with held := p.held.filter (fun g => !h.sameAs g) })
           overflow := x.overflow.filter (fun g => !h.sameAs g) }

/-- R292: an access of a granule whose extent operation is under way joins the granule's pending entry, or waits for a free
one (R260). -/
def State.holdAcc (s : State) (t ctx : Nat) (a : Word) (h : HeldAcc) : State :=
  let s := match h with
    | .slot .. | .engine .. => s.modTile t (fun x => x.unhold h)
    | _ => s
  let x := s.tile t
  let join (s : State) : State := s.modPending t ctx a (fun p => { p with drain := true, held := p.held ++ [h] })
  if (x.pendingOf ctx a).isSome then join s
  else if x.pendings.length < 64 then join (s.openPending t ctx a)
  else s.setTile t { x with overflow := x.overflow ++ [h] }

/-- R202, R292: the tile forgets the records of an address. -/
def State.forget (s : State) (t ctx : Nat) (a : Word) : State :=
  s.modTile t (fun x => { x with odc := x.odc.filter (fun e => !e.key.serves ctx a) })

/-- A thread's access at its own tile as home: `go` performs it where it is resident (R256, R260, R274, R292, R384). -/
def State.atHome (s : State) (t k ctx : Nat) (a : Word) (go : State → State) : State :=
  match s.gate t ctx a (s.slot t k).pass with
  | .go => go s
  | .hold => (s.holdAcc t ctx a (.slot k ctx a)).modSlot t k (fun sl => { sl.waitFor .extent with pass := false })
  | .lost => s.raise t k FaultCode.ue a 4#64
  | .elsewhere =>
    if (s.slot t k).resent then s.raise t k FaultCode.stale a ((s.name t).zeroExtend 64)
    else (s.forget t ctx a).modSlot t k (fun sl => { sl.waitFor .extent with resent := true })
  | .join =>
    if s.posted t ctx a t k then (s.setPoster t ctx a t k).raise t k FaultCode.notRes a 0#64 else s.joinPending t ctx a t k
  | .open_ => (s.openPosted t ctx a t k).raise t k FaultCode.notRes a 0#64
  | .full => s.raise t k FaultCode.notRes a 2#64

/-! ### Writes and engine accesses performed at the home -/

/-- The acknowledgement of a write to its issuer (R106), for a held write with the mark lowered (R262). -/
def State.ackWrite (s : State) (h : Nat) (p : Packet) (tracker : Option Nat) (err : Option (Nat × Word × Word)) : State :=
  s.answer h p.src p.slot (.writeAck tracker err)

/-- Address and context of a packet that names a word. -/
def Body.place : Body → Option (Nat × Word)
  | .readReq ctx a _ | .atomicReq ctx a .. | .store ctx a .. | .stf ctx a .. | .nrAtomic ctx a .. | .exitJ ctx a
  | .copyReadReq _ ctx a _ | .copyWrite _ ctx a .. | .gridStore ctx a .. => some (ctx, a)
  | _ => none

/-- The tracker that counts a packet's write. -/
def Body.tracker : Body → Option Nat
  | .store _ _ _ _ _ tr | .stf _ _ _ tr | .nrAtomic _ _ _ _ _ tr => tr
  | _ => none

/-- Words written at consecutive addresses (R357, R361). -/
def State.putWords (s : State) (h ctx : Nat) (a : Word) : List Word → State
  | [] => s
  | w :: ws => (s.homeStore h ctx a 0xFF#8 w false (s.uoOf ctx a)).putWords h ctx (a + 8#64) ws

/-- A write, or an engine's read, performed at its home `h` (R106, R107, R113, R181). -/
def State.performPacket (s : State) (h : Nat) (p : Packet) : State :=
  match p.body with
  | .store ctx a z v _ tr =>
    (s.homeStore h ctx a (byteMask (offOf a) (sizeBytes z)) (placeBytes (offOf a) v) false (s.uoOf ctx a)).ackWrite h p tr none
  | .stf ctx a v tr => (s.homeFill h ctx a v (s.uoOf ctx a)).ackWrite h p tr none
  | .nrAtomic ctx a op wide b tr =>
    let (s, _, bad) := s.homeAtomic h ctx a (some op) wide b 0#64 (s.uoOf ctx a)
    s.ackWrite h p tr (if bad then some (FaultCode.ue, a, 0#64) else none)
  | .copyReadReq _ ctx a i =>
    let (s, w) := s.homeRead h ctx a
    s.send { vc := 4, src := h, dst := p.src, gen := s.gen, slot := p.slot, body := .copyData i w.data w.poison 0 }
  | .copyWrite _ ctx a mask v poison =>
    let s := s.homeStore h ctx a mask v false (s.uoOf ctx a)
    let s := if poison then s.homePoison h ctx a else s
    s.send { vc := 4, src := h, dst := p.src, gen := s.gen, slot := p.slot, body := .copyAck 0 }
  | .gridStore ctx a ws ph =>
    (s.putWords h ctx a ws).send { vc := 4, src := h, dst := p.src, gen := s.gen, slot := p.slot, body := .copyAck ph }
  | _ => s

/-- R107, R181: a write or engine access that its home does not perform, with a fault code for a write or an engine's error
code (R167) for an engine access. -/
def State.discardPacket (s : State) (h : Nat) (p : Packet) (code eng : Nat) (extra : Word) : State :=
  match p.body with
  | .store _ a _ _ _ tr | .stf _ a _ tr | .nrAtomic _ a _ _ _ tr => s.ackWrite h p tr (some (code, a, extra))
  | .copyReadReq _ _ _ i =>
    s.send { vc := 4, src := h, dst := p.src, gen := s.gen, slot := p.slot, body := .copyData i 0#64 false eng }
  | .copyWrite .. => s.send { vc := 4, src := h, dst := p.src, gen := s.gen, slot := p.slot, body := .copyAck eng }
  | .gridStore _ _ _ ph =>
    s.send { vc := 4, src := h, dst := p.src, gen := s.gen, slot := p.slot, body := .copyAck (if ph = 10 then 12 else ph) }
  | _ => s

/-- R262: the held mark raised or lowered at the tracker of a held write. -/
def State.markHeld (s : State) (h : Nat) (p : Packet) (up : Bool) : State :=
  match p.body.tracker with
  | some i => s.answer h p.src p.slot (.heldMark i up)
  | none => s

/-- R260: the notice of a pending entry that a write or an engine access opened, or of a granule its home mapped. -/
def State.residNotice (s : State) (t ctx : Nat) (a extra : Word) : State := s.chargeNotice t FaultCode.notRes ctx a extra

def Tile.run (x : Tile) : Eng → Option Run
  | .bfe => x.bfe
  | .cpe => x.cpe
  | .nme => x.nme

def Tile.setRun (x : Tile) (e : Eng) (r : Option Run) : Tile :=
  match e with
  | .bfe => { x with bfe := r }
  | .cpe => { x with cpe := r }
  | .nme => { x with nme := r }

/-- A command of an engine that waits for a pending entry, as the entry names it, changed. -/
def Tile.wakeEngine (x : Tile) (e : Eng × Nat × Nat) (f : Run → Run) : Tile :=
  x.setRun e.1 ((x.run e.1).map (fun (r : Run) =>
    if r.pos = e.2.1 ∧ r.cmd.ticket = e.2.2 ∧ r.wait = .pending then f { r with wait := .run } else r))

/-- Engines that waited on an entry go on; `kill` when it was killed. -/
def Tile.wakeEngines (x : Tile) (es : List (Eng × Nat × Nat)) (kill : Bool) : Tile :=
  es.foldl (fun x e => x.wakeEngine e (fun r => { r with killed := kill })) x

/-- R163, R260: the name of a command in a pending entry. -/
def Run.asWaiter (r : Run) (e : Eng) : Eng × Nat × Nat := (e, r.pos, r.cmd.ticket)

/-- Whether a slot is blocked on the entry of a granule, without having posted. -/
def Slot.joinedTo (sl : Slot) (key : Nat) : Bool := sl.state == .blocked && sl.joined == some key

/-- A thread blocked on an entry, without having posted, issues its access again. -/
def Slot.unjoin (sl : Slot) (key : Nat) : Slot :=
  if sl.joinedTo key then { sl with state := .ready, fault := none, joined := none } else sl
def SavedSlot.unjoin (r : SavedSlot) (key : Nat) : SavedSlot :=
  if r.state = 4 ∧ r.slot.joined = some key then { r with state := 0, slot := { r.slot with fault := none, joined := none } } else r

/-- R199, R260: the threads blocked on the entry of a granule without having posted, in slots and in save areas, issue their
accesses again. -/
def State.releaseJoined (s : State) (key : Nat) : State :=
  { s with tiles := Map.mapVals (fun (x : Tile) =>
    { x with slots := x.slots.map (·.unjoin key)
             saves := Map.mapVals (fun (v : Save) => { v with slots := v.slots.map (·.unjoin key) }) x.saves }) s.tiles }

/-- R290: the lowest mapping page of a tile that no extent uses. -/
@[irreducible] def Tile.freePage (x : Tile) : Option Nat :=
  (List.range 31744).find? (fun p => !x.extents.any (fun e => e.2.page == p))
theorem Tile.freePage_def (x : Tile) : x.freePage = (List.range 31744).find? (fun p => !x.extents.any (fun e => e.2.page == p)) := by
  delta Tile.freePage; exact Eq.refl _

/-- R291, R295, R384: an entry of the extent table; the TLB forgets what it held of the granule, which a lossy dusk has no longer
lost. -/
def Tile.putExtent (x : Tile) (e : Extent) : Tile :=
  { x.tlbDrop e.ctx e.obj e.gran with
    extents := x.extents.put e.page e
    remapped := if x.lossy then insertNat x.remapped (granKey e.ctx e.obj e.gran) else x.remapped }

/-- Place of a held access: its context and address. -/
def HeldAcc.place : HeldAcc → Option (Nat × Word)
  | .packet p => p.body.place
  | .engine _ _ _ ctx a => some (ctx, a)
  | .slot _ ctx a => some (ctx, a)
  | .host r a => some (r.ctx, a)
  | .peer q a => some (q.ctx, a)

/-- Whether a held access is of a granule. -/
def HeldAcc.of (h : HeldAcc) (ctx : Nat) (a : Word) : Bool :=
  match h.place with
  | some (c, b) => c == ctx && objOf b == objOf a && granOf b == granOf a
  | none => false

/-- R107, R260, R292: an access that waited for a free entry joins the entry of its granule; one that an extent operation holds
stays held. -/
def State.joinHeld (s : State) (t ctx : Nat) (a : Word) (h : HeldAcc) : State :=
  let draining : Bool := s.resid t ctx a == .draining
  s.modPending t ctx a (fun e => match draining, h with
    | false, .packet p => { e with writes := e.writes ++ [p] }
    | false, .engine g pos n _ _ => { e with engines := e.engines ++ [(g, pos, n)] }
    | _, _ => { e with held := e.held ++ [h], drain := true })

/-- Whether a slot's content is blocked on NOTRES in the granule of an entry. -/
def Slot.faultsIn (sl : Slot) (e : Pending) : Bool :=
  sl.th.ctx == e.ctx && (match sl.fault with
    | some f => f.code == FaultCode.notRes && objOf f.addr == e.obj && granOf f.addr == e.gran
    | none => false)

/-- R256, R260, R274: whether a slot's content is blocked on an entry: its posting thread, or one that joined it. -/
def Pending.blocks (e : Pending) (sl : Slot) : Bool :=
  sl.joined == some (granKey e.ctx e.obj e.gran) || (e.postedBy sl.th && sl.faultsIn e)

/-- The slots of the wafer that are blocked on an entry. -/
def State.blockedOn (s : State) (e : Pending) : List (Nat × Nat) :=
  s.tiles.flatMap (fun u => (u.2.slots.zipIdx.filter (fun q => q.1.state == .blocked && q.1.kept.isNone && e.blocks q.1)).map
    (fun q => (u.1, q.2)))

/-- R198, R266: a thread blocked on a killed entry is killed; one whose team is being quiesced keeps the reply until its restore. -/
def State.killBlocked (s : State) (t k : Nat) : State :=
  if s.teamClosed t k then s.modSlot t k (fun sl => { sl with kept := some (4#64, 0#64) }) else s.killThread t k

/-- R198, R339: a reply word kept for the quiesced threads that are blocked on an entry. -/
def State.replySaved (s : State) (e : Pending) (w acc : Word) : State :=
  { s with tiles := s.tiles.map (fun u => (u.1, { u.2 with saves := Map.mapVals (fun (v : Save) =>
    { v with slots := v.slots.map (fun (r : SavedSlot) =>
      if r.state = 4 ∧ r.reply.isNone ∧ e.blocks r.slot then { r with reply := some (w, acc) } else r) }) u.2.saves })) }

/-! #### Held writes performed, and granules that the home maps itself -/

/-- The address of a granule of an object. -/
def granAddr (obj g : Nat) : Word := BitVec.ofNat 64 (obj * 2 ^ 40 + g * 65536)

/-- R105: the granule of the latest write of a packet's thread issued before it that home `h` holds, in the granule's entry (true)
or waiting there for a free one. -/
def State.heldBefore (s : State) (h : Nat) (p : Packet) : Option (Bool × Nat × Word) :=
  let x := s.tile h
  let mine (q : Packet) : Bool := q.vc == 2 && q.src == p.src && q.slot == p.slot && q.ord < p.ord
  let isMine (g : HeldAcc) : Bool := match g with
    | .packet q => mine q
    | _ => false
  if p.vc ≠ 2 then none
  else match x.pendings.find? (fun e => e.writes.any mine || e.held.any isMine) with
    | some e => some (true, e.ctx, granAddr e.obj e.gran)
    | none => ((x.overflow.find? isMine).bind (·.place)).map (fun g => (false, g.1, g.2))

/-- R105, R262: a write whose thread's earlier write is held at the home is held behind it. -/
def State.holdBehind (s : State) (h : Nat) (p : Packet) (at_ : Bool × Nat × Word) : State :=
  let q : HeldAcc := .packet p
  let s := if at_.1 then s.modPending h at_.2.1 at_.2.2 (fun (e : Pending) =>
        if e.drain then { e with held := e.held ++ [q] } else { e with writes := e.writes ++ [p] })
    else s.modTile h (fun (x : Tile) => { x with overflow := x.overflow ++ [q] })
  s.markHeld h p true

/-- A held write performed at home `t`, its mark lowered (R260, R262); one whose entry is lost is discarded with UE (R385). One that
stands behind a write of its thread to another granule, or is itself of another, is decided afresh (R105): `take` decides it. -/
def State.performHeld (take : State → Packet → State) (s : State) (t ctx : Nat) (a : Word) (p : Packet) : State :=
  (if p.foul then s.discardPacket t p FaultCode.ue 6 0#64
    else if (HeldAcc.packet p).of ctx a && (s.heldBefore t p).isNone then s.performPacket t p
    else take s p).markHeld t p false

/-- What follows for an access that waited for a free entry when its granule is mapped. -/
def State.performLate (take : State → Packet → State) (s : State) (t ctx : Nat) (a : Word) : HeldAcc → State
  | .packet p => s.performHeld take t ctx a p
  | .engine e pos n _ _ => s.modTile t (fun x => x.wakeEngine (e, pos, n) id)
  | _ => s

/-- The entry of a granule closed; the accesses that an extent operation holds stay there. -/
def Tile.settleEntry (x : Tile) (ctx : Nat) (a : Word) : Tile :=
  { x with pendings := x.pendings.filterMap (fun (p : Pending) =>
      if !p.is ctx (objOf a) (granOf a) then some p
      else if p.held.isEmpty then none
      else some { p with writes := [], threads := [], engines := [], poster := none }) }

/-- The accesses of a granule that wait for a free entry. -/
def Tile.lateOf (x : Tile) (ctx : Nat) (a : Word) : List HeldAcc := x.overflow.filter (fun h => h.of ctx a)
def Tile.dropLate (x : Tile) (ctx : Nat) (a : Word) : Tile := { x with overflow := x.overflow.filter (fun h => !h.of ctx a) }

/-- R260: the entry closed: its held accesses are performed in arrival order, its threads and engines released. -/
def State.closeEntryBy (take : State → Packet → State) (s : State) (t ctx : Nat) (a : Word) : State :=
  let x := s.tile t
  let late := x.lateOf ctx a
  let s := s.modTile t (fun x => x.dropLate ctx a)
  match x.pendingOf ctx a with
  | none => late.foldl (fun s h => s.performLate take t ctx a h) s
  | some e =>
    let s := s.modTile t (fun x => (x.wakeEngines e.engines false).settleEntry ctx a)
    let s := e.writes.foldl (fun s p => s.performHeld take t ctx a p) s
    let s := late.foldl (fun s h => s.performLate take t ctx a h) s
    s.releaseJoined (joinKey ctx a)

/-- R198, R261: the entry killed: its held writes are discarded and its engines' commands end with NOTRES. The threads that
blocked on it stay for the caller to answer. -/
def State.killEntryBy (take : State → Packet → State) (s : State) (t ctx : Nat) (a : Word) : State :=
  match (s.tile t).pendingOf ctx a with
  | none => s
  | some e =>
    let s := s.modTile t (fun x => (x.wakeEngines e.engines true).settleEntry ctx a)
    e.writes.foldl (fun s p =>
      if (HeldAcc.packet p).of ctx a then (s.discardPacket t p FaultCode.notRes 7 0#64).markHeld t p false
      else s.performHeld take t ctx a p) s

/-- R261: the accesses of a granule that wait for a free entry, where the home has no free page for it: they end as those of a killed
entry. -/
def State.killLate (s : State) (t ctx : Nat) (a : Word) : State :=
  let late := (s.tile t).lateOf ctx a
  late.foldl (fun s h => match h with
    | .packet p => (s.discardPacket t p FaultCode.notRes 7 0#64).markHeld t p false
    | .engine e pos n _ _ => s.modTile t (fun x => x.wakeEngine (e, pos, n) (fun r => { r with killed := true }))
    | _ => s) (s.modTile t (fun x => x.dropLate ctx a))

/-- R199: a page zero-filled with its tags full and mapped for a granule, its pending entry closed. -/
def State.mapEntryBy (take : State → Packet → State) (s : State) (t ctx : Nat) (a : Word) (page : Nat) : State :=
  let s := s.modMem (fun m => m.clear (dramKey t page 0) 8192)
  let s := s.modTile t (fun x => x.putExtent { ctx := ctx, obj := objOf a, gran := granOf a, page := page })
  s.closeEntryBy take t ctx a

/-- R261: the home maps the granule itself, or kills the entry when it has no free page, as a `replaya` of kind 4 does. -/
def State.selfMapBy (take : State → Packet → State) (s : State) (t ctx : Nat) (a : Word) : State :=
  match (if s.objectGoing ctx (objOf a) then none else (s.tile t).freePage) with
  | some p => (s.mapEntryBy take t ctx a p).residNotice t ctx a 3#64
  | none => match (s.tile t).pendingOf ctx a with
    | none => s.killLate t ctx a
    | some e => (s.blockedOn e).foldl (fun s u => s.killBlocked u.1 u.2) ((s.replySaved e 4#64 0#64).killEntryBy take t ctx a)

/-- R260: the accesses that wait for a free entry: the oldest whose granule is not mapped, has none and stands behind no other
write of its thread. -/
def State.firstLate (s : State) (t : Nat) : Option (Nat × Word) :=
  ((s.tile t).overflow.find? (fun h => match h.place with
    | none => false
    | some (ctx, a) => s.gate t ctx a == .open_ && (match h with
      | .packet p => (s.heldBefore t p).isNone
      | _ => true))).bind (·.place)

/-- R105, R260: the oldest write waiting for a free entry whose granule needs none and whose thread's earlier writes are settled. -/
def State.freedLate (s : State) (t : Nat) : Option Packet :=
  (s.tile t).overflow.findSome? (fun h => match h, h.place with
    | .packet p, some (ctx, a) =>
      let free : Bool := match s.gate t ctx a with
        | .open_ | .full => false
        | .hold => ((s.tile t).pendingOf ctx a).isSome || (s.tile t).pendings.length < 64
        | _ => true
      if free && (s.heldBefore t p).isNone then some p else none
    | _, _ => none)

/-- What a home has to decide: a packet's write or engine access; a granule that it maps itself; what an entry that has become free
serves. -/
inductive HomeTask where
  | take (p : Packet)
  | selfMap (ctx : Nat) (a : Word)
  | reopen
  deriving DecidableEq, Repr

/-- A packet's write or engine access as its home decides it; the packet has left the fabric (R107, R260, R261, R292). A
granule whose extent operation is under way holds as many as its entry may, and others wait at the port (log 88). An access that
would make an entry hold too many, or that finds the area full, makes the home map the granule (R261). -/
def State.takeBy (go : State → HomeTask → State) (s : State) (h : Nat) (p : Packet) : State :=
  match p.body.place with
  | none => s
  | some (ctx, a) =>
    match s.heldBefore h p with
    | some e =>
      let full := !(s.tile h).canHold e.2.1 e.2.2
      let drain := match (s.tile h).pendingOf e.2.1 e.2.2 with | some q => q.drain | none => false
      let s := s.holdBehind h p e
      if full && !drain then go s (.selfMap e.2.1 e.2.2) else s
    | none => match s.gate h ctx a with
      | .go => s.performPacket h p
      | .hold =>
        (if (s.tile h).canHold ctx a then s.holdAcc h ctx a (.packet p)
          else { s with net := s.net ++ [{ p with held := true }] }).markHeld h p true
      | .lost => s.discardPacket h p FaultCode.ue 6 4#64
      | .elsewhere => { s with net := s.net ++ [{ p with ret := .stale }] }
      | .join =>
        let full := !(s.tile h).canHold ctx a
        let s := (s.joinHeld h ctx a (.packet p)).markHeld h p true
        if full then go s (.selfMap ctx a) else s
      | .open_ =>
        let full := (s.tile h).heldCount ≥ 65536
        let s := ((s.openPending h ctx a).joinHeld h ctx a (.packet p)).residNotice h ctx a 4#64
        let s := s.markHeld h p true
        if full then go s (.selfMap ctx a) else s
      | .full =>
        let full := (s.tile h).heldCount ≥ 65536
        let s := (s.modTile h (fun x => { x with overflow := x.overflow ++ [.packet p] })).markHeld h p true
        if full then go s (.selfMap ctx a) else s

/-- R260: an entry is free: the writes that need none go on, then the oldest waiting access whose granule has none opens it, and those
of the same granule join it; a notice announces the entry. An entry that would hold too many makes the home map the granule
(R261). -/
def State.reopenBy (go : State → HomeTask → State) (s : State) (t : Nat) : State :=
  match s.freedLate t with
  | some p =>
    let s := s.modTile t (fun x => { x with overflow := x.overflow.erase (.packet p) })
    go ((go s (.take p)).markHeld t p false) .reopen
  | none => match s.firstLate t with
    | none => s
    | some (ctx, a) =>
      let late := (s.tile t).lateOf ctx a
      let s := (s.modTile t (fun x => x.dropLate ctx a)).openPending t ctx a
      let s := late.foldl (fun s h => s.joinHeld t ctx a h) s
      let s := s.residNotice t ctx a 4#64
      if late.length > 4096 then go s (.selfMap ctx a) else go s .reopen

/-- One of a home's tasks, with those that follow from it. The fuel bounds how deep one follows from another: each maps a granule,
opens an entry or settles a waiting write, of which a home holds 65,536. -/
def State.homeTask : Nat → State → Nat → HomeTask → State
  | 0, s, h, .take p => s.modTile h (fun x => { x with overflow := x.overflow ++ [.packet p] })
  | 0, s, _, _ => s
  | n + 1, s, h, .take p => s.takeBy (fun s w => s.homeTask n h w) h p
  | n + 1, s, h, .selfMap ctx a =>
    (s.selfMapBy (fun s p => s.homeTask n h (.take p)) h ctx a).homeTask n h .reopen
  | n + 1, s, h, .reopen => s.reopenBy (fun s w => s.homeTask n h w) h

/-- More than the accesses that a home can hold, with its entries and the granules they may map. -/
def homeFuel : Nat := 200000

def State.takeWrite (s : State) (h : Nat) (p : Packet) : State := s.homeTask homeFuel h (.take p)
def State.reopen (s : State) (t : Nat) : State := s.homeTask homeFuel t .reopen

/-- R260: an entry closed after its granule has been mapped; the freed entry serves the accesses that wait for one. -/
def State.closePending (s : State) (t ctx : Nat) (a : Word) : State := (s.closeEntryBy (fun s p => s.takeWrite t p) t ctx a).reopen t
/-- R198: an entry killed; likewise. -/
def State.killPending (s : State) (t ctx : Nat) (a : Word) : State := (s.killEntryBy (fun s p => s.takeWrite t p) t ctx a).reopen t
/-- R199: a granule mapped; likewise. -/
def State.mapGranule (s : State) (t ctx : Nat) (a : Word) (page : Nat) : State :=
  (s.mapEntryBy (fun s p => s.takeWrite t p) t ctx a page).reopen t

end Sys2Proof.Machine
end

