-- ==== Sys2Proof/Machine/Flow.lean ====
section
/-! DEFINITION. Control flow and XW words (R60-R62, R97-R100). -/

namespace Sys2Proof.Machine

/-- R98: a branch: the target when the condition holds, else the next word. -/
def branch {k : Nat} (s : State) (f : BitVec k) (cond : Thread → Bool) : Out :=
  onFlow s (fun sl => (sl.th, if cond sl.th then relTarget sl.ipc sl.ext f else sl.ipc + 4#64))

def execBeq (a b : Reg) (f : BitVec 15) (s : State) : Out := branch s f (fun th => th.reg a == th.reg b)
def execBne (a b : Reg) (f : BitVec 15) (s : State) : Out := branch s f (fun th => th.reg a != th.reg b)
def execBlt (a b : Reg) (f : BitVec 15) (s : State) : Out := branch s f (fun th => (th.reg a).slt (th.reg b))
def execBge (a b : Reg) (f : BitVec 15) (s : State) : Out := branch s f (fun th => !(th.reg a).slt (th.reg b))
def execBltu (a b : Reg) (f : BitVec 15) (s : State) : Out := branch s f (fun th => (th.reg a).ult (th.reg b))
def execBgeu (a b : Reg) (f : BitVec 15) (s : State) : Out := branch s f (fun th => !(th.reg a).ult (th.reg b))
def execBz (a : Reg) (f : BitVec 15) (s : State) : Out := branch s f (fun th => th.reg a == 0#64)
def execBnz (a : Reg) (f : BitVec 15) (s : State) : Out := branch s f (fun th => th.reg a != 0#64)
def execBltz (a : Reg) (f : BitVec 15) (s : State) : Out := branch s f (fun th => (th.reg a).slt 0#64)
def execBgez (a : Reg) (f : BitVec 15) (s : State) : Out := branch s f (fun th => !(th.reg a).slt 0#64)
def execBgtz (a : Reg) (f : BitVec 15) (s : State) : Out := branch s f (fun th => (0#64).slt (th.reg a))
def execBlez (a : Reg) (f : BitVec 15) (s : State) : Out := branch s f (fun th => !(0#64).slt (th.reg a))

def execJmp (f : BitVec 26) (s : State) : Out := onFlow s (fun sl => (sl.th, relTarget sl.ipc sl.ext f))
def execJal (f : BitVec 26) (s : State) : Out :=
  onFlow s (fun sl => (sl.th.setReg (.w 7#3) (sl.ipc + 4#64), relTarget sl.ipc sl.ext f))

/-- R97, R99: a jump to a register's address, which must be a multiple of 4; ALIGN writes no register. -/
def jumpReg (s : State) (d a : Reg) : Out :=
  let target := s.curSlot.th.reg a
  if target &&& 3#64 ≠ 0#64 then raiseCur s FaultCode.align target 0#64
  else onFlow s (fun sl => (sl.th.setReg d (sl.ipc + 4#64), sl.th.reg a))

def execJr (a : Reg) (s : State) : Out := jumpReg s .zr a
def execJalr (d a : Reg) (s : State) : Out := jumpReg s d a

/-- R100: decrements and branches while nonzero. -/
def execDbnz (a : Reg) (f : BitVec 15) (s : State) : Out :=
  onFlow s (fun sl =>
    let v := sl.th.reg a - 1#64
    (sl.th.setReg a v, if v ≠ 0#64 then relTarget sl.ipc sl.ext f else sl.ipc + 4#64))

/-! ### XW words (R60-R62) -/

/-- R62: the run fails: ILLEGAL at its first word. -/
def runFails (s : State) (w : BitVec 32) : Out := raiseCur s FaultCode.illegal 0#64 (w.zeroExtend 64)

/-- The word of an extension, which a failing run's first word is rebuilt from. -/
def xwExtWord (e : BitVec 25) : BitVec 32 := 0xFC000000#32 ||| e.zeroExtend 32
def xwModWord (n x : Bool) : BitVec 32 :=
  0xFE000000#32 ||| (if n then 2#32 else 0#32) ||| (if x then 1#32 else 0#32)

/-- The first word of the pending run, or the word itself where none is pending. -/
def Slot.firstXw (sl : Slot) (w : BitVec 32) : BitVec 32 :=
  match sl.ext with
  | e :: _ => xwExtWord e
  | [] => if sl.hasMod then xwModWord sl.nt sl.sx else w

/-- R60: the payload is kept for the next instruction; at most two words in a run, and none after a modifier. -/
def execXwExtension (e : BitVec 25) (s : State) : Out :=
  let sl := s.curSlot
  if !sl.takesXw then runFails s (sl.firstXw (xwExtWord e))
  else onIssue s (fun t k _ s => s.modSlot t k (fun sl => sl.withExt e))

/-- R60: `.sx` and `.nt` for the next instruction; one modifier, as the last of at most two words. -/
def execXwModifier (n x : Bool) (s : State) : Out :=
  let sl := s.curSlot
  if !sl.takesXw then runFails s (sl.firstXw (xwModWord n x))
  else onIssue s (fun t k _ s => s.modSlot t k (fun sl => sl.withMod n x))

end Sys2Proof.Machine
end

