-- ==== Sys2Proof/Machine/Mem.lean ====
section
/-! DEFINITION. Loads, stores, indexed forms, scratchpad forms, full/empty words and remote reads (R102-R120). -/

namespace Sys2Proof.Machine

/-! ### Shared parts -/

/-- R64, R258: the word of an instruction, which an ILLEGAL carries. -/
def wordOf (i : Instr) : BitVec 32 := (encode i).getD 0#32

/-- R102, R103, R203: the checks of an object-space access of `n` bytes, then where it is performed. -/
def State.access (s : State) (t k : Nat) (a : Word) (n : Nat) (write peerOk : Bool) (own : Object → State → State)
    (remote : Object → Nat → Nat → State → State) (peer : Object → State → State) : State :=
  let ctx := s.memCtx t k
  match s.reach t ctx a n write peerOk with
  | .fault code extra => (s.odcUse t ctx a).raise t k code a extra
  | .miss key => ((s.odcUse t ctx a).modSlot t k (fun sl => sl.waitFor .directory)).askRecord t k key
  | .own o => own o (s.odcUse t ctx a)
  | .remote o t' g => remote o t' g (s.odcUse t ctx a)
  | .peer o => peer o (s.odcUse t ctx a)

/-- R113, R258: UE at the consumer of a poisoned word. -/
def State.poisoned (s : State) (t k : Nat) (a : Word) : State := s.raise t k FaultCode.ue (a &&& ~~~7#64) 0#64

/-- R111: the load is complete: base and destination written. -/
def Slot.loaded (sl : Slot) (d : Reg) (z : Size) (sx : Bool) (base : Option (Ptr × Word)) (a v : Word) : Slot :=
  { sl with th := (sl.th.setBase base).setReg d (extendLoad z sx (takeBytes (offOf a) (sizeBytes z) v)), state := .ready }.finish

/-- R102: the store is complete: the base written. -/
def Slot.stored (sl : Slot) (base : Option (Ptr × Word)) : Slot := { sl with th := sl.th.setBase base, state := .ready }.finish

/-- R104, R112: a read request to the home; the slot is REMOTE until the reply. -/
def State.remoteRead (s : State) (t k dst gen : Nat) (a : Word) (d : Reg) (z : Size) (sx : Bool) (base : Option (Ptr × Word))
    (pin : Bool) : State :=
  ((s.modSlot t k (fun sl => { sl with state := .remote, pend := .load d z sx base pin })).stepLeft t k).send
    { vc := 0, src := t, dst := dst, gen := gen, slot := k, body := .readReq (s.memCtx t k) a z }

/-- R204, R214: a departing thread's trackers are at zero: both drained bits are set. -/
def Thread.drainedBoth (th : Thread) : Thread :=
  { th with drainA := handleValid th.trkA, drainB := handleValid th.trkB, errA := false, errB := false }

/-- R16, R204: the cycle in which a slot's flit is formed: MB, six cycles after the issue of a form of occupancy 8, or now where the
form has waited past it. -/
def State.formed (s : State) (sl : Slot) : Nat := max s.now (sl.eligAt - 2)

/-- R204: the flit is formed and the slot waits for the router. -/
def State.depart (s : State) (t k kind dst gen : Nat) : State :=
  s.modSlot t k (fun sl => { sl with th := sl.th.drainedBoth, state := .wait (.departure (s.formed sl) kind dst gen), retry := true })

/-- R213: whether a load that would migrate to tile `dst` is a bounce, and the bounce count and window it leaves. -/
def Slot.bounceTo (sl : Slot) (dst : Nat) : Nat × Nat :=
  match sl.prev with
  | some p =>
    if nameTile p = dst then
      (if sl.th.bounce = 0 || sl.window ≥ 256 then (1, 0) else (sl.th.bounce + 1, sl.window))
    else (0, 0)
  | none => (0, 0)

/-- R104, R112, R213: a load homed on another tile: a remote read by the service thread, a pinned thread or a thread at its
fourth bounce; otherwise a migration under R105, whose bounce counts once the flit departs (R127, R204). -/
def State.loadAway (s : State) (t k dst gen : Nat) (a : Word) (d : Reg) (z : Size) (sx : Bool)
    (base : Option (Ptr × Word)) : State :=
  let sl := s.slot t k
  if s.atService t k then s.remoteRead t k dst gen a d z sx base false
  else if sl.th.pinned then s.remoteRead t k dst gen a d z sx base true
  else
    if (sl.bounceTo dst).1 = 4 then s.remoteRead t k dst gen a d z sx base true
    else s.drain t k (fun s => s.depart t k 0 dst gen)

/-- A load performed at its own tile: through the L1, or as R236 states for `.nt`. -/
def State.loadHere (s : State) (t k : Nat) (_o : Object) (a : Word) (d : Reg) (z : Size) (sx nt : Bool)
    (base : Option (Ptr × Word)) : State :=
  let ctx := s.memCtx t k
  s.atHome t k ctx a (fun s =>
    if !nt && !s.l1Has t ctx a then s.modSlot t k (fun sl => sl.waitFor .fill)
    else
      let (s, w) := s.homeRead t ctx a
      if w.poison then s.poisoned t k a
      else s.modSlot t k (fun sl => sl.loaded d z sx base a w.data))

/-- R104: `ld` and `ldx`. -/
def State.load (s : State) (t k : Nat) (a : Word) (d : Reg) (z : Size) (sx nt : Bool) (base : Option (Ptr × Word)) : State :=
  s.access t k a (sizeBytes z) false false
    (fun o s => s.loadHere t k o a d z sx nt base)
    (fun _ t' g s => s.loadAway t k t' g a d z sx base)
    (fun _ s => s)

/-- R106: a fire-and-forget write sent to another tile, or an SO write that the slot waits for (R104). -/
def State.sendWrite (s : State) (t k : Nat) (o : Object) (dst gen : Nat) (base : Option (Ptr × Word))
    (body : Option Nat → Body) : State :=
  if o.isSO then
    (s.modSlot t k (fun sl => { sl with state := .wait .reply, pend := .store base })).send
      { vc := 2, src := t, dst := dst, gen := gen, slot := k, body := body none }
  else s.counted t k (fun s i =>
    (s.modSlot t k (fun sl => sl.stored base)).send
      { vc := 2, src := t, dst := dst, gen := gen, slot := k, body := body (some i) })

/-- R104, R108: `st` and `stx`. -/
def State.store (s : State) (t k : Nat) (a v : Word) (z : Size) (nt rel : Bool) (c : Scope) (base : Option (Ptr × Word)) : State :=
  let ctx := s.memCtx t k
  s.access t k a (sizeBytes z) true false
    (fun o s => s.releaseIf t k rel c (fun s => s.atHome t k ctx a (fun s =>
      (s.homeStore t ctx a (byteMask (offOf a) (sizeBytes z)) (placeBytes (offOf a) v) (!nt) o.isUO).modSlot t k
        (fun sl => sl.stored base))))
    (fun o t' g s => s.releaseIf t k rel c (fun s => s.sendWrite t k o t' g base (fun tr => .store ctx a z v nt tr)))
    (fun _ s => s)

/-! ### Scratchpad (R115, R116) -/

/-- The team position that accounts for a slot; the service thread has none (R191). -/
def State.teamOf (s : State) (t k : Nat) : Option Nat := if s.atService t k then none else some (s.slot t k).team

/-- What the checks of R115 lead to. -/
inductive SpadReach where
  | fault (code : Nat) (extra : Word)
  | own
  | peer (t : Nat)
  deriving DecidableEq, Repr

/-- R115, R339: what a partner tile holds for an instance's access to one of its macros: no team, a macro that is not the
team's, the macro itself, or its image in a save area. -/
inductive PeerMac where
  | gone | perm | live | image (a : Nat)
  deriving DecidableEq, Repr

def Tile.peerMac (x : Tile) (kin ctx m : Nat) : PeerMac :=
  match x.teams.find? (fun e => e.2.kin == kin && e.2.ctx == ctx) with
  | some (p, _) => if (x.mac m).owner = some p then .live else .perm
  | none => match x.saves.find? (fun e => e.2.team.kin == kin && e.2.team.ctx == ctx) with
    | some (a, v) => if v.team.fmac ≤ m ∧ m < v.team.fmac + v.team.nmac then .image a else .perm
    | none => .gone

/-- R115: the checks of a scratchpad access of `n` bytes, in their order. -/
def State.spadReach (s : State) (t k : Nat) (a : Word) (n : Nat) : SpadReach :=
  if a.toNat % n ≠ 0 then .fault FaultCode.align 0#64
  else if bits a 63 24 ≠ 0 then .fault FaultCode.bounds 0#64
  else
    let u := partner t (peerCode a)
    if !s.isTile u then .fault FaultCode.bounds 0#64
    else if (s.tile u).fenced then .fault FaultCode.fenced ((s.name u).zeroExtend 64)
    else if peerCode a = 0 then
      if ((s.tile t).mac (macroOf a)).owner = s.teamOf t k ∧ (s.teamOf t k).isSome then .own
      else .fault FaultCode.perm 0#64
    else
      let th := (s.slot t k).th
      match (s.tile u).peerMac th.kin th.ctx (macroOf a) with
      | .gone => .fault FaultCode.peerGone ((s.name u).zeroExtend 64)
      | .perm => .fault FaultCode.perm 0#64
      | .live | .image _ => .peer u

/-- R116: how the macro's state takes an access. -/
inductive SpadGate where
  | go | wait | lock
  deriving DecidableEq, Repr

def Tile.spadGate (x : Tile) (m : Nat) (write : Bool) : SpadGate :=
  match (x.mac m).state with
  | .plain | .ready => if (x.mac m).due then .wait else .go
  | .loading | .scrubbing => .wait
  | .stationary => if (x.mac m).due then .wait else if write then .lock else .go

/-- An access to the own scratchpad once its checks have passed; an error in its word is met (R385). -/
def State.atSpad (s : State) (t k : Nat) (a : Word) (write : Bool) (go : State → State) : State :=
  match (s.tile t).spadGate (macroOf a) write with
  | .go => go (s.meetSpad t (wordKey (spadKey t (macroOf a) (macroOff a))) 1)
  | .wait => s.modSlot t k (fun sl => sl.waitFor (.mac (macroOf a)))
  | .lock => s.raise t k FaultCode.statLock a (BitVec.ofNat 64 (macroOf a))

/-- `lds` and `ldsx`. -/
def State.loadSpad (s : State) (t k : Nat) (a : Word) (d : Reg) (z : Size) (sx : Bool) (base : Option (Ptr × Word)) : State :=
  match s.spadReach t k a (sizeBytes z) with
  | .fault code extra => s.raise t k code a extra
  | .own => s.atSpad t k a false (fun s =>
      let (w, bad) := s.spadRead t a
      if bad then s.poisoned t k a else s.modSlot t k (fun sl => sl.loaded d z sx base a w))
  | .peer u =>
    let th := (s.slot t k).th
    (s.modSlot t k (fun sl => { sl with state := .wait .reply, pend := .load d z sx base false })).send
      { vc := 0, src := t, dst := u, gen := s.gen, slot := k, body := .peerLoad th.ctx th.kin a z }

/-- `sts` and `stsx`. -/
def State.storeSpad (s : State) (t k : Nat) (a v : Word) (z : Size) (rel : Bool) (c : Scope) (base : Option (Ptr × Word)) : State :=
  match s.spadReach t k a (sizeBytes z) with
  | .fault code extra => s.raise t k code a extra
  | .own => s.releaseIf t k rel c (fun s => s.atSpad t k a true (fun s =>
      (s.spadStore t a (byteMask (offOf a) (sizeBytes z)) (placeBytes (offOf a) v)).modSlot t k (fun sl => sl.stored base)))
  | .peer u => s.releaseIf t k rel c (fun s =>
      let th := (s.slot t k).th
      (s.modSlot t k (fun sl => { sl with state := .wait .reply, pend := .store base })).send
        { vc := 2, src := t, dst := u, gen := s.gen, slot := k, body := .peerStore th.ctx th.kin a z v })

/-! ### Full/empty words (R117-R120) -/

/-- R119: the take of a word at its home, or the installation of a waiter, in one step. -/
def State.takeWord (s : State) (t k : Nat) (o : Object) (a : Word) (d : Reg) : State :=
  let ctx := s.memCtx t k
  s.atHome t k ctx a (fun s =>
    let s := s.slicePrep t ctx a o.isUO
    let w := s.sliceWord t ctx a
    if w.poison then s.poisoned t k a
    else if w.empty then s.park t k (objWordKey ctx a) ctx a (.ldf d) 0#64
    else (s.sliceMod t ctx a (fun w => { w with empty := true })).modSlot t k
      (fun sl => { sl with th := sl.th.setReg d w.data, state := .ready }.finish))

/-- R104, R105: `ldf`, `join` and `waitw` travel to the home, pinned or not; the service thread raises ILLEGAL. -/
def State.travel (s : State) (t k kind dst gen : Nat) (w : BitVec 32) : State :=
  if s.atService t k then s.raise t k FaultCode.illegal 0#64 (w.zeroExtend 64)
  else s.drain t k (fun s => s.depart t k kind dst gen)

/-- The scratchpad's `ldf` and `stf` take the own tile only (R117). -/
def State.spadOwn (s : State) (t k : Nat) (a : Word) (go : State → State) : State :=
  if a.toNat % 8 ≠ 0 then s.raise t k FaultCode.align a 0#64
  else if bits a 63 22 ≠ 0 then s.raise t k FaultCode.bounds a 0#64
  else match s.spadReach t k a 8 with
    | .own => go s
    | .fault code extra => s.raise t k code a extra
    | .peer _ => s.raise t k FaultCode.bounds a 0#64

/-- R119 in the scratchpad. -/
def State.takeSpad (s : State) (t k : Nat) (a : Word) (d : Reg) : State :=
  s.spadOwn t k a (fun s => s.atSpad t k a false (fun s =>
    let key := spadKey t (macroOf a) (macroOff a)
    let (w, bad) := s.spadRead t a
    if bad then s.poisoned t k a
    else if s.mem.isEmpty key then s.park t k (spadWordKey a) (s.memCtx t k) a (.ldfs d) 0#64
    else (s.modMem (fun m => m.setEmpty key true)).modSlot t k
      (fun sl => { sl with th := sl.th.setReg d w, state := .ready }.finish)))

/-- R120: `stf`. -/
def State.fillWord (s : State) (t k : Nat) (a v : Word) (rel : Bool) (c : Scope) : State :=
  let ctx := s.memCtx t k
  s.access t k a 8 true false
    (fun o s => s.releaseIf t k rel c (fun s => s.atHome t k ctx a (fun s =>
      (s.homeFill t ctx a v o.isUO).modSlot t k (fun sl => sl.stored none))))
    (fun o t' g s => s.releaseIf t k rel c (fun s => s.sendWrite t k o t' g none (fun tr => .stf ctx a v tr)))
    (fun _ s => s)

/-- R120 in the scratchpad. -/
def State.fillSpad (s : State) (t k : Nat) (a v : Word) (rel : Bool) (c : Scope) : State :=
  s.spadOwn t k a (fun s => s.releaseIf t k rel c (fun s => s.atSpad t k a true (fun s =>
    (s.spadFill t a v).modSlot t k (fun sl => sl.stored none))))

/-! ### Meanings -/

def execLd (d : Reg) (b : Ptr) (z : Size) (m : Mode) (_o : Sys2Proof.Order) (_c : Scope) (f : BitVec 9) (s : State) : Out :=
  onIssue s (fun t k sl s =>
    let (a, base) := addrM sl.th b m (sizeBytes z) sl.ext f
    s.load t k a d z sl.sx sl.nt base)

def execLds (d : Reg) (b : Ptr) (z : Size) (m : Mode) (_o : Sys2Proof.Order) (_c : Scope) (f : BitVec 9) (s : State) : Out :=
  onIssue s (fun t k sl s =>
    let (a, base) := addrM sl.th b m (sizeBytes z) sl.ext f
    s.loadSpad t k a d z sl.sx base)

def execSt (d : Reg) (b : Ptr) (z : Size) (m : Mode) (o : Sys2Proof.Order) (c : Scope) (f : BitVec 9) (s : State) : Out :=
  onIssue s (fun t k sl s =>
    let (a, base) := addrM sl.th b m (sizeBytes z) sl.ext f
    s.store t k a (sl.th.reg d) z sl.nt (orderRel o) c base)

def execSts (d : Reg) (b : Ptr) (z : Size) (m : Mode) (o : Sys2Proof.Order) (c : Scope) (f : BitVec 9) (s : State) : Out :=
  onIssue s (fun t k sl s =>
    let (a, base) := addrM sl.th b m (sizeBytes z) sl.ext f
    s.storeSpad t k a (sl.th.reg d) z (orderRel o) c base)

def execLdx (d : Reg) (a : Ptr) (b : Reg) (z : Size) (_o : Sys2Proof.Order) (_c : Scope) (s : State) : Out :=
  onIssue s (fun t k sl s => s.load t k (addrX sl.th a b (sizeBytes z)) d z sl.sx sl.nt none)

def execLdsx (d : Reg) (a : Ptr) (b : Reg) (z : Size) (_o : Sys2Proof.Order) (_c : Scope) (s : State) : Out :=
  onIssue s (fun t k sl s => s.loadSpad t k (addrX sl.th a b (sizeBytes z)) d z sl.sx none)

def execStx (d : Reg) (a : Ptr) (b : Reg) (z : Size) (o : Sys2Proof.Order) (c : Scope) (s : State) : Out :=
  onIssue s (fun t k sl s => s.store t k (addrX sl.th a b (sizeBytes z)) (sl.th.reg d) z sl.nt (orderRel o) c none)

def execStsx (d : Reg) (a : Ptr) (b : Reg) (z : Size) (o : Sys2Proof.Order) (c : Scope) (s : State) : Out :=
  onIssue s (fun t k sl s => s.storeSpad t k (addrX sl.th a b (sizeBytes z)) (sl.th.reg d) z (orderRel o) c none)

def execLdf (d : Reg) (b : Ptr) (o : Sys2Proof.Order) (c : Scope) (f : BitVec 9) (s : State) : Out :=
  onIssue s (fun t k sl s =>
    let a := sl.th.regs.get b + immWord sl.ext f * 8#64
    s.access t k a 8 false false
      (fun ob s => s.takeWord t k ob a d)
      (fun _ t' g s => s.travel t k 2 t' g (sl.firstXw (wordOf (.ldf d b o c f))))
      (fun _ s => s))

def execLdfs (d : Reg) (b : Ptr) (_o : Sys2Proof.Order) (_c : Scope) (f : BitVec 9) (s : State) : Out :=
  onIssue s (fun t k sl s => s.takeSpad t k (sl.th.regs.get b + immWord sl.ext f * 8#64) d)

def execStf (d : Reg) (b : Ptr) (o : Sys2Proof.Order) (c : Scope) (f : BitVec 9) (s : State) : Out :=
  onIssue s (fun t k sl s => s.fillWord t k (sl.th.regs.get b + immWord sl.ext f * 8#64) (sl.th.reg d) (orderRel o) c)

def execStfs (d : Reg) (b : Ptr) (o : Sys2Proof.Order) (c : Scope) (f : BitVec 9) (s : State) : Out :=
  onIssue s (fun t k sl s => s.fillSpad t k (sl.th.regs.get b + immWord sl.ext f * 8#64) (sl.th.reg d) (orderRel o) c)

def execLdr (d : Reg) (b : Ptr) (z : Size) (_o : Sys2Proof.Order) (_c : Scope) (f : BitVec 9) (s : State) : Out :=
  onIssue s (fun t k sl s =>
    let a := sl.th.regs.get b + immWord sl.ext f * BitVec.ofNat 64 (sizeBytes z)
    s.access t k a (sizeBytes z) false false
      (fun o s => s.loadHere t k o a d z sl.sx false none)
      (fun _ t' g s => s.remoteRead t k t' g a d z sl.sx none false)
      (fun _ s => s))

end Sys2Proof.Machine
end

