-- ==== Sys2Proof/Machine/Engine.lean ====
section
/-! DEFINITION. Engine commands: queues, tickets and timelines, parameter blocks and status words (R163-R168), macro control
(R169, R170, R242) and circular buffers (R182, R183, R246). -/

namespace Sys2Proof.Machine

/-! ### Queues -/

def cmdEng : CmdOp → Eng
  | .bfly | .bchain | .stn | .unstn | .mfmt => .bfe
  | .cpy | .cring | .csend | .cred | .cbcast | .cbcfg => .cpe
  | .nrcopy | .nrzero | .nbcopy | .nexpr | .ngemv => .nme

/-- R163: engine codes. -/
def engCode : Eng → Nat
  | .bfe => 0
  | .cpe => 1
  | .nme => 2

def Team.engQ (tm : Team) : Eng → EngQ
  | .bfe => tm.bfe
  | .cpe => tm.cpe
  | .nme => tm.nme

def Team.modQ (tm : Team) (e : Eng) (f : EngQ → EngQ) : Team :=
  match e with
  | .bfe => { tm with bfe := f tm.bfe }
  | .cpe => { tm with cpe := f tm.cpe }
  | .nme => { tm with nme := f tm.nme }

def State.modQ (s : State) (t p : Nat) (e : Eng) (f : EngQ → EngQ) : State := s.modTeam t p (fun tm => tm.modQ e f)

/-- The queue of the team that accounts for a slot; the service thread has none. -/
def State.slotQ (s : State) (t k : Nat) (e : Eng) : EngQ :=
  match s.teamOf t k with
  | none => {}
  | some p => match (s.tile t).teams.look p with
    | some tm => tm.engQ e
    | none => {}

/-- R164: a command whose checks have passed: it waits for a queue entry, then takes a ticket and is queued. -/
def State.issueCmd (s : State) (t k : Nat) (op : CmdOp) (d : Reg) (block a b : Word) : State :=
  let e := cmdEng op
  let q := s.slotQ t k e
  if q.q.length ≥ 2 then s.modSlot t k (fun sl => sl.waitFor (.engine e))
  else
    let n := (q.issued + 1) % 2 ^ 64
    let th := (s.slot t k).th
    let c : Cmd := { op := op, ticket := n, block := block, a := a, b := b, st := th.st, kin := th.kin, key := s.srkey t k }
    let s := s.modQ t (s.slot t k).team e (fun q => { q with q := q.q ++ [c], issued := n })
    (s.emit t k 6 (BitVec.ofNat 64 (n * 4 + engCode e))).modSlot t k
      (fun sl => { sl with th := sl.th.setReg d (BitVec.ofNat 64 n), state := .ready }.finish)

/-- R165: the checks of a parameter block. -/
def State.blockCheck (s : State) (t k : Nat) (a : Word) : Option (Nat × Word) :=
  if a.toNat % 64 ≠ 0 then some (FaultCode.align, 0#64)
  else if bits a 63 22 ≠ 0 then some (FaultCode.bounds, 0#64)
  else if s.teamOf t k = none || ((s.tile t).mac (macroOf a)).owner != s.teamOf t k then
    some (FaultCode.perm, BitVec.ofNat 64 (macroOf a))
  else none

/-- A command with a parameter block at w[p]. -/
def blockCmd (op : CmdOp) (d : Reg) (p : Ptr) (s : State) : Out :=
  onIssue s (fun t k sl s =>
    let a := sl.th.regs.get p
    match s.blockCheck t k a with
    | some (code, x) => s.raise t k code a x
    | none => s.issueCmd t k op d a 0#64 0#64)

/-! ### Buffers' geometry (R182) -/

namespace CBuf
def first (w : Word) : Nat := bits w 7 0
def mps (w : Word) : Nat := bits w 16 8
def count (w : Word) : Nat := bits w 20 17 + 1
def fmt (w : Word) : Nat := bits w 24 21
def grp (w : Word) : Nat := bits w 26 25
def bfly (w : Word) : Bool := w.getLsbD 27
end CBuf

/-- The macros of a slot, and of all slots. -/
def slotMacros (w : Word) (i : Nat) : List Nat := (List.range (CBuf.mps w)).map (fun j => CBuf.first w + i * CBuf.mps w + j)
def bufMacros (w : Word) : List Nat := (List.range (CBuf.mps w * CBuf.count w)).map (fun j => CBuf.first w + j)

/-- The configured buffer that a macro belongs to, other than `not`. -/
def Tile.bufferOf (x : Tile) (m : Nat) (other : Nat) : Option Nat :=
  (List.range 16).find? (fun b => b != other && match (x.buf b).cfg with | some w => (bufMacros w).contains m | none => false)

/-! ### Macro states (R242) -/

def Tile.beginLoad (x : Tile) (m : Nat) : Tile :=
  x.modMacro m (fun (c : Macro) => { c with loads := c.loads + 1, state := .loading })

/-- The last write of a command to a macro; a due scrub takes it once nothing loads it. -/
def Tile.endLoad (x : Tile) (m : Nat) : Tile :=
  x.modMacro m (fun (c : Macro) =>
    if c.loads ≤ 1 then { c with loads := 0, due := false, state := if c.due then .scrubbing else .ready } else { c with loads := c.loads - 1 })

/-- An event that takes macros in one of the states `old` to another; it changes none in any other state. -/
def Tile.setState (x : Tile) (old : List MState) (st : MState) (ms : List Nat) : Tile :=
  ms.foldl (fun x m => x.modMacro m (fun (c : Macro) => if c.due || !old.contains c.state then c else { c with state := st })) x

/-- Whether a macro is neither loading nor scrubbing. -/
def Tile.settled (x : Tile) (m : Nat) : Bool :=
  match (x.mac m).state with
  | .plain | .ready | .stationary => true
  | .loading | .scrubbing => false

/-! ### Slots of buffers (R183, R246) -/

/-- A copy command or a route transfer takes the next free slot; its macros are loading. -/
def Tile.takeFree (x : Tile) (b : Nat) : Tile × Nat :=
  match (x.buf b).cfg with
  | none => (x, 0)
  | some w =>
    let i := (x.buf b).fill
    let x := x.modBuf b (fun (c : CBuf) => { c with free := c.free - 1, fill := (i + 1) % CBuf.count w })
    ((slotMacros w i).foldl Tile.beginLoad x, i)

/-- Ended fills join the filled count in ring order: the next slot after those filled, while its fill has ended. -/
def CBuf.ringFill (c : CBuf) (slots : Nat) : Nat → CBuf
  | 0 => c
  | fuel + 1 =>
    let i := (c.take + c.filled) % slots
    if c.ended.contains i then
      CBuf.ringFill { c with filled := c.filled + 1, ended := c.ended.filter (· != i) } slots fuel
    else c

/-- The filling command's last write to slot `i`, or its end in error; slots are filled in ring order. -/
def Tile.fillEnd (x : Tile) (b i : Nat) : Tile :=
  match (x.buf b).cfg with
  | none => x
  | some w => (slotMacros w i).foldl Tile.endLoad (x.modBuf b (fun (c : CBuf) =>
      ({ c with ended := c.ended ++ [i] } : CBuf).ringFill (CBuf.count w) 16))

/-- The slot that a copy command or a transfer would take next, if it is free; whether one of its macros scrubs or is
stationary (R242). -/
def Tile.slotState (x : Tile) (b : Nat) (st : MState) : Option Nat :=
  match (x.buf b).cfg with
  | none => none
  | some w => (slotMacros w (x.buf b).fill).find? (fun m => (x.mac m).state == st || (st == .scrubbing && (x.mac m).due))

/-- `bfly` takes the oldest filled slot. -/
def Tile.takeFilled (x : Tile) (b : Nat) : Tile × Nat :=
  match (x.buf b).cfg with
  | none => (x, 0)
  | some w =>
    let i := (x.buf b).take
    let x := x.modBuf b (fun (c : CBuf) =>
      { c with filled := c.filled - 1, held := c.held + 1, take := (i + 1) % CBuf.count w })
    (x.setState [.ready] .stationary (slotMacros w i), i)

/-- That `bfly` is done. -/
def Tile.giveBack (x : Tile) (b i : Nat) : Tile :=
  match (x.buf b).cfg with
  | none => x
  | some w => (x.modBuf b (fun (c : CBuf) => { c with held := c.held - 1, free := c.free + 1 })).setState [.stationary] .plain (slotMacros w i)

/-! ### Blocks and status words (R165, R166) -/

/-- R385: an engine reads words of a macro: errors are met. -/
def State.meetBlock (s : State) (t : Nat) (a : Word) (n : Nat) : State := s.meetSpad t (spadKey t (macroOf a) (macroOff a)) n

/-- The eight words of a block, with whether one of words 0-6 is poisoned. -/
def State.readBlock (s : State) (t : Nat) (a : Word) : List Word × Bool :=
  let ws := (List.range 8).map (fun i => s.spadRead t (a + BitVec.ofNat 64 (8 * i)))
  (ws.map Prod.fst, (ws.take 7).any Prod.snd)

/-- The word of a block. -/
def blk (l : List Word) (i : Nat) : Word := l.getD i 0#64

namespace EngErr
def param := 0x01
def bounds := 0x02
def perm := 0x03
def format := 0x04
def state := 0x05
def ue := 0x06
def notRes := 0x07
def stale := 0x08
def fenced := 0x09
def peerGone := 0x0A
def linkLost := 0x0B
def route := 0x0C
def home := 0x0D
def draining := 0x0E
def checksum := 0x0F
def noObj := 0x10
end EngErr

/-- R166: the status word; at most 4,095 rows are counted. -/
def statusWord (ticket err det cnt : Nat) (done consumed : Bool) (fl : BitVec 6) : Word :=
  BitVec.ofNat 64 (ticket % 2 ^ 16 * 2 ^ 48 + err % 256 * 2 ^ 40 + det % 256 * 2 ^ 32 + (if done then 2 ^ 25 else 0) +
    (if consumed then 2 ^ 24 else 0) + min cnt 4095 * 2 ^ 12 + fl.toNat * 2 ^ 4)

/-- Whether a command has a parameter block. -/
def CmdOp.hasBlock : CmdOp → Bool
  | .stn | .unstn | .mfmt => false
  | _ => true

def State.writeStatus (s : State) (t : Nat) (c : Cmd) (w : Word) : State :=
  if c.op.hasBlock then s.spadStore t (c.block + 56#64) 0xFF#8 w else s

def State.setRun (s : State) (t : Nat) (e : Eng) (r : Option Run) : State := s.modTile t (fun x => x.setRun e r)

/-- R246: whether the end of a fill of a buffer comes too late in this cycle: a `cbfree` has been applied to its counts already. -/
def Tile.fillLate (x : Tile) (b now : Nat) : Bool := (x.buf b).freedAt == some now

/-- R166-R168: the command is done, with an error code (0 for none): its status is written, T takes its ticket, its flags join
those not yet reported, and the first error is recorded. DESIGN CHOICE (log 123): the status word holds C = 1 with D = 1, also of a
butterfly command that ends at its start checks before any consumed point; R276 states C for commands that have none. -/
def State.engDone (s : State) (t : Nat) (r : Run) (err det cnt : Nat) : State :=
  let e := cmdEng r.cmd.op
  let w := statusWord r.cmd.ticket err det cnt true true r.flags
  let s := s.writeStatus t r.cmd w
  let s := s.modQ t r.pos e (fun q => { q with
    done := r.cmd.ticket, flags := q.flags ||| r.flags,
    err := if err ≠ 0 && q.err.isNone then some (r.cmd.ticket, w, if r.cmd.op.hasBlock then r.cmd.block else 0#64) else q.err })
  s.setRun t e none

/-- The team of a run. -/
def State.runTeam (s : State) (t : Nat) (r : Run) : Team := ((s.tile t).teams.look r.pos).getD { kin := 0, ctx := 0 }

/-- R338: the team is being quiesced: a command stops at its boundary. -/
def State.runClosed (s : State) (t : Nat) (r : Run) : Bool := (s.runTeam t r).closed || (s.tile t).shut

def macroOwned (x : Tile) (p m : Nat) : Bool := (x.mac m).owner == some p

/-- R167: what a scratchpad address in a block must be: the element it begins, or an error. -/
def State.blockAddr (s : State) (t : Nat) (a : Word) (bytes : Bool) : Except Nat (Nat × Nat) :=
  if bits a 63 22 ≠ 0 then .error EngErr.bounds
  else
    let b := elemBits (s.fmtAt t (macroOf a))
    if macroOff a * 8 % b ≠ 0 then .error EngErr.param
    else .ok (macroOf a, if bytes then macroOff a else macroOff a * 8 / b)

/-! ### Macro control (R169, R170, R176) -/

/-- R169: the macros of a group that the team may not control. -/
def State.groupBad (s : State) (t k m c : Nat) : Option Nat :=
  ((List.range c).map (m + ·)).find? (fun j =>
    s.teamOf t k = none || ((s.tile t).mac j).owner != s.teamOf t k || ((s.tile t).bufferOf j 16).isSome)

/-- `stn` and `unstn` at issue. -/
def groupCmd (op : CmdOp) (d : Reg) (p : Ptr) (q : Reg) (s : State) : Out :=
  onIssue s (fun t k sl s =>
    let a := sl.th.regs.get p
    let c := sl.th.reg q
    if a.toNat > 255 ∨ c = 0#64 ∨ c.toNat > 192 ∨ a.toNat + c.toNat > 256 then s.raise t k FaultCode.bounds a 0#64
    else match s.groupBad t k a.toNat c.toNat with
      | some m => s.raise t k FaultCode.perm a (BitVec.ofNat 64 m)
      | none => s.issueCmd t k op d 0#64 a c)

def execStn (d : Reg) (p : Ptr) (q : Reg) (s : State) : Out := groupCmd .stn d p q s
def execUnstn (d : Reg) (p : Ptr) (q : Reg) (s : State) : Out := groupCmd .unstn d p q s

def execMfmt (d : Reg) (p : Ptr) (q : Reg) (s : State) : Out :=
  onIssue s (fun t k sl s =>
    let a := sl.th.regs.get p
    let w := sl.th.reg q
    let c := bits w 15 8 + 1
    if bits w 63 16 ≠ 0 ∨ bits w 7 6 ≠ 0 ∨ bits w 3 0 = 15 ∨ bits w 5 4 = 3 then s.raise t k FaultCode.illegal 0#64 w
    else if a.toNat > 255 ∨ a.toNat + c > 256 then s.raise t k FaultCode.bounds a 0#64
    else match s.groupBad t k a.toNat c with
      | some m => s.raise t k FaultCode.perm a (BitVec.ofNat 64 m)
      | none => s.issueCmd t k .mfmt d 0#64 a w)

/-- The macros a macro-control command names. -/
def Cmd.group (c : Cmd) : List Nat :=
  (List.range (if c.op = .mfmt then bits c.b 15 8 + 1 else c.b.toNat)).map (c.a.toNat + ·)

/-! ### Timelines (R168) -/

def execTlread (d : Reg) (e : Eng) (s : State) : Out :=
  onIssue s (fun t k _ s =>
    let v := BitVec.ofNat 64 (s.slotQ t k e).done
    s.modSlot t k (fun sl => { sl with th := sl.th.setReg d v }.finish))

def execTlwait (p : Ptr) (e : Eng) (s : State) : Out :=
  onIssue s (fun t k sl s =>
    let n := sl.th.regs.get p
    let q := s.slotQ t k e
    if n.toNat > q.issued then s.raise t k FaultCode.bounds n 0#64
    else if n = 0#64 then s.modSlot t k Slot.finish
    else if q.done < n.toNat then s.modSlot t k (fun sl => sl.waitFor (.timeline e))
    else match q.err with
      | some (i, w, a) =>
        if i ≤ n.toNat then s.raise t k FaultCode.engFault a w
        else (s.modQ t sl.team e (fun q => { q with flags := 0#6 })).modSlot t k
          (fun sl => { sl with th := sl.th.orFlags q.flags }.finish)
      | none =>
        (s.modQ t sl.team e (fun q => { q with flags := 0#6 })).modSlot t k
          (fun sl => { sl with th := sl.th.orFlags q.flags }.finish))

/-! ### Circular-buffer instructions (R182, R183) -/

def execCbcfg (d : Reg) (p : Ptr) (q : Reg) (s : State) : Out :=
  onIssue s (fun t k sl s =>
    let a := sl.th.regs.get p
    let b := sl.th.reg q
    match s.blockCheck t k a with
    | some (code, x) => s.raise t k code a x
    | none =>
      if b.toNat > 15 then s.raise t k FaultCode.bounds b 0#64
      else if s.teamOf t k = none || ((s.tile t).buf b.toNat).owner != s.teamOf t k then s.raise t k FaultCode.perm b 0#64
      else s.issueCmd t k .cbcfg d a b 0#64)

/-- R183: the checks of `cbwait` and `cbfree`: the buffer's configuration, or the fault. -/
def State.threadBuf (s : State) (t k : Nat) (b : Word) : Except Nat (CBuf × Word) :=
  if b.toNat > 15 then .error FaultCode.bounds
  else
    let c := (s.tile t).buf b.toNat
    if s.teamOf t k = none || c.owner != s.teamOf t k then .error FaultCode.perm
    else match c.cfg with
      | none => .error FaultCode.perm
      | some w => if CBuf.bfly w then .error FaultCode.perm else .ok (c, w)

def execCbwait (p : Ptr) (q : Reg) (s : State) : Out :=
  onIssue s (fun t k sl s =>
    let b := sl.th.regs.get p
    let n := sl.th.reg q
    match s.threadBuf t k b with
    | .error code => s.raise t k code b 0#64
    | .ok (c, w) =>
      if n.toNat > CBuf.count w then s.raise t k FaultCode.bounds n 0#64
      else if c.filled < n.toNat then s.modSlot t k (fun sl => sl.waitFor (.buffer b.toNat))
      else s.modSlot t k Slot.finish)

def execCbfree (p : Ptr) (q : Reg) (s : State) : Out :=
  onIssue s (fun t k sl s =>
    let b := sl.th.regs.get p
    let n := sl.th.reg q
    match s.threadBuf t k b with
    | .error code => s.raise t k code b 0#64
    | .ok (c, w) =>
      if n.toNat > c.filled then s.raise t k FaultCode.bounds n 0#64
      else
        let freed := (List.range n.toNat).flatMap (fun i => slotMacros w ((c.take + i) % CBuf.count w))
        let s := s.modTile t (fun x => (x.modBuf b.toNat (fun (c : CBuf) =>
          { c with filled := c.filled - n.toNat, free := c.free + n.toNat, take := (c.take + n.toNat) % CBuf.count w,
                   freedAt := some s.now })).setState
            [.ready] .plain freed)
        s.modSlot t k Slot.finish)

/-- R183: `cbstat`. DESIGN CHOICE (log 116): a buffer above 15 raises BOUNDS and one that is not the team's PERM, as for `cbwait` and
`cbfree`; the rule states these faults for those two only. -/
def execCbstat (d : Reg) (p : Ptr) (s : State) : Out :=
  onIssue s (fun t k sl s =>
    let b := sl.th.regs.get p
    if b.toNat > 15 then s.raise t k FaultCode.bounds b 0#64
    else
      let c := (s.tile t).buf b.toNat
      if s.teamOf t k = none || c.owner != s.teamOf t k then s.raise t k FaultCode.perm b 0#64
      else
        let v := match c.cfg with
          | none => 0#64
          | some w => BitVec.ofNat 64 (c.filled + c.free * 2 ^ 8 + c.held * 2 ^ 16 + c.fill * 2 ^ 24 + c.take * 2 ^ 28 +
              CBuf.count w * 2 ^ 32 + 2 ^ 40 + (if CBuf.bfly w then 2 ^ 41 else 0))
        s.modSlot t k (fun sl => { sl with th := sl.th.setReg d v }.finish))

end Sys2Proof.Machine
end

