-- ==== Sys2Proof/Machine/Vector.lean ====
section
/-! DEFINITION. Vector instructions and the vector unit (R146-R162). -/

namespace Sys2Proof.Machine

/-! ### Operands (R146-R148, R156) -/

/-- Runs of consecutive elements of one macro: macro, first element, count, first position. -/
abbrev Seg := Nat × Nat × Nat × Nat

/-- R147: the segments of a run of `n` positions from element `e` of macro `m`, while macros last. -/
def State.segs (s : State) (t : Nat) : Nat → Nat → Nat → Nat → Nat → List Seg
  | 0, _, _, _, _ => []
  | fuel + 1, m, e, n, p =>
    let cap := fmtCap (s.fmtAt t m)
    if n = 0 ∨ m > 255 ∨ e ≥ cap then []
    else
      let c := min n (cap - e)
      (m, e, c, p) :: s.segs t fuel (m + 1) 0 (n - c) (p + c)

/-- R146: whether a pointer's offset and sub-element index fit a format. -/
def startFits (c : Nat) (p : Word) : Bool :=
  let b := elemBits c
  (macroOff p * 8) % b == 0 && bits p 25 24 < (if b = 6 then 4 else if b = 4 then 2 else 1)

/-- R146, R147: the element at a pointer, rounded down, and the runs of `n` positions from it. -/
def startElem (c : Nat) (p : Word) : Nat := macroOff p * 8 / elemBits c + bits p 25 24
def State.layout (s : State) (t : Nat) (p : Word) (n : Nat) : List Seg :=
  s.segs t 257 (macroOf p) (startElem (s.fmtAt t (macroOf p)) p) n 0

/-- R148: whole blocks and groups of a destination. -/
def State.wholeUnits (s : State) (t : Nat) (g : Seg) : Bool :=
  let c := s.fmtAt t g.1
  let u := if isBlock c then 8 else if isAffine c then groupLen (s.grpAt t g.1) else 1
  g.2.1 % u = 0 && g.2.2.1 % u = 0

/-- R151: whether a form takes a format as source or as destination. -/
def fmtAllowed (op : VecOp) (c : Nat) (dest : Bool) : Bool :=
  if c = 0 then op == .copy || (op == .fill && dest)
  else if isAffine c then !dest || op == .copy else true

/-- The segments that hold positions `lo` to `hi - 1`. -/
def segsIn (gs : List Seg) (lo hi : Nat) : List Seg := gs.filter (fun g => max lo g.2.2.2 < min hi (g.2.2.2 + g.2.2.1))

/-- What an operand's checks give: a fault with its address and extra word, or its segments. -/
abbrev OperandCheck := Except (Nat × Word × Word) (List Seg)

/-- R151: the formats that positions `lo` to `hi - 1` of an operand meet. -/
def State.formatCheck (s : State) (t : Nat) (op : VecOp) (p : Word) (gs : List Seg) (lo hi : Nat) (dest : Bool) : OperandCheck :=
  match (segsIn gs lo hi).find? (fun g => !fmtAllowed op (s.fmtAt t g.1) dest) with
  | some g => .error (FaultCode.perm, p, BitVec.ofNat 64 g.1)
  | none => .ok gs

/-- Whether a macro is of the team that accounts for a slot. -/
def State.ownMac (s : State) (t k m : Nat) : Bool := m < 256 && (s.teamOf t k).isSome && ((s.tile t).mac m).owner == s.teamOf t k

/-- R156: the checks of one operand of `n` positions at issue. -/
def State.operand (s : State) (t k : Nat) (op : VecOp) (n : Nat) (p : Word) (dest : Bool) : OperandCheck :=
  let gs := s.layout t p n
  let covered := (gs.map (fun g => g.2.2.1)).foldl (· + ·) 0
  if !startFits (s.fmtAt t (macroOf p)) p || (dest && !gs.all (fun g => s.wholeUnits t g)) then .error (FaultCode.align, p, 0#64)
  else if bits p 63 26 ≠ 0 ∨ bits p 23 22 ≠ 0 ∨ covered < n then .error (FaultCode.bounds, p, 0#64)
  else match gs.find? (fun g => !s.ownMac t k g.1) with
    | some g => .error (FaultCode.perm, p, BitVec.ofNat 64 g.1)
    | none => s.formatCheck t op p gs 0 n dest

/-- R162, R244: the check of one operand when the pass of positions `lo` to `hi - 1` starts: only a format can be wrong. -/
def State.passOperand (s : State) (t : Nat) (op : VecOp) (n lo hi : Nat) (p : Word) (dest : Bool) : OperandCheck :=
  s.formatCheck t op p (s.layout t p n) lo hi dest

/-- The macro and element of a position; macro 256 for one beyond the last. -/
def posIn : List Seg → Nat → Nat × Nat
  | [], _ => (256, 0)
  | (m, e, c, p) :: rest, i => if i < p + c then (m, e + (i - p)) else posIn rest i

/-- R154: the destination macro of the first pair of segments that `vcopy` does not take. -/
def State.pairBad (s : State) (t : Nat) (sa sd : List Seg) (lo hi : Nat) : Option Nat :=
  (sd.flatMap (fun d => (sa.filterMap (fun a =>
    let p0 := max lo (max a.2.2.2 d.2.2.2)
    let p1 := min hi (min (a.2.2.2 + a.2.2.1) (d.2.2.2 + d.2.2.1))
    let same := s.fmtAt t a.1 == s.fmtAt t d.1 && (!isAffine (s.fmtAt t a.1) || s.grpAt t a.1 == s.grpAt t d.1)
    if p0 < p1 && !same then some d.1 else none)))).head?

/-- The three operands of a form: pa, pb, pd. -/
structure VecOps where
  a : List Seg := []
  b : List Seg := []
  d : List Seg := []
  deriving DecidableEq, Repr

/-- R156, R162: the operands checked by `check` in the order pa, pb, pd, then `vcopy`'s pairs of positions `lo` to `hi - 1`. -/
def State.vecOperands (s : State) (t k : Nat) (f : VecForm) (lo hi : Nat) (check : Word → Bool → OperandCheck) :
    Except (Nat × Word × Word) VecOps := do
  let r := (s.slot t k).th.regs
  let get (p : Option (Ptr × Bool)) (dest : Bool) : OperandCheck :=
    match p with
    | none => .ok []
    | some (q, _) => check (r.get q) dest
  let a ← get f.a false
  let b ← get f.b false
  let d ← get f.d true
  if f.op = .copy then
    match s.pairBad t a d lo hi with
    | some m => .error (FaultCode.perm, (match f.d with | some (q, _) => r.get q | none => 0#64), BitVec.ofNat 64 m)
    | none => .ok { a := a, b := b, d := d }
  else .ok { a := a, b := b, d := d }

/-- R156: the checks at issue. -/
def State.vecCheck (s : State) (t k : Nat) (f : VecForm) (n : Nat) : Except (Nat × Word × Word) VecOps :=
  s.vecOperands t k f 0 n (s.operand t k f.op n)

/-- The operands as the formats now in force lay them out, without checks: of an instruction that has issued and waited for the unit
(R162). -/
def State.vecLaid (s : State) (t k : Nat) (f : VecForm) (n : Nat) : VecOps :=
  let at_ (p : Option (Ptr × Bool)) : List Seg := match p with
    | some (q, _) => s.layout t ((s.slot t k).th.regs.get q) n
    | none => []
  { a := at_ f.a, b := at_ f.b, d := at_ f.d }

/-! ### Passes (R157) -/

def VecOp.isApprox : VecOp → Bool
  | .rcp | .rsqrt | .sqrt | .exp2 | .log2 | .tanh | .sigm => true
  | _ => false
def VecOp.isReduction : VecOp → Bool
  | .rsum | .rmax | .rmin | .rsumsq | .rdot => true
  | _ => false
/-- Forms that also read pd. -/
def VecOp.readsD : VecOp → Bool
  | .fma | .fms | .fnma | .sel => true
  | _ => false

/-- R157: the positions of a pass. -/
def State.passLen (s : State) (t : Nat) (op : VecOp) (o : VecOps) : Nat :=
  if op.isApprox || op.isReduction || (o.a ++ o.b ++ o.d).any (fun g => s.fmtAt t g.1 == 1 || s.fmtAt t g.1 == 12) then 64 else 128

/-- R157: the cycles of the pass from position `lo` to `hi - 1`. -/
def passCycles (op : VecOp) (o : VecOps) (lo hi : Nat) : Nat :=
  let macros (gs : List Seg) : List Nat := (segsIn gs lo hi).map (fun g => g.1)
  let a := macros o.a
  let b := macros o.b
  let d := macros o.d
  let meet (x y : List Nat) : Bool := x.any (fun m => y.contains m)
  (if op.isApprox then 4 else 1) * (if meet a b || meet a d || meet b d then 2 else 1)

/-! ### Elements (R152-R154) -/

/-- R93 on exact values; a signalling NaN gives the canonical NaN with NV. -/
def pickVal (isMax : Bool) (x y : Val) : Val :=
  match pickMinMax isMax x y with
  | .first => x
  | .second => y
  | .nan nv => .nan nv

def cmpElem (quiet : Bool) (test : Int → Bool) (x y : Val) : Val × Flags :=
  if x.isNan || y.isNan then (intVal 0, Flags.nvIf (if quiet then x.isSig || y.isSig else true))
  else (intVal (if test (cmpVal x y) then 1 else 0), Flags.none)

/-- R152, R153: the exact value of an elementwise form, with flags of its own. -/
def vecElem (op : VecOp) (rm : Nat) (acc : Val) (a b d : Val) : Val × Flags :=
  match op with
  | .add => (addVal rm a b, Flags.none)
  | .sub => (addVal rm a b.neg, Flags.none)
  | .mul => (mulVal a b, Flags.none)
  | .min => (pickVal false a b, Flags.none)
  | .max => (pickVal true a b, Flags.none)
  | .abs => (if a.sign then a.neg else a, Flags.none)
  | .neg => (a.neg, Flags.none)
  | .rcp => rcpVal a
  | .rsqrt => rsqrtVal a
  | .sqrt => (sqrtVal a, Flags.none)
  | .exp2 => (exp2Val a, Flags.none)
  | .log2 => log2Val a
  | .tanh => (tanhVal a, Flags.none)
  | .sigm => (sigmVal a, Flags.none)
  | .cmpeq => cmpElem true (· == 0) a b
  | .cmplt => cmpElem false (· < 0) a b
  | .cmple => cmpElem false (· ≤ 0) a b
  | .fma => (fmaVal rm a b d, Flags.none)
  | .fms => (fmaVal rm a b d.neg, Flags.none)
  | .fnma => (fmaVal rm a.neg b d, Flags.none)
  | .scal => (mulVal acc a, Flags.none)
  | .axpy => (fmaVal rm acc a b, Flags.none)
  | .fill => (acc, Flags.none)
  | .sel => (if d.isZero then b else a, Flags.none)
  | .cvt | .copy | .rsum | .rmax | .rmin | .rsumsq | .rdot => (a, Flags.none)

/-- R150: the rounding of a destination element: its SR position is macro × 2^15 + element (R42). -/
def elemRnd (rm : Nat) (sat : Bool) (key : BitVec 32) (m e : Nat) : Rnd := ⟨rm, sat, key, BitVec.ofNat 32 (m * 2 ^ 15 + e)⟩

/-- A finite value's sign, magnitude and exponent, with 0 finite, 1 infinite, 2 quiet and 3 signalling NaN. -/
def valParts : Val → Nat × Bool × Nat × Int
  | .fin n m e => (0, n, m, e)
  | .inf n => (1, n, 0, 0)
  | .nan s => (if s then 3 else 2, false, 0, 0)
def partsVal : Nat × Bool × Nat × Int → Val
  | (0, n, m, e) => .fin n m e
  | (1, n, _, _) => .inf n
  | (k, _, _, _) => .nan (k == 3)

/-- The exact value computed for one position. -/
def State.vecAt (s : State) (t : Nat) (v : VecRun) (o : VecOps) (acc : Val) (i : Nat) : Val × Flags :=
  let get (gs : List Seg) : Val := match gs with
    | [] => intVal 0
    | gs => let (m, e) := posIn gs i; s.elem t m e
  vecElem v.form.op v.rm acc (get o.a) (get o.b) (if v.form.op.readsD then get o.d else intVal 0)

/-- R47, R150: whether the position's block is an exact expansion, and its source block. -/
def State.expansion (s : State) (t : Nat) (v : VecRun) (o : VecOps) (i c : Nat) : Option (Nat × Nat) :=
  if v.form.op ≠ .cvt then none
  else
    let (m, e) := posIn o.a i
    let (m', e') := posIn o.a (i + 7)
    if m = m' ∧ e % 8 = 0 ∧ e' = e + 7 ∧ expands (s.fmtAt t m) c then some (m, e) else none

/-- The bits that a pass writes at destination position `i`, with flags. A block is written with its last position (log 16).
DESIGN CHOICE (log 87): `vcopy` gives a destination block or group the entries of the source element at its first position. -/
def State.vecWrite (s : State) (t : Nat) (v : VecRun) (o : VecOps) (key : BitVec 32) (acc : Word) (i : Nat) :
    List BitWrite × Flags :=
  let (m, e) := posIn o.d i
  let c := s.fmtAt t m
  let b := elemBits c
  let av := fp32.value (acc.toNat % 2 ^ 32)
  if v.form.op = .copy then
    let (m', e') := posIn o.a i
    let u := if isBlock c then 8 else if isAffine c then groupLen (s.grpAt t m) else 0
    ([(m, e * b, b, s.elemCode t m' e')] ++
      (if u ≠ 0 ∧ e % u = 0 then
        if isBlock c then [(m, (scaleOff c + e / 8) * 8, 8, s.scaleCode t m' e')]
        else
          [(m, (scaleOff c + 2 * (e / u)) * 8, 16, s.mem.field (spadKey t m' 0) ((scaleOff c + 2 * (e' / u)) * 8) 16),
           (m, (zeroOff c + e / u) * 8, 8, s.mem.field (spadKey t m' 0) ((zeroOff c + e' / u) * 8) 8)]
       else []), Flags.none)
  else if v.form.op = .fill ∧ c = 0 then ([(m, e * 8, 8, acc.toNat % 256)], Flags.none)
  else if isBlock c then
    if e % 8 ≠ 7 ∨ i < 7 ∨ posIn o.d (i - 7) ≠ (m, e - 7) then ([], Flags.none)
    else
      let vals := (List.range 8).map (fun j => s.vecAt t v o av (i - 7 + j))
      let rs := (List.range 8).map (fun j => elemRnd v.rm v.sat key m (e - 7 + j))
      let own := vals.foldl (fun f x => f ||| x.2) Flags.none
      let (sc, codes, fl) := match s.expansion t v o (i - 7) c with
        | some (m', e') => expandBlock (s.fmtAt t m') c (s.scaleCode t m' e') ((List.range 8).map (fun j => s.elemCode t m' (e' + j)))
        | none => encodeBlock c rs (vals.map Prod.fst)
      (((codes.zipIdx).map (fun p => (m, (e - 7 + p.2) * b, b, p.1))) ++ [(m, (scaleOff c + e / 8) * 8, 8, sc)], own ||| fl)
  else
    let (x, own) := s.vecAt t v o av i
    let fold := v.form.op == .cvt && isBlock (s.fmtAt t (posIn o.a i).1) && (c == 4 || c == 5)
    let r := if fold then { elemRnd 0 true key m e with sat := true } else elemRnd v.rm v.sat key m e
    let (code, fl) := encodeElem c r x
    ([(m, e * b, b, code)], own ||| fl)

/-! ### Start, pass and end -/

/-- R158: the address of element `e` of macro `m`. -/
def State.elemPtr (s : State) (t m e : Nat) : Word :=
  if m > 255 then 0x400000#64
  else
    let b := elemBits (s.fmtAt t m)
    let (o, k) := if b = 4 then (e / 2, e % 2) else if b = 6 then (3 * (e / 4), e % 4) else (e * b / 8, 0)
    BitVec.ofNat 64 (k * 2 ^ 24 + m * 2 ^ 14 + o)

/-- R158: the address of the position after an operand's last one. -/
def State.nextPtr (s : State) (t : Nat) (gs : List Seg) : Word :=
  match gs.getLast? with
  | none => 0#64
  | some (m, e, c, _) => if e + c ≥ fmtCap (s.fmtAt t m) then s.elemPtr t (m + 1) 0 else s.elemPtr t m (e + c)

/-- R150, R158: the instruction is complete. -/
def State.vecFinish (s : State) (t k : Nat) (f : VecForm) (n : Nat) (o : VecOps) (fl : Flags) (acc : Option Word) : State :=
  let bump (r : Regs) (p : Option (Ptr × Bool)) (gs : List Seg) : Regs :=
    match p with
    | some (q, true) => if n = 0 then r else r.set q (s.nextPtr t gs)
    | _ => r
  let s' := s.modTile t (fun x => { x with vec := none })
  s'.modSlot t k (fun sl =>
    let th := (sl.th.orFlags fl).setVprog 0
    let th := match acc with | some v => { th with acc := v } | none => th
    let th := { th with regs := bump (bump (bump th.regs f.a o.a) f.b o.b) f.d o.d }
    { sl with th := th, state := .ready, eligAt := max sl.eligAt (s.now + 8) }.finish)

/-- R155: the result of a reduction. -/
def VecRun.result (v : VecRun) : Word × Flags :=
  if v.n = 0 then (0#64, Flags.none)
  else if v.ints then
    let (x, fl) := clampInt (-(2 ^ 31)) (2 ^ 31 - 1) v.int
    (BitVec.ofInt 64 x, fl)
  else match v.form.op with
    | .rmax | .rmin =>
      let (c, fl) := roundTo fp32 rne (match v.sel with | some p => partsVal p | none => intVal 0)
      (BitVec.ofNat 64 c, fl)
    | _ =>
      let (c, fl) := treeSum 32 v.parts
      (BitVec.ofNat 64 c, fl)

/-- R161, R354: a stop of the running thread is pending; a single step runs all passes. -/
def State.vecHalts (s : State) (t k : Nat) : Bool :=
  let sl := s.slot t k
  (sl.stopReq && sl.stepReq.isNone) || (match (s.tile t).teams.look sl.team with | some tm => tm.closed | none => false)

/-- R161: a fault or a stop between passes: `vprog` counts the passes performed, and their flags are kept. -/
def State.vecStop (s : State) (t k : Nat) (v : VecRun) : State :=
  (s.modTile t (fun x => { x with vec := none })).modSlot t k (fun sl =>
    let fl := v.parts.foldl (fun f x => f ||| x.2) v.fl
    let th := (sl.th.orFlags fl).setVprog (if v.form.op.isReduction then 0 else v.at_ / 64)
    { sl with th := th, state := .ready, retry := false }.rewind)

/-- R159: whether a pass may begin: no operand macro of it is loading or scrubbing. -/
def State.passClear (s : State) (t : Nat) (o : VecOps) (lo hi : Nat) : Bool :=
  (segsIn (o.a ++ o.b ++ o.d) lo hi).all (fun g => (s.tile t).spadGate g.1 false == .go)

/-- R244: the formats of the macros of a pass's operands, as its start reads them. -/
def State.formatsOf (s : State) (t : Nat) (o : VecOps) : List (Nat × Nat × Nat) :=
  (o.a ++ o.b ++ o.d).map (fun g => (g.1, s.fmtAt t g.1, s.grpAt t g.1))

/-- The state as a reader sees it that took formats before: macro, format, group. -/
def State.underFormats (s : State) (t : Nat) (fs : List (Nat × Nat × Nat)) : State :=
  s.modTile t (fun x => fs.foldl (fun x e =>
    x.modMacro e.1 (fun (m : Macro) => { m with fmt := BitVec.ofNat 4 e.2.1, grp := BitVec.ofNat 2 e.2.2 })) x)

/-- R157, R159, R162: the vector unit turns to its next pass: it stops (R161), waits for macros, raises PERM, or starts. -/
def State.passStart (s : State) (t : Nat) (v : VecRun) : State :=
  let k := v.slot
  let hi := min v.n (v.at_ + v.len)
  let idle : State := s.modTile t (fun x => { x with vec := some { v with begun := false } })
  if s.vecHalts t k then s.vecStop t k v
  else match s.vecOperands t k v.form v.at_ hi (s.passOperand t v.form.op v.n v.at_ hi) with
    | .error (code, a, x) => (s.vecStop t k v).raise t k code a x
    | .ok o =>
      if s.passClear t o v.at_ hi then
        s.modTile t (fun x => { x with vec := some { v with
          begun := true, fmts := s.formatsOf t o, due := s.now + passCycles v.form.op o v.at_ hi } })
      else idle

/-- R149-R157: the issue of a vector instruction. -/
def vector (s : State) (f : VecForm) : Out :=
  onIssue s (fun t k sl s =>
    let n := (sl.th.regs.get f.l).toNat
    let th := sl.th
    if n > 4194240 then s.raise t k FaultCode.bounds (BitVec.ofNat 64 n) 0#64
    else
      match (if n = 0 then .ok {} else if sl.vecSince.isSome then .ok (s.vecLaid t k f n) else s.vecCheck t k f n) with
      | .error (code, a, x) => s.raise t k code a x
      | .ok o =>
        if (s.tile t).vec.isSome || (s.tile t).vecAhead k (sl.vecSince.getD s.now) then
          s.modSlot t k (fun sl => { sl.waitFor .vector with vecSince := some (sl.vecSince.getD s.now) })
        else
          let at_ := if f.op.isReduction then 0 else 64 * th.vprog
          let len := s.passLen t f.op o
          let ints := f.op.isReduction && (o.a ++ o.b).all (fun g => isIntFmt (s.fmtAt t g.1))
          let v : VecRun := { slot := k, form := f, n := n, len := len, at_ := at_, due := s.now,
                              rm := th.rm, sat := th.sat, ints := ints }
          if at_ ≥ n then s.vecFinish t k f n o Flags.none (if f.op.isReduction then some v.result.1 else none)
          else (s.modSlot t k (fun sl => { sl with retry := false, vecSince := none })).passStart t v)

/-- R155: the terms of a reduction's pass. -/
def reduceTerms (op : VecOp) (a b : Val) : Val :=
  match op with
  | .rsumsq => mulVal a a
  | .rdot => mulVal a b
  | _ => a

def valInt : Val → Int
  | .fin neg m e => (if neg then -1 else 1) * ((m : Int) * 2 ^ e.toNat)
  | _ => 0

/-- R155: a reduction after one more pass over the values read. DESIGN CHOICE (log 121): `vrmax` and `vrmin` over more than two elements
fold R93 from the left, so a number after a signalling NaN replaces the NaN it gave, NV kept; R93 states it for two operands. -/
def VecRun.reduce (v : VecRun) (terms : List (Val × Val)) : VecRun :=
  let ts := terms.map (fun p => reduceTerms v.form.op p.1 p.2)
  match v.form.op with
  | .rmax | .rmin =>
    let isMax := v.form.op == .rmax
    if v.ints then
      let xs := ts.map valInt
      let start := if v.at_ = 0 then xs.headD 0 else v.int
      { v with int := xs.foldl (fun m x => if isMax then max m x else min m x) start }
    else
      let go (acc : Option Val × Flags) (x : Val) : Option Val × Flags :=
        match acc.1 with
        | none => (some x, acc.2)
        | some y => match pickMinMax isMax y x with
          | .first => (some y, acc.2)
          | .second => (some x, acc.2)
          | .nan nv => (some (.nan false), acc.2 ||| Flags.nvIf nv)
      let (r, fl) := ts.foldl go (v.sel.map partsVal, v.fl)
      { v with sel := r.map valParts, fl := fl }
  | _ =>
    if v.ints then { v with int := v.int + (ts.map valInt).foldl (· + ·) 0 }
    else { v with parts := v.parts ++ [roundSum fp32 rne ts] }

/-- The positions of a pass that every operand places in a macro of the team; a format that changes after issue can place
some beyond it, and those take no part (log 27). -/
def State.passPositions (s : State) (t k : Nat) (o : VecOps) (lo hi : Nat) : List Nat :=
  ((List.range (hi - lo)).map (· + lo)).filter (fun i =>
    [o.a, o.b, o.d].all (fun gs => gs.isEmpty || s.ownMac t k (posIn gs i).1))

/-- R385: the words of the elements that a pass reads are met. -/
def State.meetPass (s : State) (t k : Nat) (v : VecRun) (o : VecOps) (lo hi : Nat) : State :=
  if s.mem.soft.isEmpty && s.mem.weak.isEmpty then s
  else
    let r := s.underFormats t v.fmts
    let ps := r.passPositions t k o lo hi
    ((o.a ++ o.b ++ (if v.form.op.readsD then o.d else [])).map (·.1)).eraseDups.foldl (fun s m =>
      ((ps.filterMap (fun i => [o.a, o.b, o.d].findSome? (fun gs =>
          let q := posIn gs i
          if q.1 = m then some (q.2 * elemBits (r.fmtAt t m) / 64) else none))).eraseDups).foldl
        (fun s w => s.meetSpad t (spadKey t m (8 * w)) 1) s) s

/-- R159-R161: the end of a pass of the vector unit, or the start of one that had to wait. DESIGN CHOICE (log 120): of several poisoned
words that a pass reads, UE names the first by operand, pa, pb, pd, and by position within it, and a pass that meets both a poisoned word
and a stationary destination raises UE; R159 ranks neither. -/
def execVectorPassEnd (t : Nat) (s : State) : Out :=
  if (s.tile t).shut then .fault .notEnabled
  else match (s.tile t).vec with
  | none => .fault .notEnabled
  | some v =>
    let k := v.slot
    let lo := v.at_
    let hi := min v.n (lo + v.len)
    let sl := s.slot t k
    if !v.begun then
      let s' := s.passStart t v
      onEvent s (match (s'.tile t).vec with | some v' => v'.begun | none => true) s'
    else if s.now < v.due then .fault .notEnabled
    else
      let o := (s.underFormats t v.fmts).vecLaid t k v.form v.n
      let s := s.meetPass t k v o lo hi
      let r := s.underFormats t v.fmts
      let ps := r.passPositions t k o lo hi
      let elems (gs : List Seg) : List (Nat × Nat) := if gs.isEmpty then [] else ps.map (posIn gs)
      match r.poisonIn t (elems o.a ++ elems o.b ++ (if v.form.op.readsD then elems o.d else [])) with
      | some a => .next ((s.vecStop t k v).raise t k FaultCode.ue a 0#64)
      | none =>
        match (elems o.d).find? (fun p => (s.tile t).spadGate p.1 true == .lock) with
        | some (m, _) =>
          let (m0, e0) := posIn o.d lo
          .next ((s.vecStop t k v).raise t k FaultCode.statLock (spadAddr m0 (e0 * elemBits (r.fmtAt t m0) / 8)) (BitVec.ofNat 64 m))
        | none =>
          let (v', s') : VecRun × State :=
            if v.form.op.isReduction then
              let a := (elems o.a).map (fun p => r.elem t p.1 p.2)
              let b := if o.b.isEmpty then a else (elems o.b).map (fun p => r.elem t p.1 p.2)
              ({ v.reduce (a.zip b) with at_ := hi }, s)
            else
              let out := ps.map (fun i => r.vecWrite t v o (s.srkey t k) sl.th.acc i)
              ({ v with at_ := hi, fl := out.foldl (fun f x => f ||| x.2) v.fl }, s.spadBits t (out.flatMap Prod.fst))
          if hi ≥ v.n then
            let (w, fl) := v'.result
            .next (s'.vecFinish t k v.form v.n o (v'.fl ||| (if v.form.op.isReduction then fl else Flags.none))
              (if v.form.op.isReduction then some w else none))
          else .next (s'.passStart t v')

/-! ### Meanings -/

def form3 (op : VecOp) (d a b l : Ptr) (x y z : Bool) : VecForm := { op := op, d := some (d, x), a := some (a, y), b := some (b, z), l := l }
def form2 (op : VecOp) (d a l : Ptr) (x y : Bool) : VecForm := { op := op, d := some (d, x), a := some (a, y), l := l }

def execVadd (d a b l : Ptr) (x y z : Bool) (s : State) : Out := vector s (form3 .add d a b l x y z)
def execVsub (d a b l : Ptr) (x y z : Bool) (s : State) : Out := vector s (form3 .sub d a b l x y z)
def execVmul (d a b l : Ptr) (x y z : Bool) (s : State) : Out := vector s (form3 .mul d a b l x y z)
def execVmin (d a b l : Ptr) (x y z : Bool) (s : State) : Out := vector s (form3 .min d a b l x y z)
def execVmax (d a b l : Ptr) (x y z : Bool) (s : State) : Out := vector s (form3 .max d a b l x y z)
def execVabs (d a l : Ptr) (x y : Bool) (s : State) : Out := vector s (form2 .abs d a l x y)
def execVneg (d a l : Ptr) (x y : Bool) (s : State) : Out := vector s (form2 .neg d a l x y)
def execVrcp (d a l : Ptr) (x y : Bool) (s : State) : Out := vector s (form2 .rcp d a l x y)
def execVrsqrt (d a l : Ptr) (x y : Bool) (s : State) : Out := vector s (form2 .rsqrt d a l x y)
def execVsqrt (d a l : Ptr) (x y : Bool) (s : State) : Out := vector s (form2 .sqrt d a l x y)
def execVexp2 (d a l : Ptr) (x y : Bool) (s : State) : Out := vector s (form2 .exp2 d a l x y)
def execVlog2 (d a l : Ptr) (x y : Bool) (s : State) : Out := vector s (form2 .log2 d a l x y)
def execVtanh (d a l : Ptr) (x y : Bool) (s : State) : Out := vector s (form2 .tanh d a l x y)
def execVsigm (d a l : Ptr) (x y : Bool) (s : State) : Out := vector s (form2 .sigm d a l x y)
def execVcmpeq (d a b l : Ptr) (x y z : Bool) (s : State) : Out := vector s (form3 .cmpeq d a b l x y z)
def execVcmplt (d a b l : Ptr) (x y z : Bool) (s : State) : Out := vector s (form3 .cmplt d a b l x y z)
def execVcmple (d a b l : Ptr) (x y z : Bool) (s : State) : Out := vector s (form3 .cmple d a b l x y z)
def execVfma (d a b l : Ptr) (x y z : Bool) (s : State) : Out := vector s (form3 .fma d a b l x y z)
def execVfms (d a b l : Ptr) (x y z : Bool) (s : State) : Out := vector s (form3 .fms d a b l x y z)
def execVfnma (d a b l : Ptr) (x y z : Bool) (s : State) : Out := vector s (form3 .fnma d a b l x y z)
def execVscal (d a l : Ptr) (x y : Bool) (s : State) : Out := vector s (form2 .scal d a l x y)
def execVaxpy (d a b l : Ptr) (x y z : Bool) (s : State) : Out := vector s (form3 .axpy d a b l x y z)
def execVrsum (a l : Ptr) (y : Bool) (s : State) : Out := vector s ⟨.rsum, none, some (a, y), none, l⟩
def execVrmax (a l : Ptr) (y : Bool) (s : State) : Out := vector s ⟨.rmax, none, some (a, y), none, l⟩
def execVrmin (a l : Ptr) (y : Bool) (s : State) : Out := vector s ⟨.rmin, none, some (a, y), none, l⟩
def execVrsumsq (a l : Ptr) (y : Bool) (s : State) : Out := vector s ⟨.rsumsq, none, some (a, y), none, l⟩
def execVrdot (a b l : Ptr) (y z : Bool) (s : State) : Out := vector s ⟨.rdot, none, some (a, y), some (b, z), l⟩
def execVcvt (d a l : Ptr) (x y : Bool) (s : State) : Out := vector s (form2 .cvt d a l x y)
def execVcopy (d a l : Ptr) (x y : Bool) (s : State) : Out := vector s (form2 .copy d a l x y)
def execVfill (d l : Ptr) (x : Bool) (s : State) : Out := vector s ⟨.fill, some (d, x), none, none, l⟩
def execVsel (d a b l : Ptr) (x y z : Bool) (s : State) : Out := vector s (form3 .sel d a b l x y z)

end Sys2Proof.Machine
end

