-- ==== Sys2Proof/Machine/Bfe.lean ====
section
/-! DEFINITION. The butterfly engine (R171-R176, R183, R327). -/

namespace Sys2Proof.Machine

/-! ### Blocks (R171) -/

/-- A stage as its block gives it. -/
structure Stage where
  nl : Nat
  wl : Nat
  sl : Nat
  batch : Nat
  nsp : Nat
  zskip : Bool
  osat : Bool
  rm : Nat
  acc : Bool
  cb : Bool
  cbn : Nat
  cm1 : Nat
  first : Nat
  deriving DecidableEq, Repr

/-- R171, R23: `orm` 7 takes rm and sat of the `st` sampled at issue. -/
def outMode (orm : Nat) (osat : Bool) (st : Word) : Nat × Bool := if orm = 7 then (bits st 2 0, st.getLsbD 3) else (orm, osat)

def stageOf (b : List Word) (st : Word) : Stage :=
  let c := blk b 0
  let h := blk b 1
  let w := blk b 4
  let (rm, sat) := outMode (bits c 3 1) (c.getLsbD 4) st
  { nl := bits h 3 0, wl := bits h 7 4, sl := bits h 11 8, batch := bits h 19 12 + 1, nsp := bits c 12 6, zskip := c.getLsbD 5,
    osat := sat, rm := rm, acc := c.getLsbD 0, cb := w.getLsbD 16, cbn := bits w 23 20, cm1 := bits w 15 8, first := bits w 7 0 }

namespace Stage
def n (g : Stage) : Nat := 2 ^ g.nl
def b (g : Stage) : Nat := 2 ^ g.wl
def d (g : Stage) : Nat := 2 ^ g.sl
/-- Positions of its regions (R172). -/
def size (g : Stage) : Nat := g.n * g.batch
/-- Stored weights: all 2nb of them, or N in each group of 128 columns (R172). -/
def stored (g : Stage) : Nat := if g.nsp = 0 then 2 * g.n * g.b else 2 * g.n * g.b / 128 * g.nsp
def idxCount (g : Stage) : Nat := if g.nsp = 0 then 0 else (g.stored + 16383) / 16384
def idxMacros (g : Stage) : List Nat := (List.range g.idxCount).map (g.first + g.cm1 + 1 + ·)
end Stage

/-- Fields in the ranges of R171. -/
def stageFields (b : List Word) : Bool :=
  let c := blk b 0
  let h := blk b 1
  let w := blk b 4
  bits h 63 20 == 0 && bits c 63 13 == 0 && bits w 63 24 == 0 && bits w 19 17 == 0 &&
  1 ≤ bits h 3 0 && bits h 3 0 ≤ 12 && bits h 7 4 ≤ 7 && bits h 7 4 ≤ bits h 11 8 && bits h 11 8 + 1 ≤ bits h 3 0 &&
  bits c 3 1 != 5 && bits c 3 1 != 6 && (if w.getLsbD 16 then bits w 15 0 == 0 else bits w 15 8 ≤ 191)

/-- The macros of all slots of the stage's buffer, or of its weight group (R173). -/
def Stage.weightMacros (g : Stage) (x : Tile) : List Nat :=
  if g.cb then match (x.buf g.cbn).cfg with
    | some w => bufMacros w
    | none => []
  else (List.range (g.cm1 + 1)).map (g.first + ·)

/-- The macros that hold the weights of a stage whose slot, if any, is `slot`. -/
def Stage.group (g : Stage) (x : Tile) (slot : Nat) : List Nat :=
  if g.cb then match (x.buf g.cbn).cfg with
    | some w => slotMacros w slot
    | none => []
  else (List.range (g.cm1 + 1)).map (g.first + ·)

/-! ### Regions (R147, R172) -/

/-- The segments of a region of `n` positions at a block address; none at an address that is no scratchpad address of the
tile, which names no macro (R167). -/
def State.region (s : State) (t : Nat) (a : Word) (n : Nat) : List Seg :=
  if bits a 63 22 ≠ 0 || !startFits (s.fmtAt t (macroOf a)) a then [] else s.layout t a n

def segTotal (gs : List Seg) : Nat := (gs.map (fun g => g.2.2.1)).foldl (· + ·) 0
def segMacros (gs : List Seg) : List Nat := gs.map (fun g => g.1)
def meet (a b : List Nat) : Bool := a.any (fun m => b.contains m)

/-- Whether two regions share an element's bits. -/
def State.regionsMeet (s : State) (t : Nat) (x y : List Seg) : Bool :=
  x.any (fun g => y.any (fun h => g.1 == h.1 &&
    (let b := elemBits (s.fmtAt t g.1)
     g.2.1 * b < (h.2.1 + h.2.2.1) * b && h.2.1 * b < (g.2.1 + g.2.2.1) * b)))

/-! ### Start checks (R173, R174) -/

/-- R173: the first check that fails, with the macro it names. `xa` and `ya` are the addresses of X and Y; the check
of an address that is no scratchpad address of the tile is that of bounds (R167). -/
def State.stageCheck (s : State) (t p : Nat) (b : List Word) (st xa ya : Word) : Option (Nat × Nat) :=
  let x := s.tile t
  let g := stageOf b st
  let fmt (m : Nat) : Nat := s.fmtAt t m
  let here (a : Word) : Bool := bits a 63 22 == 0
  let ok (a : Word) : Bool := !here a || startFits (fmt (macroOf a)) a
  if !stageFields b || !ok xa || !ok ya then some (EngErr.param, 0)
  else
    let X := s.region t xa g.size
    let Y := s.region t ya g.size
    let W := (g.weightMacros x).filter (· < 256)
    let I := g.idxMacros.filter (· < 256)
    let affine := W.any (fun m => isAffine (fmt m))
    let outs := (segMacros Y).map fmt
    let same := macroOf xa == macroOf ya && macroOff xa == macroOff ya
    if g.nsp ≠ 0 && (g.b < 64 || g.cb || affine) then some (EngErr.param, 0)
    else if W.any (fun m => isAffine (fmt m) && groupLen (s.grpAt t m) > 2 * g.b) then some (EngErr.param, 0)
    else if g.acc && outs.any (· != 1) then some (EngErr.param, 0)
    else if Y.any (fun q => isBlock (fmt q.1) && !s.wholeUnits t q) then some (EngErr.param, 0)
    else if (s.regionsMeet t X Y && !same) || meet (segMacros X ++ segMacros Y) (W ++ I) then some (EngErr.param, 0)
    else if W.any (fun m => !((2 ≤ fmt m && fmt m ≤ 11) || isAffine (fmt m))) || I.any (fun m => fmt m != 0) ||
        (segMacros X).any (fun m => !(1 ≤ fmt m && fmt m ≤ 11)) || outs.any (fun c => !(1 ≤ c && c ≤ 12)) then
      some (EngErr.format, 0)
    else if !here xa ∨ !here ya ∨ segTotal X < g.size ∨ segTotal Y < g.size ∨
        (!g.cb ∧ g.first + g.cm1 + 1 + g.idxCount > 256) ∨
        ((g.group x 0).map (fun m => fmtCap (fmt m))).foldl (· + ·) 0 < g.stored ∧ (!g.cb ∨ (x.buf g.cbn).cfg.isSome) then
      some (EngErr.bounds, 0)
    else if g.cb ∧ ((x.buf g.cbn).owner ≠ some p ∨ ((x.buf g.cbn).cfg.map CBuf.bfly) ≠ some true) then some (EngErr.perm, 0)
    else match (segMacros X ++ segMacros Y ++ (if g.cb then [] else W ++ I)).find? (fun m => !macroOwned x p m) with
      | some m => some (EngErr.perm, m)
      | none =>
        if g.cb then ((segMacros X ++ segMacros Y).find? (fun m => (x.mac m).state == .stationary)).map (EngErr.state, ·)
        else match (W ++ I).find? (fun m => (x.mac m).state != .stationary) with
          | some m => some (EngErr.state, m)
          | none => ((segMacros X ++ segMacros Y).find? (fun m => (x.mac m).state == .stationary)).map (EngErr.state, ·)

/-- The addresses of X and Y of stage `i` (R171, R174): word 2 `in`, word 3 `out`, word 5 `inter`. -/
def stageX (bs : List (List Word)) (i : Nat) : Word := if i = 0 then blk (bs.getD 0 []) 2 else blk (bs.getD 0 []) 5
def stageY (bs : List (List Word)) (i : Nat) : Word :=
  if i + 1 ≥ bs.length then blk (bs.getD i []) 3 else blk (bs.getD 0 []) 5

/-- Whether a macro is being scrubbed, or waits to be. -/
def Tile.scrubs (x : Tile) (m : Nat) : Bool := (x.mac m).state == .scrubbing || (x.mac m).due

/-- R174 step 1: the blocks of a chain, or the index of the block whose link fails; no answer while the macro of a block is
being scrubbed (R242). DESIGN CHOICE (log 33): a poisoned word of a linked block is read as its bytes; one of the first block ends the
command with UE. -/
def State.chainBlocks (s : State) (t p : Nat) : Nat → Word → Nat → List (List Word) → Except (Option Nat) (List (List Word))
  | 0, _, _, _ => .error (some 12)
  | fuel + 1, a, i, acc =>
    let b := (s.readBlock t a).1
    let l := blk b 6
    let acc := acc ++ [b]
    if (s.tile t).scrubs (macroOf a) then .error none
    else if l = 0#64 then .ok acc
    else if l.toNat % 64 ≠ 0 ∨ bits l 63 22 ≠ 0 ∨ !macroOwned (s.tile t) p (macroOf l) then .error (some i)
    else s.chainBlocks t p fuel l (i + 1) acc

/-- R327: the first block that names a buffer more often than it has slots. -/
def State.slotsBeyond (s : State) (t : Nat) (gs : List Stage) : Option Nat :=
  (List.range gs.length).find? (fun i =>
    match gs[i]? with
    | some g => g.cb && (match ((s.tile t).buf g.cbn).cfg with
        | some w => ((gs.take (i + 1)).filter (fun h => h.cb && h.cbn == g.cbn)).length > CBuf.count w
        | none => false)
    | none => false)

/-- The first of a list of results that fails, with its place. -/
def firstFail : List (Option (Nat × Nat)) → Nat → Option (Nat × Nat × Nat)
  | [], _ => none
  | none :: l, i => firstFail l (i + 1)
  | some (c, m) :: _, i => some (c, m, i)

/-- R174 steps 2 to 5: error, det and cnt. -/
def State.chainCheck (s : State) (t p : Nat) (bs : List (List Word)) (st : Word) : Option (Nat × Nat × Nat) :=
  let gs := bs.map (fun b => stageOf b st)
  let g0 := gs.headD (stageOf [] 0#64)
  let inter := blk (bs.getD 0 []) 5
  let I := s.region t inter g0.size
  match firstIdx (fun (g : Stage) => g.nl != g0.nl || g.batch != g0.batch) gs with
  | some i => some (EngErr.param, i, 0)
  | none =>
    let others := s.region t (stageX bs 0) g0.size ++ s.region t (stageY bs (bs.length - 1)) g0.size
    if bs.length > 1 ∧ bits inter 63 22 = 0 ∧ s.fmtAt t (macroOf inter) ≠ 1 then some (EngErr.format, 0, 0)
    else if bs.length > 1 ∧ (segMacros I).any (fun m => s.fmtAt t m != 1) then some (EngErr.format, 0, 0)
    else if bs.length > 1 ∧ (s.regionsMeet t I others || gs.any (fun g => meet (segMacros I) (g.weightMacros (s.tile t) ++ g.idxMacros))) then
      some (EngErr.param, 0, 0)
    else match s.slotsBeyond t gs with
      | some i => some (EngErr.param, i, 0)
      | none =>
        match firstFail ((List.range bs.length).map (fun i => s.stageCheck t p (bs.getD i []) st (stageX bs i) (stageY bs i))) 0 with
        | none => none
        | some (c, m, i) => if c = EngErr.perm ∨ c = EngErr.state then some (c, m, i) else some (c, i, 0)

/-- R173: the macros the checks name. -/
def State.bfeNamed (s : State) (t : Nat) (bs : List (List Word)) (st : Word) : List Nat :=
  (List.range bs.length).flatMap (fun i =>
    let g := stageOf (bs.getD i []) st
    segMacros (s.region t (stageX bs i) g.size) ++ segMacros (s.region t (stageY bs i) g.size) ++
    (if g.cb then [] else (g.weightMacros (s.tile t)).filter (· < 256) ++ g.idxMacros.filter (· < 256)))

/-! ### One output element (R172, R48-R53) -/

/-- Where an output position stands: its weight row (block p, row r) and the position of column c of its pair (R172). -/
def Stage.rowOf (g : Stage) (q : Nat) : Nat × Nat :=
  let i := q / g.batch
  let within := i % (2 * g.d)
  let jj := within % g.d
  let p := i / (2 * g.d) * (g.d / g.b) + jj / g.b
  (p, jj % g.b + within / g.d * g.b)

def Stage.colPos (g : Stage) (q c : Nat) : Nat :=
  let i := q / g.batch
  let base := i / (2 * g.d) * (2 * g.d) + i % (2 * g.d) % g.d / g.b * g.b
  (if c < g.b then base + c else base + g.d + (c - g.b)) * g.batch + q % g.batch

/-- The weights stored for a row: weight element and column; its index bytes have been read (R172). -/
def State.rowWeights (s : State) (t : Nat) (g : Stage) (wsegs : List Seg) (p r : Nat) : List ((Nat × Nat) × Nat × List (Nat × Nat)) :=
  if g.nsp = 0 then (List.range (2 * g.b)).map (fun c => (posIn wsegs (p * (4 * g.b * g.b) + r * (2 * g.b) + c), c, []))
  else (List.range (2 * g.b / 128 * g.nsp)).map (fun j =>
    let o := (p * (2 * g.b) + r) * (2 * g.b / 128 * g.nsp) + j
    let im := g.first + g.cm1 + 1 + o / 16384
    (posIn wsegs o, j / g.nsp * 128 + s.elemCode t im (o % 16384) % 128, [(im, o % 16384)]))

/-- A term of a sum with what reading it consumed: its value where it is not skipped, NFSKIP, and poison. -/
structure Term where
  val    : Option Val
  nfskip : Bool
  poison : Bool
  deriving DecidableEq, Repr

/-- Poison of elements. -/
def State.foul (s : State) (t : Nat) (es : List (Nat × Nat)) : Bool := (s.poisonIn t es).isSome

/-- R53: pruned columns of a sparse row whose activation is not finite set NFSKIP. -/
def State.prunedTerms (s : State) (t : Nat) (g : Stage) (X : List Seg) (q : Nat) (used : List Nat) : List Term :=
  if g.nsp = 0 then []
  else ((List.range (2 * g.b)).filter (fun c => !used.contains c)).map (fun c =>
    let x := posIn X (g.colPos q c)
    { val := none, nfskip := !(s.elem t x.1 x.2).isFinite, poison := false })

/-- R49: the group terms of a row of INT8A or INT4A weights. A poisoned weight is not skipped (R53). -/
def State.affineTerms (s : State) (t : Nat) (zskip : Bool) (l : List ((Nat × Nat) × (Nat × Nat))) : List Term :=
  match l with
  | [] => []
  | (w0, x0) :: rest =>
    let all := (w0, x0) :: rest
    let skip (p : (Nat × Nat) × (Nat × Nat)) : Bool := zskip && (s.elem t p.1.1 p.1.2).isZero && !s.foul t [p.1]
    let used := all.filter (fun p => !skip p)
    let add (a : Val) (p : (Nat × Nat) × (Nat × Nat)) (q : Bool) : Val :=
      let x := s.elem t p.2.1 p.2.2
      addVal 0 a (if q then mulVal (intVal (sext (elemBits (s.fmtAt t p.1.1)) (s.elemCode t p.1.1 p.1.2))) x else x)
    let sqx := used.foldl (fun a p => add a p true) (intVal 0)
    let sx := used.foldl (fun a p => add a p false) (intVal 0)
    let z := intVal (s.groupZero t w0.1 w0.2)
    let g := mulVal (s.groupScale t w0.1 w0.2) (addVal 0 sqx (mulVal z sx).neg)
    { val := if used.isEmpty then none else some g, nfskip := false,
      poison := s.foul t (used.flatMap (fun p => [p.1, p.2])) } ::
    (all.filter skip).map (fun p => { val := none, nfskip := !(s.elem t p.2.1 p.2.2).isFinite, poison := false })

/-- A list cut into runs of `n`. -/
def chunks {α : Type} (n : Nat) : Nat → List α → List (List α)
  | 0, _ => []
  | fuel + 1, l => if l.isEmpty ∨ n = 0 then [] else l.take n :: chunks n fuel (l.drop n)

/-- R172: the terms of output position `q`. -/
def State.terms (s : State) (t : Nat) (g : Stage) (wsegs X Y : List Seg) (q : Nat) : List Term :=
  let (p, r) := g.rowOf q
  let row := s.rowWeights t g wsegs p r
  let fw := match row with
    | (w, _, _) :: _ => s.fmtAt t w.1
    | [] => 0
  let cols := row.map (fun w => (w.1, posIn X (g.colPos q w.2.1)))
  let prods : List Term :=
    if isAffine fw then
      let gl := match row with
        | (w, _, _) :: _ => groupLen (s.grpAt t w.1)
        | [] => 32
      (chunks gl cols.length cols).flatMap (fun c => s.affineTerms t g.zskip c)
    else
      row.map (fun w =>
        let x := posIn X (g.colPos q w.2.1)
        let wv := s.elem t w.1.1 w.1.2
        let xv := s.elem t x.1 x.2
        if g.zskip && wv.isZero && !s.foul t (w.1 :: w.2.2) then { val := none, nfskip := !xv.isFinite, poison := false }
        else { val := some (mulVal wv xv), nfskip := false, poison := s.foul t (w.1 :: x :: w.2.2) })
  let y := posIn Y q
  prods ++ s.prunedTerms t g X q (row.map (fun w => w.2.1)) ++
    (if g.acc then [{ val := some (s.elem t y.1 y.2), nfskip := false, poison := s.foul t [y] }] else [])

/-- R50: a sum rounded into a format without a shared scale. -/
def roundOut (c : Nat) (r : Rnd) (ts : List Val) : Nat × Flags :=
  if c = 1 then roundSum fp32 rne ts
  else if isIntFmt c then
    let (v, fl) := alignSum ts
    let b := elemBits c
    let (x, fl') := roundInt (-(2 ^ (b - 1))) (2 ^ (b - 1) - 1) r v
    (toField b x, fl ||| fl')
  else roundSum (elemFmt c) r ts

/-- R49, R50: the exact sum of the terms, an exact zero signed by R92. -/
def sumVal (rm : Nat) (ts : List Val) : Val × Flags :=
  let (v, fl) := alignSum ts
  (match v with
    | .fin _ 0 e => .fin (rm == 2 && (topLead ts).isSome) 0 e
    | w => w, fl)

/-- What one output position of a stage writes, its flags, and the writes of elements whose sums consume poison, which make
their words poisoned (R172, R173). -/
def State.stageWrite (s : State) (t : Nat) (g : Stage) (key : BitVec 32) (wsegs X Y : List Seg) (q : Nat) :
    List BitWrite × Flags × List BitWrite :=
  let (m, e) := posIn Y q
  let c := s.fmtAt t m
  let b := elemBits c
  let vals (ts : List Term) : List Val := ts.filterMap Term.val
  let own (ts : List Term) : Flags := if ts.any Term.nfskip then Flags.nfskip else Flags.none
  if isBlock c then
    if e % 8 ≠ 7 then ([], Flags.none, [])
    else
      let ts := (List.range 8).map (fun j => s.terms t g wsegs X Y (q - 7 + j))
      let sums := ts.map (fun l => sumVal g.rm (vals l))
      let fl := (sums.map Prod.snd ++ ts.map own).foldl (· ||| ·) Flags.none
      let (sc, codes, fl') := encodeBlock c ((List.range 8).map (fun j => elemRnd g.rm g.osat key m (e - 7 + j))) (sums.map Prod.fst)
      let ws : List BitWrite := (codes.zipIdx).map (fun p => (m, (e - 7 + p.2) * b, b, p.1))
      (ws ++ [(m, (scaleOff c + e / 8) * 8, 8, sc)], fl ||| fl',
        ((ws.zip ts).filter (fun p => p.2.any Term.poison)).map Prod.fst)
  else
    let ts := s.terms t g wsegs X Y q
    let (code, fl) := roundOut c (elemRnd g.rm g.osat key m e) (vals ts)
    let w : BitWrite := (m, e * b, b, code)
    ([w], fl ||| own ts, if ts.any Term.poison then [w] else [])

/-- Words of macros poisoned by the writes of elements. -/
def State.poisonBits (s : State) (t : Nat) (ws : List BitWrite) : State :=
  s.modMem (fun m => (ws.flatMap touched).foldl (fun (m : Mem) x => m.setPoison (spadKey t x.1 x.2.1) true) m)

/-- R172: a stage performed under the formats that the command read: every read precedes every write. -/
def State.stage (s : State) (t : Nat) (g : Stage) (key : BitVec 32) (slot : Nat) (xa ya : Word) (fmts : List (Nat × Nat × Nat)) :
    State × Flags × Bool :=
  let r := s.underFormats t fmts
  let X := r.region t xa g.size
  let Y := r.region t ya g.size
  let group := g.group (s.tile t) slot
  let wsegs := (r.segs t 257 (group.headD 0) 0 g.stored 0).filter (fun q => group.contains q.1)
  let out := (List.range g.size).map (fun q => r.stageWrite t g key wsegs X Y q)
  let fl := (out.map (fun o => o.2.1)).foldl (· ||| ·) Flags.none
  let bad := out.flatMap (fun o => o.2.2)
  ((s.spadBits t (out.flatMap Prod.fst)).poisonBits t bad, fl, !bad.isEmpty)

/-! ### Time (R176) -/

/-- R176: multiply rate of a weight format. -/
def mulRate (c : Nat) : Nat := if c = 10 ∨ c = 14 then 64 else if c = 2 ∨ c = 3 then 16 else 32

def State.stageCycles (s : State) (t : Nat) (g : Stage) (slot : Nat) : Nat :=
  let group := g.group (s.tile t) slot
  let ks := (s.segs t 257 (group.headD 0) 0 g.stored 0).filter (fun q => group.contains q.1)
  let lim := if g.nsp = 0 then 64 else min g.nsp 64
  let worst := (ks.map (fun q =>
    let rr := mulRate (s.fmtAt t q.1) * lim
    (q.2.2.1 * g.batch * 64 + rr - 1) / rr)).foldl max 0
  let p := (ks.length + 127) / 128 * worst
  16 + (p * 100 + s.bfeCap - 1) / s.bfeCap

/-! ### Start, slots and stages -/

/-- What starting a command leads to. -/
inductive Start where
  | wait
  | err (code det cnt : Nat)
  | go (s : State)
  deriving DecidableEq, Repr

/-- R244: the formats of macros, read now, after those read before. -/
def State.addFormats (s : State) (t : Nat) (fs : List (Nat × Nat × Nat)) (ms : List Nat) : List (Nat × Nat × Nat) :=
  fs ++ ((ms.filter (fun m => !fs.any (fun e => e.1 == m))).map (fun m => (m, s.fmtAt t m, s.grpAt t m))).eraseDups

/-- A stage starts: it takes its weights from its group, or waits for a filled slot (R173, R183, R327). -/
def State.beginStage (s : State) (t : Nat) (r : Run) : State :=
  let g := stageOf (r.blocks.getD r.prog []) r.cmd.st
  if g.cb then s.setRun t .bfe (some { r with wait := .slot })
  else s.setRun t .bfe (some { r with wait := .run, due := s.now + (s.underFormats t r.fmts).stageCycles t g 0 })

/-- R169, R170: what a macro-control command can do now: it has acted on its macros, or waits for one that is loading or
scrubbing. -/
def State.controlGo (s : State) (t : Nat) (r : Run) : State × Run :=
  let ms := r.cmd.group
  let x := s.tile t
  match r.cmd.op with
  | .unstn => (s.setTile t (x.setState [.stationary] .plain ms), { r with wait := .run })
  | .stn =>
    let ready := (ms.drop r.prog).takeWhile (fun m => x.settled m && !(x.mac m).due)
    let n := r.prog + ready.length
    (s.setTile t (x.setState [.plain, .ready] .stationary ready), { r with prog := n, wait := if n = ms.length then .run else .group })
  | _ => match ms.find? (fun m => (x.mac m).state == .stationary) with
    | some m => (s, { r with err := EngErr.state, det := m, wait := .run })
    | none =>
      if ms.all (fun m => x.settled m && !(x.mac m).due) then
        (s.setTile t (ms.foldl (fun (x : Tile) m => x.modMacro m (fun (c : Macro) =>
          { c with fmt := BitVec.ofNat 4 (bits r.cmd.b 3 0), grp := BitVec.ofNat 2 (bits r.cmd.b 5 4) })) x), { r with wait := .run })
      else (s, { r with wait := .group })

/-- R169, R170, R176: a macro-control command goes on when a macro it waits for is ready, and ends 2 + c cycles after its start
and the time it waited. -/
def execMacroControlEnd (t : Nat) (s : State) : Out :=
  match (s.tile t).bfe with
  | none => .fault .notEnabled
  | some r =>
    let isControl := r.cmd.op = .stn ∨ r.cmd.op = .unstn ∨ r.cmd.op = .mfmt
    if !isControl then .fault .notEnabled
    else if r.wait = .group then
      let (s', r') := s.controlGo t r
      onEvent s ((r'.wait != .group || r'.prog != r.prog) && !s.runClosed t r)
        (s'.setRun t .bfe (some { r' with due := r.due + (s.now - r.since), since := s.now }))
    else if r.wait ≠ .run ∨ s.now < r.due then .fault .notEnabled
    else .next (s.engDone t r r.err r.det 0)

/-- R173, R174: the blocks read and checked once the macros they name are neither loading nor scrubbing. -/
def State.bfeStart (s : State) (t : Nat) (r : Run) : Start :=
  match r.cmd.op with
  | .bfly | .bchain =>
    let blocks : Except (Option Nat) (List (List Word)) :=
      if r.cmd.op = .bchain then s.chainBlocks t r.pos 12 r.cmd.block 0 []
      else .ok [(s.readBlock t r.cmd.block).1]
    match blocks with
    | .error none => .wait
    | .error (some i) => .err EngErr.param i 0
    | .ok bs =>
      if (s.bfeNamed t bs r.cmd.st).any (fun m => !(s.tile t).settled m) then .wait
      else
        let bad : Option (Nat × Nat × Nat) :=
          if r.cmd.op = .bchain then s.chainCheck t r.pos bs r.cmd.st
          else (s.stageCheck t r.pos (bs.getD 0 []) r.cmd.st (stageX bs 0) (stageY bs 0)).map (fun e => (e.1, e.2, 0))
        match bad with
        | some (c, d, n) => .err c d n
        | none =>
          let ms := s.bfeNamed t bs r.cmd.st ++ bs.flatMap (fun b => (stageOf b r.cmd.st).weightMacros (s.tile t))
          .go (s.beginStage t { r with blocks := bs, fmts := s.addFormats t [] ms })
  | _ =>
    let (s', r') := s.controlGo t { r with due := s.now + 2 + r.cmd.group.length, since := s.now }
    .go (s'.setRun t .bfe (some r'))

/-- R183, R246: a waiting stage takes the oldest filled slot of its buffer. -/
def execBufferSlotTake (t : Nat) (s : State) : Out :=
  match (s.tile t).bfe with
  | none => .fault .notEnabled
  | some r =>
    let g := stageOf (r.blocks.getD r.prog []) r.cmd.st
    if r.wait ≠ .slot ∨ ((s.tile t).buf g.cbn).filled = 0 ∨ s.runClosed t r then .fault .notEnabled
    else
      let (x, i) := (s.tile t).takeFilled g.cbn
      let s := s.setTile t x
      let fs := s.addFormats t r.fmts (g.group x i)
      .next (s.setRun t .bfe (some { r with wait := .run, taken := r.taken ++ [(g.cbn, i)], fmts := fs,
                                            due := s.now + (s.underFormats t fs).stageCycles t g i }))

/-- R175, R176: a stage ends: its outputs are written, the consumed point after the first, done after the last. -/
def execButterflyStageEnd (t : Nat) (s : State) : Out :=
  match (s.tile t).bfe with
  | none => .fault .notEnabled
  | some r =>
    let isStage := r.cmd.op = .bfly ∨ r.cmd.op = .bchain
    if !isStage then .fault .notEnabled
    else if r.wait = .next ∧ !s.runClosed t r then .next (s.beginStage t r)
    else if r.wait ≠ .run ∨ s.now < r.due then .fault .notEnabled
    else
      let last := r.prog + 1 ≥ r.blocks.length
      let g0 := stageOf (r.blocks.getD r.prog []) r.cmd.st
      let g := if last then g0 else { g0 with rm := 0, osat := false, acc := false }
      let slot := match r.taken.getLast? with | some (_, i) => i | none => 0
      let (s, fl, ue) := s.stage t g r.cmd.key slot (stageX r.blocks r.prog)
        (stageY r.blocks r.prog) r.fmts
      let r := { r with flags := r.flags ||| fl, err := if ue then EngErr.ue else r.err, prog := r.prog + 1 }
      let s := if r.prog = 1 then s.writeStatus t r.cmd (statusWord r.cmd.ticket 0 0 0 false true r.flags) else s
      if last then
        let s := s.modTile t (fun x => r.taken.foldl (fun x p => x.giveBack p.1 p.2) x)
        .next (s.engDone t r r.err 0 0)
      else if s.runClosed t r then .next (s.setRun t .bfe (some { r with wait := .next }))
      else .next (s.beginStage t r)

def execBfly (d : Reg) (p : Ptr) (s : State) : Out := blockCmd .bfly d p s
def execBchain (d : Reg) (p : Ptr) (s : State) : Out := blockCmd .bchain d p s

end Sys2Proof.Machine
end

