-- ==== Sys2Proof/Machine/Copy.lean ====
section
/-! DEFINITION. The copy engine: its commands and their rows (R177-R182), with conversion (R44-R47, R179), checksum staging
(R180) and the sending side of routes (R254). -/

namespace Sys2Proof.Machine

/-! ### Blocks (R177) -/

structure CpJob where
  rop : Nat
  rm : Nat
  sat : Bool
  ck : Bool
  ocp : Bool
  dk : Nat
  sk : Nat
  sfmt : Nat
  sgrp : Nat
  dfmt : Nat
  dgrp : Nat
  src : Word
  dst : Word
  ssc : Word
  dsc : Word
  srs : Int
  drs : Int
  rows : Nat
  rl : Nat
  route : Nat
  cbn : Nat
  deriving DecidableEq, Repr

/-- R178: the destination kinds of a command. DESIGN CHOICE (log 117): a `cring` block must hold dkind 2, the kind that R177 gives to a
buffer; R178 names none for it. -/
def destKinds : CmdOp → List Nat
  | .cpy => [0, 1]
  | .cring => [2]
  | .cred => [1]
  | _ => [1, 2]

def cpJob (b : List Word) (st : Word) : CpJob :=
  let c := blk b 0
  let h := blk b 1
  let (rm, sat) := outMode (bits c 15 13) (c.getLsbD 16) st
  { rop := bits c 23 22, rm := rm, sat := sat, ck := c.getLsbD 12, ocp := c.getLsbD 17, dk := bits c 11 10, sk := bits c 9 8,
    sfmt := bits c 3 0, sgrp := bits c 19 18, dfmt := bits c 7 4, dgrp := bits c 21 20, src := blk b 2, dst := blk b 3,
    ssc := blk b 4, dsc := blk b 5, srs := sext 32 (bits (blk b 6) 31 0), drs := sext 32 (bits (blk b 6) 63 32),
    rows := bits h 43 24 + 1, rl := bits h 23 0, route := bits h 49 44, cbn := bits h 53 50 }

/-- R177, R178, R180: the block's own limits. -/
def cpFields (op : CmdOp) (b : List Word) : Bool :=
  let c := blk b 0
  let j := cpJob b 0#64
  bits c 63 24 == 0 && bits (blk b 1) 63 54 == 0 && j.rl != 0 && j.rop != 3 && bits c 15 13 != 5 && bits c 15 13 != 6 &&
  j.sk ≤ 1 && (destKinds op).contains j.dk &&
  (!j.ck || (op == .cpy && j.sk == 1 && j.dk == 0 && j.dfmt == 13 && j.dgrp == 2 && j.rl == 14336 && j.srs == 16384 &&
    j.drs == 16384 && j.ssc == 0#64 && j.dsc == 0#64 && macroOff j.src == 0 && j.dst.toNat % 16384 == 0))

def rowAddr (a : Word) (stride : Int) (i : Nat) : Word := a + BitVec.ofInt 64 (stride * i)

/-! ### Source elements (R177, R179) -/

/-- The segments of `n` positions, by elements or by the bytes of the element planes (R147, R179). -/
def State.planeSegs (s : State) (t : Nat) (bytes : Bool) : Nat → Nat → Nat → Nat → Nat → List Seg
  | 0, _, _, _, _ => []
  | fuel + 1, m, e, n, p =>
    let c := s.fmtAt t m
    let cap := if bytes then fmtCap c * elemBits c / 8 else fmtCap c
    if n = 0 ∨ m > 255 ∨ e ≥ cap then []
    else
      let k := min n (cap - e)
      (m, e, k, p) :: s.planeSegs t bytes fuel (m + 1) 0 (n - k) (p + k)

/-- R182: the buffer and the slot of it that a macro belongs to. -/
def Tile.slotOf (x : Tile) (m : Nat) : Option (Nat × Nat) :=
  match x.bufferOf m 16 with
  | none => none
  | some b => match (x.buf b).cfg with
    | none => none
    | some w => some (b, (m - CBuf.first w) / max 1 (CBuf.mps w))

/-- R147, R167, R280: whether a region of `cred` runs on past the slot of a buffer in which it begins, or into one (log 92). -/
def Tile.leavesSlot (x : Tile) (gs : List Seg) : Bool :=
  match segMacros gs with
  | [] => false
  | m :: ms => ms.any (fun n => x.slotOf n != x.slotOf m)

/-- The segments of a scratchpad row. -/
def State.spadRow (s : State) (t : Nat) (a : Word) (n : Nat) (bytes : Bool) : Except Nat (List Seg) :=
  match s.blockAddr t a bytes with
  | .error e => .error e
  | .ok (m, e) =>
    let gs := s.planeSegs t bytes 257 m e n 0
    if segTotal gs < n then .error EngErr.bounds else .ok gs

def State.spadEl (s : State) (t : Nat) (bytes : Bool) (m e : Nat) : SrcEl :=
  if bytes then
    { fmt := 0, code := (s.mem.byte (spadKey t m e)).toNat, idx := e, src := m, poison := s.mem.isPoison (spadKey t m e) }
  else
    let c := s.fmtAt t m
    let g := s.grpAt t m
    let b := elemBits c
    let u := e / groupLen g
    { fmt := c, grp := g, code := s.elemCode t m e, idx := e, src := m,
      scale := if isBlock c then s.scaleCode t m e else if isAffine c then s.mem.field (spadKey t m 0) ((scaleOff c + 2 * u) * 8) 16 else 0,
      zero := if isAffine c then s.mem.field (spadKey t m 0) ((zeroOff c + u) * 8) 8 else 0,
      poison := [e * b / 8, (e * b + b - 1) / 8].any (fun o => s.mem.isPoison (spadKey t m o)),
      foul := (if isBlock c then [scaleOff c + e / 8] else if isAffine c then [scaleOff c + 2 * u, zeroOff c + u] else []).any
        (fun o => s.mem.isPoison (spadKey t m o)) }

/-- A byte and a field of the object words read for a row, with their poison. -/
def gotByte (got : Map (Word × Bool)) (a : Nat) : Nat × Bool :=
  match got.look (a / 8 * 8) with
  | none => (0, false)
  | some (w, p) => (takeBytes a 1 w, p)

def gotField (got : Map (Word × Bool)) (base bit n : Nat) : Nat × Bool :=
  let lo := base + bit / 8
  let k := (bit % 8 + n + 7) / 8
  let bs := (List.range k).map (fun i => gotByte got (lo + i))
  (((bs.map Prod.fst).foldr (fun b acc => acc * 256 + b) 0 >>> (bit % 8)) % 2 ^ n, bs.any Prod.snd)

/-- R177: where row `i`'s scales begin. -/
def scaleRow (sc : Word) (stride : Int) (c : Nat) (ocp : Bool) (i : Nat) : Word :=
  sc + BitVec.ofInt 64 ((stride * i) / ((elemBits c * (if ocp then 4 else 1) : Nat) : Int))

/-- R177: element `j` of a row of an object endpoint. -/
def objEl (j : CpJob) (got : Map (Word × Bool)) (bytes : Bool) (i k : Nat) : SrcEl :=
  let a := (rowAddr j.src j.srs i).toNat
  if bytes then
    let (v, p) := gotByte got (a + k)
    { fmt := 0, code := v, idx := k, poison := p }
  else
    let c := j.sfmt
    let b := elemBits c
    let (v, p) := gotField got a (k * b) b
    if isBlock c then
      let (sc, q) := gotByte got ((scaleRow j.ssc j.srs c j.ocp i).toNat + k / (if j.ocp then 32 else 8))
      { fmt := c, code := v, scale := sc, idx := k, poison := p, foul := q }
    else if isAffine c then
      let g := groupLen j.sgrp
      let ng := (j.rl + g - 1) / g
      let (sc, q) := gotField got (j.ssc.toNat + 2 * (k / g)) 0 16
      let (z, r) := gotByte got (j.ssc.toNat + 2 * ng + k / g)
      { fmt := c, grp := j.sgrp, code := v, scale := sc, zero := z, idx := k, poison := p, foul := q || r }
    else { fmt := c, code := v, idx := k, poison := p }

/-- The words of a run of bytes. -/
def wordsOf (a : Word) (n : Nat) : List Word :=
  if n = 0 then []
  else
    let lo := a.toNat / 8
    let hi := (a.toNat + n - 1) / 8
    (List.range (hi + 1 - lo)).map (fun i => BitVec.ofNat 64 ((lo + i) * 8))

/-- The byte runs of an object endpoint's row: elements, then scales and zero points (R177). -/
def objRuns (a sc : Word) (stride : Int) (c grp n i : Nat) (ocp bytes : Bool) : List (Word × Nat) :=
  let row := rowAddr a stride i
  if bytes then [(row, n)]
  else
    let els := (n * elemBits c + 7) / 8
    if isBlock c then [(row, els), (scaleRow sc stride c ocp i, (n + (if ocp then 32 else 8) - 1) / (if ocp then 32 else 8))]
    else if isAffine c then
      let ng := (n + groupLen grp - 1) / groupLen grp
      [(row, els), (sc, 3 * ng)]
    else [(row, els)]

/-! ### Exact values and destination cells (R44, R179) -/

/-- R44: the exact value of a carried element. -/
def SrcEl.val (e : SrcEl) : Val :=
  let c := e.fmt
  if isIntFmt c then intVal (sext (elemBits c) e.code)
  else if isAffine c then mulVal (fp16.value e.scale) (intVal (sext (elemBits c) e.code - sext 8 e.zero))
  else if isBlock c then (if e.scale = 0xFF then .nan false else ((elemFmt c).value e.code).scale ((e.scale : Int) - 127))
  else if c = 0 then intVal e.code
  else (elemFmt c).value e.code

/-- A destination position: format and group, element index, macro, SR position (R42), and for `cred` its old value. -/
structure Cell where
  fmt : Nat
  grp : Nat
  e   : Nat
  m   : Nat
  pos : BitVec 32
  old : Option (Val × Bool) := none
  deriving DecidableEq, Repr

/-- What a move writes at a cell: 0 its code, 1 its block's scale, 2 and 3 its group's scale and zero point. -/
structure Put where
  cell : Cell
  kind : Nat
  val  : Nat
  bad  : Bool
  deriving DecidableEq, Repr

/-- R179: the combination of a `cred`, or the value itself. -/
def credVal (rop rm : Nat) (c : Cell) (e : SrcEl) : Val × Flags :=
  match c.old with
  | none => (e.val, Flags.none)
  | some (o, _) =>
    if rop = 0 then
      if isIntFmt c.fmt && isIntFmt e.fmt then (addVal 0 o e.val, Flags.none)
      else sumVal rm [o, e.val]
    else (pickVal (rop == 1) o e.val, Flags.none)

def SrcEl.anyBad (e : SrcEl) : Bool := e.poison || e.foul
def Cell.oldBad (c : Cell) : Bool := match c.old with | some (_, b) => b | none => false

/-- R179: whether a position is moved as bits. -/
def bitCopy (c : Cell) (e : SrcEl) : Bool := c.old.isNone && c.fmt == e.fmt && (!isAffine c.fmt || c.grp == e.grp)

/-- R47: eight elements that are one whole source block whose expansion is exact. -/
def exactBlock (es : List SrcEl) (c : Nat) : Bool :=
  match es with
  | [] => false
  | e :: _ => expands e.fmt c && e.idx % 8 == 0 &&
    (es.zipIdx).all (fun p => p.1.fmt == e.fmt && p.1.src == e.src && p.1.idx == e.idx + p.2)

/-- R179: what position `i` writes, its flags, and whether poison was consumed. DESIGN CHOICE (log 87): a block or group that a bit
copy moves takes the entries of the source element at its first position. -/
def putAt (rop rm : Nat) (sat : Bool) (key : BitVec 32) (S : List SrcEl) (D : List Cell) (i : Nat) : List Put × Flags × Bool :=
  match D[i]?, S[i]? with
  | some c, some e =>
    if isBlock c.fmt then
      if c.e % 8 ≠ 7 then ([], Flags.none, false)
      else
        let es := (S.drop (i - 7)).take 8
        let cs := (D.drop (i - 7)).take 8
        let bit := (cs.zip es).all (fun p => bitCopy p.1 p.2)
        if bit then
          ((cs.zip es).map (fun p => ⟨p.1, 0, p.2.code, p.2.poison⟩) ++
            [⟨c, 1, (es.headD e).scale, (es.headD e).foul⟩], Flags.none, false)
        else
          let vals := (cs.zip es).map (fun p => credVal rop rm p.1 p.2)
          let fl := vals.foldl (fun f x => f ||| x.2) Flags.none
          let rs := cs.map (fun c => (⟨rm, sat, key, c.pos⟩ : Rnd))
          let (sc, codes, fl') :=
            if c.old.isNone && exactBlock es c.fmt then expandBlock e.fmt c.fmt (es.headD e).scale (es.map SrcEl.code)
            else encodeBlock c.fmt rs (vals.map Prod.fst)
          let bad := es.any SrcEl.anyBad || cs.any Cell.oldBad
          ((cs.zip codes).map (fun p => ⟨p.1, 0, p.2, bad⟩) ++ [⟨c, 1, sc, bad⟩], fl ||| fl', bad)
    else if bitCopy c e then
      (⟨c, 0, e.code, e.poison⟩ ::
        (if isAffine c.fmt ∧ c.e % groupLen c.grp = 0 then [⟨c, 2, e.scale, e.foul⟩, ⟨c, 3, e.zero, e.foul⟩] else []), Flags.none, false)
    else
      let (v, fl) := credVal rop rm c e
      let fold := c.old.isNone && isBlock e.fmt && (c.fmt == 4 || c.fmt == 5)
      let r : Rnd := if fold then ⟨0, true, key, c.pos⟩ else ⟨rm, sat, key, c.pos⟩
      let (code, fl') := encodeElem c.fmt r v
      let bad := e.anyBad || c.oldBad
      ([⟨c, 0, code, bad⟩], fl ||| fl', bad)
  | _, _ => ([], Flags.none, false)

def moveRow (rop rm : Nat) (sat : Bool) (key : BitVec 32) (S : List SrcEl) (D : List Cell) : List Put × Flags × Bool :=
  let out := (List.range D.length).map (fun i => putAt rop rm sat key S D i)
  (out.flatMap Prod.fst, (out.map (fun o => o.2.1)).foldl (· ||| ·) Flags.none, out.any (fun o => o.2.2))

/-- The cells of a scratchpad destination. -/
def State.spadCells (s : State) (t : Nat) (bytes red : Bool) (gs : List Seg) : List Cell :=
  gs.flatMap (fun g => (List.range g.2.2.1).map (fun i =>
    let e := g.2.1 + i
    { fmt := if bytes then 0 else s.fmtAt t g.1, grp := s.grpAt t g.1, e := e, m := g.1,
      pos := BitVec.ofNat 32 (g.1 * 2 ^ 15 + e),
      old := if red then some (s.elem t g.1 e, s.foul t [(g.1, e)]) else none }))

/-- Scratchpad bits of a put (R38). -/
def Put.bits (p : Put) : BitWrite :=
  let c := p.cell
  let b := elemBits c.fmt
  match p.kind with
  | 0 => (c.m, c.e * b, b, p.val)
  | 1 => (c.m, (scaleOff c.fmt + c.e / 8) * 8, 8, p.val)
  | 2 => (c.m, (scaleOff c.fmt + 2 * (c.e / groupLen c.grp)) * 8, 16, p.val)
  | _ => (c.m, (zeroOff c.fmt + c.e / groupLen c.grp) * 8, 8, p.val)

/-- R113, R179: a row written into the scratchpad with its poison. -/
def State.putSpad (s : State) (t : Nat) (ps : List Put) : State :=
  (s.spadBits t (ps.map Put.bits)).poisonBits t ((ps.filter (fun p => p.bad)).map Put.bits)

/-! ### Object destinations -/

/-- Bits collected for object words: value, bit mask and poison by word address. -/
abbrev WordBits := Map (Nat × Nat × Bool)

def addBits (m : WordBits) (bit n v : Nat) (bad : Bool) : WordBits :=
  let one (m : WordBits) (w off k x : Nat) : WordBits :=
    let (v0, k0, b0) := m.lookD w (0, 0, false)
    m.put w (v0 ||| ((x % 2 ^ k) <<< off), k0 ||| ((2 ^ k - 1) <<< off), b0 || bad)
  let w := bit / 64 * 8
  let off := bit % 64
  let k := min n (64 - off)
  let m := one m w off k v
  if k < n then one m (w + 8) 0 (n - k) (v >>> k) else m

/-- The word writes of collected bits, which always make whole bytes (R148). -/
def wordWrites (m : WordBits) : List (Word × BitVec 8 × Word × Bool) :=
  m.map (fun e =>
    let mask : BitVec 8 := (List.range 8).foldl (fun k i => if e.2.2.1.testBit (8 * i) then k ||| BitVec.ofNat 8 (2 ^ i) else k) 0#8
    (BitVec.ofNat 64 e.1, mask, BitVec.ofNat 64 e.2.1, e.2.2.2))

def objPuts (j : CpJob) (i : Nat) (ps : List Put) : List (Word × BitVec 8 × Word × Bool) :=
  let a := (rowAddr j.dst j.drs i).toNat
  let g := groupLen j.dgrp
  let ng := (j.rl + g - 1) / g
  wordWrites (ps.foldl (fun (m : WordBits) p =>
    let c := p.cell
    let b := elemBits c.fmt
    match p.kind with
    | 0 => addBits m (a * 8 + c.e * b) b p.val p.bad
    | 1 => addBits m (((scaleRow j.dsc j.drs c.fmt false i).toNat + c.e / 8) * 8) 8 p.val p.bad
    | 2 => addBits m ((j.dsc.toNat + 2 * (c.e / g)) * 8) 16 p.val p.bad
    | _ => addBits m ((j.dsc.toNat + 2 * ng + c.e / g) * 8) 8 p.val p.bad) [])

/-- The cells of an object destination's row (R42). -/
def objCells (j : CpJob) (bytes : Bool) (i : Nat) : List Cell :=
  (List.range j.rl).map (fun k =>
    { fmt := if bytes then 0 else j.dfmt, grp := j.dgrp, e := k, m := 0,
      pos := BitVec.ofNat 32 (0x80000000 + (i * j.rl + k) % 2 ^ 30) })

/-! ### Start checks -/

/-- R167, R177: an object endpoint's row: the object it names, the alignment of its address, its extent and its rights. -/
def State.objCheck (s : State) (ctx : Nat) (a : Word) (c : Nat) (write : Bool) (runs : List (Word × Nat)) : Option Nat :=
  match s.object ctx (objOf a) with
  | none => some EngErr.noObj
  | some o =>
    if a.toNat % max 1 (elemBits c / 8) ≠ 0 then some EngErr.param
    else match runs.findSome? (fun r =>
        match s.object ctx (objOf r.1) with
        | none => some EngErr.noObj
        | some q => if offOf r.1 + r.2 > q.size then some EngErr.bounds
          else if write ∧ (q.isCode ∨ !q.writable) then some EngErr.perm
          else if q.peer ∧ q.lost then some EngErr.peerGone else none) with
      | some e => some e
      | none => if o.peer ∧ o.lost then some EngErr.peerGone else none

/-- The format of an endpoint's row. -/
def State.srcFmt (s : State) (t : Nat) (j : CpJob) (i : Nat) : Nat :=
  if j.sk = 1 then s.fmtAt t (macroOf (rowAddr j.src j.srs i)) else j.sfmt

/-- The segments of slot `slot` of a buffer that row `i` fills. -/
def State.slotRow (s : State) (t : Nat) (w : Word) (slot i rl : Nat) (bytes : Bool) : List Seg :=
  let ms := slotMacros w slot
  let gs := (s.planeSegs t bytes 257 (ms.headD 0) 0 ((i + 1) * rl) 0).filter (fun g => ms.contains g.1)
  gs.filterMap (fun g =>
    let lo := max (i * rl) g.2.2.2
    let hi := g.2.2.2 + g.2.2.1
    if lo < hi then some (g.1, g.2.1 + (lo - g.2.2.2), hi - lo, lo - i * rl) else none)

/-- R253: the last tile of the installed route of a number that begins at tile `t`. -/
def State.routeEnd (s : State) (t num : Nat) : Option Nat :=
  s.insts.findSome? (fun e => if !e.2.routed then none
    else match e.2.rec_.routes.find? (fun r => r.num == num && r.tiles.head? == some t) with
      | some r => r.tiles.getLast?
      | none => none)

/-- The destination format of a row; a route's is that of its last tile. -/
def State.dstFmt (s : State) (t : Nat) (op : CmdOp) (j : CpJob) (i : Nat) : Nat :=
  let away := op = .csend ∨ op = .cbcast
  let u := if away then (s.routeEnd t j.route).getD t else t
  if j.dk = 0 then j.dfmt
  else if j.dk = 2 then (match ((s.tile u).buf j.cbn).cfg with | some w => s.fmtAt u (CBuf.first w) | none => 1)
  else if away ∧ u = t then 1
  else if away then s.fmtAt u (macroOf (rowAddr j.dst j.drs i))
  else s.fmtAt t (macroOf (rowAddr j.dst j.drs i))

/-- Whether a scratchpad region of `n` elements meets a macro of format RAW. -/
def State.meetsRaw (s : State) (t : Nat) (a : Word) (n : Nat) : Bool :=
  match s.blockAddr t a false with
  | .error _ => false
  | .ok (m, e) => (s.planeSegs t false 257 m e n 0).any (fun g => s.fmtAt t g.1 == 0)

/-- R45, R179: whether row `i` is moved as bytes, its length in bytes: an endpoint is RAW, at the row's beginning or in any macro
that the row meets (log 93). -/
def State.rowBytes (s : State) (t : Nat) (op : CmdOp) (j : CpJob) (i : Nat) : Bool :=
  let away := op = .csend ∨ op = .cbcast
  let u := if away then (s.routeEnd t j.route).getD t else t
  s.srcFmt t j i == 0 || s.dstFmt t op j i == 0 ||
  (j.sk == 1 && s.meetsRaw t (rowAddr j.src j.srs i) j.rl) ||
  (j.dk == 1 && !(away ∧ u = t) && s.meetsRaw u (rowAddr j.dst j.drs i) j.rl) ||
  (j.dk == 2 && (match ((s.tile u).buf j.cbn).cfg with
    | some w => (List.range (CBuf.mps w)).any (fun m => s.fmtAt u (CBuf.first w + m) == 0)
    | none => false))

/-- R179, R148: a row's formats and whole units at a scratchpad destination. -/
def State.unitsOk (s : State) (t : Nat) (bytes : Bool) (gs : List Seg) : Bool := bytes || gs.all (fun g => s.wholeUnits t g)

/-- R179, R45: whether INT8A and INT4A destinations receive their own codes. -/
def groupsMatch (S : List (Nat × Nat)) (D : List (Nat × Nat)) : Bool :=
  D.all (fun d => !isAffine d.1 || S.all (fun e => e.1 == d.1 && e.2 == d.2))

/-- R45: formats and groups of a source row. -/
def State.srcKinds (s : State) (t : Nat) (j : CpJob) (gs : List Seg) : List (Nat × Nat) :=
  if j.sk = 1 then gs.map (fun g => (s.fmtAt t g.1, s.grpAt t g.1)) else [(j.sfmt, j.sgrp)]

def firstErr : List (Option (Nat × Nat)) → Option (Nat × Nat)
  | [] => none
  | none :: l => firstErr l
  | some e :: _ => some e

/-- The checks of row `i`: error and det. -/
def State.rowCheck (s : State) (t p : Nat) (op : CmdOp) (j : CpJob) (i : Nat) : Option (Nat × Nat) :=
  let x := s.tile t
  let ctx := match x.teams.look p with | some tm => tm.ctx | none => 0
  let bytes := s.rowBytes t op j i
  let region (a : Word) : Except Nat (List Seg) := match s.spadRow t a j.rl bytes with
    | .ok gs => if op = .cred ∧ x.leavesSlot gs then .error EngErr.bounds else .ok gs
    | .error e => .error e
  let owned (gs : List Seg) : Option (Nat × Nat) :=
    ((segMacros gs).find? (fun m => !macroOwned x p m)).map (fun m => (EngErr.perm, m))
  let sgs : Except Nat (List Seg) := if j.sk = 1 then region (rowAddr j.src j.srs i) else .ok []
  let srcBad : Option (Nat × Nat) :=
    if j.sk = 1 then match sgs with
      | .error e => some (e, 0)
      | .ok gs => owned gs
    else (s.objCheck ctx (rowAddr j.src j.srs i) j.sfmt false
      (objRuns j.src j.ssc j.srs j.sfmt j.sgrp j.rl i j.ocp bytes)).map (·, 0)
  match srcBad with
  | some e => some e
  | none =>
    let kinds := s.srcKinds t j (match sgs with | .ok gs => gs | .error _ => [])
    let spadDest (gs : List Seg) : Option (Nat × Nat) :=
      if !bytes && !groupsMatch kinds ((segMacros gs).map (fun m => (s.fmtAt t m, s.grpAt t m))) then some (EngErr.format, 0)
      else if op = .cred ∧ (segMacros gs).any (fun m => isAffine (s.fmtAt t m)) then some (EngErr.format, 0)
      else if !s.unitsOk t bytes gs then some (EngErr.param, 0)
      else match owned gs with
        | some e => some e
        | none => ((segMacros gs).find? (fun m => (x.mac m).state == .stationary)).map (fun m => (EngErr.state, m))
    match op with
    | .csend | .cbcast => if i = 0 ∧ j.dk = 1 ∧ bits j.dst 63 22 ≠ 0 then some (EngErr.bounds, 0) else none
    | .cring =>
      match (x.buf j.cbn).cfg with
      | none => some (EngErr.perm, 0)
      | some w =>
        let gs := s.slotRow t w 0 i j.rl bytes
        if segTotal gs < j.rl then some (EngErr.bounds, 0)
        else if !bytes && !groupsMatch kinds ((segMacros gs).map (fun m => (s.fmtAt t m, s.grpAt t m))) then some (EngErr.format, 0)
        else if !s.unitsOk t bytes gs then some (EngErr.param, 0) else none
    | _ =>
      if j.dk = 1 then
        match region (rowAddr j.dst j.drs i) with
        | .error e => some (e, 0)
        | .ok gs => spadDest gs
      else
        let unit := if bytes then 1 else if isBlock j.dfmt then 8 else if isAffine j.dfmt then groupLen j.dgrp else 1
        if !bytes && !groupsMatch kinds [(j.dfmt, j.dgrp)] then some (EngErr.format, 0)
        else if j.rl % unit ≠ 0 then some (EngErr.param, 0)
        else (s.objCheck ctx (rowAddr j.dst j.drs i) j.dfmt true
          (objRuns j.dst j.dsc j.drs j.dfmt j.dgrp j.rl i false bytes)).map (·, 0)

/-- R181: the checks of a scratchpad destination's row, which hold for every row from the command's start: its region, its
team and its state. -/
def State.destCheck (s : State) (t p : Nat) (op : CmdOp) (j : CpJob) (i : Nat) : Option (Nat × Nat) :=
  if j.dk ≠ 1 ∨ !(op == .cpy || op == .cred) then none
  else match s.spadRow t (rowAddr j.dst j.drs i) j.rl (s.rowBytes t op j i) with
    | .error e => some (e, 0)
    | .ok gs => if op = .cred ∧ (s.tile t).leavesSlot gs then some (EngErr.bounds, 0) else match (segMacros gs).find? (fun m => !macroOwned (s.tile t) p m) with
      | some m => some (EngErr.perm, m)
      | none => ((segMacros gs).find? (fun m => ((s.tile t).mac m).state == .stationary)).map (fun m => (EngErr.state, m))

/-- R147, R167, R280: whether a `cred` has a region that runs beyond a macro's capacity, past macro 255 or out of its buffer slot; this
is found before the formats of the macros it would run into. -/
def State.credFar (s : State) (t : Nat) (op : CmdOp) (j : CpJob) : Bool :=
  op == .cred && (List.range j.rows).any (fun i =>
    ((if j.sk = 1 then [rowAddr j.src j.srs i] else []) ++ [rowAddr j.dst j.drs i]).any (fun a =>
      match s.spadRow t a j.rl false with
      | .ok gs => (s.tile t).leavesSlot gs
      | .error e => e == EngErr.bounds))

/-- R180: the checks of row `i` of a checksum staging. -/
def State.ckCheck (s : State) (t p : Nat) (j : CpJob) (i : Nat) : Option (Nat × Nat) :=
  let x := s.tile t
  let ctx := match x.teams.look p with | some tm => tm.ctx | none => 0
  let m := macroOf (rowAddr j.src j.srs i)
  if bits (rowAddr j.src j.srs i) 63 22 ≠ 0 then some (EngErr.bounds, 0)
  else if s.fmtAt t m ≠ 13 ∨ s.grpAt t m ≠ 2 then some (EngErr.format, 0)
  else if !macroOwned x p m then some (EngErr.perm, m)
  else (s.objCheck ctx (rowAddr j.dst j.drs i) 0 true [(rowAddr j.dst j.drs i, 16384)]).map (·, 0)

/-- R167, R177-R181: the checks that a row makes when it begins. -/
def State.rowBad (s : State) (t p : Nat) (op : CmdOp) (j : CpJob) (i : Nat) : Option (Nat × Nat) :=
  if j.ck then s.ckCheck t p j i else s.rowCheck t p op j i

/-- R381: whether a route passes the site of a tile that a dusk has closed: its sender starts no transfer. -/
def State.routeShut (s : State) (kin num : Nat) : Bool :=
  match s.dusk with
  | none => false
  | some d => d.opened && (s.routers.lookD (s.site d.tile) []).any (fun e => e.num == num && e.kin == kin)

/-- R253: the delivering tiles of a route that begins at tile `t` for an instance: all listed after the first, or the last. -/
def State.routeTiles (s : State) (t kin num : Nat) (all : Bool) : Option (List Nat) :=
  match s.insts.look kin with
  | none => none
  | some i =>
    if !i.routed then none
    else match i.rec_.routes.find? (fun r => r.num == num) with
      | none => none
      | some r =>
        if r.tiles.head? ≠ some t ∨ r.tiles.length < 2 then none
        else some (if all then r.tiles.drop 1 else (r.tiles.getLast?).toList)

/-- R253: the router entry that a flit of a route meets at a site: by its input port, or, after a change of the tables, the
instance's only one there. -/
def State.routeEntry (s : State) (site num kin inp : Nat) : Option RouteEntry :=
  let l := (s.routers.lookD site []).filter (fun e => e.num == num && e.kin == kin)
  match l.find? (fun e => e.inp == inp) with
  | some e => some e
  | none => match l with
    | [e] => some e
    | _ => none

/-- R253, R254, R278: from a router's output port `out`, the next tile that takes a flit of the route, and the input port by which the
flit reaches it. A `cbcast` is taken where the deliver bit is set, a `csend` at the end. -/
def State.routeHop (s : State) (num kin : Nat) (all : Bool) : Nat → Nat → Nat → Option (Nat × Nat)
  | 0, _, _ => none
  | n + 1, site, out => match siteStep site out with
    | none => none
    | some v => match s.routeEntry v num kin (oppositePort out) with
      | none => none
      | some e =>
        if e.last || (e.deliver && all) then (s.tileAt v).map (fun u => (u, e.inp)) else s.routeHop num kin all n v e.out

/-- The sites that a flit of a route passes to the tile at site `goal`, which it reaches by port `gi`, from the last tile before that
has taken it. -/
def State.routeWalk (s : State) (num kin : Nat) (all : Bool) (goal gi : Nat) : Nat → Nat → Nat → List Nat → List Nat
  | 0, _, _, _ => []
  | n + 1, site, inp, seg =>
    if site = goal ∧ inp = gi then seg ++ [site]
    else match s.routeEntry site num kin inp with
      | none => []
      | some e => match (if e.last then none else siteStep site e.out) with
        | none => []
        | some v => s.routeWalk num kin all goal gi n v (oppositePort e.out) (if e.deliver && all then [site] else seg ++ [site])

/-- The first tile that takes a flit sent from tile `t`. -/
def State.routeFirst (s : State) (t kin num : Nat) (all : Bool) : Option (Nat × Nat) :=
  match s.routeEntry (s.site t) num kin 4 with
  | none => none
  | some e => s.routeHop num kin all 8448 (s.site t) e.out

/-- R254: a flit of a route that tile `src` sends, on its way to the next tile that takes it. -/
def State.postRoute (s : State) (src : Nat) (last : Bool) (f : RouteFlit) (q : Nat × Nat) : State :=
  let g := { f with inp := q.2 }
  s.send { vc := 5, src := src, dst := q.1, gen := s.gen, slot := 16, body := if last then .routeLast g else .route g }

def Run.job (r : Run) : CpJob := cpJob (r.blocks.getD 0 []) r.cmd.st

def State.runRoute (s : State) (t : Nat) (r : Run) : List Nat :=
  (s.routeTiles t r.cmd.kin r.job.route (r.cmd.op == .cbcast)).getD []

/-- The scratchpad macros that the rows from `i` on write. -/
def State.rowsMacros (s : State) (t : Nat) (op : CmdOp) (j : CpJob) (i : Nat) : List Nat :=
  if j.dk ≠ 1 ∨ op = .csend ∨ op = .cbcast then []
  else ((List.range (j.rows - i)).flatMap (fun k =>
    match s.spadRow t (rowAddr j.dst j.drs (i + k)) j.rl (s.rowBytes t op j (i + k)) with
    | .ok gs => segMacros gs
    | .error _ => [])).eraseDups

/-- The macros of a command's scratchpad source. -/
def State.sourceMacros (s : State) (t : Nat) (op : CmdOp) (j : CpJob) : List Nat :=
  if j.sk ≠ 1 then []
  else (List.range j.rows).flatMap (fun k =>
    match s.spadRow t (rowAddr j.src j.srs k) j.rl (s.rowBytes t op j k) with
    | .ok gs => segMacros gs
    | .error _ => [])

/-- The source elements of a row whose words have been read. -/
def State.sourceRow (s : State) (t : Nat) (r : Run) : List SrcEl :=
  let j := r.job
  if j.sk = 1 then match s.spadRow t (rowAddr j.src j.srs r.prog) j.rl r.raw with
    | .ok gs => gs.flatMap (fun g => (List.range g.2.2.1).map (fun i => s.spadEl t r.raw g.1 (g.2.1 + i)))
    | .error _ => []
  else (List.range j.rl).map (fun k => objEl j r.got r.raw r.prog k)

/-- The segments of a row's scratchpad destination on the tile. -/
def State.destSegs (s : State) (t : Nat) (r : Run) : List Seg :=
  let j := r.job
  if j.dk = 2 then match ((s.tile t).buf j.cbn).cfg with
    | some w => s.slotRow t w (r.slot.getD 0) r.prog j.rl r.raw
    | none => []
  else match s.spadRow t (rowAddr j.dst j.drs r.prog) j.rl r.raw with
    | .ok gs => gs
    | .error _ => []

/-- R244: a row begins: whether it is moved as bytes, and the formats of its macros, read once. -/
def State.beginRow (s : State) (t : Nat) (r : Run) : Run :=
  let j := r.job
  let away := r.cmd.op = .csend ∨ r.cmd.op = .cbcast
  let r := { r with begun := true, raw := s.rowBytes t r.cmd.op j r.prog }
  let src := if j.sk = 1 then match s.spadRow t (rowAddr j.src j.srs r.prog) j.rl r.raw with
    | .ok gs => segMacros gs
    | .error _ => [] else []
  let dst := if j.dk = 0 ∨ away then [] else segMacros (s.destSegs t r)
  { r with fmts := s.addFormats t [] (src ++ dst) }

/-- R182: `cbcfg` performed: its error and det, or the buffer configured. -/
def State.configure (s : State) (t : Nat) (r : Run) (b : List Word) : State :=
  let x := s.tile t
  let n := r.cmd.a.toNat
  let w := blk b 0
  let c := x.buf n
  let ms := bufMacros w
  let busy : Bool := match c.cfg with | some v => c.free < CBuf.count v | none => false
  if bits w 63 28 ≠ 0 ∨ ((b.drop 1).take 6).any (· != 0#64) ∨ CBuf.fmt w = 15 ∨ CBuf.grp w = 3 ∨ CBuf.mps w > 192 ∨
      CBuf.mps w * CBuf.count w + CBuf.first w > 256 then s.engDone t r EngErr.param 0 0
  else match ms.find? (fun m => !macroOwned x r.pos m || (x.bufferOf m n).isSome) with
    | some m => s.engDone t r EngErr.perm m 0
    | none =>
      if busy then s.engDone t r EngErr.state 0 0
      else match ms.find? (fun m => (x.mac m).state == .stationary) with
        | some m => s.engDone t r EngErr.state m 0
        | none =>
          let x := x.modBuf n (fun (c : CBuf) => { c with
            cfg := if ms.isEmpty then none else some w, filled := 0, held := 0, fill := 0, take := 0,
            free := if ms.isEmpty then 0 else CBuf.count w })
          let x := ms.foldl (fun (x : Tile) m => x.modMacro m (fun (c : Macro) =>
            { c with fmt := BitVec.ofNat 4 (CBuf.fmt w), grp := BitVec.ofNat 2 (CBuf.grp w),
                     state := if c.state = .loading ∨ c.state = .scrubbing then c.state else .plain })) x
          (s.setTile t x).engDone t r 0 0 0

/-- R167, R177-R182: a copy command starts: its block, its first row and the macros it writes are checked before any write, and
those macros are loading. A later row is checked when it begins, and one that fails ends the command in mid-course (R181). -/
def State.cpeStart (s : State) (t : Nat) (r : Run) : Start :=
  let b := (s.readBlock t r.cmd.block).1
  let j := cpJob b r.cmd.st
  let op := r.cmd.op
  if op = .cbcfg then
    (if (bufMacros (blk b 0)).any (fun m => ((s.tile t).mac m).state == .scrubbing || ((s.tile t).mac m).due) then .wait
     else .go (s.configure t r b))
  else if !cpFields op b then .err EngErr.param 0 0
  else if (j.sk = 0 ∧ j.sfmt = 15) ∨ (j.dk = 0 ∧ j.dfmt = 15) then .err EngErr.format 0 0
  else if (j.sk = 0 ∧ isAffine j.sfmt ∧ (j.sgrp = 3 ∨ j.rows ≠ 1)) ∨
      (j.dk = 0 ∧ isAffine j.dfmt ∧ !j.ck ∧ (j.dgrp = 3 ∨ j.rows ≠ 1)) then .err EngErr.param 0 0
  else if (s.rowsMacros t op j 0 ++ s.sourceMacros t op j).any (fun m => (s.tile t).scrubs m) then .wait
  else
    let route := s.routeTiles t r.cmd.kin j.route (op == .cbcast)
    let raw := op = .cred ∧ (List.range j.rows).any (fun i => s.rowBytes t op j i)
    let bufBad := op = .cring ∧ (((s.tile t).buf j.cbn).owner ≠ some r.pos ∨ ((s.tile t).buf j.cbn).cfg = none)
    if (op = .csend ∨ op = .cbcast) ∧ (route.isNone ∨ (s.routeFirst t r.cmd.kin j.route (op == .cbcast)).isNone) then
      .err EngErr.route 0 0
    else if (op = .csend ∨ op = .cbcast) ∧ s.routeShut r.cmd.kin j.route then .wait
    else if s.credFar t op j then .err EngErr.bounds 0 0
    else if raw then .err EngErr.format 0 0
    else if bufBad then .err EngErr.perm 0 0
    else
      let bad := firstErr (s.rowBad t r.pos op j 0 :: (List.range j.rows).map (s.destCheck t r.pos op j))
      match bad with
      | some (c, d) => .err c d 0
      | none =>
        let ms := s.rowsMacros t op j 0
        let s := s.setTile t (ms.foldl Tile.beginLoad (s.tile t))
        let r := { r with blocks := [b], loading := ms, wait := .run }
        .go (s.setRun t .cpe (some (if op = .cring then { r with wait := .slot } else s.beginRow t r)))

/-! ### Rows (R181) -/

/-- R183, R242: a waiting copy command takes the next free slot of its buffer: it waits for a scrub of the slot's macros, and ends
with STATE where one is stationary. -/
def execCopySlotTake (t : Nat) (s : State) : Out :=
  match (s.tile t).cpe with
  | none => .fault .notEnabled
  | some r =>
    if r.wait ≠ .slot ∨ ((s.tile t).buf r.job.cbn).free = 0 ∨ s.runClosed t r ∨
        ((s.tile t).slotState r.job.cbn .scrubbing).isSome then .fault .notEnabled
    else match (s.tile t).slotState r.job.cbn .stationary with
    | some m => .next (s.engDone t r EngErr.state m 0)
    | none =>
      let (x, i) := (s.tile t).takeFree r.job.cbn
      .next ((s.setTile t x).setRun t .cpe (some { r with wait := .run, slot := some i }))

/-- The request tag of a command's packets (R248): its instance and ticket, and how often its row has begun afresh (R336). -/
def Run.tag (r : Run) : Nat := 32 + (r.tries * 2 ^ 64 + r.cmd.ticket) * 2 ^ 20 + r.cmd.kin % 2 ^ 20

/-- How an engine's access to an object word goes on. -/
inductive Reached where
  | done (s : State) (r : Run)
  | blocked (s : State) (r : Run)     -- it waits for an extent operation or a pending entry
  | failed (s : State) (r : Run) (code : Nat)
  deriving DecidableEq, Repr

/-- R181, R260: engine `e` of tile `t` waits on the pending entry of a granule. -/
def State.joinEngine (s : State) (t ctx : Nat) (a : Word) (e : Eng) (r : Run) : State :=
  s.modPending t ctx a (fun (p : Pending) =>
    { p with engines := if p.engines.contains (r.asWaiter e) then p.engines else p.engines ++ [r.asWaiter e] })

/-- R181, R260, R292: an engine's word as its home takes it: performed here, sent to another home, or waiting, in arrival order
with the other accesses that the home holds. -/
def State.engAccess (s : State) (t ctx : Nat) (e : Eng) (a : Word) (r : Run) (here : State → Run → State × Run)
    (away : Nat → State → Run → State × Run) : Reached :=
  let held : HeldAcc := .engine e r.pos r.cmd.ticket ctx a
  let waits : Run := { r with wait := .pending, pass := false }
  match s.object ctx (objOf a) with
  | none => .failed s r EngErr.noObj
  | some o =>
    let go (u : Nat) : Reached :=
      let (s, r) := away u s r
      .done s r
    if o.peer then (if o.lost then .failed s r EngErr.peerGone else go (16384 + o.module))
    else match s.trueHome ctx a t with
      | none => .failed s r EngErr.notRes
      | some u =>
        if u ≠ t then (if (s.tile u).fenced then .failed s r EngErr.fenced else go u)
        else match s.gate t ctx a r.pass with
          | .go =>
            let (s, r) := here s { r with pass := false }
            .done s r
          | .hold => .blocked (s.holdAcc t ctx a held) waits
          | .full =>
            let x := (s.tile t).unhold held
            .blocked (s.setTile t { x with overflow := x.overflow ++ [held] }) waits
          | .lost => .done s { r with err := if r.err = 0 then EngErr.ue else r.err, got := r.got.put a.toNat (0#64, true) }
          | .elsewhere => .failed s r EngErr.stale
          | .join => .blocked (s.joinEngine t ctx a e r) waits
          | .open_ => .blocked (((s.openPending t ctx a).joinEngine t ctx a e r).residNotice t ctx a 4#64) waits

/-- R181: the source words of a row that have not been read are read or requested. -/
def State.gather (s : State) (t ctx : Nat) (r : Run) : List Word → Reached
  | [] => .done s r
  | a :: as =>
    let k := a.toNat
    if (r.got.look k).isSome || r.asked.contains k then s.gather t ctx r as
    else
      match s.engAccess t ctx .cpe a r
          (fun s r =>
            let (s, w) := s.homeRead t ctx a
            (s, { r with got := r.got.put k (w.data, w.poison) }))
          (fun u s r =>
            (s.send { vc := 4, src := t, dst := u, gen := s.gen, slot := r.tag, body := .copyReadReq r.pos ctx a k },
             { r with asked := r.asked ++ [k] })) with
      | .done s r => s.gather t ctx r as
      | other => other

/-- R181: the destination words of a row are written or sent; those bound for another module are counted (R226). -/
def State.scatter (s : State) (t ctx : Nat) (r : Run) : List (Word × BitVec 8 × Word × Bool) → Reached
  | [] => .done s { r with writes := [] }
  | (a, mask, v, bad) :: ws =>
    match s.engAccess t ctx .cpe a r
        (fun s r =>
          let s := s.homeStore t ctx a mask v false (s.uoOf ctx a)
          (if bad then s.homePoison t ctx a else s, r))
        (fun u s r =>
          (s.send { vc := 4, src := t, dst := u, gen := s.gen, slot := r.tag, body := .copyWrite r.pos ctx a mask v bad },
           { r with left := r.left + 1, peers := r.peers || u ≥ 16384 })) with
    | .done s r => s.scatter t ctx r ws
    | .blocked s r => .blocked s { r with writes := (a, mask, v, bad) :: ws }
    | .failed s r c => .failed s { r with writes := [] } c

/-- The end of a copy command: loading counts and its slot are given up (R181, R183). -/
def State.cpeEnd (s : State) (t : Nat) (r : Run) (err det cnt : Nat) : State :=
  let s := s.setTile t (r.loading.foldl Tile.endLoad (s.tile t))
  let s := match r.slot with
    | some i => s.modTile t (fun x => x.fillEnd r.job.cbn i)
    | none => s
  s.engDone t r err det cnt

/-- Whether an error ends a command in mid-course (R167, R179). -/
def Run.fatal (r : Run) : Bool := r.err != 0 && r.err != EngErr.ue

/-- R254: a flit of the running transfer, with the elements of its row from `off` on. -/
def Run.flit (r : Run) (off : Nat) (data : List SrcEl) : RouteFlit :=
  let j := r.job
  { num := j.route, kin := r.cmd.kin, dst := rowAddr j.dst j.drs r.prog, cbn := if j.dk = 2 then some j.cbn else none, row := r.prog,
    len := r.row.length, off := off, rm := j.rm, sat := j.sat, key := r.cmd.key, all := r.cmd.op == .cbcast, inp := 4, data := data,
    rows := j.rows, step := BitVec.ofInt 64 j.drs }

/-- A copy command that meets an error in mid-course keeps the rows it completed; it ends once every write it has sent is performed
(R181). A transfer of which a flit has been sent is closed by a final flit without data (R254; log 94). -/
def State.cpeFail (s : State) (t : Nat) (r : Run) (err det : Nat) : State :=
  let away := r.cmd.op = .csend ∨ r.cmd.op = .cbcast
  let cnt := if r.fatal then r.cnt else min r.prog r.job.rows
  let r' : Run := { r with err := err, det := det, cnt := cnt, prog := r.job.rows + 1, row := [], col := 0, writes := [], got := [],
                           asked := [], killed := false, wait := .remote }
  if away ∧ (r.prog ≠ 0 ∨ r.col ≠ 0) then
    match s.routeFirst t r.cmd.kin r.job.route (r.cmd.op == .cbcast) with
    | some q => (s.postRoute t true (r.flit 0 []) q).setRun t .cpe (some { r' with left := r.left + (s.runRoute t r).length, wait := .grant })
    | none => s.setRun t .cpe (some { r' with wait := if r.left = 0 then .run else .grant })
  else if r.left = 0 then s.cpeEnd t r' err det cnt
  else s.setRun t .cpe (some r')

/-- R181: a row is complete: macros that no later row writes are no longer loading; the next row, or done. -/
def State.rowDone (s : State) (t : Nat) (r : Run) : State :=
  let j := r.job
  let n := r.prog + 1
  let later := s.rowsMacros t r.cmd.op j n
  let kept := r.loading.filter (fun m => later.contains m)
  let gone := r.loading.filter (fun m => !later.contains m)
  let s := s.setTile t (gone.foldl Tile.endLoad (s.tile t))
  let r := { r with prog := n, got := [], asked := [], busy := false, peers := false, resent := false, begun := false, raw := false,
                    fmts := [], loading := kept }
  if n ≥ j.rows then s.cpeEnd t r r.err 0 (if r.err = 0 then 0 else n)
  else s.setRun t .cpe (some { r with wait := if s.runClosed t r then .next else .run })

/-- R180: the writes of a staged weight tile. -/
def State.ckWrites (s : State) (t m : Nat) (dst : Word) : List (Word × BitVec 8 × Word × Bool) × Bool :=
  let q (r c : Nat) : Int := sext 8 (s.mem.byte (spadKey t m (128 * r + c))).toNat
  let bad := (List.range 1960).any (fun i => s.mem.isPoison (spadKey t m (8 * i)))
  let cs (c : Nat) : Nat := ((List.range 112).foldl (fun a r => a + q r c) 0 % 2 ^ 32).toNat
  ((List.range 1960).map (fun i =>
      (dst + BitVec.ofNat 64 (8 * i), 0xFF#8, s.mem.word (spadKey t m (8 * i)), s.mem.isPoison (spadKey t m (8 * i)))) ++
   (List.range 64).map (fun i =>
      (dst + BitVec.ofNat 64 (15680 + 8 * i), 0xFF#8, BitVec.ofNat 64 (cs (2 * i) + cs (2 * i + 1) * 2 ^ 32), bad)) ++
   (List.range 24).map (fun i => (dst + BitVec.ofNat 64 (16192 + 8 * i), 0xFF#8, 0#64, false)), bad)

/-- R248: the bytes of elements in a flit, with the scale of each block of 8 and the scale and zero point of each group that they
touch (log 94). -/
def flitBytes (S : List SrcEl) : Nat :=
  if S.any (fun e => e.fmt == 0) then S.length
  else
    ((S.map (fun e => elemBits e.fmt)).foldl (· + ·) 0 + 7) / 8 +
    ((S.filter (fun e => isBlock e.fmt)).map (fun e => (e.src, e.idx / 8))).eraseDups.length +
    3 * ((S.filter (fun e => isAffine e.fmt)).map (fun e => (e.src, e.idx / groupLen e.grp))).eraseDups.length

/-- R248: how many elements of a row the next flit of 128 bytes carries, in whole blocks (log 94). -/
def flitLen (S : List SrcEl) : Nat :=
  if S.any (fun e => e.fmt == 0) then 128
  else
    let most := (S.map (fun e => 1024 / elemBits e.fmt / 8)).foldl min 128
    8 * (((List.range most).map (most - ·)).find? (fun k => flitBytes (S.take (8 * k)) ≤ 128)).getD 1

/-- Whether a packet is a flit of a transfer that tile `t` sends on a route. -/
def Packet.onRoute (p : Packet) (t num kin : Nat) : Bool :=
  p.src == t && (match p.body with
    | .route f | .routeLast f => f.num == num && f.kin == kin
    | _ => false)

/-- R251, R254: the flits that the route buffers of a route hold, two for each router entry. -/
def State.routeRoom (s : State) (num kin : Nat) : Nat :=
  2 * ((s.routers.flatMap Prod.snd).filter (fun e => e.num == num && e.kin == kin)).length

/-- R254: the next flit of a row leaves while the route has credit; the final flit of the transfer is of class 1. -/
def State.sendElems (s : State) (t : Nat) (r : Run) : Option State :=
  let j := r.job
  match s.routeFirst t r.cmd.kin j.route (r.cmd.op == .cbcast) with
  | none => some (s.cpeFail t r EngErr.route 0)
  | some q =>
    if (s.net.filter (fun p => p.onRoute t j.route r.cmd.kin)).length ≥ s.routeRoom j.route r.cmd.kin then none
    else
      let n := min (flitLen (r.row.drop r.col)) (r.row.length - r.col)
      let whole : Bool := r.col + n ≥ r.row.length
      let last : Bool := whole && r.prog + 1 ≥ j.rows
      let s := s.postRoute t last (r.flit r.col ((r.row.drop r.col).take n)) q
      let r := { r with left := r.left + (s.runRoute t r).length, col := r.col + n, wait := .run }
      if !whole then some (s.setRun t .cpe (some r))
      else
        let r := { r with prog := r.prog + 1, row := [], col := 0, got := [], asked := [], begun := false, raw := false, fmts := [] }
        some (s.setRun t .cpe (some { r with wait := if last then .grant else if s.runClosed t r then .next else .run }))

/-- What follows an attempt to write words of a row. -/
def State.rowWritten (s : State) (t ctx : Nat) (r : Run) (ws : List (Word × BitVec 8 × Word × Bool)) : State :=
  match s.scatter t ctx r ws with
  | .failed s r c => s.cpeFail t r c 0
  | .blocked s r => s.setRun t .cpe (some { r with busy := true })
  | .done s r => if r.left = 0 then s.rowDone t r else s.setRun t .cpe (some { r with busy := true, wait := .remote })

/-- A row that has been checked and whose source has been read is converted under the formats it began with, and written or sent
(R179). -/
def State.writeRow (s : State) (t ctx : Nat) (r : Run) : Option State :=
  let j := r.job
  let op := r.cmd.op
  let i := r.prog
  let f := s.underFormats t r.fmts
  if r.busy then some (s.rowWritten t ctx r r.writes)
  else if j.ck then
    let (ws, bad) := s.ckWrites t (macroOf (rowAddr j.src j.srs i)) (rowAddr j.dst j.drs i)
    some (s.rowWritten t ctx { r with err := if bad then EngErr.ue else r.err } ws)
  else
    let S := f.sourceRow t r
    if op = .csend ∨ op = .cbcast then s.sendElems t { r with row := S }
    else
      let D := if j.dk = 0 then objCells j r.raw i else f.spadCells t r.raw (op == .cred) (f.destSegs t r)
      let (ps, fl, ue) := moveRow j.rop j.rm j.sat r.cmd.key S D
      let r := { r with flags := r.flags ||| fl, err := if ue then EngErr.ue else r.err }
      if j.dk = 0 then some (s.rowWritten t ctx r (objPuts j i ps)) else some ((s.putSpad t ps).rowDone t r)

/-- R181: the row's object words are read at their homes, and the row is written once they have come. -/
def State.readRow (s : State) (t ctx : Nat) (r : Run) : Option State :=
  let j := r.job
  let words := if j.sk = 1 then []
    else (objRuns j.src j.ssc j.srs j.sfmt j.sgrp j.rl r.prog j.ocp r.raw).flatMap (fun q => wordsOf q.1 q.2)
  match s.gather t ctx r words with
  | .failed s r c => some (s.cpeFail t r c 0)
  | .blocked s r => some (s.setRun t .cpe (some r))
  | .done s r =>
    if r.asked.all (fun k => (r.got.look k).isSome) then s.writeRow t ctx r
    else some (s.setRun t .cpe (some { r with wait := .remote }))

/-- The rows that a command which is over reports (R166). -/
def Run.rows (r : Run) : Nat := if r.err = 0 then 0 else if !r.fatal && r.prog == r.job.rows then r.prog else r.cnt

/-- R181, R190: the running row goes on: its source words are read at their homes, it is converted, and its destination is
written; a command whose row is complete starts the next, stops at the boundary, or is done. A row makes its checks when it
begins. -/
def State.copyRow (s : State) (t : Nat) (r : Run) : Option State :=
  let ctx := (s.runTeam t r).ctx
  if r.prog ≥ r.job.rows then (if r.left = 0 then some (s.cpeEnd t r r.err r.det r.rows) else none)
  else if r.killed then some (s.cpeFail t r EngErr.notRes 0)
  else if r.fatal then some (s.cpeFail t r r.err r.det)
  else if !r.row.isEmpty then s.sendElems t r
  else if r.busy then s.writeRow t ctx r
  else if r.begun then s.readRow t ctx r
  else match s.rowBad t r.pos r.cmd.op r.job r.prog with
    | some (c, d) => some (s.cpeFail t r c d)
    | none => s.readRow t ctx (s.beginRow t r)

/-- R385: the words of the macros of a row's scratchpad source that the row reads are met. -/
def State.meetRow (s : State) (t : Nat) (r : Run) : State :=
  let j := r.job
  if s.mem.soft.isEmpty && s.mem.weak.isEmpty then s
  else if j.sk ≠ 1 then s
  else match s.spadRow t (rowAddr j.src j.srs r.prog) j.rl r.raw with
    | .ok gs => (segMacros gs).foldl (fun s m => s.meetSpad t (spadKey t m 0) 2048) s
    | .error _ => s

/-- R181, R190, R228, R246: a row of the running copy command, or the part of it that can be done now, in its turn at the tile's
pipeline. -/
def execCopyRowEnd (t : Nat) (s : State) : Out :=
  match (s.tile t).cpe with
  | none => .fault .notEnabled
  | some r =>
    if r.wait = .next ∧ !s.runClosed t r then .next (s.setRun t .cpe (some { r with wait := .run }))
    else if r.wait ≠ .run ∨ !s.turn t (engRank .cpe) ∨ (r.slot.isSome ∧ (s.tile t).fillLate r.job.cbn s.now) then .fault .notEnabled
    else match ((s.meetRow t r).noteTurn t (engRank .cpe)).copyRow t r with
      | none => .fault .notEnabled
      | some s => .next s

def execCpy (d : Reg) (p : Ptr) (s : State) : Out := blockCmd .cpy d p s
def execCring (d : Reg) (p : Ptr) (s : State) : Out := blockCmd .cring d p s
def execCsend (d : Reg) (p : Ptr) (s : State) : Out := blockCmd .csend d p s
def execCred (d : Reg) (p : Ptr) (s : State) : Out := blockCmd .cred d p s
def execCbcast (d : Reg) (p : Ptr) (s : State) : Out := blockCmd .cbcast d p s

end Sys2Proof.Machine
end

