-- ==== Sys2Proof/Machine/Host.lean ====
section
/-! DEFINITION. MEM requests of the host (R344-R346), accesses from peer modules (R347), and the ports (R343). -/

namespace Sys2Proof.Machine

/-! ### Ports (R342, R343) -/

/-- R343: the ports in service for a peer module, ascending. -/
def State.peerPorts (s : State) (m : Nat) : List Nat :=
  (s.ports.zipIdx.filter (fun e => e.1.role == 2 && e.1.module == m && e.1.up)).map Prod.snd

/-- R343: the port of a tile's flits to a peer. -/
def State.peerPort (s : State) (m t : Nat) : Nat :=
  let l := s.peerPorts m
  l.getD (if l.isEmpty then 0 else t % l.length) 0

/-! ### One request (R345, R346) -/

/-- The words that `n` bytes at an address touch. -/
def touchedWords (a : Word) (n : Nat) : List Word :=
  (List.range ((a.toNat + n - 1) / 8 - a.toNat / 8 + 1)).map (fun i => BitVec.ofNat 64 ((a.toNat / 8 + i) * 8))

/-- How the home of a word stands to a request: mapped, held by an extent operation, or not mapped; the code of an object that no
launch has replicated has no home yet, and its image is written and read where the host loads it (R273, R345; log 90). -/
inductive Standing where
  | image
  | ready (h : Nat)
  | held (h : Nat)
  | absent
  deriving DecidableEq, Repr

/-- R304: whether a word is of a code object that no launch has replicated. -/
def State.isImage (s : State) (ctx : Nat) (a : Word) : Bool := match s.object ctx (objOf a) with
  | some o => o.place == 3 && !o.replicated
  | none => false

def State.standing (s : State) (ctx : Nat) (a : Word) : Standing :=
  if s.isImage ctx a then .image
  else match s.trueHome ctx a 0 with
  | none => .absent
  | some h => match s.resid h ctx a with
    | .code | .page _ => if (s.tile h).holds ctx a false then .held h else .ready h
    | .draining => .held h
    | .absent | .lost | .elsewhere => if (s.tile h).holds ctx a false then .held h else .absent

namespace MemStatus
def disabled := 1
def noObj := 2
def bounds := 3
def perm := 4
def notRes := 5
def fenced := 6
def ue := 7
end MemStatus

/-- R345: the status of a request of `n` bytes before any word is performed; 0 where every check passes. -/
def State.memCheck (s : State) (ctx : Nat) (a : Word) (n : Nat) (write : Bool) : Nat :=
  if !s.enabled || (s.ctxs.look ctx).isNone then MemStatus.disabled
  else match s.object ctx (objOf a) with
    | none => MemStatus.noObj
    | some o =>
      if offOf a + n > o.size then MemStatus.bounds
      else if o.peer || (write && !o.writable && !(o.isCode && !o.replicated)) then MemStatus.perm
      else
        let st := (touchedWords a n).map (s.standing ctx)
        if st.any (· == .absent) then MemStatus.notRes
        else if st.any (fun q => match q with | .ready h | .held h => (s.tile h).fenced | _ => false) then MemStatus.fenced
        else 0

/-- R344: the bytes of a read with the poison mask of the words touched. -/
def readBytes (a : Word) (n : Nat) (ws : List LWord) : List Byte :=
  ((ws.flatMap (fun w => wordBytes w.data)).drop (a.toNat % 8)).take n
def poisonMask (ws : List LWord) : List Byte :=
  (List.range ((ws.length + 7) / 8)).map (fun i =>
    BitVec.ofNat 8 ((List.range 8).foldl (fun v j => v + (if (ws.getD (8 * i + j) {}).poison then 2 ^ j else 0)) 0))

/-- R346: the bytes of `data`, that begin at `a`, within the word at `w`: their mask and the word that holds them. -/
def wordPart (a : Word) (data : List Byte) (w : Word) : BitVec 8 × Word :=
  let pos (j : Nat) : Option Byte := if w.toNat + j < a.toNat then none else data[w.toNat + j - a.toNat]?
  (BitVec.ofNat 8 ((List.range 8).foldl (fun v j => v + (if (pos j).isSome then 2 ^ j else 0)) 0),
   bytesWord ((List.range 8).map (fun j => (pos j).getD 0#8)))

/-- What a request does with each word it touches (R344, R346, R347). -/
inductive WordUse where
  | read
  | write (a : Word) (data : List Byte)
  | atom (a : Word) (op : Option AtomOp) (wide : Bool) (b c : Word)
  deriving DecidableEq, Repr

/-- R346, R347: one word of a request at its home `h`, in the word's home order; what a read or an atomic gives, with its poison. -/
def State.wordAt (s : State) (h ctx : Nat) (w : Word) : WordUse → State × LWord
  | .read => s.homeRead h ctx w
  | .write a data =>
    let (mask, v) := wordPart a data w
    (s.homeStore h ctx w mask v false (s.uoOf ctx w), {})
  | .atom a op wide b c =>
    let (s, old, bad) := s.homeAtomic h ctx a op wide b c (s.uoOf ctx a)
    (s, { data := old, poison := bad })

/-- R273, R345: one word of a code object that no launch has replicated, in its image. -/
def State.wordImage (s : State) (ctx : Nat) (w : Word) : WordUse → State × LWord
  | .read => (s, { data := s.mem.word (codeKey ctx (objOf w) (offOf w)) })
  | .write a data =>
    let (mask, v) := wordPart a data w
    (s.modMem (fun m => m.write (codeKey ctx (objOf w) (offOf w)) mask v), {})
  | .atom a op wide b c =>
    let key := codeKey ctx (objOf w) (offOf w)
    let (old, v, wr) := atomWord op wide a (s.mem.word key) b c
    (if wr then s.modMem (fun m => m.write key (byteMask (offOf a) (if wide then 8 else 4)) v) else s, { data := old })

/-- R345, R380: a word of a request decided: performed, left where an extent operation holds its granule or its home is in a dusk's
window, or not mapped. -/
def State.decideWord (s : State) (ctx : Nat) (u : WordUse) (j : HeldWords) (w : Word) : State × HeldWords :=
  let did (r : State × LWord) : State × HeldWords := (r.1, { j with got := j.got ++ [(w, r.2)] })
  match s.standing ctx w with
  | .image => did (s.wordImage ctx w u)
  | .ready h => if (s.tile h).closed then (s, { j with left := j.left ++ [w] }) else did (s.wordAt h ctx w u)
  | .held _ => (s, { j with left := j.left ++ [w] })
  | .absent => (s, { j with absent := true })

def State.decideWords (s : State) (ctx : Nat) (u : WordUse) (j : HeldWords) (ws : List Word) : State × HeldWords :=
  ws.foldl (fun q w => q.1.decideWord ctx u q.2 w) (s, j)

/-- What a request has read, in ascending order of its words. -/
def HeldWords.words (j : HeldWords) (ws : List Word) : List LWord :=
  ws.map (fun w => match j.got.find? (fun e => e.1 == w) with | some e => e.2 | none => {})

/-- R345: the first words of the granules in which words of a request wait. -/
def HeldWords.heads (j : HeldWords) : List Word :=
  j.left.filter (fun w => j.left.find? (fun v => granOf v == granOf w) == some w)

/-- R292, R345: a place for a request in the entry of each granule in `ws` whose extent operation holds it. -/
def State.holdWords (s : State) (ctx : Nat) (ws : List Word) (h : Word → HeldAcc) : State :=
  ws.foldl (fun s w => match s.standing ctx w with
    | .held u => s.holdAcc u ctx w (h w)
    | _ => s) s

/-! ### Host requests -/

/-- A MEM answer. -/
def State.memAnswer (s : State) (r : HostReq) (op st : Nat) (data : List Byte) : State :=
  s.toHost
    { port := r.port, cls := 2, op := op, ctx := r.ctx, tag := r.tag, addr := r.addr, len := r.len, status := BitVec.ofNat 64 st, data := data }

/-- What a MEM request does with its words. -/
def hostUse (r : HostReq) : WordUse := if r.data.isEmpty then .read else .write r.addr r.data
def hostWords (r : HostReq) : List Word := touchedWords r.addr (if r.data.isEmpty then r.len + 1 else r.data.length)

/-- R345: a request goes on with words `ws`: its answer leaves once every word has been decided; those that wait are held. -/
def State.hostGo (s : State) (r : HostReq) (j : HeldWords) (ws : List Word) : State :=
  let (s, j) := s.decideWords r.ctx (hostUse r) j ws
  let op := if r.data.isEmpty then 0 else 1
  if !j.left.isEmpty then
    { s.holdWords r.ctx (j.heads.filter ws.contains) (fun w => .host r w) with hostHeld := s.hostHeld ++ [(r, j)] }
  else if j.absent then s.memAnswer r op MemStatus.notRes []
  else if op = 1 then s.memAnswer r 1 0 []
  else
    let l := j.words (hostWords r)
    s.memAnswer r 0 (if l.any (·.poison) then MemStatus.ue else 0) (readBytes r.addr (r.len + 1) l ++ poisonMask l)

def State.hostStart (s : State) (r : HostReq) (op n : Nat) : State :=
  let st := s.memCheck r.ctx r.addr n (op == 1)
  if st ≠ 0 then s.memAnswer r op st [] else s.hostGo r { left := [] } (hostWords r)

def State.hostRead (s : State) (r : HostReq) : State := s.hostStart r 0 (r.len + 1)
def State.hostWrite (s : State) (r : HostReq) : State := s.hostStart r 1 r.data.length

/-- R344: a read carries no payload; a write carries len + 1 bytes. -/
def execMemRead (r : HostReq) (s : State) : Out :=
  hostMsg s r (onEvent s (s.hostUp r && r.data.isEmpty && r.len < 4096) (s.hostRead r))
def execMemWrite (r : HostReq) (s : State) : Out :=
  hostMsg s r (onEvent s (s.hostUp r && r.data.length == r.len + 1 && r.len < 4096) (s.hostWrite r))

/-! ### Peer modules (R347) -/

/-- The answer to a peer, which leaves through a port of its role: a status of R345 and the bytes read or the old value. -/
def State.peerAnswer (s : State) (q : PeerReq) (st : Nat) (data : List Byte) : State :=
  let t := (s.trueHome q.ctx q.addr 0).getD 0
  s.toHost { port := s.peerPort q.m t, cls := 0, op := q.m, ctx := q.ctx, tag := q.tag, addr := q.addr, status := BitVec.ofNat 64 st,
             data := data }

def PeerOp.bytes : PeerOp → Nat
  | .read n => n
  | .write l => l.length
  | .atom _ wide _ | .cas wide _ _ => if wide then 8 else 4

def PeerOp.writes : PeerOp → Bool
  | .read _ => false
  | _ => true

/-- What an access of a peer does with its words. -/
def peerUse (q : PeerReq) : WordUse :=
  match q.op with
  | .read _ => .read
  | .write l => .write q.addr l
  | .atom op wide b => .atom q.addr (some op) wide b 0#64
  | .cas wide c new => .atom q.addr none wide new c

/-- R345, R347: an access of a peer goes on with words `ws`, as a MEM request does. -/
def State.peerGo (s : State) (q : PeerReq) (j : HeldWords) (ws : List Word) : State :=
  let n := PeerOp.bytes q.op
  let (s, j) := s.decideWords q.ctx (peerUse q) j ws
  let l := j.words (touchedWords q.addr n)
  if !j.left.isEmpty then
    { s.holdWords q.ctx (j.heads.filter ws.contains) (fun w => .peer q w) with peerHeld := s.peerHeld ++ [(q, j)] }
  else if j.absent then s.peerAnswer q MemStatus.notRes []
  else match q.op with
    | .read n => s.peerAnswer q 0 (readBytes q.addr n l ++ poisonMask l)
    | .write _ => s.peerAnswer q 0 []
    | _ =>
      let w := l.headD {}
      s.peerAnswer q (if w.poison then MemStatus.ue else 0) (if w.poison then [] else (wordBytes w.data).take n)

def State.peerTakes (s : State) (q : PeerReq) : State :=
  let n := PeerOp.bytes q.op
  let st := s.memCheck q.ctx q.addr n (PeerOp.writes q.op)
  if st ≠ 0 then s.peerAnswer q st [] else s.peerGo q { left := [] } (touchedWords q.addr n)

def execPeerAccess (q : PeerReq) (s : State) : Out :=
  onEvent s (!(s.peerPorts q.m).isEmpty && !s.lostPeers.contains q.m && PeerOp.bytes q.op > 0) (s.peerTakes q)

/-- R345: the words of a granule that a request holds are decided afresh; a request whose port has left service meanwhile is gone. -/
def State.releaseHost (s : State) (r : HostReq) (w : Word) : State :=
  match s.hostHeld.find? (fun e => e.1 == r) with
  | none => s
  | some e =>
    let mine (v : Word) : Bool := granOf v == granOf w
    ({ s with hostHeld := s.hostHeld.erase e } : State).hostGo r { e.2 with left := e.2.left.filter (!mine ·) } (e.2.left.filter mine)

def State.releasePeer (s : State) (q : PeerReq) (w : Word) : State :=
  match s.peerHeld.find? (fun e => e.1 == q) with
  | none => s
  | some e =>
    let mine (v : Word) : Bool := granOf v == granOf w
    ({ s with peerHeld := s.peerHeld.erase e } : State).peerGo q { e.2 with left := e.2.left.filter (!mine ·) } (e.2.left.filter mine)

/-- Whether a held access has its place in an entry of a tile, or waits there for one. -/
def State.hasPlace (s : State) (h : HeldAcc) : Bool :=
  s.tiles.any (fun e => e.2.pendings.any (fun p => p.held.contains h) || e.2.overflow.contains h)

/-- R380: once a dusk's window has closed, the words that waited for it alone go on. -/
def State.windowWords (s : State) : State :=
  let s := s.hostHeld.foldl (fun s e => (e.2.heads.filter (fun w => !s.hasPlace (.host e.1 w))).foldl (fun s w => s.releaseHost e.1 w) s) s
  s.peerHeld.foldl (fun s e => (e.2.heads.filter (fun w => !s.hasPlace (.peer e.1 w))).foldl (fun s w => s.releasePeer e.1 w) s) s

end Sys2Proof.Machine
end

