-- ==== Sys2Proof/Machine/Fence.lean ====
section
/-! DEFINITION. Fences and `trkw` (R126, R223). An acquire fence waits for nothing: every earlier load-type access is performed
before its thread issues again (R221). -/

namespace Sys2Proof.Machine

def State.finishSlot (s : State) (t k : Nat) : State := s.modSlot t k Slot.finish

def execFenceAcq (_c : Scope) (s : State) : Out := onIssue s (fun t k _ s => s.finishSlot t k)
def execFenceRel (c : Scope) (s : State) : Out :=
  onIssue s (fun t k _ s => s.release t k c false (fun s => s.finishSlot t k))
def execFenceAr (c : Scope) (s : State) : Out :=
  onIssue s (fun t k _ s => s.release t k c false (fun s => s.finishSlot t k))
def execFenceAll (c : Scope) (s : State) : Out :=
  onIssue s (fun t k _ s => s.release t k c true (fun s => s.finishSlot t k))
def execTrkw (s : State) : Out := onIssue s (fun t k _ s => s.drain t k (fun s => s.finishSlot t k))

end Sys2Proof.Machine
end

