-- ==== Sys2Proof/Machine/Threads.lean ====
section
/-! DEFINITION. Thread and synchronisation instructions (R128-R142): `spawn` with its placement (R130-R133, R212), the end of
threads, waits at words, `hop`, pinning, `yield`, `hbeat` and `bar`. -/

namespace Sys2Proof.Machine

/-- R129: the service thread raises ILLEGAL. -/
def State.notService (s : State) (t k : Nat) (i : Instr) (go : State → State) : State :=
  if s.atService t k then s.raise t k FaultCode.illegal 0#64 ((wordOf i).zeroExtend 64) else go s

/-! ### `spawn` (R130-R133) -/

/-- R133: the child runs in the caller's slot, the caller pushed to a frame: the `spawn` has completed (R359), and a stop of the caller
or its single step ends with its leaving the slot (R201, R354). -/
def State.runInline (s : State) (t k : Nat) (d : Reg) (pc : Word) (m : Bool) : State :=
  let sl := s.slot t k
  let (tid, s) := s.newTid t
  let child := childOf sl.th pc m (s.debuggable sl.th.ctx)
  let child := ({ child with tid := tid } : Thread).setSt 12 10 (sl.th.inline + 1)
  let caller := { sl.th.setReg d (tid.zeroExtend 64) with pc := sl.ipc + 4#64 }
  let full := s.fullBudget sl.th.kin
  let s := (s.emit t k 4 (tid.zeroExtend 64)).stepLeft t k
  s.modTile t (fun x => ({ x with frames := x.frames ++ [{ th := caller, child := tid, depth := sl.th.inline + 1 }] } : Tile).modSlot k
    (fun sl => ({ sl with th := child, state := .ready, budget := full, prev := none, window := 0, stopReq := false } : Slot).goto pc))

/-- R132, R133: no place was found: inline, or a wait of 256 cycles, in which a pending stop or quiesce takes the `spawn`
(R144). -/
def State.spawnFails (s : State) (t k : Nat) (d : Reg) (target pc : Word) (m : Bool) : State :=
  let sl := s.slot t k
  if sl.th.inline < 4 && ((s.tile t).frames.filter (fun f => f.th.ctx == sl.th.ctx)).length < 1024 then
    s.runInline t k d pc m
  else (s.modSlot t k (fun sl => { sl with state := .wait (.spawn s.now), retry := true, pend := .spawn d target pc m,
                                           tried := [], level := 0, resent := false })).stopWait t k

/-- R212: the logical distance of two tiles. -/
def tileDist (a b : Nat) : Nat :=
  let d (p q : Nat) : Nat := max p q - min p q
  d (a % 96) (b % 96) + d (a / 96) (b / 96)

def fieldDist (f g : Nat) : Nat :=
  let (ax, ay) := fieldXY f
  let (bx, by') := fieldXY g
  (max ax bx - min ax bx) + (max ay by' - min ay by')

/-- R212: the free slots of a tile by its field controller's map; a tile that has reported nothing since dawn is empty. -/
def State.mapSlots (s : State) (f u : Nat) : Nat :=
  (s.field f).freeMap.lookD u (if s.isService u then 15 else 16)

/-- R212: the free slots of a field as the root last refreshed them; at dawn they are all free (log 4). -/
def State.fieldCount (s : State) (f : Nat) : Nat := s.freeCounts.lookD f 1023

/-- R212 level 2: the next tile that a field's controller picks for a spawn of tile `t`: at most three candidates, in which
the partners asked at level 1 do not count. Ties go to the lower y and then the lower x. -/
def State.fieldPick (s : State) (t f : Nat) (tried : List Nat) : Option Nat :=
  if (tried.filter (fun u => u < 8192 && s.fieldOf u == f && u != t && !([1, 2, 3].any (fun c => partner t c == u)))).length ≥ 3
  then none
  else
    leastBy (fun u => tileDist t u * 8192 + u) ((s.fieldTiles f).filter (fun u => s.mapSlots f u > 0 && !tried.contains u))

/-- Marks a field in the list of places tried. -/
def fieldMark (f : Nat) : Nat := 8192 + f

/-- R212 level 3: the next field the root picks: at most four. -/
def State.rootPick (s : State) (t : Nat) (tried : List Nat) : Option Nat :=
  let g := s.fieldOf t
  if (tried.filter (fun u => u ≥ 8192)).length ≥ 4 then none
  else leastBy (fieldDist g) ((List.range 128).filter (fun f => s.fieldCount f > 0 && f != g && !tried.contains (fieldMark f)))

/-- The field that a placement at level 3 is trying: the last one marked. -/
def currentField (tried : List Nat) : Option Nat := (tried.reverse.find? (fun u => u ≥ 8192)).map (fun u => u - 8192)

/-- R204, R212: the child's flit is formed at MB and waits for the router. -/
def State.sendChild (s : State) (t k dst gen : Nat) : State :=
  s.modSlot t k (fun sl => { sl with state := .wait (.childFlit (s.formed sl) dst gen), retry := true })

/-- R212: the placement of a child goes on from the level and tiles already tried. `fuel` bounds the fields passed over. -/
def State.placeNext (s : State) (t k : Nat) (d : Reg) (target pc : Word) (m : Bool) : Nat → State
  | 0 => s.spawnFails t k d target pc m
  | fuel + 1 =>
    let sl := s.slot t k
    let top := bits target 15 8
    if sl.level = 0 then
      let s := s.serveSpawners t 16
      match s.openSlot t, s.canSeat t sl.th.kin with
      | some j, true => s.spawnIn t k j d pc m
      | _, _ => (s.modSlot t k (fun sl => { sl with tried := [t], level := 1 })).placeNext t k d target pc m fuel
    else if sl.level > top then s.spawnFails t k d target pc m
    else if sl.level = 1 then
      match [1, 2, 3].find? (fun c => s.isTile (partner t c) && !sl.tried.contains (partner t c)) with
      | some c =>
        let u := partner t c
        (s.modSlot t k (fun sl => { sl with state := .wait .reply, tried := sl.tried ++ [u] })).send
          { vc := 0, src := t, dst := u, gen := s.gen, slot := k, body := .placeReq (s.childFlit t k pc m true).th }
      | none => (s.modSlot t k (fun sl => { sl with level := 2 })).placeNext t k d target pc m fuel
    else if sl.level = 2 then
      match s.fieldPick t (s.fieldOf t) sl.tried with
      | some u => (s.modSlot t k (fun sl => { sl with tried := sl.tried ++ [u] })).sendChild t k u s.gen
      | none => (s.modSlot t k (fun sl => { sl with level := 3 })).placeNext t k d target pc m fuel
    else
      match (currentField sl.tried).bind (fun f => s.fieldPick t f sl.tried) with
      | some u => (s.modSlot t k (fun sl => { sl with tried := sl.tried ++ [u] })).sendChild t k u s.gen
      | none => match s.rootPick t sl.tried with
        | some f => (s.modSlot t k (fun sl => { sl with tried := sl.tried ++ [fieldMark f] })).placeNext t k d target pc m fuel
        | none => s.spawnFails t k d target pc m

/-- R132: looking for a place, from the start. -/
def State.spawnPlace (s : State) (t k : Nat) (d : Reg) (target pc : Word) (m : Bool) : State :=
  let s := s.modSlot t k (fun sl =>
    { sl with state := .ready, pend := .spawn d target pc m, retry := true, tried := [], level := 0 })
  if isPlacement target then s.placeNext t k d target pc m 24
  else
    let u := nameTile (target.extractLsb' 0 24)
    if u = t then
      match s.arrive t (s.childFlit t k pc m false) with
      | .took s => s.spawned t k d (s.lastTid t)
      | _ => s.spawnFails t k d target pc m
    else s.sendChild t k u (bits target 23 16)

/-- R130: the checks of a tile name or placement request. -/
def State.spawnCheck (s : State) (th : Thread) (target : Word) (m : Bool) : Option Nat :=
  if isPlacement target then
    if bits target 15 8 > 3 then some FaultCode.bounds
    else if bits target 15 8 = 3 && !(m || th.migratable) then some FaultCode.perm else none
  else if s.nameOk (target.extractLsb' 0 24) then none else some FaultCode.bounds

/-- R97, R130: the checks of a jump target. -/
def State.pcCheck (s : State) (ctx : Nat) (a : Word) : Option Nat :=
  if a &&& 3#64 ≠ 0#64 then some FaultCode.align
  else match s.object ctx (objOf a) with
    | none => some FaultCode.noObj
    | some o => if !o.isCode then some FaultCode.perm else if offOf a ≥ o.size then some FaultCode.bounds else none

/-- `spawn` and `spawn.m`. -/
def spawn (s : State) (i : Instr) (d a b : Reg) (m : Bool) : Out :=
  onIssue s (fun t k sl s => s.notService t k i (fun s =>
    let target := sl.th.reg a
    let pc := sl.th.reg b
    match s.spawnCheck sl.th target m with
    | some code => s.raise t k code target 0#64
    | none => match s.pcCheck sl.th.ctx pc with
      | some code => s.raise t k code pc 0#64
      | none => s.drain t k (fun s => s.spawnPlace t k d target pc m)))

def execSpawn (d a b : Reg) (s : State) : Out := spawn s (.spawn d a b) d a b false
def execSpawnM (d a b : Reg) (s : State) : Out := spawn s (.spawnM d a b) d a b true

/-! ### Ends (R133-R135) -/

/-- R133: the caller is reloaded from its frame into the slot of its child. DESIGN CHOICE (log 26): the inline child and the
reloaded caller hold no previous tile and a window of 0 for the pinning rule. -/
def State.reload (s : State) (t k : Nat) (f : Frame) : State :=
  let full := s.fullBudget f.th.kin
  (s.stepLeft t k).modTile t (fun x => ({ x with frames := x.frames.filter (fun g => g.child != f.child) } : Tile).modSlot k (fun sl =>
    ({ sl with th := f.th, state := .ready, budget := full, prev := none, window := 0, stopReq := false } : Slot).goto f.th.pc))

/-- R133, R134: the thread ends after its release: the caller of an inline child resumes, or ends as killed where its frame is lost
(R385), else the slot becomes FREE. -/
def State.endThread (s : State) (t k : Nat) : State :=
  let th := (s.slot t k).th
  if th.inline = 0 then
    ((s.releaseHandles t th 0).fall th.kin).vacate t k
  else
    let b := birthTile th.tid
    if b = t then
      let s := s.releaseHandles t th 0
      match (s.tile t).frames.find? (fun f => f.child == th.tid) with
      | some f =>
        if f.th.foul then
          ((s.modTile t (fun x => { x with frames := x.frames.filter (fun g => g.child != f.child) })).killContext t f.th).vacate t k
        else s.reload t k f
      | none => s.vacate t k
    else s.modSlot t k (fun sl => { sl with state := .wait (.resumeFlit (s.formed sl) b s.gen), retry := true, released := true })

def execExit (s : State) : Out :=
  onIssue s (fun t k sl s => s.notService t k .exit (fun s =>
    let s := if sl.retry then s else s.emit t k 5 0#64
    if sl.released then s.endThread t k else s.drain t k (fun s => s.endThread t k)))

/-- R135: the decrement at the home, as one step of its order; `none` on a poisoned word. -/
def State.decrement (s : State) (t ctx : Nat) (a : Word) (uo : Bool) : Option State :=
  let s := s.slicePrep t ctx a uo
  let w := s.sliceWord t ctx a
  if w.poison then none
  else
    let s := s.sliceMod t ctx a (fun w => w.write 0xFF#8 (w.data - 1#64))
    some (s.wake t (objWordKey ctx a) (w.data - 1#64))

def execExitJ (a : Ptr) (s : State) : Out :=
  onIssue s (fun t k sl s => s.notService t k (.exitJ a) (fun s =>
    let w := sl.th.regs.get a
    let ctx := sl.th.ctx
    let s := if sl.retry then s else s.emit t k 5 w
    if sl.released then s.endThread t k
    else s.access t k w 8 true false
      (fun o s => s.drain t k (fun s => s.atHome t k ctx w (fun s =>
        match s.decrement t ctx w o.isUO with
        | some s => s.endThread t k
        | none => s.poisoned t k w)))
      (fun _ t' g s => s.drain t k (fun s =>
        (s.modSlot t k (fun sl => { sl with state := .wait .reply, pend := .exitJ })).send
          { vc := 2, src := t, dst := t', gen := g, slot := k, body := .exitJ ctx w }))
      (fun _ s => s)))

/-! ### `yield`, `hop`, pinning, `hbeat` -/

/-- R140: the context of a yielding thread. -/
def Slot.yielded (sl : Slot) : Flit :=
  { kind := 6, th := { sl.th with pc := sl.ipc + 4#64 }, frm := sl.prev.getD 0xFFFFFF#24, window := sl.window }

/-- R140: the slot goes to the head of the context's queue where that head could take it (R206, R210). DESIGN CHOICE (log 89):
with the queue and the ring both full `yield` does nothing, and the rotation of the queues stays as it is. -/
def execYield (s : State) : Out :=
  onIssue s (fun t k sl s =>
    let ctx := sl.th.ctx
    if s.atService t k then s.finishSlot t k
    else match (s.tile t).queues.look ctx with
      | some q => match q.q with
        | f :: rest =>
          let full := q.q.length ≥ q.depth
          if s.queueTakes t ctx && !(full && (s.tile t).ring.length ≥ 65536) then
            let s := s.modTile t (fun x =>
              if full then { x with queues := x.queues.put ctx { q with q := rest }, ring := x.ring ++ [sl.yielded] }
              else { x with queues := x.queues.put ctx { q with q := rest ++ [sl.yielded] } })
            (((s.stepLeft t k).modSlot t k Slot.vacant).seat t k f).barrier t sl.team
          else s.finishSlot t k
        | [] => s.finishSlot t k
      | none => s.finishSlot t k)

def execHop (a : Reg) (s : State) : Out :=
  onIssue s (fun t k sl s => s.notService t k (.hop a) (fun s =>
    let v := sl.th.reg a
    let n := v.extractLsb' 0 24
    if nameGen n = 0xFF || !s.nameOk n then s.raise t k FaultCode.bounds v 0#64
    else if nameTile n = t then s.finishSlot t k
    else s.drain t k (fun s => s.depart t k 1 (nameTile n) (if sl.resent then s.gen else nameGen n))))

def execPin (s : State) : Out :=
  onIssue s (fun t k _ s => s.notService t k .pin (fun s =>
    s.modSlot t k (fun sl => { sl with th := sl.th.setPinned true 64 }.finish)))

def execUnpin (s : State) : Out :=
  onIssue s (fun t k _ s => s.notService t k .unpin (fun s =>
    s.modSlot t k (fun sl => { sl with th := (sl.th.setPinned false 0).setBounce 0, window := 0 }.finish)))

def execHbeat (s : State) : Out :=
  onIssue s (fun t k sl s =>
    if s.atService t k then s.finishSlot t k
    else s.modSlot t k (fun sl' => { sl' with budget := s.fullBudget sl.th.kin }.finish))

/-! ### Waits at a word (R136) -/

/-- The test at the home and the installation of the waiter, in one step. -/
def State.waitWord (s : State) (t k : Nat) (o : Object) (a b : Word) (form : WForm) : State :=
  let ctx := s.memCtx t k
  s.atHome t k ctx a (fun s =>
    let s := s.slicePrep t ctx a o.isUO
    let w := s.sliceWord t ctx a
    if w.poison then s.poisoned t k a
    else if form.holds w.data b then s.modSlot t k Slot.finishReady
    else s.park t k (objWordKey ctx a) ctx a form b)

def waitAt (s : State) (i : Instr) (a : Ptr) (b : Reg) (form : WForm) : Out :=
  onIssue s (fun t k sl s => s.notService t k i (fun s =>
    let w := sl.th.regs.get a
    s.access t k w 8 false false
      (fun o s => s.waitWord t k o w (sl.th.reg b) form)
      (fun _ t' g s => s.drain t k (fun s => s.depart t k 2 t' g))
      (fun _ s => s)))

def execJoin (a : Ptr) (b : Reg) (s : State) : Out := waitAt s (.join a b) a b .join
def execWaitwEq (a : Ptr) (b : Reg) (s : State) : Out := waitAt s (.waitwEq a b) a b .waitEq
def execWaitwNe (a : Ptr) (b : Reg) (s : State) : Out := waitAt s (.waitwNe a b) a b .waitNe
def execWaitwGe (a : Ptr) (b : Reg) (s : State) : Out := waitAt s (.waitwGe a b) a b .waitGe

/-! ### Barrier (R142) -/

def execBar (s : State) : Out :=
  onIssue s (fun t k sl s => s.notService t k .bar (fun s =>
    (s.modSlot t k (fun sl => sl.waitFor .barrier)).barrier t sl.team))

end Sys2Proof.Machine
end

