-- ==== Sys2Proof/Machine/Reply.lean ====
section
/-! DEFINITION. Answers to blocked threads (R197, R198), kills (R197, R312, R340) and the stopping of single threads
(R127, R144, R161, R201). -/

namespace Sys2Proof.Machine

/-! ### Killing an instance (R197 kind 5) -/

/-- Every slot of the wafer that holds state. -/
def State.slotIds (s : State) : List (Nat × Nat) := s.tiles.keys.flatMap (fun t => (List.range 16).map (fun k => (t, k)))

/-- Whether a slot holds a thread of an instance. -/
def State.holds (s : State) (kin t k : Nat) : Bool :=
  (s.slot t k).state != .free && !s.atService t k && (s.slot t k).th.kin == kin

/-- R196, R266: whether a slot's content, in slot `j`, is blocked on the fault that a handle's slot and sequence number name. -/
def Slot.answers (sl : Slot) (j k : Nat) (seq : BitVec 8) : Bool :=
  sl.fault.isSome && sl.joined.isNone && sl.kept.isNone && sl.fseq == seq && sl.msgSlot.getD j == k

/-- The slot of a tile that holds the thread blocked on a named fault: the slot itself, or one in which a restore put it. -/
def Tile.faultSlot (x : Tile) (k : Nat) (seq : BitVec 8) : Option Nat :=
  (k :: List.range 16).find? (fun j => (x.slot j).state == .blocked && (x.slot j).answers j k seq)

/-- The unanswered blocked record of a save area that a handle's slot and sequence number name. -/
def Tile.savedFault (x : Tile) (k : Nat) (seq : BitVec 8) : Option SavedSlot :=
  (x.saves.flatMap (fun e => e.2.slots)).find? (fun r => r.state == 4 && r.slot.answers r.k k seq && r.reply.isNone)

/-- The instance of the thread whose fault a message reports, in a slot or in a save area. -/
def State.msgKin (s : State) (m : Msg) : Option Nat :=
  let x := s.tile (nameTile m.tile)
  match x.faultSlot m.slot m.seq with
  | some j => some (x.slot j).th.kin
  | none => (x.savedFault m.slot m.seq).map (fun r => r.slot.th.kin)

/-- R326, R340: a save area discarded: its threads and arrivals end as killed, also those that a team held at seam has counted,
and its commands give up their pins. -/
def State.killSave (s : State) (t a : Nat) (v : Save) : State :=
  let held (w : Waiter) : Bool := w.quiesced && v.slots.any (fun r => (r.state == 1 || r.state == 3) && r.widx == w.seq.toNat)
  let s := s.modTile t (fun x => { x with waiters := x.waiters.filter (fun w => !held w), spilled := x.spilled.filter (fun w => !held w) })
  let s := v.slots.foldl (fun s r => if r.state = 2 then s else s.killContext t r.slot.th) s
  let s := v.log.foldl (fun s f => s.killContext t f.th) s
  let s := if v.images && v.team.seam.isSome then
      (List.range (match s.insts.look v.team.kin with | some i => i.rec_.thr | none => 0)).foldl (fun s _ => s.fall v.team.kin) s
    else s
  let s := match v.team.runN with
    | none => s
    | some r =>
      let free (e : Extent) : Extent :=
        if r.pins.any (fun p => p.1 == e.ctx && p.2.1 == e.obj && p.2.2 == e.gran) then { e with npin := e.npin - 1 } else e
      s.modTile t (fun x => { x with extents := Map.mapVals free x.extents })
  let s := s.modTile t (fun x => { x with saves := x.saves.del a, recvs := x.recvs.filter (fun r => r.kin != v.team.kin || !v.images),
                                          victims := if v.images then x.victims else x.victims.filter (· != v.pos) })
  if v.images then s.modInst v.team.kin (fun i => { i with teams := i.teams - 1 })
  else s.modTeam t v.pos (fun tm => { tm with closed := false })

/-- Threads of an instance that wait outside a slot on a tile. -/
def State.killWaiting (s : State) (kin t : Nat) : State :=
  let x := s.tile t
  let gone (w : Waiter) : Bool := w.slot.isNone && (match w.th with | some th => th.kin == kin | none => false)
  let ths := ((x.waiters ++ x.spilled).filter gone).filterMap (·.th) ++
    (x.queues.flatMap (fun e => e.2.q) ++ x.ring).filterMap (fun f => if f.th.kin = kin then some f.th else none)
  let s := ths.foldl (fun s th => s.killContext t th) s
  let s := s.modTile t (fun x =>
    { x with waiters := x.waiters.filter (fun w => !gone w)
             spilled := x.spilled.filter (fun w => !gone w)
             queues := Map.mapVals (fun (q : AQueue) => { q with q := q.q.filter (fun f => f.th.kin != kin) }) x.queues
             ring := x.ring.filter (fun f => f.th.kin != kin)
             orders := x.orders.filter (fun o => o.kin != kin) }.tidyQueues)
  ((s.tile t).saves.filter (fun e => e.2.team.kin == kin)).foldl (fun s e => s.killSave t e.1 e.2) s

/-- R326: teams held at seam for a killed successor are discarded; their threads, counted at step 3, end. -/
def State.killSeams (s : State) (kin t : Nat) : State :=
  ((s.tile t).teams.filter (fun e => e.2.kin == kin && e.2.seam.isSome)).foldl (fun s e =>
    let n := match s.insts.look kin with | some i => i.rec_.thr | none => 0
    (List.range n).foldl (fun s _ => s.fall kin) (s.modTeam t e.1 (fun tm => { tm with seam := none }))) s

/-- R197 kind 5, R259: every thread of the instance is killed, and its held messages are removed. -/
def State.killKernel (s : State) (kin : Nat) : State :=
  let s : State := { s with fields := Map.mapVals (fun (f : Field) =>
    { f with fbuf := f.fbuf.filter (fun m => s.msgKin m != some kin), launches := f.launches.filter (· != kin) }) s.fields }
  let s := s.modInst kin (fun i => { i with killed := true })
  let s := (s.slotIds.filter (fun u => s.holds kin u.1 u.2)).foldl (fun s u => s.killThread u.1 u.2) s
  s.tiles.keys.foldl (fun s t => (s.killWaiting kin t).killSeams kin t) s

/-! ### Answering one blocked thread (R197) -/

/-- R62, R197: the word after the instruction at `pc` and the words of major 0x3F before it, well formed or not; a code object
holds fewer than `n` of them. -/
def State.afterRun (s : State) (t ctx : Nat) (pc : Word) : Nat → Word
  | 0 => pc + 4#64
  | n + 1 => match s.fetch t ctx pc with
    | .error _ => pc + 4#64
    | .ok w => if w.extractLsb' 26 6 = 0x3F#6 then s.afterRun t ctx (pc + 4#64) n else pc + 4#64

/-- The words of the object that a `pc` names. -/
def State.codeWords (s : State) (ctx : Nat) (pc : Word) : Nat :=
  match s.object ctx (objOf pc) with | some o => o.size / 4 + 1 | none => 0

/-- R107: the reply clears the mark of the tracker whose error was raised. -/
def State.clearMark (s : State) (t k : Nat) (f : FaultRec) : State :=
  match f.track with
  | none => s
  | some (h, i) =>
    let fix (th : Thread) : Thread :=
      let a (b : Bool) : Bool := handleValid (th.handle b) && handleTile (th.handle b) == h && handleIdx (th.handle b) == i
      { th with errA := th.errA && !a false, errB := th.errB && !a true }
    let s := s.modSlot t k (fun sl => { sl with th := fix sl.th })
    if h = t then s.modTile t (fun x => x.modTracker i (fun tr => { tr with err := none }))
    else s.send { vc := 0, src := t, dst := h, gen := s.gen, body := .trackRelease i false 0 }

/-- R168: "retry" and "skip" clear the error record that an ENGFAULT reported. -/
def State.clearEngErr (s : State) (t k : Nat) : State :=
  let sl := s.slot t k
  match s.fetch t sl.th.ctx sl.th.pc with
  | .error _ => s
  | .ok w => match decode w with
    | .ok (.tlwait _ e) => s.modQ t sl.team e (fun q => { q with err := none })
    | _ => s

/-- R197 kind 3: `st` with the fields a status reply replaces. -/
def statusReply (st acc : Word) : Word :=
  let mask : Word := 0x0000000005FFE3FF#64
  let v := (st &&& ~~~mask) ||| (acc &&& mask)
  let v := if bits v 23 17 > 64 then setBits v 23 17 64 else v
  if st.getLsbD 25 then v else v &&& ~~~0x0000000004000000#64

/-- The slot after a reply that lets its thread go on: READY with a full budget (R141). -/
def Slot.answered (sl : Slot) (full : Nat) (pass : Bool) : Slot :=
  { sl with state := .ready, fault := none, dropped := false, joined := none, msgSlot := none, budget := full,
            retry := sl.released, brkSkip := pass }

/-- The effect of a reply word of a kind and register on the thread blocked in slot `k` (R197). Of an `exit` that is released only
the departure of the resume flit is repeated (R204). -/
def State.answerSlot (s : State) (t k kind : Nat) (reg : Reg) (acc : Word) : State :=
  match (s.slot t k).fault with
  | none => s
  | some f =>
    let sl := s.slot t k
    if kind = 4 then s.killThread t k
    else if kind = 5 then s.killKernel sl.th.kin
    else
      let full := s.fullBudget sl.th.kin
      let next := s.afterRun t sl.th.ctx sl.th.pc (s.codeWords sl.th.ctx sl.th.pc)
      let s := s.clearMark t k f
      let s := if f.code = FaultCode.engFault ∧ kind ≤ 1 then s.clearEngErr t k else s
      let pass := f.code = FaultCode.brk ∧ bits f.extra 13 10 = 5
      s.modSlot t k (fun sl =>
        let th := if kind = 2 then sl.th.setReg reg acc
          else if kind = 3 then { sl.th with st := statusReply sl.th.st acc } else sl.th
        if kind = 0 || kind = 3 || sl.released then { sl with th := th }.answered full pass
        else ({ sl with th := th.setVprog 0 }.answered full false).goto next)

/-- R266, R339: a reply to the thread blocked in slot `k`; while its team is being quiesced it is kept until the restore. -/
def State.giveReply (s : State) (t k : Nat) (w acc : Word) (reg : Reg) : State :=
  if s.teamClosed t k then s.modSlot t k (fun sl => { sl with kept := some (w, acc) })
  else s.answerSlot t k (bits w 3 0) reg acc

/-- R385: a thread whose context was lost takes only the kills. -/
def FaultRec.lostContext (f : FaultRec) : Bool := f.code == FaultCode.ue && f.extra == 3#64

/-- R339: a reply kept for a blocked thread of a save area. -/
def State.storeReply (s : State) (t k : Nat) (seq : BitVec 8) (w acc : Word) : State :=
  s.modTile t (fun x => { x with saves := Map.mapVals (fun (v : Save) =>
    { v with slots := v.slots.map (fun (r : SavedSlot) =>
      if r.state = 4 ∧ r.slot.answers r.k k seq ∧ r.reply.isNone then { r with reply := some (w, acc) } else r) }) x.saves })

/-! ### The service thread's status words (R194) -/

def statusBits (n lo : Nat) : Word := BitVec.ofNat 64 (n * 2 ^ 56 + lo)

/-- R196: the parts of a handle. -/
def handleSlot (h : Word) : Nat := bits h 31 28
def handleSeq (h : Word) : BitVec 8 := h.extractLsb' 32 8
def handleTarget (h : Word) : Nat := nameTile (h.extractLsb' 0 24)

/-- R266, R381: whether a handle's name dates from before the last dusk of its tile. -/
def State.handleOld (s : State) (h : Word) : Bool :=
  let n : BitVec 24 := h.extractLsb' 0 24
  match (s.tile (nameTile n)).duskGen with
  | none => false
  | some g => (s.gen + 255 - nameGen n % 255) % 255 > (s.gen + 255 - g) % 255

def State.handleOk (s : State) (h : Word) : Bool := s.nameOk (h.extractLsb' 0 24) && !s.handleOld h

/-- R197: the reserved bits of a reply word. -/
def replyBad (w : Word) : Bool := bits w 63 16 ≠ 0 || bits w 11 4 ≠ 0 || bits w 3 0 > 5

/-- R197: `reply`: status and effect. DESIGN CHOICE (log 124): a handle word of kind 1 names a fault whatever its bits 59:40 and 27:24
hold, which R196 calls zero. -/
def State.reply (s : State) (h w acc : Word) : State × Nat :=
  let t := handleTarget h
  let k := handleSlot h
  let kind := bits w 3 0
  if bits h 63 60 ≠ 1 || !s.handleOk h then (s, Status.gone)
  else
    let bad (f : Option FaultRec) : Bool := replyBad w || (kind = 2 && bits w 15 12 > 8) ||
      (kind < 4 && (match f with | some f => f.lostContext | none => false))
    match (s.tile t).faultSlot k (handleSeq h) with
    | some j =>
      if bad (s.slot t j).fault then (s, Status.badArg)
      else (s.giveReply t j w acc (regOfCode (bits w 15 12)), Status.done)
    | none => match (s.tile t).savedFault k (handleSeq h) with
      | none => (s, Status.gone)
      | some r => if bad r.slot.fault then (s, Status.badArg) else (s.storeReply t k (handleSeq h) w acc, Status.done)

/-! ### `replaya` (R198) -/

/-- Whether a fault lies in a granule of a context. -/
def FaultRec.within (f : FaultRec) (a : Word) : Bool := objOf f.addr == objOf a && granOf f.addr == granOf a

/-- The pending entry of a granule at its home. -/
def State.entryOf (s : State) (ctx : Nat) (a : Word) : Option Pending :=
  (s.trueHome ctx a 0).bind (fun h => (s.tile h).pendingOf ctx a)

/-- Whether `replaya` of a granule answers the thread blocked in slot `k` of tile `u`, or saved from it: one of the field, or one
on the granule's pending entry. -/
def State.granuleHit (s : State) (fld ctx : Nat) (a : Word) (kind u k : Nat) (sl : Slot) : Bool :=
  match sl.fault with
  | none => false
  | some f => (kind ≥ 4 || !f.lostContext) && sl.th.ctx == ctx &&
      ((s.fieldOf u == fld && f.within a) || (match s.entryOf ctx a with | some e => e.blocks sl | none => false))

/-- The blocked slots that `replaya` of a granule answers. -/
def State.granuleSlots (s : State) (fld ctx : Nat) (a : Word) (kind : Nat) : List (Nat × Nat) :=
  s.slotIds.filter (fun u =>
    let sl := s.slot u.1 u.2
    sl.state == .blocked && sl.kept.isNone && !s.atService u.1 u.2 && s.granuleHit fld ctx a kind u.1 u.2 sl)

/-- Blocked threads of save areas that `replaya` of a granule answers. -/
def State.granuleSaved (s : State) (fld ctx : Nat) (a : Word) (kind : Nat) : List (Nat × SavedSlot) :=
  s.tiles.flatMap (fun e => (e.2.saves.flatMap (fun v => v.2.slots)).filterMap (fun r =>
    if r.state = 4 ∧ r.reply.isNone ∧ s.granuleHit fld ctx a kind e.1 r.k r.slot then some (e.1, r) else none))

/-- R339: a reply kept for one saved record of a tile. -/
def State.storeAt (s : State) (t : Nat) (q : SavedSlot) (w acc : Word) : State :=
  s.modTile t (fun x => { x with saves := Map.mapVals (fun (v : Save) =>
    { v with slots := v.slots.map (fun (r : SavedSlot) => if r = q then { r with reply := some (w, acc) } else r) }) x.saves })

/-- The held messages of answered slots leave the buffer. -/
def State.dropMsgs (s : State) (fld : Nat) (us : List (Nat × Nat × BitVec 8)) : State :=
  s.modField fld (fun f => { f with fbuf := f.fbuf.filter (fun m => !us.contains (nameTile m.tile, m.slot, m.seq)) })

/-- R198: `replaya` of an object address: the number of threads answered. -/
def State.replyGranule (s : State) (fld ctx : Nat) (a w acc : Word) : State × Nat :=
  let kind := bits w 3 0
  let us := s.granuleSlots fld ctx a kind
  let rs := s.granuleSaved fld ctx a kind
  let s := s.dropMsgs fld (us.map (fun u => (u.1, (s.slot u.1 u.2).msgSlot.getD u.2, (s.slot u.1 u.2).fseq)) ++
    rs.map (fun r => (r.1, r.2.slot.msgSlot.getD r.2.k, r.2.slot.fseq)))
  let s := us.foldl (fun s u => s.giveReply u.1 u.2 w acc .zr) s
  let s := rs.foldl (fun s r => s.storeAt r.1 r.2 w acc) s
  let s := if kind < 4 then s else match s.trueHome ctx a 0 with
    | none => s
    | some h => s.killPending h ctx a
  (s, us.length + rs.length)

/-- R259, R385: whether a thread with a dropped mark takes a reply of a kind: one whose context was lost takes only the kills
(log 113). -/
def Slot.takesDropped (sl : Slot) (kind : Nat) : Bool :=
  sl.dropped && (kind ≥ 4 || !(match sl.fault with | some f => f.lostContext | none => false))

/-- R259: every slot of a tile that has a dropped mark is answered; the number answered. -/
def State.replyDropped (s : State) (t : Nat) (w acc : Word) : State × Nat :=
  let kind := bits w 3 0
  let ks := (List.range 16).filter (fun k =>
    let sl := s.slot t k
    sl.state == .blocked && sl.kept.isNone && sl.takesDropped kind)
  let rs := ((s.tile t).saves.flatMap (fun v => v.2.slots)).filter (fun r =>
    r.state == 4 && r.reply.isNone && r.slot.takesDropped kind)
  let s := ks.foldl (fun s k => s.giveReply t k w acc .zr) s
  let s := rs.foldl (fun s r => s.storeAt t r w acc) s
  (s, ks.length + rs.length)

/-! ### Stops (R201) -/

/-- R201: `dstop` of a slot: status and low bits. GONE for a thread of a team that is being quiesced (R339). -/
def State.stopSlot (s : State) (t k : Nat) : State × Word :=
  let sl := s.slot t k
  let tid := sl.th.tid.toNat
  match sl.state with
  | .free => (s, statusBits Status.gone 0)
  | _ =>
    if s.teamClosed t k then (s, statusBits Status.gone 0)
    else if !s.debuggable sl.th.ctx then (s, statusBits Status.refused 0)
    else match sl.state with
      | .free => (s, statusBits Status.gone 0)
      | .ready => (s.modSlot t k (fun sl => { sl with stopReq := true }), statusBits Status.done tid)
      | .wait _ =>
        (s.modSlot t k (fun sl => if sl.stops then sl.halt .debug else { sl with stopReq := true }), statusBits Status.done tid)
      | .parked | .remote | .blocked => (s.modSlot t k (fun sl => { sl with stopReq := true }), statusBits Status.pending 0)
      | .stopped .debug => (s, statusBits Status.done 0)
      | .stopped _ => (s, statusBits Status.gone 0)

/-- R201: `dresume` of a slot. -/
def State.resumeSlot (s : State) (t k : Nat) : State × Word :=
  let sl := s.slot t k
  match sl.state with
  | .free => (s, statusBits Status.gone 0)
  | _ =>
    if s.teamClosed t k then (s, statusBits Status.gone 0)
    else if !s.debuggable sl.th.ctx then (s, statusBits Status.refused 0)
    else match sl.state with
      | .stopped .debug => (s.modSlot t k (fun sl => { sl with state := .ready }), statusBits Status.done 0)
      | _ => (s, statusBits Status.gone 0)

/-- R354, R398: the tile and the slot that a debug command names. -/
def dbgTile (r : HostReq) : Nat := nameTile ((dword r 0).extractLsb' 0 24)
def dbgSlot (r : HostReq) : Nat := bits (dword r 0) 27 24

/-- R354: a service thread performs `dstop`, or `dresume` (`on`), on a slot: the oldest DBGSTOP or DBGRESUME of it is answered with the
status. -/
def State.answerDebug (s : State) (t k : Nat) (on : Bool) (st : Nat) : State :=
  match s.dbgReqs.find? (fun e => e.2 == on && dbgTile e.1 == t && dbgSlot e.1 == k) with
  | none => s
  | some e => ({ s with dbgReqs := s.dbgReqs.erase e } : State).mgmtAnswer e.1 (if on then 0x19 else 0x18) st 0 []

end Sys2Proof.Machine
end

