-- ==== Sys2Proof/Machine/Net.lean ====
section
/-! DEFINITION. Packets at their destinations: requests and writes at a home, replies at a slot, returned packets (R106, R107,
R115, R117, R122, R132, R135, R202, R212, R214, R245, R248-R250, R259, R263, R289). -/

namespace Sys2Proof.Machine

/-! ### Arrival -/

/-- R250: a VC0 request waits until every earlier write of its source to the same tile has been performed: those under way,
returned or held back by a dusk, and those held at the home. A request for a granule that is not resident performs nothing and only
blocks its thread (R260, R262), and one that its home holds waits behind the writes held there (R292). -/
def State.writesDone (s : State) (p : Packet) : Bool :=
  let x := s.tile p.dst
  let before (q : Packet) : Bool := q.vc == 2 && q.src == p.src && q.dst == p.dst &&
    (q.seq < p.seq || (q.slot == p.slot && q.slot < 16 && q.ord < p.ord))
  let isBefore (h : HeldAcc) : Bool := match h with
    | .packet q => before q
    | _ => false
  let clear (e : Pending) : Bool := e.writes.all (fun q => !before q) && e.held.all (fun h => !isBefore h)
  s.net.all (fun q => !before q) && s.held.all (fun q => !before q) &&
  (match p.body with
    | .readReq ctx a _ | .atomicReq ctx a .. => match s.gate p.dst ctx a with
      | .go => x.pendings.all clear && x.overflow.all (fun h => !isBefore h)
      | .hold => x.pendings.all (fun e => e.is ctx (objOf a) (granOf a) || clear e) && x.overflow.all (fun h => !isBefore h)
      | _ => true
    | _ => x.pendings.all clear && x.overflow.all (fun h => !isBefore h))

/-- R250, R254: whether two packets travel one behind the other: of one channel, source and destination, and on VC5 of one route and
pass. -/
def Packet.follows (p q : Packet) : Bool :=
  q.vc == p.vc && q.src == p.src && q.dst == p.dst && (match p.body, q.body with
    | .route f, .route g | .route f, .routeLast g | .routeLast f, .route g | .routeLast f, .routeLast g =>
      f.num == g.num && f.kin == g.kin && f.inp == g.inp
    | _, _ => true)

/-- R259, R275: a request for the dropped faults of a tile comes after the marks that the service tile has sent there, so that no
dropped thread is missed. DEDUCED (log 95): replies on VC1 are not ordered by the fabric. -/
def State.marksDone (s : State) (n : Nat) (p : Packet) : Bool :=
  match p.body with
  | .droppedReq .. => (s.net.take n).all (fun q => !(q.src == p.src && q.dst == p.dst && (match q.body with
      | .droppedMark .. => true
      | _ => false)))
  | _ => true

/-- R105, R222: a thread's access waits at the port while an earlier one of the thread to the same home is under way, on its way
back to its source or held there, until it has been sent again and performed. -/
def State.returnsDone (s : State) (p : Packet) : Bool :=
  let counted (q : Packet) : Bool := q.slot < 16 && (q.vc == 0 || q.vc == 2)
  let before (q : Packet) : Bool := counted q && q.src == p.src && q.slot == p.slot && q.ord < p.ord &&
    (q.dst == p.dst || (match q.body.place with
      | some (ctx, a) => s.trueHome ctx a q.dst == some p.dst
      | none => false))
  !counted p || (s.net.all (fun q => !before q) && s.held.all (fun q => !before q))

/-- R261, R292: whether the entry of a draining granule has room for a write that an earlier one of its thread there keeps waiting. -/
def State.portRoom (s : State) (p : Packet) : Bool :=
  match s.heldBefore p.dst p with
  | some (true, ctx, a) => (match (s.tile p.dst).pendingOf ctx a with
    | some e => !e.drain || (s.tile p.dst).canHold ctx a
    | none => true)
  | _ => true

/-- The sites that a path leaves and enters, from its first. -/
def pathSites (site : Nat) : List Nat → List Nat
  | [] => [site]
  | k :: rest => site :: pathSites ((siteStep site k).getD site) rest

/-- R343: the site at which a packet enters or leaves the fabric; a peer module's lies at the port that serves the other end. -/
def State.endSite (s : State) (a other : Nat) : Nat :=
  if a < 16384 then s.site a else if a ≥ 32768 then a - 32768 else Config.portSite (s.peerPort (a - 16384) other)

/-- R248, R249, R253: the sites whose routers a packet passes, in order: those of the tables' path, or of its static route. -/
def State.sitesOf (s : State) (p : Packet) : List Nat :=
  match p.body with
  | .route f | .routeLast f => s.routeWalk f.num f.kin f.all (s.site p.dst) f.inp 8448 (s.site p.src) 4 []
  | _ =>
    let a := s.endSite p.src p.dst
    pathSites a (s.path a (s.endSite p.dst p.src))

/-- R383: whether a packet's path passes a fenced site on its way, whose neighbours hold its flits. -/
def State.pathHeld (s : State) (p : Packet) : Bool :=
  !s.fencedSites.isEmpty && (((s.sitesOf p).drop 1).dropLast).any s.fencedSites.contains

/-- R250, R254, R383: packet `n` is the next of its channel and its source at the destination's port, on a path free of fenced sites;
a flit of a route goes behind those sent before it wherever they stand. -/
def State.atPort (s : State) (n : Nat) (p : Packet) : Bool :=
  (if p.vc = 5 then (s.net ++ s.held).all (fun q => !(p.follows q && q.ord < p.ord))
   else (s.net.take n).all (fun q => q.held || q.ret != .no || !p.follows q)) && !s.pathHeld p

/-- R228: the rank of a packet among those that reach a tile's pipeline in one cycle. -/
def Packet.rank (p : Packet) : Option Nat := match p.vc with
  | 2 => some 2
  | 0 => some 3
  | 4 => some 4
  | _ => none

/-- R228: whether a packet has its turn in this cycle: its tile's slots and butterfly engine have made their accesses, and no packet of a
later rank has come before it. -/
def State.rankDone (s : State) (p : Packet) : Bool :=
  match p.rank with
  | none => true
  | some r =>
    p.dst ≥ 16384 || (s.turn p.dst r && (match (s.tile p.dst).bfe with
        | some q => q.wait != .run || q.due > s.now
        | none => true))

/-- Packet `n` at its tile's port is performed next. A held packet has already arrived: one for a word of an object goes on with its
extent operation, any other when its own condition holds. -/
def State.canArrive (s : State) (n : Nat) (p : Packet) : Bool :=
  if p.held then p.body.place.isNone else
  s.atPort n p && (p.vc != 0 || s.writesDone p) && s.returnsDone p && s.portRoom p && s.marksDone n p && s.rankDone p

/-- R228: the packet is taken in this cycle. -/
def State.notePort (s : State) (p : Packet) : State :=
  match p.rank with
  | some r => if p.dst ≥ 16384 then s else s.noteTurn p.dst r
  | none => s

/-- What the arrival of a packet leads to. -/
inductive Taken where
  | no
  | yes (s : State)
  deriving DecidableEq, Repr

/-- Packet `n` reaches its destination and leaves the fabric: `f` gives its effect. A tile in a dusk's window returns it as a
hold return (R379); a fenced tile takes none (R383). -/
def onPacket (s : State) (n : Nat) (f : Packet → State → Taken) : Out :=
  match s.net[n]? with
  | none => .fault .notEnabled
  | some p =>
    let rest : State := { s with net := dropAt s.net n }
    if p.ret ≠ .no then .fault .notEnabled
    else if p.dst < 16384 ∧ (s.tile p.dst).closed ∧ !p.held then
      if s.atPort n p then .next { rest with held := s.held ++ [p] } else .fault .notEnabled
    else if !s.canArrive n p then .fault .notEnabled
    else match f p (rest.notePort p) with
      | .no => .fault .notEnabled
      | .yes t => if p.dst < 16384 ∧ (s.tile p.dst).fenced then .next rest else .next t

/-- A packet stays at its home, held. -/
def State.hold (s : State) (p : Packet) : State := { s with net := s.net ++ [{ p with held := true }] }

/-- A packet returned to its sender (R292). -/
def State.return_ (s : State) (p : Packet) : State := { s with net := s.net ++ [{ p with ret := .stale, held := false }] }

/-! ### Requests of threads at a home -/

/-- The fault a request meets at its home, to the slot that waits. -/
def State.refuse (s : State) (h : Nat) (p : Packet) (code : Nat) (a extra : Word) : State :=
  s.answer h p.src p.slot (.failed code a extra)

/-- R103, R260, R274, R292: a thread's request for a word at home `h`: `go` performs it. -/
def State.request (s : State) (h : Nat) (p : Packet) (ctx : Nat) (a : Word) (go : State → State) : State :=
  match s.gate h ctx a with
  | .go => go s
  | .hold => if (s.tile h).canHold ctx a then s.holdAcc h ctx a (.packet p) else s.hold p
  | .lost => s.refuse h p FaultCode.ue a 4#64
  | .elsewhere => s.return_ p
  | .join =>
    if s.posted h ctx a p.src p.slot then (s.setPoster h ctx a p.src p.slot).refuse h p FaultCode.notRes a 0#64
    else if p.slot < 16 then s.joinPending h ctx a p.src p.slot else s
  | .open_ => (s.openPosted h ctx a p.src p.slot).refuse h p FaultCode.notRes a 0#64
  | .full => s.refuse h p FaultCode.notRes a 2#64

/-- R112, R117: a read: the value's bytes, zero-extended, go back. -/
def State.takeRead (s : State) (p : Packet) (ctx : Nat) (a : Word) (z : Size) : State :=
  let h := p.dst
  s.request h p ctx a (fun s =>
    let (s, w) := s.homeRead h ctx a
    if w.poison then s.refuse h p FaultCode.ue (a &&& ~~~7#64) 0#64
    else s.answer h p.src p.slot (.readData (BitVec.ofNat 64 (takeBytes (offOf a) (sizeBytes z) w.data))))

def execRemoteReadRequest (n : Nat) (s : State) : Out :=
  onPacket s n (fun p s => match p.body with
    | .readReq ctx a z => .yes (s.takeRead p ctx a z)
    | _ => .no)

/-- R122: a fetching atomic or `acas` at its home. -/
def State.takeAtomic (s : State) (p : Packet) (ctx : Nat) (a : Word) (op : Option AtomOp) (wide : Bool) (b c : Word) : State :=
  let h := p.dst
  s.request h p ctx a (fun s =>
    let (s, old, bad) := s.homeAtomic h ctx a op wide b c (s.uoOf ctx a)
    if bad then s.refuse h p FaultCode.ue (a &&& ~~~7#64) 0#64 else s.answer h p.src p.slot (.atomicResult old))

/-- R113, R347, R348: how an access to peer module `m` fails: without a port of its role LINKLOST, else by the status that the peer
answers (log 5): the fault code with its extra word, and the engine's error code. `word` says whether poison at the home fails it. -/
def State.peerFail (s : State) (m i : Nat) (word : Bool) : Option (Nat × Word × Nat) :=
  if (s.peerPorts m).isEmpty then some (FaultCode.linkLost, BitVec.ofNat 64 m, EngErr.linkLost)
  else match Config.freePeerStatus i % 8 with
    | 1 | 2 => some (FaultCode.peerGone, BitVec.ofNat 64 m, EngErr.peerGone)
    | 3 => some (FaultCode.bounds, 0#64, EngErr.bounds)
    | 4 => some (FaultCode.perm, 0#64, EngErr.perm)
    | 5 => some (FaultCode.notRes, 0#64, EngErr.notRes)
    | 6 => some (FaultCode.fenced, Config.freePeer i &&& 0xFFFFFF#64, EngErr.fenced)
    | 7 => if word then some (FaultCode.ue, 0#64, EngErr.ue) else none
    | _ => none

/-- R113: whether a peer answers a read with a poisoned word. -/
def peerPoison (i : Nat) : Bool := Config.freePeerStatus i % 8 == 7

/-- The operands that an access carries to a peer module (R347). -/
def Body.peerData : Body → List Byte
  | .atomicReq _ _ _ _ b c => wordBytes b ++ wordBytes c
  | .nrAtomic _ _ _ _ b _ => wordBytes b
  | .copyWrite _ _ _ _ v _ => wordBytes v
  | _ => []

/-- R297, R347: an access leaves for a peer module through its port, under the peer's own names of context and object. -/
def State.toPeer (s : State) (p : Packet) : State :=
  match p.body.place with
  | none => s
  | some (ctx, a) => match s.object ctx (objOf a) with
    | none => s
    | some o =>
      let d := p.body.peerData
      let a' := BitVec.ofNat 64 (o.robj * 2 ^ 40 + offOf a)
      s.toHost { port := s.peerPort o.module p.src, cls := 0, op := o.module, ctx := o.rctx, tag := p.slot, addr := a', len := d.length, data := d }

/-- R104, R347: an access of a packet to a peer module: the peer answers with a status and a value that this machine does not hold
(log 5); `ok` is what follows a status of DONE, given the draw. -/
def State.peerGive (s : State) (p : Packet) (ok : Nat → State → State) : State :=
  let (i, s) := (s.toPeer p).draw
  let word : Bool := match p.body with
    | .atomicReq .. | .nrAtomic .. => true
    | _ => false
  match s.peerFail (p.dst - 16384) i word, p.body with
  | none, _ => ok i s
  | some (code, x, _), .atomicReq _ a .. => s.answer p.dst p.src p.slot (.failed code (if code = FaultCode.ue then a &&& ~~~7#64 else a) x)
  | some (code, x, e), _ => s.discardPacket p.dst p code e x

/-- R122, R124: the old value that a peer answers, the low 32 bits of a `.w` form. -/
def State.peerAtomic (s : State) (p : Packet) (wide : Bool) : State :=
  s.peerGive p (fun i s => s.answer p.dst p.src p.slot
    (.atomicResult (if wide then Config.freePeer i else Config.freePeer i &&& 0xFFFFFFFF#64)))

def execAtomicRequest (n : Nat) (s : State) : Out :=
  onPacket s n (fun p s => match p.body with
    | .atomicReq ctx a op wide b c =>
      if p.dst ≥ 16384 then .yes (s.peerAtomic p wide) else .yes (s.takeAtomic p ctx a op wide b c)
    | _ => .no)

/-! ### Peer window (R115, R245, R339) -/

/-- How a partner takes an access to a macro: in the macro, in its image, not yet, or not at all. -/
inductive PeerTake where
  | live
  | image (a : Nat)
  | wait
  | fault (code : Nat) (extra : Word)
  deriving DecidableEq, Repr

def State.peerTake (s : State) (u kin ctx m : Nat) (write : Bool) : PeerTake :=
  let x := s.tile u
  let byState (st : MState) (due : Bool) (ok : PeerTake) : PeerTake :=
    match st with
    | .loading | .scrubbing => .wait
    | .stationary => if write then .fault FaultCode.statLock (BitVec.ofNat 64 m) else if due then .wait else ok
    | .plain | .ready => if due then .wait else ok
  match x.peerMac kin ctx m with
  | .gone => .fault FaultCode.peerGone ((s.name u).zeroExtend 64)
  | .perm => .fault FaultCode.perm 0#64
  | .live => byState (x.mac m).state (x.mac m).due .live
  | .image a => match x.saves.look a with
    | none => .fault FaultCode.peerGone ((s.name u).zeroExtend 64)
    | some v => byState (v.macros.getD m {}).state false (.image a)

/-- The key of a peer access's word. -/
def peerKey (u : Nat) (a : Word) : PeerTake → Nat
  | .image v => imageKey u v (macroOf a) (macroOff a)
  | _ => spadKey u (macroOf a) (macroOff a)

/-- Waiters at a word of a macro image keep their macro's key above this offset (R339). -/
def imageWaitKey (v key : Nat) : Nat := 2 ^ 102 * (v + 1) + key

def State.takePeerLoad (s : State) (p : Packet) (ctx kin : Nat) (a : Word) (z : Size) : Taken :=
  let u := p.dst
  let pt := s.peerTake u kin ctx (macroOf a) false
  match pt with
  | .fault code x => .yes (s.answer u p.src p.slot (.failed code a x))
  | .wait => if p.held then .no else .yes (s.hold p)
  | _ =>
    let key := peerKey u a pt
    let s := s.meetSpad u (wordKey key) 1
    if s.mem.isPoison key then .yes (s.answer u p.src p.slot (.failed FaultCode.ue (a &&& ~~~7#64) 0#64))
    else .yes (s.answer u p.src p.slot (.readData (BitVec.ofNat 64 (takeBytes (offOf a) (sizeBytes z) (s.mem.word key)))))

def execPeerWindowLoad (n : Nat) (s : State) : Out :=
  onPacket s n (fun p s => match p.body with
    | .peerLoad ctx kin a z => s.takePeerLoad p ctx kin a z
    | _ => .no)

def State.takePeerStore (s : State) (p : Packet) (ctx kin : Nat) (a : Word) (z : Size) (v : Word) : Taken :=
  let u := p.dst
  let mask := byteMask (offOf a) (sizeBytes z)
  let val := placeBytes (offOf a) v
  let ack (e : Option (Nat × Word × Word)) (s : State) : State := s.answer u p.src p.slot (.writeAck none e)
  match s.peerTake u kin ctx (macroOf a) true with
  | .fault code x => .yes (ack (some (code, a, x)) s)
  | .wait => if p.held then .no else .yes (s.hold p)
  | .live => .yes (ack none (s.spadStore u a mask val))
  | .image i =>
    let key := imageKey u i (macroOf a) (macroOff a)
    let s := s.modMem (fun m => m.write key mask val)
    .yes (ack none (s.wake u (imageWaitKey i (spadWordKey a)) (s.mem.word key)))

def execPeerWindowStore (n : Nat) (s : State) : Out :=
  onPacket s n (fun p s => match p.body with
    | .peerStore ctx kin a z v => s.takePeerStore p ctx kin a z v
    | _ => .no)

/-! ### Trackers (R214) -/

def execTrackerQuery (n : Nat) (s : State) : Out :=
  onPacket s n (fun p s => match p.body with
    | .trackQuery i second =>
      let tr := (s.tile p.dst).tracker i
      if tr.count = 0 then .yes (s.answerTo p (.trackAnswer second tr.err))
      else if p.held then .no else .yes (s.hold p)
    | _ => .no)

def execTrackerRelease (n : Nat) (s : State) : Out :=
  onPacket s n (fun p s => match p.body with
    | .trackRelease i free kin =>
      .yes (s.modTile p.dst (fun x => x.modTracker i (fun (tr : Tracker) =>
        if !free then { tr with err := none }
        else if tr.count = 0 then {} else { tr with err := some (0, 0#64, 0#64), kin := kin })))
    | _ => .no)

/-- R107, R214: the answer: zero, or zero with an error that the thread raises. -/
def State.trackerAnswered (s : State) (t k : Nat) (second : Bool) (err : Option (Nat × Word × Word)) : State :=
  match err with
  | none => s.modSlot t k (fun sl => { sl with th := sl.th.setDrained second true false, state := .ready, retry := true, pend := .none })
  | some (code, a, x) =>
    let h := (s.slot t k).th.handle second
    let s := s.modSlot t k (fun sl => { sl with th := sl.th.setDrained second true true })
    s.raiseRec t k { code := code, pc := (s.slot t k).th.pc, addr := a, extra := x, track := some (handleTile h, handleIdx h) }

/-- A reply to a slot: `f` for the slot that awaits it; a killed thread's reply finds nobody. -/
def toSlot (p : Packet) (s : State) (want : Slot → Bool) (f : Nat → Nat → Slot → State) : Taken :=
  if p.slot < 16 && want (s.slot p.dst p.slot) then .yes (f p.dst p.slot (s.slot p.dst p.slot)) else .yes s

def execTrackerAnswer (n : Nat) (s : State) : Out :=
  onPacket s n (fun p s => match p.body with
    | .trackAnswer second err =>
      toSlot p s (fun sl => sl.pend == .query second && sl.reqSeq == p.rseq + 1#4) (fun t k _ => s.trackerAnswered t k second err)
    | _ => .no)

/-! ### Children (R132, R212) -/

def execPlacementRequest (n : Nat) (s : State) : Out :=
  onPacket s n (fun p s => match p.body with
    | .placeReq th =>
      let u := p.dst
      match s.arrive u { kind := 3, th := th, frm := s.name p.src, caller := some p.slot, onlyFree := true } with
      | .took s => .yes (s.answer u p.src p.slot (.admission (some (s.lastTid u))))
      | _ => .yes (s.answer u p.src p.slot (.admission none))
    | _ => .no)

/-- R132, R204: a refusal: the next place, or a failed `spawn`. -/
def State.childRefused (s : State) (t k : Nat) : State :=
  match (s.slot t k).pend with
  | .spawn d target pc m => if isPlacement target then s.placeNext t k d target pc m 24 else s.spawnFails t k d target pc m
  | _ => s

/-- R132: the answer of the tile that a child was sent to. -/
def State.childAnswered (s : State) (t k : Nat) (tid : Option (BitVec 32)) : State :=
  match (s.slot t k).pend, tid with
  | .spawn d _ _ _, some tid => s.spawned t k d tid
  | _, _ => s.childRefused t k

def isSpawn : Pend → Bool
  | .spawn .. => true
  | _ => false

def execAdmissionAnswer (n : Nat) (s : State) : Out :=
  onPacket s n (fun p s => match p.body with
    | .admission tid => toSlot p s (fun sl => isSpawn sl.pend && sl.state == .wait .reply) (fun t k _ => s.childAnswered t k tid)
    | _ => .no)

/-! ### Directory (R202, R289) -/

def execDirectoryFillRequest (n : Nat) (s : State) : Out :=
  onPacket s n (fun p s => match p.body with
    | .dirReq key => .yes (s.answer p.dst p.src p.slot (.dirFill (s.dirRecord key)))
    | _ => .no)

/-- R289: an invalidation removes the named record; the descriptor's name stands for every record of the object. -/
def Tile.forgetKey (x : Tile) (key : RecKey) : Tile :=
  { x with odc := x.odc.filter (fun e =>
      !(e.key == key || (key.kind == .desc && e.key.ctx == key.ctx && e.key.obj == key.obj))) }

def execDirectoryInvalidate (n : Nat) (s : State) : Out :=
  onPacket s n (fun p s => match p.body with
    | .dirInval key op => .yes ((s.modTile p.dst (fun x => x.forgetKey key)).answer p.dst p.src 16 (.invalDone op))
    | _ => .no)

/-- R203, R289: a record enters the directory cache of 256 entries, as the directory holds it and stamped with the generation
now current. -/
def State.odcFill (s : State) (t : Nat) (key : RecKey) : State :=
  let e := s.dirRecord key
  s.modTile t (fun x => { x with odc := (e :: x.odc.filter (fun f => f.key != key)).take 256 })

def execDirectoryFill (n : Nat) (s : State) : Out :=
  onPacket s n (fun p s => match p.body with
    | .dirFill e =>
      let s := s.odcFill p.dst e.key
      toSlot p s (fun sl => sl.state == .wait .directory)
        (fun t k _ => s.modSlot t k (fun sl => { sl with state := .ready, retry := true }))
    | .invalDone op =>
      .yes (s.modTile p.dst (fun x => { x with xops := x.xops.map (fun (o : XOp) =>
        if o.id = op then { o with acks := o.acks - 1 } else o) }))
    | _ => .no)

/-! ### Replies to loads and atomics (R104, R112, R117, R122) -/

/-- R112, R213: a remote read of a pinned thread lowers `pinloads`; at 0 the thread is no longer pinned. One that a fourth bounce
asked for pins its thread first (R127: no field of `st` has changed before it completes). -/
def Slot.unpinStep (sl : Slot) : Slot :=
  let sl : Slot := if sl.th.pinned then sl else { sl with th := (sl.th.setBounce 4).setPinned true 64 }
  let n := sl.th.pinloads - 1
  if n = 0 then { sl with th := (sl.th.setPinned false 0).setBounce 0, window := 0 }
  else { sl with th := sl.th.setSt 23 17 n }

def isLoad : Pend → Bool
  | .load .. => true
  | _ => false

/-- The value of a read reaches its slot. -/
def State.readArrived (s : State) (t k : Nat) (v : Word) : State :=
  match (s.slot t k).pend with
  | .load d z sx base pin =>
    s.modSlot t k (fun sl => (if pin then sl.unpinStep else sl).loaded d z sx base 0#64 v)
  | _ => s

/-- A fault from a home reaches the slot that waits (R125, R135). -/
def State.requestFailed (s : State) (t k code : Nat) (a x : Word) : State := s.raise t k code a x

def awaits (sl : Slot) : Bool := sl.state == .remote || sl.state == .wait .reply

def execReadData (n : Nat) (s : State) : Out :=
  onPacket s n (fun p s => match p.body with
    | .readData v => toSlot p s (fun sl => isLoad sl.pend && awaits sl) (fun t k _ => s.readArrived t k v)
    | .failed code a x => toSlot p s awaits (fun t k _ => s.requestFailed t k code a x)
    | _ => .no)

def execAtomicResult (n : Nat) (s : State) : Out :=
  onPacket s n (fun p s => match p.body with
    | .atomicResult v =>
      toSlot p s (fun sl => match sl.pend with | .atomic _ => true | _ => false) (fun t k sl =>
        match sl.pend with
        | .atomic d => s.modSlot t k (fun sl => { sl with th := sl.th.setReg d v, state := .ready }.finish)
        | _ => s)
    | _ => .no)

/-! ### Writes (R106, R107, R120, R122, R135) -/

def execStoreWrite (n : Nat) (s : State) : Out :=
  onPacket s n (fun p s => match p.body with
    | .store .. => .yes (s.takeWrite p.dst p)
    | _ => .no)

def execStfWrite (n : Nat) (s : State) : Out :=
  onPacket s n (fun p s => match p.body with
    | .stf .. => .yes (s.takeWrite p.dst p)
    | _ => .no)

/-- R106: for a peer module the far side of the link reports the write performed. -/
def execNrAtomicWrite (n : Nat) (s : State) : Out :=
  onPacket s n (fun p s => match p.body with
    | .nrAtomic _ _ _ _ _ tr =>
      if p.dst ≥ 16384 then .yes (s.peerGive p (fun _ s => s.answer p.dst p.src p.slot (.writeAck tr none))) else .yes (s.takeWrite p.dst p)
    | _ => .no)

/-- R135: the decrement at the join word's home, acknowledged to the slot that waits. -/
def State.takeExitJ (s : State) (p : Packet) (ctx : Nat) (a : Word) : State :=
  let h := p.dst
  s.request h p ctx a (fun s =>
    match s.decrement h ctx a (s.uoOf ctx a) with
    | some s => s.answer h p.src p.slot (.writeAck none none)
    | none => s.refuse h p FaultCode.ue (a &&& ~~~7#64) 0#64)

def execExitJDecrement (n : Nat) (s : State) : Out :=
  onPacket s n (fun p s => match p.body with
    | .exitJ ctx a => .yes (s.takeExitJ p ctx a)
    | _ => .no)

/-- R104, R135: an acknowledgement that a slot waits for. -/
def State.ackSlot (s : State) (t k : Nat) (err : Option (Nat × Word × Word)) : State :=
  match err with
  | some (code, a, x) => s.raise t k code a x
  | none => match (s.slot t k).pend with
    | .store base => s.modSlot t k (fun sl => sl.stored base)
    | .exitJ => s.endThread t k
    | _ => s

def execWriteAcknowledgement (n : Nat) (s : State) : Out :=
  onPacket s n (fun p s => match p.body with
    | .writeAck (some i) err => .yes (s.modTile p.dst (fun x => x.modTracker i (fun tr => tr.acked err)))
    | .writeAck none err =>
      toSlot p s (fun sl => sl.state == .wait .reply && (match sl.pend with | .store _ | .exitJ => true | _ => false))
        (fun t k _ => s.ackSlot t k err)
    | .heldMark i up =>
      .yes (s.modTile p.dst (fun x => x.modTracker i (fun (tr : Tracker) =>
        { tr with held := if up then tr.held + 1 else tr.held - 1 })))
    | _ => .no)

/-! ### Faults, service messages and answers (R196, R200, R259) -/

/-- The field whose service tile a tile is. -/
def State.serviceField (s : State) (t : Nat) : Option Nat := (s.fields.find? (fun e => e.2.tile == t)).map Prod.fst

/-- R259: a fault message enters the buffer of 8, or is discarded with a dropped mark. -/
def execFaultMessage (n : Nat) (s : State) : Out :=
  onPacket s n (fun p s => match p.body with
    | .faultMsg m t k =>
      match s.serviceField p.dst with
      | none => .yes s
      | some f =>
        if (s.field f).fbuf.length < 8 then .yes (s.modField f (fun f => { f with fbuf := f.fbuf ++ [m] }))
        else .yes ((s.modField f (fun f => { f with dropped := true })).answer p.dst t 16 (.droppedMark t k m.seq))
    | _ => .no)

/-- R200: a message joins its queue, and its sender's form is DONE. -/
def execServiceMessage (n : Nat) (s : State) : Out :=
  onPacket s n (fun p s => match p.body with
    | .svcMsg m mon =>
      let s := if mon then s.modTile p.dst (fun x => { x with monq := x.monq ++ [m] })
        else match s.serviceField p.dst with
          | none => s
          | some f => s.modField f (fun f => { f with mq := f.mq ++ [m] })
      .yes (if p.slot < 16 then s.answer p.dst p.src p.slot (.svcAnswer 0#64) else s)
    | _ => .no)

def execDroppedAnswerRequest (n : Nat) (s : State) : Out :=
  onPacket s n (fun p s => match p.body with
    | .droppedReq w acc =>
      let (s, c) := s.replyDropped p.dst w acc
      .yes (s.answer p.dst p.src p.slot (.svcAnswer (BitVec.ofNat 64 c)))
    | _ => .no)

/-- R194, R198: an answer to a service form; the last of a `replaya` completes it with the sum. -/
def State.serviceAnswered (s : State) (t k : Nat) (w : Word) : State :=
  match (s.slot t k).pend with
  | .service d left sum =>
    if left ≤ 1 then
      s.modSlot t k (fun sl => { sl with th := sl.th.setReg d (BitVec.ofNat 64 (sum + w.toNat)), state := .ready }.finish)
    else s.modSlot t k (fun sl => { sl with pend := .service d (left - 1) (sum + w.toNat) })
  | _ => s

/-- R259: the dropped mark of the thread blocked on the fault that a message named, in its slot or in a save area. -/
def Tile.markDropped (x : Tile) (k : Nat) (seq : BitVec 8) : Tile :=
  match x.faultSlot k seq with
  | some j => x.modSlot j (fun sl => { sl with dropped := true })
  | none => { x with saves := Map.mapVals (fun (v : Save) =>
      { v with slots := v.slots.map (fun (r : SavedSlot) =>
        if r.state = 4 ∧ r.slot.answers r.k k seq then { r with slot := { r.slot with dropped := true } } else r) }) x.saves }

def execServiceAnswer (n : Nat) (s : State) : Out :=
  onPacket s n (fun p s => match p.body with
    | .svcAnswer w => toSlot p s awaits (fun t k _ => s.serviceAnswered t k w)
    | .droppedMark t k seq => .yes (s.modTile t (fun x => x.markDropped k seq))
    | _ => .no)

/-! ### Headers and router errors (R248) -/

/-- R248, R297: the context number of a packet's header; the peer's own for a packet that leaves for another module. -/
def State.ctxOf (s : State) (p : Packet) (own : Nat) : Nat :=
  if p.dst < 16384 ∨ p.dst ≥ 32768 then own
  else match p.body.place.bind (fun q => s.object q.1 (objOf q.2)) with
    | some o => o.rctx
    | none => own

/-- R248: the context number that a packet's body names. -/
def Body.ctxOf : Body → Nat
  | .readReq ctx .. | .atomicReq ctx .. | .peerLoad ctx .. | .svcReq _ ctx .. | .store ctx .. | .stf ctx .. | .nrAtomic ctx ..
  | .exitJ ctx _ | .peerStore ctx .. | .copyReadReq _ ctx .. | .copyWrite _ ctx .. | .gridStore ctx .. => ctx
  | .placeReq th => th.ctx
  | .migrate f => f.th.ctx
  | .dirReq k | .dirInval k _ => k.ctx
  | .dirFill e => e.key.ctx
  | _ => 0

/-- R248: the payload bytes of a packet less 1, where the manual lays its payload out: a context with its transport bytes (R205), a
grid or trace store (R357, R363), a route's data; of the rest (log 101). -/
def Packet.payload (p : Packet) (vc cls : Nat) : BitVec 8 := match p.body with
  | .migrate _ => 127#8
  | .gridStore _ _ ws _ => BitVec.ofNat 8 (8 * ws.length - 1)
  | .route f | .routeLast f => BitVec.ofNat 8 (flitBytes f.data - 1)
  | _ => Config.payloadLen vc cls

/-- R248: the 16-byte header of a flit: one that is returned bears VC1 class 6 and goes to its source, but a migration flit is of kind 5
(R206). The tile of a peer module's packet is that of the port it passes (R247). DESIGN CHOICE (log 101): a spare site's monitor is
named by its site's coordinates. -/
def State.header (s : State) (p : Packet) : BitVec 128 :=
  let tile (a other : Nat) : Nat := if a < 16384 then a else if a ≥ 32768 then a - 32768 else (s.tileAt (Config.portSite (s.peerPort (a - 16384) other))).getD 0
  let back : Bool := p.ret != .no
  let vc := if back && p.vc != 3 then 1 else p.vc
  let cls := if !back then p.body.cls else if p.vc = 3 then 5 else 6
  let dst := nameOf p.gen (tile p.dst p.src)
  let src := nameOf p.sgen (tile p.src p.dst)
  let route : Nat := match p.body with
    | .route f | .routeLast f => f.num
    | _ => 0
  let b (n w : Nat) : BitVec w := BitVec.ofNat w n
  let h : BitVec 112 := (if back then src ++ dst else dst ++ src) ++ b vc 3 ++ b cls 5 ++ b route 6 ++ b (s.ctxOf p p.body.ctxOf) 12 ++ b p.slot 4 ++
    p.rseq ++ (p.payload vc cls) ++ b p.seq 8 ++ b 0 14
  h ++ Config.crc16 h

/-- R248, R361, R385: a router on the path of packet `n`, which one is a free choice, finds a CRC error in the flit's header and drops
it; the tile of its site counts the error, and the link layer sends the flit again from its source hop, so that it stays under way;
that hop's router counts the resend. A packet that has arrived or has been returned passes no router. -/
def execHeaderCrcError (n : Nat) (s : State) : Out :=
  match s.net[n]? with
  | none => .fault .notEnabled
  | some p =>
    if p.held || p.ret != .no then .fault .notEnabled
    else
      let sites := s.sitesOf p
      let (i, s) := s.draw
      let j := Config.crcRouter i % sites.length
      let before := sites.getD (j - 1) 0
      let s := match (List.range 4).find? (fun k => j > 0 && siteStep before k == sites[j]?) with
        | some k => s.countResend before k
        | none => s
      match s.tileAt (sites.getD j 0) with
      | none => .next s
      | some t => .next (s.modTile t (fun x => { x with errs := { x.errs with link := x.errs.link + 1 } }))

end Sys2Proof.Machine
end

