-- ==== Sys2Proof/Machine/Extent.lean ====
section
/-! DEFINITION. Extent commands and invalidations at their homes (R199, R289, R290, R292-R296). -/

namespace Sys2Proof.Machine

/-- The answer of an extent command, to the slot or the host that asked (R194, R398). -/
def State.svcReply (s : State) (h : Nat) (who : Asker) (w : Word) : State :=
  match who with
  | .slot t k => s.answer h t k (.svcAnswer w)
  | .host r =>
    let st := bits w 63 56
    let home := if st = Status.done ∨ st = Status.present then
        match s.trueHome r.ctx (bytesWord r.data) 0 with
        | some u => (s.name u).toNat
        | none => 0
      else 0
    s.toHost { port := r.port, cls := 3, op := 0x07, ctx := r.ctx, tag := r.tag,
               status := BitVec.ofNat 64 (st + bits w 30 16 * 2 ^ 8 + home * 2 ^ 24) }
  | .nobody => s

/-- R289: the record is removed from every directory cache of the grid; each tile but the fenced ones answers operation `op`
of tile `h`. The number of answers to await. -/
def State.invalidate (s : State) (h op : Nat) (key : RecKey) : State × Nat :=
  let ts := s.tiles.keys.filter (fun t => s.isTile t && !(s.tile t).fenced)
  (ts.foldl (fun s t => s.send { vc := 0, src := h, dst := t, gen := s.gen, body := .dirInval key op }) s, ts.length)

def State.modXop (s : State) (h id : Nat) (f : XOp → XOp) : State :=
  s.modTile h (fun x => { x with xops := x.xops.map (fun o => if o.id = id then f o else o) })

def State.endXop (s : State) (h id : Nat) : State :=
  s.modTile h (fun x => { x with xops := x.xops.filter (fun o => o.id != id) })

/-- A new operation of tile `h`; its number. -/
def State.newXop (s : State) (h : Nat) (o : XOp) : State × Nat :=
  let x := s.tile h
  (s.setTile h { x with xops := x.xops ++ [{ o with id := x.nextOp }], nextOp := x.nextOp + 1 }, x.nextOp)

/-- R290, R293: whether a page that a map word names is in use, or reserved. -/
def Tile.pageUsed (x : Tile) (p : Nat) : Bool := p ≥ 31744 || x.extents.any (fun e => e.2.page == p)

namespace MapWord
def bad (w : Word) : Bool := bits w 63 56 ≠ 0 || bits w 15 0 ≠ 0
def home (w : Word) : BitVec 24 := w.extractLsb' 32 24
def given (w : Word) : Bool := home w != 0#24
def hasPage (w : Word) : Bool := w.getLsbD 31
def page (w : Word) : Nat := bits w 30 16
end MapWord

def pageBits (p : Nat) : Nat := p * 2 ^ 16

/-- The page a map word leads to at a tile: the named one, or a free one. -/
def Tile.pickPage (x : Tile) (w : Word) : Option Nat := if MapWord.hasPage w then some (MapWord.page w) else x.freePage

def Tile.setExtState (x : Tile) (ctx : Nat) (a : Word) (st : ExtState) : Tile :=
  { x with extents := Map.mapVals (fun (e : Extent) =>
      if e.ctx == ctx && e.obj == objOf a && e.gran == granOf a then { e with state := st } else e) x.extents }

def Tile.dropExtent (x : Tile) (ctx : Nat) (a : Word) : Tile :=
  { x.tlbDrop ctx (objOf a) (granOf a) with extents := x.extents.filter (fun e => !(e.2.ctx == ctx && e.2.obj == objOf a && e.2.gran == granOf a)) }

/-! ### The release of held accesses (R294 step 8) -/

/-- A held packet decided afresh at its home. -/
def State.retake (s : State) (h : Nat) (p : Packet) : State :=
  let p : Packet := { p with held := false }
  match p.body with
  | .readReq ctx a z => s.takeRead p ctx a z
  | .atomicReq ctx a op wide b c => s.takeAtomic p ctx a op wide b c
  | .exitJ ctx a => s.takeExitJ p ctx a
  | _ => (s.takeWrite h p).markHeld h p false

/-- A held access decided afresh: a thread issues its instruction again, and an engine's command its access, ahead of those still
held. -/
def State.releaseAcc (s : State) (h : Nat) : HeldAcc → State
  | .packet p => s.retake h p
  | .slot k _ _ => s.modSlot h k (fun sl => if sl.state = .wait .extent then { sl with state := .ready, pass := true } else sl)
  | .engine e pos n _ _ => s.modTile h (fun x => x.wakeEngine (e, pos, n) (fun r => { r with pass := true }))
  | .host r w => s.releaseHost r w
  | .peer q w => s.releasePeer q w

/-- Whether an access that has been let go has still to be performed. -/
def Tile.passing (x : Tile) : Bool :=
  x.slots.any (fun sl => sl.pass && sl.state == .ready) ||
  [x.bfe, x.cpe, x.nme].any (fun o => match o with | some r => r.pass && r.wait == .run | none => false)

/-- The accesses that home `h` holds for a granule, in arrival order: those of its entry, those that wait for one, and packets at the
port. -/
def State.heldFor (s : State) (h ctx : Nat) (a : Word) : List HeldAcc :=
  (match (s.tile h).pendingOf ctx a with | some e => e.held | none => []) ++
  (s.tile h).overflow.filter (fun g => g.of ctx a) ++
  (s.net.filter (fun p => p.held && p.dst == h && (HeldAcc.packet p).of ctx a)).map HeldAcc.packet

/-- The entry of a granule without its held accesses; it goes when it serves nobody else. -/
def Tile.unholdAll (x : Tile) (ctx : Nat) (a : Word) : Tile :=
  { x with overflow := x.overflow.filter (fun g => !g.of ctx a)
           pendings := x.pendings.filterMap (fun (p : Pending) =>
             if !p.is ctx (objOf a) (granOf a) then some p
             else if p.writes.isEmpty && p.threads.isEmpty && p.engines.isEmpty && p.poster.isNone then none
             else some { p with held := [], drain := false }) }

/-- R294 step 8: the oldest access held for a granule is decided afresh by R292; those behind it stay held. -/
def State.releaseOne (s : State) (h ctx : Nat) (a : Word) : Option State :=
  match s.heldFor h ctx a with
  | [] => none
  | g :: rest =>
    if (s.tile h).passing then none
    else
      let mine (p : Packet) : Bool := p.held && p.dst == h && (HeldAcc.packet p).of ctx a
      let s : State := { s with net := s.net.filter (fun p => !mine p) }
      let s := (s.modTile h (fun x => x.unholdAll ctx a)).releaseAcc h g
      some (if rest.isEmpty then s.reopen h else rest.foldl (fun s g => match g with
        | .packet p => if (s.tile h).canHold ctx a then s.holdAcc h ctx a g else s.hold p
        | _ => s.holdAcc h ctx a g) s)

/-! ### `xmap` (R199, R293) -/

/-- R288: the records an object takes in its directory slab: descriptor, mask, home-map groups that hold an entry. -/
def State.slabRecords (s : State) (key : Nat) (o : Object) : Nat :=
  1 + (if o.set.isSome then (o.w * o.h + 511) / 512 else 0) +
  (((s.homeMap.filter (fun e => e.1 / 2 ^ 24 == key)).map (fun e => e.1 / 16)).eraseDups).length

def State.slabUsed (s : State) (t : Nat) : Nat :=
  (s.objects.filter (fun e => dirTile (e.1 / 2 ^ 24) (e.1 % 2 ^ 24) == t)).foldl (fun n e => n + s.slabRecords e.1 e.2) 0

/-- R288: whether the directory slab has no room for the home-map record of a granule. DESIGN CHOICE (log 96): `xmap` then gives
NOSPACE. -/
def State.slabFull (s : State) (ctx : Nat) (a : Word) : Bool :=
  let d := dirTile ctx (objOf a)
  let key := granKey ctx (objOf a) (granOf a)
  !s.homeMap.any (fun e => e.1 / 16 == key / 16) && s.slabUsed d ≥ 262144

/-- R199: the checks of `xmap`, in their order: the word it answers where it does not map. -/
def State.xmapCheck (s : State) (ctx : Nat) (a w : Word) : Option Word :=
  match (if s.objectGoing ctx (objOf a) then none else s.object ctx (objOf a)) with
  | none => some (statusBits Status.gone 0)
  | some o =>
    if offOf a ≥ o.size then some (statusBits Status.gone 0)
    else if MapWord.bad w || o.place = 3 || o.peer then some (statusBits Status.badArg 0)
    else
      let home := s.trueHome ctx a 0
      let there := home.bind (fun h => ((s.tile h).extent ctx (objOf a) (granOf a)).map (fun e => (h, e.page)))
      match there with
      | some (h, p) => some (statusBits Status.present (pageBits p + (s.name h).toNat * 2 ^ 32))
      | none =>
        let n := MapWord.home w
        let bad : Bool := match home with
          | some _ => MapWord.given w
          | none => !MapWord.given w || !s.nameOk n
        let h := home.getD (nameTile n)
        if bad || (MapWord.hasPage w && (s.tile h).pageUsed (MapWord.page w)) then some (statusBits Status.badArg 0)
        else if ((s.tile h).pickPage w).isNone || (home.isNone && s.slabFull ctx a) then some (statusBits Status.noSpace 0)
        else none

/-- The mapping itself, once its home-map record is invalidated everywhere: the page is zero-filled and mapped, and the
pending entry closed. -/
def State.mapNow (s : State) (h ctx : Nat) (a : Word) (page : Nat) : State :=
  (s.modTile h (fun x => x.dropExtent ctx a)).mapGranule h ctx a page

/-- The end of an operation: its answer, or an XDONE notice where the form returned PENDING (R294, R389). -/
def State.finishXop (s : State) (h : Nat) (o : XOp) (v : Word) : State :=
  let s := s.endXop h o.id
  if o.async then s.notice h 0x48 o.ctx o.a v 0#64 else s.svcReply h o.who v

/-- R294 step 8: an operation whose mapping is settled lets the accesses go that its home holds, and ends after the last. -/
def State.toRelease (s : State) (h : Nat) (o : XOp) (v : Word) : State :=
  if (s.heldFor h o.ctx o.a).isEmpty then s.finishXop h o v else s.modXop h o.id (fun o => { o with step := 8, status := v })

/-- `xmap` at its home. A FIRST-TOUCH granule without a home takes the one given: the extent is installed in the moving state
until every tile has forgotten the home-map record. -/
def State.xmap (s : State) (h ctx : Nat) (a w : Word) (who : Asker) : State :=
  match s.xmapCheck ctx a w with
  | some v => s.svcReply h who v
  | none =>
    match s.trueHome ctx a 0 with
    | some u =>
      let p := ((s.tile u).pickPage w).getD 0
      (s.mapNow u ctx a p).svcReply h who (statusBits Status.done (pageBits p))
    | none =>
      let u := nameTile (MapWord.home w)
      let p := ((s.tile u).pickPage w).getD 0
      let s : State := { s with homeMap := s.homeMap.put (granKey ctx (objOf a) (granOf a)) (homeEntry u) }
      let s := s.modTile u (fun x => x.putExtent { ctx := ctx, obj := objOf a, gran := granOf a, state := .moving, page := p })
      let (s, id) := s.newXop u { id := 0, op := .xmap, ctx := ctx, a := a, w := w, who := who, step := 5, page := p }
      let (s, n) := s.invalidate u id ⟨ctx, objOf a, .home (granOf a / 16)⟩
      s.modXop u id (fun o => { o with acks := n })

/-! ### `xunmap` and `xdrain` (R199, R294) -/

/-- The new home of an `xdrain`. -/
def drainHome (w : Word) (h : Nat) : Nat := if MapWord.given w then nameTile (MapWord.home w) else h

/-- R199: the checks of `xunmap` and `xdrain` at home `h`. -/
def State.drainCheck (s : State) (op : SvcOp) (h ctx : Nat) (a w : Word) : Option Word :=
  let st (n : Nat) : Option Word := some (statusBits n 0)
  let ext := (s.tile h).extent ctx (objOf a) (granOf a)
  let place := (s.object ctx (objOf a)).map (·.place)
  let u := drainHome w h
  let argBad : Bool := op == .xdrain && (MapWord.bad w ||
    (MapWord.given w && (!s.nameOk (MapWord.home w) || place != some 2)) ||
    (MapWord.hasPage w && ((s.tile u).pageUsed (MapWord.page w))))
  if place = some 3 || argBad then st Status.badArg
  else if op == .xdrain && !MapWord.hasPage w && (s.tile u).freePage.isNone then st Status.noSpace
  else match ext with
    | none => st Status.gone
    | some e => if e.state ≠ .mapped then st Status.badArg else none

/-- The word an `xunmap` or `xdrain` that ends well gives. -/
def drainWord (op : SvcOp) (p : Nat) : Word := statusBits Status.done (if op = .xdrain then pageBits p else 0)

/-- R294 steps 3 to 8, once no command holds rows of the granule: lines written back and dropped; the copy; the mapping. A move
to another home then waits for the invalidation of its home-map record. -/
def State.drainGo (s : State) (h : Nat) (o : XOp) : State :=
  let ctx := o.ctx
  let a := o.a
  let s := s.dropLines h (fun l => l.ctx == ctx && l.obj == objOf a && l.ln / 1024 == granOf a)
  match (s.tile h).extent ctx (objOf a) (granOf a) with
  | none => s.toRelease h o (statusBits Status.gone 0)
  | some e =>
    if o.op = .xunmap then
      (s.modTile h (fun x => x.dropExtent ctx a)).toRelease h o (drainWord o.op 0)
    else
      let u := drainHome o.w h
      let page := if MapWord.hasPage o.w && (s.tile u).pageUsed (MapWord.page o.w) then none else (s.tile u).pickPage o.w
      match page with
      | none =>
        let st := if MapWord.hasPage o.w then Status.badArg else Status.noSpace
        (s.modTile h (fun x => x.setExtState ctx a .mapped)).toRelease h o (statusBits st 0)
      | some p =>
        let s := s.modMem (fun m => m.move (dramKey h e.page 0) (dramKey u p 0) 8192)
        let ext : Extent := { ctx := ctx, obj := objOf a, gran := granOf a, page := p }
        if u = h then
          (s.modTile h (fun x => (x.dropExtent ctx a).putExtent ext)).toRelease h o (drainWord o.op p)
        else
          let s := s.modTile h (fun x => x.setExtState ctx a .moving)
          let s := s.modTile u (fun x => x.putExtent ext)
          let s : State := { s with homeMap := s.homeMap.put (granKey ctx (objOf a) (granOf a)) (homeEntry u) }
          let (s, n) := s.invalidate h o.id ⟨ctx, objOf a, .home (granOf a / 16)⟩
          s.modXop h o.id (fun o => { o with step := 6, acks := n, page := p })

/-- `xunmap` or `xdrain` at home `h`: it goes on at once, or returns PENDING while commands hold the granule's rows. -/
def State.drainStart (s : State) (op : SvcOp) (h ctx : Nat) (a w : Word) (who : Asker) : State :=
  match s.drainCheck op h ctx a w with
  | some v => s.svcReply h who v
  | none =>
    let s := s.modTile h (fun x => x.setExtState ctx a .draining)
    let held := match (s.tile h).extent ctx (objOf a) (granOf a) with | some e => e.npin | none => 0
    let o : XOp := { id := 0, op := op, ctx := ctx, a := a, w := w, who := who, step := 2 }
    let (s, id) := s.newXop h o
    if held = 0 then s.drainGo h { o with id := id }
    else (s.modXop h id (fun o => { o with async := true })).svcReply h who (statusBits Status.pending 0)

/-- `dinval` at the directory tile. -/
def State.dinval (s : State) (h ctx : Nat) (a : Word) (who : Asker) : State :=
  if (s.object ctx (objOf a)).isNone then s.svcReply h who (statusBits Status.gone 0)
  else
    let (s, id) := s.newXop h { id := 0, op := .dinval, ctx := ctx, a := a, w := 0#64, who := who, step := 9 }
    let (s, n) := s.invalidate h id ⟨ctx, objOf a, .desc⟩
    s.modXop h id (fun o => { o with acks := n })

/-- R199: an extent command at the tile that takes it. A command whose granule has moved meanwhile goes to its home. -/
def State.svcPerform (s : State) (h : Nat) (op : SvcOp) (ctx : Nat) (a w : Word) (who : Asker) : State :=
  match op with
  | .xmap => s.xmap h ctx a w who
  | .dinval => s.dinval h ctx a who
  | .xunmap | .xdrain => s.drainStart op ((s.trueHome ctx a h).getD h) ctx a w who

def execServiceRequest (n : Nat) (s : State) : Out :=
  onPacket s n (fun p s => match p.body with
    | .svcReq op ctx a w who => .yes (s.svcPerform p.dst op ctx a w who)
    | _ => .no)

/-! ### Destruction of objects, loss of peers (R283, R289, R297, R398) -/

/-- Every granule of an object that a tile holds, with its home. -/
def State.granulesOf (s : State) (ctx obj : Nat) : List (Nat × Extent) :=
  s.tiles.flatMap (fun e => (e.2.extents.filter (fun q => q.2.ctx == ctx && q.2.obj == obj)).map (fun q => (e.1, q.2)))

/-- The granules unmapped as `xunmap` unmaps them; those that a command has pinned wait. -/
def State.unmapAll (s : State) (ctx obj : Nat) : State :=
  (s.granulesOf ctx obj).foldl (fun s q =>
    let h := q.1
    let e := q.2
    let a : Word := BitVec.ofNat 64 (obj * 2 ^ 40 + e.gran * 2 ^ 16)
    if e.state ≠ .mapped then s
    else
      let o : XOp := { id := 0, op := .xunmap, ctx := ctx, a := a, w := 0#64, who := .nobody, step := 2 }
      let s := s.modTile h (fun x => x.setExtState ctx a .draining)
      let (s, id) := s.newXop h o
      if e.npin = 0 then s.drainGo h { o with id := id } else s) s

/-- Whether an extent operation of an object is pending. -/
def State.objOps (s : State) (ctx obj : Nat) : Bool :=
  s.tiles.any (fun e => e.2.xops.any (fun o => o.ctx == ctx && objOf o.a == obj))

/-- What is left of a destroyed object goes: its descriptor and home map, the pages that every tile not listed holds for it, and the
accesses that waited for its granules, whose writes end as those of a killed entry (R107; log 97). -/
def State.dropObject (s : State) (ctx obj : Nat) : State :=
  let s : State := { s with
    objects := s.objects.del (objKey ctx obj)
    homeMap := s.homeMap.filter (fun e => e.1 / 2 ^ 24 != objKey ctx obj)
    mem := s.mem.clear (codeKey ctx obj 0) (2 ^ 37)
    freshExtents := s.freshExtents.filter (fun e => !(e.2.ctx == ctx && e.2.obj == obj)) }
  s.tiles.foldl (fun s e => (e.2.pendings.filter (fun p => p.ctx == ctx && p.obj == obj)).foldl (fun s p =>
    let a : Word := BitVec.ofNat 64 (obj * 2 ^ 40 + p.gran * 2 ^ 16)
    (s.killPending e.1 ctx a).releaseJoined (joinKey ctx a)) s) s

/-- R289: the records of an object are invalidated in every directory cache; the directory gives them to nobody meanwhile. -/
def State.forgetObject (s : State) (ctx obj : Nat) : State :=
  let d := dirTile ctx obj
  let a : Word := BitVec.ofNat 64 (obj * 2 ^ 40)
  let (s, id) := s.newXop d { id := 0, op := .dinval, ctx := ctx, a := a, w := 0#64, who := .nobody, step := 10 }
  let (s, n) := s.invalidate d id ⟨ctx, obj, .desc⟩
  if n = 0 then (s.endXop d id).dropObject ctx obj else s.modXop d id (fun o => { o with acks := n })

/-- R297: the directory tile of one descriptor has finished. Once every one has, the loss is reported to the host, or the
re-admission answered. -/
def State.peerSettled (s : State) (o : XOp) : State :=
  if s.tiles.any (fun e => e.2.xops.any (fun q => q.step == 11 && q.w == o.w && q.who == o.who)) then s
  else match o.who with
    | .host r => s.mgmtAnswer r 0x09 Status.done 0 []
    | _ => s.notify 4 o.w 0#64 0#64 0#64

/-- R297: the lost bit of every descriptor of a module set or cleared, and those descriptors invalidated in every directory cache. -/
def State.markPeer (s : State) (m : Nat) (lost : Bool) (who : Asker) : State :=
  let hit (o : Object) : Bool := o.peer && o.module == m
  let keys := (s.objects.filter (fun e => hit e.2)).map Prod.fst
  let s : State := { s with
    objects := Map.mapVals (fun o => if hit o then o.setLost lost else o) s.objects
    lostPeers := if lost then insertNat s.lostPeers m else eraseNat s.lostPeers m }
  let o (k : Nat) : XOp := { id := 0, op := .dinval, ctx := k / 2 ^ 24, a := BitVec.ofNat 64 (k % 2 ^ 24 * 2 ^ 40),
                             w := BitVec.ofNat 64 m, who := who, step := 11 }
  if keys.isEmpty then s.peerSettled (o 0)
  else keys.foldl (fun s k =>
    let d := dirTile (k / 2 ^ 24) (k % 2 ^ 24)
    let (s, id) := s.newXop d (o k)
    let (s, n) := s.invalidate d id ⟨k / 2 ^ 24, k % 2 ^ 24, .desc⟩
    s.modXop d id (fun o => { o with acks := n })) s

/-! ### Steps of a pending operation (R293, R294) -/

/-- The next step of operation `o` of tile `h`, where it can be taken. -/
def State.xopNext (s : State) (h : Nat) (o : XOp) : Option State :=
  match o.step with
  | 2 =>
    let held := match (s.tile h).extent o.ctx (objOf o.a) (granOf o.a) with | some e => e.npin | none => 0
    if held = 0 then some (s.drainGo h o) else none
  | 5 =>
    if o.acks = 0 then some ((s.mapNow h o.ctx o.a o.page).toRelease h o (statusBits Status.done (pageBits o.page))) else none
  | 6 =>
    if o.acks = 0 then some ((s.modTile h (fun x => x.dropExtent o.ctx o.a)).toRelease h o (drainWord o.op o.page)) else none
  | 8 => match s.releaseOne h o.ctx o.a with
    | some s => some (if (s.heldFor h o.ctx o.a).isEmpty && !(s.tile h).passing then s.finishXop h o o.status else s)
    | none => if (s.heldFor h o.ctx o.a).isEmpty && !(s.tile h).passing then some (s.finishXop h o o.status) else none
  | 10 => if o.acks = 0 then some ((s.endXop h o.id).dropObject o.ctx (objOf o.a)) else none
  | 11 => if o.acks = 0 then some ((s.endXop h o.id).peerSettled o) else none
  | _ => if o.acks = 0 then some ((s.endXop h o.id).svcReply h o.who (statusBits Status.done 0)) else none

/-! ### Destruction of objects and contexts (R283, R398) -/

/-- R289, R398: an object whose destruction has been asked for: its granules are unmapped, then its records invalidated in every
cache; `none` of it is left once every tile has answered. -/
def State.settleObject (s : State) (ctx obj : Nat) : State :=
  if (s.object ctx obj).isNone || s.objOps ctx obj then s
  else
    let s := s.unmapAll ctx obj
    if (s.granulesOf ctx obj).isEmpty && !s.objOps ctx obj then s.forgetObject ctx obj else s

def State.destroyObject (s : State) (ctx obj : Nat) (r : HostReq) : State :=
  let s := s.settleObject ctx obj
  if (s.object ctx obj).isNone then s.mgmtAnswer r 0x06 Status.done 0 [] else { s with objDying := s.objDying ++ [(ctx, obj, r)] }

/-- R283: a context that is to be destroyed holds nothing any more: its objects go, then the context. -/
def State.settleContext (s : State) (ctx : Nat) : State :=
  match (s.ctxs.look ctx).bind (·.dying) with
  | none => s
  | some r =>
    if s.insts.any (fun e => e.2.ctx == ctx) then s
    else
      let objs := ((s.objects.filter (fun e => e.1 / 2 ^ 24 == ctx)).map (fun e => e.1 % 2 ^ 24))
      let s := objs.foldl (fun s o => s.settleObject ctx o) s
      if s.objects.any (fun e => e.1 / 2 ^ 24 == ctx) then s
      else ({ s with ctxs := s.ctxs.del ctx } : State).mgmtAnswer r 0x04 Status.done 0 []

/-- Destructions that wait go on where they can. -/
def State.goOn (s : State) : State :=
  let l := s.objDying
  let s := l.foldl (fun s e => s.destroyObject e.1 e.2.1 e.2.2) { s with objDying := [] }
  s.ctxs.keys.foldl (fun s c => s.settleContext c) s

def execExtentDrainComplete (t i : Nat) (s : State) : Out :=
  match (s.tile t).xops.find? (fun o => o.id == i) with
  | none => .fault .notEnabled
  | some o => match s.xopNext t o with
    | none => .fault .notEnabled
    | some s => .next s.goOn

/-! ### Returned packets (R107, R202, R214, R263, R379) -/

/-- R202: the sender's records of an address, as the directory holds them now. -/
def State.refresh (s : State) (t ctx : Nat) (a : Word) : State :=
  s.modTile t (fun x => { x with odc := x.odc.map (fun e =>
    if e.key.ctx == ctx && e.key.obj == objOf a then s.dirRecord e.key else e) })

/-- A packet sent again with the name of tile `dst` in the current generation. -/
def State.resend (s : State) (p : Packet) (dst : Nat) (again : Bool) : State :=
  s.send { p with dst := dst, gen := s.gen, ret := .no, held := false, resent := p.resent || again }

end Sys2Proof.Machine
end

