-- ==== Sys2Proof/Machine/Flight.lean ====
section
/-! DEFINITION. Waits that end by a condition (R19), fills (R237), departures and their bounds (R204), arrivals and returns
(R206-R209), retries (R132, R216), scrubs (R243) and retirement (R311). -/

namespace Sys2Proof.Machine

/-! ### Waits (R19) -/

/-- Whether the condition of a wait holds. -/
def State.waitOver (s : State) (t k : Nat) (w : Why) : Bool :=
  let x := s.tile t
  let sl := x.slot k
  match w with
  | .handles => s.handlesWait t k != .wait
  | .handle b => s.handleWait t k b != .wait
  | .noTracker => s.countOn t sl.th != .noFree
  | .trackerFull => s.countOn t sl.th != .full
  | .mac m => x.settled m && !(x.mac m).due
  | .engine e => (s.slotQ t k e).q.length < 2
  | .timeline e => match s.waiting t k with
    | some (.tlwait p _) => (sl.th.regs.get p).toNat ≤ (s.slotQ t k e).done
    | _ => true
  | .buffer b => match s.waiting t k with
    | some (.cbwait _ q) => (sl.th.reg q).toNat ≤ (x.buf b).filled
    | _ => true
  | .vector => x.vec.isNone && !x.vecAhead k (sl.vecSince.getD s.now)
  | .link => !s.linkBound t k
  | .alone => (List.range 16).all (fun j => j == k || !s.member t sl.team j)
  | .message => let f := s.field (s.fieldOf t)
    !(f.fbuf.isEmpty && f.mq.isEmpty)
  | .extent =>
    let mine (h : HeldAcc) : Bool := match h with
      | .slot j _ _ => j == k
      | _ => false
    !(x.pendings.any (fun p => p.held.any mine) || x.overflow.any mine)
  | _ => false

/-- R19: the slot is READY and its instruction goes on; all members of a team at `bar` go on together (R142). -/
def execWaitResume (t k : Nat) (s : State) : Out :=
  match (s.slot t k).state with
  | .wait .barrier =>
    let p := (s.slot t k).team
    onEvent s (s.allAtBar t p && !(s.tile t).shut) (s.barrier t p)
  | .wait w =>
    onEvent s (s.waitOver t k w && !(s.tile t).shut)
      (s.modSlot t k (fun sl => { sl with state := .ready, retry := true, heldWr := false }))
  | _ => .fault .notEnabled

/-- R237: the fill of the line that a load waits for merges into the L1, and the load goes on. -/
def execMergingFill (t k : Nat) (s : State) : Out :=
  let sl := s.slot t k
  let ctx := s.memCtx t k
  let a := s.addrAt t k
  let s' := match s.gate t ctx a with
    | .go => s.l1Fill t ctx a (s.uoOf ctx a)
    | _ => s
  onEvent s (sl.state == .wait .fill && !(s.tile t).shut) (s'.modSlot t k (fun sl => { sl with state := .ready, retry := true }))

/-- R216: a parking instruction that found the spill area full is attempted again. -/
def execParkRetry (t k : Nat) (s : State) : Out :=
  match (s.slot t k).state with
  | .wait (.park since) =>
    onEvent s (s.now ≥ since + 256 && !(s.tile t).shut) (s.modSlot t k (fun sl => { sl with state := .ready, retry := true }))
  | _ => .fault .notEnabled

/-- R385: the contexts of lost entries of the waiter spill area end as killed. -/
def State.dropSpilled (s : State) (t : Nat) : State :=
  let x := s.tile t
  (x.spilled.filterMap (fun w => w.th.filter (·.foul))).foldl (fun s th => s.killContext t th)
    (s.setTile t { x with spilled := x.spilled.filter (fun w => !w.foul) })

def execWaiterUnspill (t : Nat) (s : State) : Out :=
  let x := s.tile t
  onEvent s (!x.spilled.isEmpty && (x.waiters.length < 256 || x.spilled.any Waiter.foul))
    ((s.dropSpilled t).modTile t Tile.unspill)

/-! ### Departures (R204, R205) -/

/-- The flit of a departing thread: a `hop` continues after its instruction, every other form issues it again. -/
def Slot.flit (sl : Slot) (name : BitVec 24) (kind : Nat) : Flit :=
  { kind := kind, th := if kind = 1 then { sl.th with pc := sl.ipc + 4#64 } else sl.th, frm := name, window := sl.window,
    resent := sl.resent }

def State.sendFlit (s : State) (t dst gen : Nat) (f : Flit) : State :=
  s.send { vc := 3, src := t, dst := dst, gen := gen, body := .migrate f }

/-- R251: the input buffer of a router, by its site and port. -/
def inputKey (site port : Nat) : Nat := site * 8 + port

/-- R251: the input buffers that a flit passes along a path of sites, the local one of its source first. -/
def inputKeys : List Nat → List Nat
  | [] => []
  | a :: rest => inputKey a 4 :: ((a :: rest).zip rest).map (fun q =>
      inputKey q.2 (oppositePort (((List.range 4).find? (fun o => siteStep q.1 o == some q.2)).getD 0)))

/-- R251: how far along its buffers a flit comes, `n` standing in each: it heads the one it is in, and the next has room for it. -/
def flitSpot (n : Map Nat) : Nat → List Nat → Nat
  | k, [] => k
  | k, j :: rest => if n.lookD k 0 = 0 ∧ n.lookD j 0 < 4 then flitSpot n j rest else k

/-- R209, R251: how many flits each VC3 input buffer holds, every flit as far on its way as those before it let it come. -/
def State.vc3Load (s : State) : Map Nat :=
  (s.net.filter (fun p => p.vc == 3 && p.ret == .no)).foldl (fun n p => match inputKeys (s.sitesOf p) with
    | [] => n
    | k :: ks =>
      let j := flitSpot n k ks
      n.put j (n.lookD j 0 + 1)) []

/-- R209, R251: whether the router of tile `t` takes a flit on VC3: its local input buffer has room. The input buffers of four flits are
shared by all flits that pass, so that one bound for a full tile stops those behind it. -/
def State.flitCredit (s : State) (t : Nat) : Bool := s.vc3Load.lookD (inputKey (s.site t) 4) 0 < 4

/-- R112, R213: the load of a departing thread counts in its bounce window. -/
def Slot.bounced (sl : Slot) (kind dst : Nat) : Slot :=
  if kind ≠ 0 then sl
  else
    let (b, w) := sl.bounceTo dst
    { sl with th := sl.th.setBounce b, window := w }

/-- The context of an inline child without the handles that its departure releases. -/
def Thread.unhandled (th : Thread) : Thread := (th.setHandle false 0#32).setHandle true 0#32

/-- R204 step 3: the router accepts the flit once it is formed and within the bound of the wait. A departing slot becomes FREE; a `spawn` waits for its
answer; an inline child's slot becomes FREE and its handles are released (R133, R134). -/
def execMigrationDeparture (t k : Nat) (s : State) : Out :=
  let sl := s.slot t k
  match sl.state with
  | .wait w =>
    if (match w.bound with | some c => decide (c ≤ s.now) | none => true) || !w.formed s.now then .fault .notEnabled
    else match w with
    | .departure _ kind dst gen =>
      if !s.flitCredit t then .fault .notEnabled
      else
        let s := s.emit t k 1 ((nameOf gen dst).zeroExtend 64)
        .next ((s.sendFlit t dst gen ((sl.bounced kind dst).flit (s.name t) kind)).vacate t k)
    | .childFlit _ dst gen => match sl.pend with
      | .spawn _ target pc m =>
        if !s.flitCredit t then .fault .notEnabled
        else .next ((s.sendFlit t dst gen (s.childFlit t k pc m (isPlacement target))).modSlot t k
          (fun sl => { sl with state := .wait .reply }))
      | _ => .fault .notEnabled
    | .resumeFlit _ dst gen =>
      let f : Flit := { kind := 4, th := sl.th.unhandled, frm := s.name t, resent := sl.resent }
      if !s.flitCredit t then .fault .notEnabled
      else .next (((s.sendFlit t dst gen f).releaseHandles t sl.th 0).vacate t k)
    | _ => .fault .notEnabled
  | _ => .fault .notEnabled

/-- R204: a load whose flit is not accepted for 4,096 cycles is performed as a remote read. -/
def execLoadDepartureTimeout (t k : Nat) (s : State) : Out :=
  let sl := s.slot t k
  match sl.state with
  | .wait (.departure since 0 dst gen) =>
    if s.now < since + 4096 then .fault .notEnabled
    else match s.waiting t k with
      | some (.ld d b z m _ _ f) =>
        let (a, base) := addrM sl.th b m (sizeBytes z) sl.ext f
        .next (s.remoteRead t k dst gen a d z sl.sx base false)
      | some (.ldx d a b z _ _) => .next (s.remoteRead t k dst gen (addrX sl.th a b (sizeBytes z)) d z sl.sx none false)
      | _ => .fault .notEnabled
  | _ => .fault .notEnabled

/-- R204: QSTALL after 65,536 cycles; an inline child's release and decrement stand. -/
def execQstallTimeout (t k : Nat) (s : State) : Out :=
  match (s.slot t k).state with
  | .wait (.departure since kind _ _) =>
    onEvent s (kind != 0 && s.now ≥ since + 65536) (s.raise t k FaultCode.qstall (s.addrAt t k) 0#64)
  | .wait (.resumeFlit since _ _) => onEvent s (s.now ≥ since + 65536) (s.raise t k FaultCode.qstall 0#64 0#64)
  | _ => .fault .notEnabled

/-- R204: a child's flit that is not accepted for 4,096 cycles counts as refused. -/
def execChildFlitTimeout (t k : Nat) (s : State) : Out :=
  match (s.slot t k).state with
  | .wait (.childFlit since _ _) => onEvent s (s.now ≥ since + 4096) (s.childRefused t k)
  | _ => .fault .notEnabled

/-- R132, R210: a waiting `spawn` looks for a place again every 256 cycles, or when a slot of its tile is open to it. -/
def execSpawnRetry (t k : Nat) (s : State) : Out :=
  let sl := s.slot t k
  match sl.state, sl.pend with
  | .wait (.spawn since), .spawn d target pc m =>
    match (if s.localSpawner t = some k then s.spawnerSlot t else none) with
    | some j => onEvent s (!(s.tile t).shut) (s.spawnIn t k j d pc m)
    | none => onEvent s (s.now ≥ since + 256 && !(s.tile t).shut) (s.spawnPlace t k d target pc m)
  | _, _ => .fault .notEnabled

/-! ### Arrivals (R206) -/

/-- R133: a resume flit at the birth tile: the caller of its frame arrives, or ends as killed with a lost frame (R385). -/
def State.resumeCaller (s : State) (t : Nat) (f : Flit) : Arrival :=
  match (s.tile t).frames.find? (fun g => g.child == f.th.tid) with
  | none => .dropped s
  | some g =>
    let s := s.modTile t (fun x => { x with frames := x.frames.filter (fun h => h.child != f.th.tid) })
    if g.th.foul then .dropped (s.killContext t g.th)
    else match s.arrive t { f with th := g.th } with
    | .full => .full
    | .refused => .full
    | r => r

/-- R206: a flit whose name is current. A refused child, and one that is taken, is answered to its caller (R132). -/
def State.takeFlit (s : State) (p : Packet) (f : Flit) : Taken :=
  let t := p.dst
  match (if f.kind = 4 then s.resumeCaller t f else s.arrive t f) with
  | .full => .no
  | .dropped s => .yes s
  | .refused => .yes (match f.caller with | some k => s.answer t p.src k (.admission none) | none => s)
  | .took s => .yes (match f.kind, f.caller with | 3, some k => s.answer t p.src k (.admission (some (s.lastTid t))) | _, _ => s)

/-- R107, R206, R263: a flit returned STALE or FENCED to the tile it left. A child's is sent once more for its `spawn`, or its
caller raises the fault; any other context arrives as kind 5 with the resent bit and executes its instruction again, or raises the fault
at a second return. Of an inline child only the departure of its resume flit is repeated (R204). DESIGN CHOICE (log 99): a tile that
a placement request picked and that is fenced, or whose name is returned twice, counts as one that refused (R132). -/
def State.flitBack (s : State) (p : Packet) (f : Flit) : Taken :=
  let t := p.src
  let n : Word := (nameOf p.gen p.dst).zeroExtend 64
  let code := if p.ret = .fenced then FaultCode.fenced else FaultCode.stale
  match f.kind, f.caller with
  | 3, some k =>
    let sl := s.slot t k
    if sl.state ≠ .wait .reply ∨ !isSpawn sl.pend then .yes s
    else if p.ret = .stale ∧ !sl.resent then
      .yes ((s.sendFlit t p.dst s.gen { f with resent := true }).modSlot t k (fun sl => { sl with resent := true }))
    else match sl.pend with
      | .spawn _ target _ _ =>
        if isPlacement target then .yes (s.childRefused t k) else .yes (s.raise t k code (target &&& 0xFFFFFF#64) n)
      | _ => .yes s
  | _, _ =>
    let th := if f.kind = 1 then { f.th with pc := f.th.pc - 4#64 } else f.th
    let s := match s.runAt t th.ctx th.pc [] 3 with
      | some (.hop _, _) => s
      | some (i, ext) => if f.kind = 4 then s else s.refresh t th.ctx (effAddr th i ext)
      | none => s
    let back := if p.ret = .fenced ∨ f.resent then some (code, n) else none
    let g : Flit := { f with kind := 5, th := th, frm := s.name t, resent := true, back := back, released := f.released || f.kind == 4 }
    match s.arrive t g with
    | .took s | .dropped s => .yes s
    | .refused | .full => .no

def execMigrationFlit (n : Nat) (s : State) : Out :=
  match s.net[n]? with
  | none => .fault .notEnabled
  | some p => match p.body with
    | .migrate f =>
      if p.ret = .no then
        onPacket s n (fun p s => s.takeFlit p f)
      else if (s.tile p.src).closed then .fault .notEnabled
      else match ({ s with net := dropAt s.net n } : State).flitBack p f with
        | .no => .fault .notEnabled
        | .yes s => .next s
    | _ => .fault .notEnabled

/-! ### The spill ring (R208) -/

/-- The oldest ring entry that can move: its queue has room, or it has none and can open a team. A lost one ends as killed (R385). -/
def State.ringMove (s : State) (t : Nat) : Option Nat :=
  let x := s.tile t
  let fits (f : Flit) : Bool := !x.quiesced f.th.kin && (match x.queues.look f.th.ctx with
    | some q => q.q.length < q.depth
    | none => false)
  let opens (f : Flit) : Bool := !x.quiesced f.th.kin && (x.queues.look f.th.ctx).isNone && s.canSeat t f.th.kin
  match firstIdx fits x.ring with
  | some i => some i
  | none => firstIdx opens x.ring

def execRingToQueue (t : Nat) (s : State) : Out :=
  match s.ringMove t with
  | none => .fault .notEnabled
  | some i => match (s.tile t).ring[i]? with
    | none => .fault .notEnabled
    | some f =>
      if (s.tile t).shut then .fault .notEnabled
      else if f.th.foul then .next ((s.modTile t (fun x => { x with ring := dropAt x.ring i }.tidyQueues)).killContext t f.th)
      else
        let s := match (s.tile t).queues.look f.th.ctx with
          | some _ => s
          | none => (s.openTeam t f.th.kin f.th.ctx).2
        .next (s.modTile t (fun x => match x.queues.look f.th.ctx with
          | none => x
          | some q => { x with ring := dropAt x.ring i, queues := x.queues.put f.th.ctx { q with q := q.q ++ [f] } }.tidyQueues))

/-! ### Scrubs (R242, R243) -/

/-- R243: a scrub is due on macros: scrubbing from now on, or once nothing loads them. -/
def Tile.dueScrub (x : Tile) (ms : List Nat) : Tile :=
  ms.foldl (fun (x : Tile) m => x.modMacro m (fun (c : Macro) =>
    if c.state = .loading then { c with due := true } else { c with state := .scrubbing, since := none })) x

def Tile.scrubbed (x : Tile) (m : Nat) : Bool := (x.mac m).state == .scrubbing

/-- R243: at most 8 macros of a tile scrub at once, the lowest-numbered first. -/
def execScrubStart (t m : Nat) (s : State) : Out :=
  let x := s.tile t
  let busy := ((List.range 256).filter (fun j => x.scrubbed j && (x.mac j).since.isSome)).length
  let first := (List.range 256).find? (fun j => x.scrubbed j && (x.mac j).since.isNone)
  onEvent s (first == some m && busy < 8) (s.setTile t (x.modMacro m (fun c => { c with since := some s.now })))

/-- R243: zero bytes, full tags, no poison, format RAW, group 0. -/
def State.scrub (s : State) (t m : Nat) : State :=
  (s.modMem (fun mem => mem.clear (spadKey t m 0) 2048)).modTile t (fun x => x.modMacro m (fun (c : Macro) =>
    { c with fmt := 0#4, grp := 0#2, state := .plain, since := none, due := false, loads := 0 }))

def execScrubEnd (t m : Nat) (s : State) : Out :=
  let c := (s.tile t).mac m
  onEvent s (c.state == .scrubbing && c.since.isSome) (s.scrub t m)

/-! ### Retirement (R311) -/

def EngQ.idle (q : EngQ) : Bool := q.q.isEmpty

/-- Whether a run belongs to a team position. -/
def runOf (r : Option Run) (p : Nat) : Bool := match r with | some r => r.pos == p | none => false

/-- R311: no command of the team is queued or runs. -/
def Tile.commandsDone (x : Tile) (p : Nat) (tm : Team) : Bool :=
  tm.bfe.idle && tm.cpe.idle && tm.nme.idle && tm.runB.isNone && tm.runC.isNone && tm.runN.isNone &&
  !runOf x.bfe p && !runOf x.cpe p && !runOf x.nme p

/-- R311: no thread of the instance holds a slot of the tile or waits there. -/
def State.instHere (s : State) (t kin : Nat) : Bool :=
  let x := s.tile t
  (List.range 16).any (fun k => s.holds kin t k) ||
  x.queues.any (fun e => e.2.q.any (fun f => f.th.kin == kin)) || x.ring.any (fun f => f.th.kin == kin) ||
  (x.waiters ++ x.spilled).any (fun w => match w.th with | some th => th.kin == kin | none => false) ||
  x.frames.any (fun f => f.th.kin == kin)

/-- The transfers that a team receives end with it: what they load is loaded no longer (R242, R243). -/
def Tile.endRecvs (x : Tile) (p : Nat) : Tile :=
  let mine := x.recvs.filter (fun r => r.pos == p && !r.dead)
  let x : Tile := { x with recvs := x.recvs.filter (fun r => r.pos != p || r.dead) }
  mine.foldl (fun (x : Tile) r =>
    let x := r.loading.foldl Tile.endLoad x
    match r.buf with
    | some b => x.fillEnd b r.slot
    | none => x) x

/-- A team gives up its macros to scrubs, its buffers, its position and its engine counters. -/
def Tile.dropTeam (x : Tile) (p : Nat) (ctx : Nat) : Tile :=
  let x := x.endRecvs p
  let mine := (List.range 256).filter (fun m => (x.mac m).owner == some p)
  let x := x.dueScrub mine
  { x with macros := x.macros.map (fun (c : Macro) => if c.owner = some p then { c with owner := none } else c)
           bufs := x.bufs.map (fun (b : CBuf) => if b.owner = some p then {} else b)
           teams := x.teams.del p
           queues := match x.queues.look ctx with
             | some q => x.queues.put ctx { q with pos := p }
             | none => x.queues }

def execTeamRetire (t p : Nat) (s : State) : Out :=
  let x := s.tile t
  match x.teams.look p with
  | none => .fault .notEnabled
  | some tm =>
    onEvent s (!tm.closed && tm.seam.isNone && !s.instHere t tm.kin && x.commandsDone p tm && !x.shut)
      ((s.setTile t (x.dropTeam p tm.ctx).tidyQueues).modInst tm.kin (fun i => { i with teams := i.teams - 1 }))

end Sys2Proof.Machine
end

