-- ==== Sys2Proof/Machine/Launch.lean ====
section
/-! DEFINITION. Launches: records and their checks (R298-R301), instance numbers and successors (R302, R314), dependences (R303,
R304), routes (R249, R253), release, orders and admission (R305-R308), live counts and completion (R311-R313, R324, R325). -/

namespace Sys2Proof.Machine

/-! ### Records (R298-R300) -/

/-- A word of an object as its home holds it now; a granule without a home, and an unmapped one, give zero. -/
def State.peek (s : State) (ctx : Nat) (a : Word) : Word :=
  match s.trueHome ctx a 0 with
  | none => 0#64
  | some h => match s.resid h ctx a with
    | .code | .page _ | .draining => (s.homeRead h ctx a).2.data
    | _ => 0#64

def State.peekByte (s : State) (ctx : Nat) (a : Word) : Byte :=
  (s.peek ctx (a &&& ~~~7#64)).extractLsb' (8 * (offOf a % 8)) 8

/-- The 32 words of a record in an object. -/
def State.peekRecord (s : State) (ctx : Nat) (a : Word) : List Word :=
  (List.range 32).map (fun i => s.peek ctx (a + BitVec.ofNat 64 (8 * i)))

/-- The words of a byte list. -/
def bytesWords (l : List Byte) (n : Nat) : List Word := (List.range n).map (fun i => bytesWord (l.drop (8 * i)))

/-- R298: whether an address names an object of a context. -/
def State.names (s : State) (ctx : Nat) (a : Word) : Bool := (s.object ctx (objOf a)).isSome

/-- R300: a route's header and its tile list: the route and the words after it, or `none` where the form is broken. -/
def parseRoute : List Word → Option (Route × List Word)
  | [] => none
  | hd :: rest =>
    let n := bits hd 15 8
    let k := (n + 3) / 4
    let ws := rest.take k
    let fields := ws.flatMap (fun w => (List.range 4).map (fun j => bits w (16 * j + 15) (16 * j)))
    if bits hd 63 16 ≠ 0 ∨ bits hd 7 6 ≠ 0 ∨ n < 2 ∨ ws.length < k ∨ (fields.drop n).any (· != 0) then none
    else some ({ num := bits hd 5 0, tiles := (fields.take n).map (fun c => c / 256 * 96 + c % 256 + (if c % 256 < 96 then 0 else 96 * 256)) },
               rest.drop k)

def parseRoutes : Nat → List Word → Option (List Route)
  | 0, _ => some []
  | n + 1, ws => match parseRoute ws with
    | none => none
    | some (r, rest) => (parseRoutes n rest).map (fun l => r :: l)

/-- R300: the route table at an object address. -/
def State.readRoutes (s : State) (ctx : Nat) (a : Word) : Option (List Route) :=
  match s.object ctx (objOf a) with
  | none => none
  | some o =>
    let n := (s.peek ctx a).toNat
    if n = 0 ∨ n > 64 ∨ offOf a % 8 ≠ 0 then none
    else
      let room := (o.size - offOf a) / 8
      parseRoutes n ((List.range (min (room - 1) (64 * 65))).map (fun i => s.peek ctx (a + BitVec.ofNat 64 (8 * i + 8))))

/-- R299: whether the packed words keep their reserved bits and ranges. -/
def recordBad (s : State) (ws : List Word) : Bool :=
  let w (i : Nat) : Word := ws.getD i 0#64
  let region := w 3
  let team := w 5
  let sched := w 6
  let x0 := bits region 7 0
  let y0 := bits region 15 8
  let rw_ := bits region 23 16
  let rh := bits region 31 24
  let thr := bits team 4 0
  let nops := bits sched 28 24
  let ops := ws.drop 16
  bits (w 1) 63 32 ≠ 0 || (w 12 != 0#64) || (w 13 != 0#64) || (w 14 != 0#64) ||
  bits region 63 32 ≠ 0 || rw_ < 1 || rw_ > 96 || rh < 1 || rh > 82 || x0 + rw_ > 96 || y0 + rh > s.rows ||
  bits team 63 37 ≠ 0 || bits team 27 25 ≠ 0 || bits team 7 5 ≠ 0 || thr < 1 || thr > 16 ||
  bits team 24 16 > 256 || bits team 36 32 > 16 || bits team 15 8 + bits team 24 16 > 256 ||
  bits team 31 28 + bits team 36 32 > 16 ||
  bits sched 63 29 ≠ 0 || bits sched 23 20 ≠ 0 || bits sched 15 15 ≠ 0 || nops > 16 ||
  bits sched 14 8 < 2 || bits sched 14 8 > 64 || bits sched 7 2 < 16 || bits sched 7 2 > 40 ||
  (ops.drop nops).any (· != 0#64) ||
  (ops.take nops).any (fun e => bits e 63 26 ≠ 0 || bits e 25 24 = 0 || bits e 23 0 = 0) ||
  !((ops.take nops).map (fun e => bits e 23 0)).Nodup

/-- R285: the tiles of a region whose bit of the mask at `a` is 1; all of them for address 0. -/
def State.maskTiles (s : State) (ctx : Nat) (a : Word) (x0 y0 w h : Nat) : List Nat :=
  let rank (r : Nat) : Nat := (y0 + r / w) * 96 + x0 + r % w
  if a = 0#64 then (List.range (w * h)).map rank
  else
    (List.range ((w * h + 7) / 8)).flatMap (fun i =>
      let b := s.peekByte ctx (a + BitVec.ofNat 64 i)
      (List.range 8).filterMap (fun j => if b.getLsbD j && 8 * i + j < w * h then some (rank (8 * i + j)) else none))

/-- A record as the root keeps it. -/
def State.toLaunch (s : State) (ctx : Nat) (ws : List Word) : Launch :=
  let w (i : Nat) : Word := ws.getD i 0#64
  let region := w 3
  let team := w 5
  let sched := w 6
  let x0 := bits region 7 0
  let y0 := bits region 15 8
  let rw_ := bits region 23 16
  let rh := bits region 31 24
  { entry := w 0, srkey := (w 1).extractLsb' 0 32, args := w 2, x0 := x0, y0 := y0, w := rw_, h := rh,
    tiles := s.maskTiles ctx (w 4) x0 y0 rw_ rh, fmac := bits team 15 8, nmac := bits team 24 16, fcb := bits team 31 28,
    ncb := bits team 36 32, thr := bits team 4 0, prio := bits sched 1 0, hk := bits sched 7 2, aq := bits sched 14 8,
    trace := sched.getLsbD 16, stop := sched.getLsbD 17, mig := sched.getLsbD 18, notify := sched.getLsbD 19,
    routes := if w 7 = 0#64 then [] else (s.readRoutes ctx (w 7)).getD [],
    succ := [w 8, w 9, w 10, w 11], htag := w 15,
    ops := ((ws.drop 16).take (bits sched 28 24)).map (fun e => (bits e 23 0, bits e 25 24)) }

namespace LaunchStatus
def accepted := 0
def disabled := 1
def badRec := 2
def noObj := 3
def routes := 4
def handles := 5
def busy := 6
end LaunchStatus

/-- R301 status 3. -/
def State.recordNoObj (s : State) (ctx : Nat) (ws : List Word) : Bool :=
  let w (i : Nat) : Word := ws.getD i 0#64
  let need := (bits (w 3) 23 16 * bits (w 3) 31 24 + 7) / 8
  let opt (a : Word) : Bool := a != 0#64 && !s.names ctx a
  let entryBad := match s.object ctx (objOf (w 0)) with
    | none => true
    | some o => !o.isCode || offOf (w 0) ≥ o.size
  entryBad || opt (w 2) || opt (w 4) || opt (w 7) || opt (w 8) || opt (w 9) || opt (w 10) || opt (w 11) ||
  ((ws.drop 16).take (bits (w 6) 28 24)).any (fun e => (s.object ctx (bits e 23 0)).isNone) ||
  (w 4 != 0#64 && (match s.object ctx (objOf (w 4)) with | none => true | some o => o.size < offOf (w 4) + need))

/-- Whether two tiles are logical neighbours. -/
def neighbours (a b : Nat) : Bool := tileDist a b == 1

/-- R301 status 4. -/
def State.routesBad (s : State) (l : Launch) : Bool :=
  !(l.routes.map (·.num)).Nodup ||
  l.routes.any (fun r => r.tiles.any (fun t => !s.isTile t) || (r.tiles.zip r.tiles.tail).any (fun p => !neighbours p.1 p.2) ||
    !l.tiles.contains (r.tiles.headD 0))

/-- R301 statuses 1 to 4 of a record, or its launch. -/
def State.checkRecord (s : State) (ctx : Nat) (ws : List Word) : Except Nat Launch :=
  if !s.enabled || (s.ctxs.look ctx).isNone then .error LaunchStatus.disabled
  else if recordBad s ws then .error LaunchStatus.badRec
  else if (ws.getD 7 0#64 != 0#64) && s.names ctx (ws.getD 7 0#64) && (s.readRoutes ctx (ws.getD 7 0#64)).isNone then
    .error LaunchStatus.badRec
  else if s.recordNoObj ctx ws then .error LaunchStatus.noObj
  else
    let l := s.toLaunch ctx ws
    if s.routesBad l then .error LaunchStatus.routes else .ok l

/-- The successor entries of a launch, read and checked: nothing for an empty entry. -/
def State.readSuccs (s : State) (ctx : Nat) : List Word → Except Nat (List (Option Launch))
  | [] => .ok []
  | a :: rest =>
    if a = 0#64 then match s.readSuccs ctx rest with
      | .error e => .error e
      | .ok l => .ok (none :: l)
    else match s.checkRecord ctx (s.peekRecord ctx a) with
      | .error e => .error e
      | .ok r => match s.readSuccs ctx rest with
        | .error e => .error e
        | .ok l => .ok (some r :: l)

/-! ### Handle table, numbers and dependences (R302, R303) -/

/-- The incomplete instances of a context. -/
def State.instsOf (s : State) (ctx : Nat) : List (Nat × Inst) := s.insts.filter (fun e => e.2.ctx == ctx)

/-- R301, R302: the accepted launches of a context that are not complete; their successors do not count. -/
def State.launchCount (s : State) (ctx : Nat) : Nat := ((s.instsOf ctx).filter (fun e => e.2.state != .successor)).length

/-- R303: the objects that hold a handle entry of a context. -/
def State.handles (s : State) (ctx : Nat) : List Nat := ((s.instsOf ctx).flatMap (fun e => e.2.rec_.ops.map Prod.fst)).eraseDups

/-- R302: the next `n` free instance numbers of the 20-bit counter. -/
def State.numbers (s : State) (n : Nat) : List Nat :=
  (((List.range (s.insts.length + n + 1)).map (fun i => (s.nextKin + i) % 2 ^ 20)).filter
    (fun k => k != 0 && (s.insts.look k).isNone)).take n

/-- R303: whether a launch with operands `ops` waits for one with `old`; and the objects that `old` writes. -/
def conflict (ops old : List (Nat × Nat)) : Bool :=
  ops.any (fun p => old.any (fun q => q.1 == p.1 && (p.2 ≥ 2 || q.2 ≥ 2)))
def written (ops old : List (Nat × Nat)) : List Nat :=
  (ops.filter (fun p => old.any (fun q => q.1 == p.1 && q.2 ≥ 2))).map Prod.fst

/-- R324: the predecessor of an instance and its own predecessors. -/
def State.predChain (s : State) : Option Nat → Nat → List Nat
  | none, _ | _, 0 => []
  | some k, n + 1 => match s.insts.look k with
    | none => []
    | some i => k :: s.predChain i.pred n

/-- A launch enters the handle table as instance `kin` (R303, R324). -/
def State.enter (s : State) (kin ctx : Nat) (l : Launch) (pred : Option Nat) : State :=
  let drop := s.predChain pred s.insts.length
  let before := (s.instsOf ctx).filter (fun e => !drop.contains e.1 && conflict l.ops e.2.rec_.ops)
  let i : Inst := { ctx := ctx, rec_ := l, state := if pred.isSome then .successor else .waiting, deps := before.map Prod.fst,
                    pred := pred, read := pred.isNone, order := s.nextOrder,
                    flush := (before.flatMap (fun e => written l.ops e.2.rec_.ops)).eraseDups }
  { s with insts := s.insts.put kin i, nextOrder := s.nextOrder + 1, nextKin := (kin + 1) % 2 ^ 20 }

/-- Successors numbered in index order (R302): the numbers by index, 0 for an empty entry. -/
def State.enterSuccs (s : State) (ctx pred : Nat) : List (Option Launch) → State × List Nat
  | [] => (s, [])
  | none :: rest =>
    let (s, l) := s.enterSuccs ctx pred rest
    (s, 0 :: l)
  | some r :: rest =>
    let k := (s.numbers 1).headD 0
    let (s, l) := (s.enter k ctx r (some pred)).enterSuccs ctx pred rest
    (s, k :: l)

/-- R301: the root's answer: a status, or the instance number of an accepted launch. -/
def State.accept (s : State) (ctx : Nat) (ws : List Word) : State × Nat × Nat :=
  match s.checkRecord ctx ws with
  | .error e => (s, e, 0)
  | .ok l => match s.readSuccs ctx l.succ with
    | .error e => (s, e, 0)
    | .ok succs =>
      let all := l.ops.map Prod.fst ++ succs.flatMap (fun o => match o with | some r => r.ops.map Prod.fst | none => [])
      if (s.handles ctx ++ all).eraseDups.length > 4096 then (s, LaunchStatus.handles, 0)
      else if s.launchCount ctx ≥ 1024 then (s, LaunchStatus.busy, 0)
      else
        let kin := (s.numbers 1).headD 0
        let s := s.enter kin ctx l none
        let (s, ks) := s.enterSuccs ctx kin succs
        (s.modInst kin (fun i => { i with succ := ks }), LaunchStatus.accepted, kin)

/-- R301, R344: a LAUNCH message and its answer. -/
def execLaunch (r : HostReq) (s : State) : Out :=
  let (s', st, kin) := s.accept r.ctx (bytesWords r.data 32)
  let m : HostMsg :=
    { port := r.port, cls := 1, op := 0, ctx := r.ctx, tag := r.tag, status := BitVec.ofNat 64 (kin * 256 + st) }
  hostMsg s r (onEvent s (s.hostUp r && r.data.length == 256) (s'.toHost m))

/-- R302, R314: the successor entries of a successor that first starts: read now, an entry that fails treated as empty with a
notice to the host. -/
def State.readEntry (s : State) (kin ctx : Nat) (a : Word) : State × Nat :=
  if a = 0#64 then (s, 0)
  else
    let no (e : Nat) : State × Nat := (s.notify 7 (BitVec.ofNat 64 e) a 0#64 0#64, 0)
    if !s.names ctx a then no LaunchStatus.noObj
    else match s.checkRecord ctx (s.peekRecord ctx a) with
      | .error e => no e
      | .ok l =>
        if (s.handles ctx ++ l.ops.map Prod.fst).eraseDups.length > 4096 then no LaunchStatus.handles
        else if s.launchCount ctx ≥ 1024 then no LaunchStatus.busy
        else
          let k := (s.numbers 1).headD 0
          (s.enter k ctx l (some kin), k)

def State.readEntries (s : State) (kin ctx : Nat) : List Word → State × List Nat
  | [] => (s, [])
  | a :: rest =>
    let (s, k) := s.readEntry kin ctx a
    let (s, l) := s.readEntries kin ctx rest
    (s, k :: l)

/-! ### Routes (R249, R253) -/

/-- The entries of a stretch of a path: those of a site and of the routers it passes. -/
def hopEntries (num kin : Nat) (site inp : Nat) (deliver : Bool) : List Nat → List (Nat × RouteEntry)
  | [] => []
  | k :: rest =>
    (site, { num := num, kin := kin, inp := inp, out := k, deliver := deliver, last := false }) ::
      hopEntries num kin ((siteStep site k).getD site) (oppositePort k) false rest

/-- R253: the router entries of a route, from its first tile. -/
def State.routeEntries (s : State) (num kin : Nat) (inp : Nat) (deliver : Bool) : List Nat → List (Nat × RouteEntry)
  | [] => []
  | [t] => [(s.site t, { num := num, kin := kin, inp := inp, out := 4, deliver := deliver, last := true })]
  | t :: u :: rest =>
    let ports := s.path (s.site t) (s.site u)
    hopEntries num kin (s.site t) inp deliver ports ++
      s.routeEntries num kin (oppositePort (ports.getLastD 4)) true (u :: rest)

/-- R253: an entry installed where its router has room and no entry of the same number and input port. -/
def installEntry (m : Map (List RouteEntry)) (e : Nat × RouteEntry) : Option (Map (List RouteEntry)) :=
  let l := m.lookD e.1 []
  if l.length ≥ 64 || l.any (fun q => q.num == e.2.num && q.inp == e.2.inp) then none else some (m.put e.1 (l ++ [e.2]))

/-- R253, R305: the routes of an instance installed, or none of them. -/
def State.installRoutes (s : State) (kin : Nat) (m : Map (List RouteEntry)) : Option (Map (List RouteEntry)) :=
  match s.insts.look kin with
  | none => some m
  | some i =>
    if i.routed then some m
    else (i.rec_.routes.flatMap (fun r => s.routeEntries r.num kin 4 false r.tiles)).foldl
      (fun o e => o.bind (fun m => installEntry m e)) (some m)

/-- R314: the instances whose routes are installed together with a launch. -/
def Inst.group (i : Inst) (kin : Nat) : List Nat := kin :: i.succ.filter (· != 0)

def State.installGroup (s : State) (ks : List Nat) : Option (Map (List RouteEntry)) :=
  ks.foldl (fun o k => o.bind (s.installRoutes k)) (some s.routers)

def State.setRouted (s : State) (ks : List Nat) (m : Map (List RouteEntry)) : State :=
  ks.foldl (fun s k => s.modInst k (fun i => { i with routed := true })) { s with routers := m }

/-! ### Readiness and release (R304, R305) -/

/-- The granules of an object. -/
def Object.grans (o : Object) : List Nat := List.range ((o.size + 65535) / 65536)

/-- R287: the lowest free pages of a tile taken for the granules of a replicated object. -/
def Tile.takeGrans (x : Tile) (ctx obj : Nat) : List Nat → Option Tile
  | [] => some x
  | g :: gs => match x.freePage with
    | none => none
    | some p => (x.putExtent { ctx := ctx, obj := obj, gran := g, page := p }).takeGrans ctx obj gs

/-- R291: the extents of a tile's pages that hold granules of an object. -/
def Tile.extentsOf (x : Tile) (ctx obj : Nat) : List Extent :=
  (x.extents.map Prod.snd).filter (fun e => e.ctx == ctx && e.obj == obj)

/-- R287, R304: a code object replicated to every tile of the logical grid, once each has pages for it (log 90); instruction lines
and records that name an earlier object of its number are invalidated first. -/
def State.replicate (s : State) (ctx obj : Nat) (o : Object) : Option State :=
  let gs := o.grans
  match ({ Tile.fresh with extents := s.freshExtents } : Tile).takeGrans ctx obj gs,
      s.tiles.mapM (fun e => (e.2.takeGrans ctx obj gs).map (fun x => (e.1, x))) with
  | some x0, some ts =>
    let pages (e : Nat × Tile) : List Nat := (e.2.extentsOf ctx obj).map (fun q => dramKey e.1 q.page 0)
    some { s with
      objects := s.objects.put (objKey ctx obj) { o with replicated := true }
      freshExtents := x0.extents
      mem := (ts.flatMap pages).foldl (fun m a => m.clear a 8192) s.mem
      tiles := ts.map (fun e => (e.1, { e.2 with
        odc := e.2.odc.filter (fun d => !(d.key.ctx == ctx && d.key.obj == obj))
        l1i := e.2.l1i.filter (fun l => !(l.ctx == ctx && l.obj == obj)) })) }
  | _, _ => none

/-- R304: write-backs of the objects an instance waited for, and the replication of its code object, where the tiles have pages
for it. -/
def State.makeReady (s : State) (i : Inst) : Option State :=
  let s := s.tiles.keys.foldl (fun s t => s.writeBack t (fun l => l.ctx == i.ctx && i.flush.contains l.obj)) s
  let obj := objOf i.rec_.entry
  match s.object i.ctx obj with
  | none => some s
  | some o => if o.replicated then some s else s.replicate i.ctx obj o

def execLaunchReady (kin : Nat) (s : State) : Out :=
  match s.insts.look kin with
  | none => .fault .notEnabled
  | some i => match s.makeReady i with
    | none => .fault .notEnabled
    | some s' => onEvent s (i.state == .waiting && i.deps.isEmpty) (s'.modInst kin (fun i => { i with state := .ready }))

/-- R305: whether ready launch `a` is released before `b`. -/
def Inst.ahead (a b : Inst) : Bool := a.rec_.prio > b.rec_.prio || (a.rec_.prio == b.rec_.prio && a.order < b.order)

/-- R305, R314: whether a launch or a successor in its record has routes. -/
def State.needsRoutes (s : State) (i : Inst) : Bool :=
  !i.rec_.routes.isEmpty || i.succ.any (fun k => match s.insts.look k with | some j => !j.rec_.routes.isEmpty | none => false)

/-- R305: the ready launches ahead of an instance; it may pass them where it needs no routes and they wait for theirs, or behind
one that does. -/
def State.mayRelease (s : State) (kin : Nat) (i : Inst) : Bool :=
  let first := s.insts.filter (fun e => e.2.state == .ready && e.1 != kin && e.2.ahead i)
  if s.needsRoutes i then first.isEmpty
  else first.all (fun e => s.needsRoutes e.2 &&
    first.any (fun b => (b.1 == e.1 || b.2.ahead e.2) && (s.installGroup (b.2.group b.1)).isNone))

/-- R305: the fields that hold a tile of a launch. -/
def State.launchFields (s : State) (l : Launch) : List Nat := (l.tiles.map s.fieldOf).eraseDups

def execLaunchRelease (kin : Nat) (s : State) : Out :=
  match s.insts.look kin with
  | none => .fault .notEnabled
  | some i => match s.installGroup (i.group kin) with
    | none => .fault .notEnabled
    | some m =>
      let s' := (s.setRouted (i.group kin) m).modInst kin (fun i => { i with state := .released })
      onEvent s (i.state == .ready && s.enabled && s.mayRelease kin i)
        ((s.launchFields i.rec_).foldl (fun s f => s.modField f (fun g => { g with launches := g.launches ++ [kin] })) s')

/-- R305: a controller sends an admission order to each tile of its field that the launch names. -/
def execFieldLaunch (f kin : Nat) (s : State) : Out :=
  match s.insts.look kin with
  | none => .fault .notEnabled
  | some i =>
    let ts := i.rec_.tiles.filter (fun t => s.fieldOf t == f)
    onEvent s ((s.field f).launches.head? == some kin) (s.modField f (fun g =>
      { g with launches := g.launches.tail, sent := g.sent ++ ts.map (fun t => (t, kin)) }))

/-- R306: an order's place: behind every order of its class and above. -/
def putOrder (l : List AdmOrder) (o : AdmOrder) : List AdmOrder :=
  l.filter (fun q => q.prio ≥ o.prio) ++ o :: l.filter (fun q => q.prio < o.prio)

/-- R305, R306: the next order sent to a tile reaches it. -/
def execAdmissionOrder (t kin : Nat) (s : State) : Out :=
  let f := s.fieldOf t
  let g := s.field f
  match firstIdx (fun (e : Nat × Nat) => e.1 == t) g.sent with
  | none => .fault .notEnabled
  | some j =>
    let prio := match s.insts.look kin with | some i => i.rec_.prio | none => 0
    onEvent s ((g.sent.getD j (0, 0)).2 == kin && !(s.tile t).shut)
      ((s.modField f (fun g => { g with sent := dropAt g.sent j })).modTile t (fun x =>
        if (s.insts.look kin).isNone || s.killedInst kin then x else { x with orders := putOrder x.orders { kin := kin, prio := prio } }))

/-! ### Admission (R306-R308) -/

/-- R341: whether the team of a save area can be restored: slots, position, macros and buffers. -/
def State.restorable (s : State) (t : Nat) (v : Save) : Bool :=
  let x := s.tile t
  v.images && (s.freeSlots t ≥ (v.slots.filter (fun r => r.state != 2)).length) && x.freePos.isSome &&
  x.macrosFree v.team.fmac v.team.nmac && x.bufsFree v.team.fcb v.team.ncb && (x.posOf v.team.kin).isNone

/-- R306, R308, R309, R317: whether the head order is admitted now: behind a woken waiter, and behind a waiting spawner unless it
passes the queues. -/
def State.admits (s : State) (t : Nat) (o : AdmOrder) : Bool :=
  s.orderRoom t o && (s.freeSlots t ≥ s.thrOn t o.kin) && (s.wokenClaim t).isNone &&
  ((s.localSpawner t).isNone || (s.waitingClass t).isSome) && s.passesQueues t o && !s.heldAhead t o.prio &&
  !(s.tile t).saves.any (fun e => e.2.team.prio ≥ o.prio && s.restorable t e.2) &&
  (s.tile t).victims.isEmpty && (s.tile t).acked.isEmpty && !(s.tile t).shut

/-- R307: the context of launched thread `j` of a tile. DEDUCED (log 91): its `pc` drops bits 1:0 of the entry (R21). -/
def State.launched (s : State) (t kin ctx : Nat) (l : Launch) (j : Nat) : Thread :=
  let dbg := s.debuggable ctx
  { pc := l.entry &&& ~~~3#64, st := (if l.trace && dbg then 0x04000000#64 else 0#64) ||| (if dbg then 0x02000000#64 else 0#64) |||
      (if l.mig then 0x01000000#64 else 0#64),
    tid := tidOf t j, kin := kin, ctx := ctx }

/-- R307: a started thread in slot `k`. -/
def State.startThread (s : State) (t k p : Nat) (th : Thread) (budget : Nat) (stop : Bool) : State :=
  s.modSlot t k (fun sl =>
    { state := if stop then .stopped .debug else .ready, th := th, ipc := th.pc, team := p, budget := budget, eligAt := sl.eligAt, reqSeq := sl.reqSeq,
      fseq := sl.fseq })

/-- R307, R319: `n` threads in the lowest free slots, and on a service tile the sixteenth in the arrival queue. -/
def State.startThreads (s : State) (t p kin ctx : Nat) (l : Launch) (dress : Thread → Thread) : State :=
  let n := s.thrOn t kin
  let stop := l.stop && s.debuggable ctx
  let ks := ((s.kernelSlots t).filter (fun k => (s.slot t k).state == .free)).take n
  let s := (ks.zipIdx).foldl (fun s e => s.startThread t e.1 p (dress (s.launched t kin ctx l e.2)) (2 ^ l.hk) stop) s
  let s := if n < l.thr then
      s.modTile t (fun x => match x.queues.look ctx with
        | none => x
        | some q =>
          let f : Flit := { kind := 6, th := dress (s.launched t kin ctx l n), frm := 0xFFFFFF#24, stop := stop }
          { x with queues := x.queues.put ctx { q with q := q.q ++ [f] } })
    else s
  s

/-- R307: macros and buffers given to a team position. -/
def Tile.give (x : Tile) (p fmac nmac fcb ncb : Nat) : Tile :=
  let x := (List.range nmac).foldl (fun (x : Tile) j => x.modMacro (fmac + j) (fun (c : Macro) => { c with owner := some p })) x
  (List.range ncb).foldl (fun (x : Tile) j => x.modBuf (fcb + j) (fun (_ : CBuf) => { owner := some p })) x

/-- R307: the head order's team starts. -/
def State.admitTeam (s : State) (t : Nat) (o : AdmOrder) (i : Inst) : State :=
  let l := i.rec_
  let (p, s) := s.openTeam t o.kin i.ctx
  let s := s.modTile t (fun x => { x with orders := x.orders.tail })
  let n := (s.tile t).serial
  let s := s.modTile t (fun x => { x with serial := n + 1 })
  let s := s.modTeam t p (fun tm =>
    { tm with fmac := l.fmac, nmac := l.nmac, fcb := l.fcb, ncb := l.ncb, succ := i.succ, serial := n })
  let s := s.modTile t (fun x => x.give p l.fmac l.nmac l.fcb l.ncb)
  let s := s.startThreads t p o.kin i.ctx l id
  s.modInst o.kin (fun i => { i with live := i.live + l.thr, started := true, admitted := i.admitted + 1 })

def execTeamAdmission (t : Nat) (s : State) : Out :=
  match (s.tile t).orders with
  | [] => .fault .notEnabled
  | o :: _ => match s.insts.look o.kin with
    | none => .next (s.modTile t (fun x => { x with orders := x.orders.tail }))
    | some i => onEvent s (s.admits t o) (s.admitTeam t o i)

/-! ### Slots given (R210, R215) -/

/-- The entry of the waiter table or its spill area that a sequence number names, removed. -/
def Tile.dropWaiter (x : Tile) (seq : BitVec 32) : Tile :=
  { x with waiters := x.waiters.filter (fun u => u.seq != seq), spilled := x.spilled.filter (fun u => u.seq != seq) }

/-- R217: a woken thread takes slot `k`, with its take done or its wait over and its budget and pinning state as it left its own
(log 26). -/
def State.seatWoken (s : State) (t k : Nat) (w : Waiter) : State :=
  match w.th with
  | none => s
  | some th =>
    let s := s.modTile t (fun x => x.dropWaiter w.seq)
    let (p, s) := s.openTeam t th.kin th.ctx
    let s := s.modSlot t k (fun sl =>
      { state := .ready, th := th, ipc := th.pc, team := p, budget := w.hb, prev := w.prev, window := w.window, eligAt := sl.eligAt,
        reqSeq := sl.reqSeq, fseq := sl.fseq })
    s.emit t k 8 w.addr

/-- The head of a context's queue takes slot `k`. -/
def State.seatQueued (s : State) (t k ctx : Nat) : State :=
  match (s.tile t).queues.look ctx with
  | none => s
  | some q => match q.q with
    | [] => s
    | f :: rest =>
      let pos := (s.tile t).queuePos ctx
      let s := s.modTile t (fun x => { x with queues := x.queues.put ctx { q with q := rest }, lastQ := pos })
      let s := s.seat t k f
      s.modTile t Tile.tidyQueues

/-- R210: a slot goes to a woken waiter or a queue head; where none is FREE the oldest parked thread gives up its own. -/
def execSlotGrant (t : Nat) (s : State) : Out :=
  let woken := s.wokenClaim t
  let queued := s.queueNext t
  let claim := woken.isSome || queued.isSome || (s.localSpawner t).isSome
  if (s.tile t).shut || !claim then .fault .notEnabled
  else if s.freeSlots t = 0 then
    match s.evictable t with
    | some w => onEvent s (s.reserved t == 0) (s.evict t w)
    | none => .fault .notEnabled
  else match s.grantSlot t, woken, queued with
    | some k, some w, _ => .next (s.seatWoken t k w)
    | some k, none, some ctx => .next (s.seatQueued t k ctx)
    | _, _, _ => .fault .notEnabled

/-! ### Accounts (R212, R312, R313, R325) -/

/-- R312: the root takes the oldest report of a fall. -/
def execLiveCountReport (s : State) : Out :=
  match s.falls with
  | [] => .fault .notEnabled
  | kin :: rest => .next (({ s with falls := rest } : State).modInst kin (fun i => { i with live := i.live - 1 }))

/-- R232, R312: whether a packet belongs to an instance: a request of an ended thread, the release of its tracker, or a thread on its
way, a child among them. -/
def Packet.isOf (p : Packet) (kin : Nat) : Bool :=
  (p.kin == kin && kin != 0) || (match p.body with
    | .trackRelease _ _ k => k == kin
    | .migrate f => f.th.kin == kin
    | _ => false)
def HeldAcc.isOf (h : HeldAcc) (kin : Nat) : Bool := match h with | .packet p => p.isOf kin | _ => false

/-- Whether a message, order, packet, tracker, team or save area still belongs to an instance. -/
def State.instBusy (s : State) (kin : Nat) : Bool :=
  s.falls.contains kin ||
  s.fields.any (fun e => e.2.launches.contains kin || e.2.sent.any (fun u => u.2 == kin)) ||
  s.net.any (fun p => p.isOf kin) || s.held.any (fun p => p.isOf kin) ||
  s.tiles.any (fun e =>
    let x := e.2
    x.pendings.any (fun q => q.writes.any (fun p => p.isOf kin) || q.held.any (fun h => h.isOf kin)) ||
    x.overflow.any (fun h => h.isOf kin) ||
    x.orders.any (fun o => o.kin == kin) || x.teams.any (fun u => u.2.kin == kin) || x.saves.any (fun u => u.2.team.kin == kin) ||
    x.trackers.any (fun tr => tr.open_ && tr.kin == kin && kin != 0))

/-- R312, R325: whether an instance completes. -/
def State.completes (s : State) (kin : Nat) (i : Inst) : Bool :=
  let ended := i.live == 0 && i.teams == 0 && !s.instBusy kin
  match i.state with
  | .released => ended
  | .successor => i.pred.isNone && ended
  | _ => false

/-- R313: the completion notice. -/
def State.completion (s : State) (kin : Nat) (i : Inst) : State :=
  if !i.rec_.notify then s
  else
    let st := if i.orphaned && !i.started then 2 else if i.killed then 1 else 0
    s.notify 1 (BitVec.ofNat 64 (kin + i.ctx * 2 ^ 20 + st * 2 ^ 32)) i.rec_.htag (BitVec.ofNat 64 (i.admitted % 2 ^ 32)) 0#64

/-- R253, R303, R312, R325: an instance recorded complete. -/
def State.complete (s : State) (kin : Nat) (i : Inst) : State :=
  let dead := i.killed || (i.orphaned && !i.started)
  let fix (j : Inst) : Inst :=
    { j with deps := j.deps.filter (· != kin), pred := if j.pred = some kin then none else j.pred,
             orphaned := j.orphaned || (j.pred == some kin && dead) }
  let s : State := { s with insts := Map.mapVals fix (s.insts.del kin)
                            routers := (Map.mapVals (fun (l : List RouteEntry) => l.filter (fun e => e.kin != kin)) s.routers).filter
                              (fun e => !e.2.isEmpty) }
  (s.completion kin i).settleContext i.ctx

def execInstanceComplete (kin : Nat) (s : State) : Out :=
  match s.insts.look kin with
  | none => .fault .notEnabled
  | some i => onEvent s (s.completes kin i) (s.complete kin i)

/-- R212: a tile reports its free slots to its field's controller. -/
def execFreeSlotUpdate (t : Nat) (s : State) : Out :=
  let n := s.freeSlots t
  onEvent s (s.isTile t && (s.tile t).reported != n)
    (({ s with freeAt := some (s.freeAt.getD s.now) } : State).modTile t (fun x => { x with reported := n, freeSince := none })
      |>.modField (s.fieldOf t) (fun f => { f with freeMap := f.freeMap.put t n }))

/-- R212: every 1,024 cycles the root refreshes its counts; the default order leaves it out where they have not changed. -/
def execFreeCountRefresh (s : State) : Out :=
  onEvent s (s.now % 1024 == 0) { s with freeAt := none, freeCounts := (List.range 128).map (fun f =>
    (f, (s.fieldTiles f).foldl (fun n t => n + s.mapSlots f t) 0)) }

/-! ### Successors (R304, R314, R324) -/

/-- R314: whether the root itself installs a successor's routes, because it read the record at a seam. -/
def State.lateRead (s : State) (i : Inst) : Bool :=
  match i.pred.bind s.insts.look with
  | some p => p.state == .successor
  | none => true

/-- R324: a successor becomes ready: its waits are over, the actions of R304 done and its routes installed. -/
def execSuccessorReady (kin : Nat) (s : State) : Out :=
  match s.insts.look kin with
  | none => .fault .notEnabled
  | some i =>
    let m := if i.routed then some s.routers else if i.rec_.routes.isEmpty then some s.routers
      else if s.lateRead i then s.installRoutes kin s.routers else none
    match m, s.makeReady i with
    | some m, some s' =>
      onEvent s (i.state == .successor && !i.succReady && i.deps.isEmpty)
        ((s'.setRouted [kin] m).modInst kin (fun i => { i with succReady := true }))
    | _, _ => .fault .notEnabled

end Sys2Proof.Machine
end

