-- ==== Sys2Proof/Machine/Defects.lean ====
section
/-! DEFINITION. The defect map and its bytes (R366, R367, R371, R390), the clock tree at dawn (R370) and the placement of the
logical grid (R372, R374, R377). -/

namespace Sys2Proof.Machine

/-- The little-endian bytes of a number. -/
def natBytes (n v : Nat) : List Byte := (List.range n).map (fun i => BitVec.ofNat 8 (v / 256 ^ i))
def bytesNat (l : List Byte) : Nat := l.foldr (fun b acc => acc * 256 + b.toNat) 0
/-- A byte list of exactly `n` bytes. -/
def padBytes (n : Nat) (l : List Byte) : List Byte := (List.range n).map (fun i => l.getD i 0#8)

/-! ### Repair records (R390) -/

def repairEpoch (r : BitVec 128) : Nat := (r.extractLsb' 64 64).toNat
def repairKind (r : BitVec 128) : Nat := (r.extractLsb' 56 8).toNat
def repairSite (r : BitVec 128) : Nat := (r.extractLsb' 42 14).toNat
def repairWhere (r : BitVec 128) : Nat := (r.extractLsb' 0 42).toNat

def repairRecord (epoch kind site where_ : Nat) : BitVec 128 := BitVec.ofNat 128 (epoch * 2 ^ 64 + kind * 2 ^ 56 + site * 2 ^ 42 + where_)

/-- R390: a record as it may be stored: of a kind that is, with its unnamed bits zero. -/
def recordOk (r : BitVec 128) : Bool :=
  let w := repairWhere r
  match repairKind r with
  | 0 => true
  | 1 => w % 2 ^ 20 == 0
  | 2 => w % 2 ^ 35 == 0
  | 3 => w % 2 ^ 33 == 0
  | 4 => w % 2 ^ 14 == 0
  | 5 => w % 2 ^ 14 == 0 && w / 2 ^ 28 == 0
  | _ => false

/-! ### The defect map (R366, R367) -/

namespace DefectMap

/-- R366: the state of a site: 0 absent, 1 good, 2 defective. -/
def siteState (d : DefectMap) (i : Nat) : Nat := if !siteExists i then 0 else if d.bad.contains i then 2 else 1

def header (d : DefectMap) : Nat :=
  d.version + d.nrows * 2 ^ 16 + d.signer * 2 ^ 24 + d.epoch * 2 ^ 64 + d.serial * 2 ^ 128

/-- R366: bytes 0x0_0000 to 0x1_613F. -/
def body (d : DefectMap) : List Byte :=
  natBytes 64 d.header ++
  (List.range 8448).map (fun i => BitVec.ofNat 8 (d.siteState i)) ++
  (List.range 8192).flatMap (fun t => natBytes 2 (if t < d.nrows * 96 then d.siteAt t else 65535)) ++
  (List.range 4096).flatMap (fun i => natBytes 16 (d.repairs.getD i 0#128).toNat)

/-- R366: the whole layout of 92,852 bytes. -/
def bytes (d : DefectMap) : List Byte := d.body ++ padBytes 2420 d.sig

/-- R353, R368: mapd. -/
def hash (d : DefectMap) : List Byte := padBytes 32 (Config.digest d.body)

/-- R371: every entry names a good site, and no site is named twice. -/
def placed (d : DefectMap) : Bool :=
  let sites := (List.range (d.nrows * 96)).map d.siteAt
  sites.all (fun p => p < 8448 && d.siteState p == 1) && sites.Nodup

/-- R367: the checks of a copy but for its stored format. -/
def valid (d : DefectMap) (serial : Nat) : Bool :=
  Config.verify (if d.signer = 0 then 1 else 2) d.body d.sig && d.version == 1 && d.serial == serial &&
  80 ≤ d.nrows && d.nrows ≤ 82 && d.placed

/-- R366, R367: a copy read from its bytes; `none` where a reserved bit is nonzero or a code is not stored. -/
def parse (l : List Byte) : Option DefectMap :=
  let hd := bytesNat (l.take 64)
  let sites := (l.drop 64).take 8448
  let entry (t : Nat) : Nat := bytesNat ((l.drop (8512 + 2 * t)).take 2)
  let nrows := hd / 2 ^ 16 % 256
  let records := (List.range 4096).map (fun i => BitVec.ofNat 128 (bytesNat ((l.drop (24896 + 16 * i)).take 16)))
  let ok := records.all recordOk && l.length == 92852 && hd / 2 ^ 176 == 0 && hd / 2 ^ 25 % 2 ^ 39 == 0 && nrows ≤ 82 &&
    (sites.zipIdx.all (fun e => if siteExists e.2 then e.1 == 1#8 || e.1 == 2#8 else e.1 == 0#8)) &&
    (List.range 8192).all (fun t => if t < nrows * 96 then entry t < 2 ^ 14 else entry t == 65535)
  if !ok then none
  else some
    { version := hd % 2 ^ 16, nrows := nrows, signer := hd / 2 ^ 24 % 2, epoch := hd / 2 ^ 64 % 2 ^ 64, serial := hd / 2 ^ 128 % 2 ^ 48,
      bad := (sites.zipIdx.filter (fun e => e.1 == 2#8)).map Prod.snd,
      map := (List.range (nrows * 96)).filterMap (fun t => if entry t = plainSite t then none else some (t, entry t)),
      repairs := records,
      sig := l.drop 90432 }

/-- An update signed by the device key (R367). -/
def signed (d : DefectMap) : DefectMap :=
  let d : DefectMap := { d with epoch := d.epoch + 1, signer := 1 }
  { d with sig := Config.sign d.body }

end DefectMap

/-! ### Storing a map (R367, R390) -/

def setAt (l : List (BitVec 128)) (i : Nat) (r : BitVec 128) : List (BitVec 128) :=
  if i < l.length then modifyAt l i (fun _ => r) else l ++ List.replicate (i - l.length) 0#128 ++ [r]

/-- R390: the first empty entry of a list of records. -/
@[irreducible] def emptyRecord (l : List (BitVec 128)) : Option Nat := (List.range 4096).find? (fun i => repairKind (l.getD i 0#128) == 0)
theorem emptyRecord_def (l : List (BitVec 128)) : emptyRecord l = (List.range 4096).find? (fun i => repairKind (l.getD i 0#128) == 0) := by
  delta emptyRecord; exact Eq.refl _

/-- R390: a record takes an empty entry; when none is left, the records of retired sites go first. -/
def DefectMap.addRecord (d : DefectMap) (kind site where_ : Nat) : Option DefectMap :=
  let r := repairRecord (d.epoch + 1) kind site where_
  match emptyRecord d.repairs with
  | some i => some { d with repairs := setAt d.repairs i r }
  | none =>
    let l := d.repairs.map (fun q => if d.bad.contains (repairSite q) then 0#128 else q)
    (emptyRecord l).map (fun i => { d with repairs := setAt l i r })

/-- R367: an update of the map in flash: copy 2 is written, and copy 1 once time has passed. DESIGN CHOICE (log 61): how long either
takes. -/
def State.writeMap (s : State) (d : DefectMap) : State := { s with flash := { s.flash with map2 := some d }, mapHalf := true }

/-- The map in use becomes `d` with a record: signed as an update and written to flash when the map is attested. -/
def State.storeMap (s : State) (d : DefectMap) : State :=
  if s.attested then ({ s with dmap := some d.signed } : State).writeMap d.signed else { s with dmap := some d }

/-- R387, R390: a repair is recorded, or STATUS reports that it is not. -/
def State.addRepair (s : State) (kind site where_ : Nat) : State :=
  match s.dmap with
  | none => { s with unrec := true }
  | some d => match d.addRecord kind site where_ with
    | some d => s.storeMap d
    | none => { s with unrec := true }

/-! ### The clock tree (R370, R382) -/

def rootSite (good : List Nat) : Option Nat := leastBy (siteDist (43 * 96 + 47)) good

/-- R370: breadth first from the root: the parents of the clocked sites, each with its depth. -/
def clockTree (good : Nat → Bool) (root : Nat) : Nat → List (Nat × Nat) → Map Nat → Map Nat
  | 0, _, m => m
  | _, [], m => m
  | n + 1, (u, d) :: queue, m =>
    let new := (siteNeighbours u).filter (fun v => good v && v != root && (m.look v).isNone && d < 255)
    clockTree good root n (queue ++ new.map (fun v => (v, d + 1))) (new.foldl (fun m v => m.put v u) m)

/-! ### Placement (R372, R374, R377) -/

/-- The final loop of R372: each tile takes the spare nearest to its aim. The map and the spares that remain. -/
def placeRest : List Nat → List Nat → Map Nat → Option (Map Nat × List Nat)
  | [], spares, m => some (m, spares)
  | t :: ts, spares, m =>
    (leastBy (siteDist (t + 4 * 96)) spares).bind (fun p => placeRest ts (spares.filter (· != p)) (m.put t p))

/-- R372: the good sites of a column that the first loop takes, in order. -/
def columnSites (good : Nat → Bool) (x : Nat) : List Nat := ((List.range 84).map (fun i => (i + 4) * 96 + x)).filter good

def goodSites (good : Nat → Bool) : List Nat := (List.range 8448).filter good

/-- R372: 80 rows placed afresh. -/
def placeGrid (good : Nat → Bool) : Option (Map Nat × List Nat) :=
  let cols := (List.range 96).map (columnSites good)
  let at_ (t : Nat) : Option Nat := (cols.getD (t % 96) [])[t / 96]?
  let m : Map Nat := (List.range 7680).filterMap (fun t => (at_ t).map (fun p => (t, p)))
  let used := m.map Prod.snd
  placeRest ((List.range 7680).filter (fun t => (at_ t).isNone)) ((goodSites good).filter (fun p => !used.contains p)) m

/-- R370, R371: the first `hi` rows of a map in force: its entries, but those whose site is no longer good are placed by the final
loop. The sites that its entries name are no spares. -/
def keepGrid (good : Nat → Bool) (d : DefectMap) (hi : Nat) : Option (Map Nat × List Nat) :=
  let ts := List.range (hi * 96)
  let m := (ts.filter (fun t => good (d.siteAt t))).foldl (fun (m : Map Nat) t => m.put t (d.siteAt t)) []
  let used := m.map Prod.snd
  placeRest (ts.filter (fun t => !good (d.siteAt t))) ((goodSites good).filter (fun p => !used.contains p)) m

/-- The rows of a map below `hi`. -/
def rowsBelow (m : Map Nat) (hi : Nat) : Map Nat := m.filter (fun e => e.1 < hi * 96)

/-- R373: the rows that a token grants: the most, of at most `g`, that leave 32 spares. The rows come from the map, `m` with the sites
of all its rows, where it has them all. -/
def grantRows (d : DefectMap) (m : Map Nat) (spares : List Nat) : Nat → Nat × Map Nat
  | 0 => (0, rowsBelow m 80)
  | g + 1 =>
    let hi := 80 + (g + 1)
    let free := ((m.filter (fun e => e.1 ≥ 7680)).map Prod.snd).foldl insertNat spares
    let r := if d.nrows ≥ hi then some (rowsBelow m hi, spares) else placeRest ((List.range (hi * 96)).drop 7680) free (rowsBelow m 80)
    match r with
    | some (m', left) => if left.length ≥ 32 then (g + 1, m') else grantRows d m spares g
    | none => grantRows d m spares g

/-- R373: the extra rows that a stored token asks for; 0 where it is ignored. -/
def tokenRows (serial : Nat) (token : List Byte) : Nat :=
  let w := bytesNat (token.take 64)
  let g := w / 2 ^ 48 % 4
  if token.length = 2484 && Config.verify 0 (token.take 64) (token.drop 64) && w % 2 ^ 48 == serial && w / 2 ^ 50 == 0 &&
    (g == 1 || g == 2) then g else 0

/-- The exceptions of a full map to `plainSite`. -/
def mapExceptions (m : Map Nat) : Map Nat := m.filter (fun e => plainSite e.1 != e.2)

/-- R374: the service tile of a field. -/
def State.chooseService (s : State) (f : Nat) : Option Nat :=
  let (fx, fy) := fieldXY f
  let d (a b : Nat) : Nat := max a b - min a b
  leastBy (fun t => d (2 * (s.site t % 96)) (16 * fx + 7) + d (2 * (s.site t / 96)) (16 * fy + 7)) (s.fieldTiles f)

/-- R371: the spares. -/
@[irreducible] def State.spares (s : State) : List Nat := (List.range 8448).filter s.isSpare
theorem State.spares_def (s : State) : s.spares = (List.range 8448).filter s.isSpare := by
  delta State.spares; exact Eq.refl _

/-- R377: the spares in the order in which a dusk of site `p` prefers them: its field's nearest, else the wafer's nearest. -/
def State.spareOrder (s : State) (p : Nat) : Option Nat :=
  let l := s.spares
  match leastBy (siteDist p) (l.filter (fun q => fieldOfSite q == fieldOfSite p)) with
  | some q => some q
  | none => leastBy (siteDist p) l

/-- R377: the spare chosen; one that fails its self-test is marked defective and the choice is made again. -/
def State.spareFor (s : State) (p : Nat) : Nat → State × Option Nat
  | 0 => (s, none)
  | n + 1 => match s.spareOrder p with
    | none => (s, none)
    | some q =>
      let (i, s) := s.draw
      if Config.selfTest i q then (s, some q)
      else State.spareFor { s with bad := insertNat s.bad q, dmap := s.dmap.map (fun (d : DefectMap) => { d with bad := insertNat d.bad q }) } p n

end Sys2Proof.Machine
end

