-- ==== Sys2Proof/Machine/Module.lean ====
section
/-! DEFINITION. Dawn (R364-R376), power loss (R367), power modes (R28, R393, R394), lanes and ports (R342, R350, R351) and the loss
of a peer module (R297, R348). -/

namespace Sys2Proof.Machine

/-! ### Dawn (R364-R376) -/

/-- The module without power: what flash and the outside hold remains. Step 0 stands for a module that is not at dawn. -/
def State.powerless (s : State) : State :=
  { State.reset with enabled := false, attested := false, step := 0, dmap := none, fw := [], siteOf := [], tiles := [], fields := [],
                     ports := [], flash := s.flash, serial := s.serial, hostOut := s.hostOut, agenda := s.agenda, fresh := s.fresh }

/-- R367: a power loss keeps flash; each copy of the map there is the old one or the new one. -/
def execPowerLoss (s : State) : Out := onEvent s (s.step != 0) s.powerless

/-- R365: the body of a firmware image whose signature verifies. -/
def firmwareBody (l : List Byte) : Option (List Byte) :=
  let n := l.length - 2420
  if l.length ≥ 2420 && Config.verify 0 (l.take n) (l.drop n) then some (l.take n) else none

/-- R342: the roles and modules that the port map names. -/
def flashPorts (l : List Byte) : List Port :=
  (List.range 16).map (fun p => { role := (l.getD (2 * p) 0#8).toNat, module := (l.getD (2 * p + 1) 0#8).toNat })

/-- R367: the copy that dawn uses. -/
def chooseMap (serial : Nat) (f : Flash) : Option DefectMap :=
  let ok (o : Option DefectMap) : Option DefectMap := o.bind (fun d => if d.valid serial then some d else none)
  match ok f.map1, ok f.map2 with
  | some a, some b => some (if b.epoch > a.epoch then b else a)
  | some a, none => some a
  | none, b => b

/-- R367: the copy of the map that dawn has not used is rewritten from the other, unless both are valid and of one epoch. -/
def State.evenMaps (s : State) : State :=
  let ok (o : Option DefectMap) : Option DefectMap := o.bind (fun d => if d.valid s.serial then some d else none)
  match ok s.flash.map1, ok s.flash.map2 with
  | some a, some b => if a.epoch = b.epoch then s else
    let d := if b.epoch > a.epoch then b else a
    { s with flash := { s.flash with map1 := some d, map2 := some d } }
  | some d, none | none, some d => { s with flash := { s.flash with map1 := some d, map2 := some d } }
  | none, none => s

/-- R368, R370: self-tests of sites: those that fail. -/
def State.failing (s : State) : List Nat → State × List Nat
  | [] => (s, [])
  | p :: ps =>
    let (i, s) := s.draw
    let (s, l) := s.failing ps
    (s, if Config.selfTest i p then l else p :: l)

/-- R368: the map of a survey before its grid is placed. -/
def surveyMap (serial : Nat) (bad : List Nat) : DefectMap := { version := 1, nrows := 80, signer := 0, epoch := 0, serial := serial, bad := bad }

/-- R387: a bank copied to its channel's spare: its rows stand in no spare rows there. -/
def Tile.freshBank (x : Tile) (ch bank : Nat) : Tile :=
  let mine (k : Nat) : Bool := k / 32 == ch * 16 + bank
  let rest (l : List Nat) : List Nat := l.filter (fun n => !mine (n / 256))
  { x with banksUsed := x.banksUsed.put ch (x.banksUsed.lookD ch 0 + 1), rowsUsed := x.rowsUsed.filter (fun e => !mine e.1)
           corrRow := x.corrRow.filter (fun e => !mine (e.1 / 256)), traced := rest x.traced, uncRows := rest x.uncRows
           spared := rest x.spared, bankDue := eraseNat x.bankDue (ch * 16 + bank) }

/-- R390: a record of kinds 1-3 reapplied, in the order of their epochs. -/
def State.reapply (s : State) (r : BitVec 128) : State :=
  let w := repairWhere r
  let ch := w / 2 ^ 39
  let bank := w / 2 ^ 35 % 16
  let sub := w / 2 ^ 30 % 32
  let row := w / 2 ^ 22 % 256
  match repairKind r, s.tileAt (repairSite r) with
  | 1, some t => s.modTile t (fun x =>
      { x with rowsUsed := x.rowsUsed.put (subKey ch bank sub) (x.rowsUsed.lookD (subKey ch bank sub) 0 + 1)
               spared := insertNat x.spared (rowNumber ch bank sub row) })
  | 2, some t => s.modTile t (fun x => x.freshBank ch bank)
  | 3, _ => { s with ports := modifyAt s.ports (w / 2 ^ 38 % 16) (fun (p : Port) => { p with bad := insertNat p.bad (w / 2 ^ 33 % 32) }) }
  | _, _ => s

/-- R364 step 5, R374, R375: service tiles and the state before compute is enabled. -/
def State.dawnTiles (s : State) : State :=
  let fs : Map Nat := (List.range 128).filterMap (fun f => (s.chooseService f).map (fun t => (f, t)))
  { s with tiles := fs.foldl (fun (m : Map Tile) e => m.put e.2 Tile.service) [], fields := fs.map (fun e => (e.1, { tile := e.2 })) }

/-- R376: a map and a token that came during dawn are written to flash, for the next dawn. -/
def State.flushLater (s : State) : State :=
  let s : State := match s.laterToken with
    | some l => { s with flash := { s.flash with token := l }, laterToken := none }
    | none => s
  match s.laterMap with
  | some d => { s.writeMap d with laterMap := none }
  | none => s

/-- R364 steps 2-6 with a running firmware. -/
def State.dawnWith (s : State) (fw : List Byte) : State :=
  let s : State := { s with fw := fw, step := 3 }
  let chosen := chooseMap s.serial s.flash
  let present := (List.range 8448).filter siteExists
  let (s, d) : State × DefectMap := match chosen with
    | some d => (s, d)
    | none =>
      let (s, l) := s.failing present
      (s, surveyMap s.serial l)
  let good0 (p : Nat) : Bool := siteExists p && !d.bad.contains p
  let root := rootSite (present.filter good0)
  let tree : Map Nat := match root with
    | none => []
    | some r => clockTree good0 r 8448 [(r, 0)] []
  let clocked (p : Nat) : Bool := some p == root || (tree.look p).isSome
  let (s, failed) := if chosen.isSome then s.failing (present.filter clocked) else (s, [])
  let bad := present.filter (fun p => !clocked p || failed.contains p)
  let good (p : Nat) : Bool := siteExists p && !bad.contains p
  let s : State := { s with bad := bad, noClock := (present.filter (fun p => !clocked p)).map (fun p => (p, 0)), parents := tree.filter (fun e => plainParent e.1 != e.2), clockRoot := root.getD s.clockRoot,
                            step := 4, attested := chosen.isSome,
                            survey := chosen.isNone, dmap := some d }
  let placed := if chosen.isNone then placeGrid good else match keepGrid good d d.nrows with
    | some r => some r
    | none => keepGrid good d 80
  match placed with
  | none => s
  | some (all, spares) =>
    let (g, m) := grantRows d all spares (tokenRows s.serial s.flash.token)
    let d' : DefectMap := { d with bad := bad, map := mapExceptions (all ++ d.map.filter (fun e => (all.look e.1).isNone)) }
    let moved := d'.bad != d.bad || d'.map != d.map
    let s : State := { s with siteOf := mapExceptions m, rows := 80 + g, tabOut := bad }
    let s := s.dawnTiles
    let s : State := { s with step := 6, enabled := s.attested, dmap := some d' }
    let s := if moved then s.storeMap d' else if s.attested then s.evenMaps else s
    ((d.repairs.foldr (insertByKey repairEpoch) []).foldl (fun s r => s.reapply r) s).flushLater

/-- R364: dawn; one that follows an FWLOAD keeps what MAPLOAD and TOKENLOAD have brought since power-on (R376). -/
def State.dawn (s : State) : State :=
  let s : State := { s.powerless with laterMap := s.laterMap, laterToken := s.laterToken, ports := flashPorts s.flash.ports, myModule := (s.flash.ports.getD 32 0#8).toNat, step := 1 }
  match firmwareBody s.flash.fw1, firmwareBody s.flash.fw2 with
  | some fw, _ => s.dawnWith fw
  | none, some fw => s.dawnWith fw
  | none, none => s

def execDawn (s : State) : Out := onEvent s (s.step == 0) s.dawn

/-! ### Power modes (R28, R393, R394) -/

/-- R393: BFE and DRAM caps of a mode. -/
def modeCaps (m : Nat) : Nat × Nat :=
  match m with
  | 0 => (75, 80)
  | 1 => (100, 60)
  | 2 => (50, 100)
  | _ => (100, 100)

/-- R393: the power cap of a mode in watts. -/
def powerCap (m : Nat) : Nat := if m = 3 then 32000 else 40000

/-- R393: one comparison of the input power with the cap. -/
def State.throttle (s : State) (watts : Nat) : State :=
  let (b, d) := modeCaps s.mode
  if watts > powerCap s.mode then { s with bfeCap := max 25 (s.bfeCap - 5), dramCap := max 25 (s.dramCap - 5) }
  else if watts + 2000 ≤ powerCap s.mode then { s with bfeCap := min b (s.bfeCap + 5), dramCap := min d (s.dramCap + 5) }
  else s

def execPowerCheck (watts : Nat) (s : State) : Out :=
  onEvent s s.powerDue (({ s with powerAt := some s.now } : State).throttle watts)

/-- R28: tiles pause for a relock. -/
def State.relockAll (s : State) (ts : List Nat) : State :=
  ts.foldl (fun s t => s.modTile t (fun x => { x with relock := true, relockAt := s.now })) s

/-- R362: a relock at a site is noted for the counter grid. -/
def State.relockNoted (s : State) (p : Nat) : State := { s with grids := s.grids.put p { s.siteGrid p with relockSeen := true } }

/-- R28, R370: a tile's clock has relocked; a change of the clock rate goes on to the sites that take their clock from it. -/
def State.relocked (s : State) (t : Nat) : State :=
  let p := s.site t
  let s := ((s.modTile t (fun x => { x with relock := false, relockAt := 0 })).relockNoted p).unlist t
  if !s.changing then s
  else s.relockAll (s.clockTiles 8448 ((siteNeighbours p).filter (fun q => s.forwards q && q != s.clockRoot && s.parentOf q == p)))

def execClockRelock (t : Nat) (s : State) : Out := onEvent s ((s.tile t).relock) (s.relocked t)

/-- R394: every tile has relocked: the MODE notice goes to the host. -/
def execModeChangeComplete (s : State) : Out :=
  onEvent s (s.changing && s.tiles.all (fun e => !e.2.relock))
    (({ s with changing := false } : State).notify 8 (noticeWord0 0x47 0 0#24) (BitVec.ofNat 64 (s.mode + 4 * s.oldMode)) s.wall 0#64)

/-- R28, R370, R394: MODESET to mode `m`: whether it ends at once, and the state; a change of the clock rate begins at the root. -/
def State.setMode (s : State) (m : Nat) : State × Bool :=
  let (b, d) := modeCaps m
  let slow := (m == 3) != (s.mode == 3)
  let s : State := { s with oldMode := s.mode, mode := m, bfeCap := b, dramCap := d }
  if slow then (({ s with changing := true } : State).relockAll (s.clockTiles 8448 [s.clockRoot]), false)
  else (s, true)

/-- R382: a site whose clock parent has gone takes another, and its tile pauses. -/
def execClockParentSwitch (site : Nat) (s : State) : Out :=
  match s.newParent site with
  | none => .fault .notEnabled
  | some u =>
    let s' : State := { s with parents := s.parents.put site u }
    onEvent s (s.unclocked site) (match s.tileAt site with
      | none => s'
      | some t => s'.modTile t (fun x => { x with relock := true, relockAt := s.now }))

/-! ### Peers (R297, R348) -/

/-- R348: packets to a peer end with LINKLOST; whether the peer performed them is not known. -/
def State.loseFlits (s : State) (m : Nat) (sel : Packet → Bool) : State :=
  let mine (p : Packet) : Bool := p.dst == 16384 + m && sel p
  let ps := s.net.filter mine
  let s : State := { s with net := s.net.filter (fun p => !mine p) }
  ps.foldl (fun s p => match p.body with
    | .atomicReq _ a .. => s.answer p.dst p.src p.slot (.failed FaultCode.linkLost a (BitVec.ofNat 64 m))
    | _ => s.discardPacket p.dst p FaultCode.linkLost EngErr.linkLost (BitVec.ofNat 64 m)) s

/-- R297: what is in flight to the peer completes with LINKLOST, and the directory tiles mark and invalidate its descriptors; the host
hears of it when the last has finished. -/
def execPeerLoss (m : Nat) (s : State) : Out :=
  onEvent s (s.ports.any (fun p => p.role == 2 && p.module == m) && !s.lostPeers.contains m)
    ((s.loseFlits m (fun _ => true)).markPeer m true .nobody)

/-! ### Lanes and ports (R350, R351, R395) -/

/-- R350: lanes in use for a count of good lanes. -/
def lanesInUse (good : Nat) : Nat := if good ≥ 16 then 16 else if good ≥ 8 then 8 else 0

def State.modPort (s : State) (i : Nat) (f : Port → Port) : State := { s with ports := modifyAt s.ports i f }

/-- R350: a request whose port has left service: no port answers it. -/
def lostReq (i : Nat) (r : HostReq) : HostReq := if r.port = i then { r with port := 16 } else r
def Asker.lost (i : Nat) : Asker → Asker
  | .host r => .host (lostReq i r)
  | w => w

/-- R350: the host requests not yet answered through a port end. -/
def State.endRequests (s : State) (i : Nat) : State :=
  { s with
    hostHeld := s.hostHeld.filter (fun e => e.1.port != i)
    ctxs := Map.mapVals (fun (c : Context) => { c with dying := c.dying.map (lostReq i) }) s.ctxs
    objDying := s.objDying.map (fun e => (e.1, e.2.1, lostReq i e.2.2))
    retires := s.retires.filter (fun e => e.2.port != i)
    dbgReqs := s.dbgReqs.filter (fun e => e.1.port != i)
    net := s.net.map (fun p => match p.body with
      | .svcReq op ctx a w who => { p with body := .svcReq op ctx a w (who.lost i) }
      | _ => p)
    tiles := Map.mapVals (fun (x : Tile) =>
      { x with xops := x.xops.map (fun (o : XOp) => { o with who := o.who.lost i })
               slots := x.slots.map (fun (sl : Slot) => { sl with stepReq := sl.stepReq.map (lostReq i) }) }) s.tiles }

/-- R348, R350: a port leaves service: the host requests of a host port end, the flits of a peer port that fails are lost, and with its
last port the peer (R297). -/
def State.portOut (s : State) (i : Nat) (lose : Bool) : State :=
  match s.ports[i]? with
  | none => s
  | some p =>
    let lost := if p.role = 2 && lose then s.loseFlits p.module (fun q => s.peerPort p.module q.src == i) else s
    let s := lost.modPort i (fun p => { p with up := false })
    let s : State := if p.role = 1 then s.endRequests i else s
    let s := s.notify 6 (BitVec.ofNat 64 i) (BitVec.ofNat 64 p.role) 0#64 0#64
    if p.role = 2 ∧ (s.peerPorts p.module).isEmpty ∧ !s.lostPeers.contains p.module then
      (s.loseFlits p.module (fun _ => true)).markPeer p.module true .nobody
    else s

/-- R349, R350: a lane fails: a spare takes its place, or the port narrows to 8 lanes, or leaves service; a narrow port goes on as it
was while 8 good lanes remain. -/
def State.laneDown (s : State) (i lane : Nat) (p : Port) : State :=
  let good := p.good - 1
  let s := s.modPort i (fun p => { p with bad := insertNat p.bad lane })
  if good < 8 then s.portOut i true
  else if good < 15 then s
  else
    let s := if good ≥ 16 then s.addRepair 3 (Config.portSite i) (i * 2 ^ 38 + lane * 2 ^ 33) else s
    s.notify 5 (BitVec.ofNat 64 i) (BitVec.ofNat 64 (lanesInUse good)) (BitVec.ofNat 64 (good - 16)) 0#64

def execLaneFailure (port lane : Nat) (s : State) : Out :=
  match s.ports[port]? with
  | none => .fault .notEnabled
  | some p => onEvent s (p.up && p.role != 0 && lane < 18 && !p.bad.contains lane) (s.laneDown port lane p)

/-- The output port of an edge site that faces outside the wafer. -/
def outward (site : Nat) : Nat :=
  ((List.range 4).find? (fun k => match siteStep site k with
    | some q => !siteExists q
    | none => true)).getD 0

/-- R350: a resend is counted, and by the grid for the output port of the edge site; software sees only delay. -/
def execLinkCrcResend (port : Nat) (s : State) : Out :=
  match s.ports[port]? with
  | none => .fault .notEnabled
  | some p => onEvent s (p.up && p.role != 0) ((s.linkError port).countResend (Config.portSite port) (outward (Config.portSite port)))

/-- R351, R395: PARTOUT of a port, a pump or a power stage; `none` where the rest would not suffice. -/
def State.takeOut (s : State) (kind i : Nat) : Option State :=
  match kind with
  | 0 => let l := insertNat s.pumpsOut i
    if 3 - l.length ≥ 2 then some { s with pumpsOut := l } else none
  | 1 => let l := insertNat s.stagesOut i
    if 24 - l.length ≥ 22 then some { s with stagesOut := l } else none
  | _ => match s.ports[i]? with
    | none => some s
    | some p =>
      if !p.up || p.role = 0 then some (s.modPort i (fun p => { p with up := false }))
      else if s.ports.zipIdx.any (fun e => e.2 != i && e.1.up && e.1.role == p.role && (p.role != 2 || e.1.module == p.module)) then
        some (s.portOut i false)
      else none

/-- R395: PARTIN. -/
def State.putIn (s : State) (kind i : Nat) : State :=
  match kind with
  | 0 => { s with pumpsOut := eraseNat s.pumpsOut i }
  | 1 => { s with stagesOut := eraseNat s.stagesOut i }
  | _ => match s.ports[i]? with
    | none => s
    | some p =>
      let s' := s.modPort i (fun p => { p with up := true, bad := [] })
      if p.up then s else if p.role = 0 then s' else s'.notify 6 (BitVec.ofNat 64 i) (BitVec.ofNat 64 p.role) 1#64 0#64

end Sys2Proof.Machine
end

