-- ==== Sys2Proof/Machine/Nme.lean ====
section
/-! DEFINITION. The near-memory engine (R184-R188, R276, R296) and the start of every engine's commands (R163). -/

namespace Sys2Proof.Machine

/-! ### Blocks (R184) -/

structure NmJob where
  acc : Bool
  rm : Nat
  sat : Bool
  fd : Nat
  fc : Nat
  fb : Nat
  fa : Nat
  count : Nat
  dst : Word
  a : Word
  b : Word
  c : Word
  prog : Word
  deriving DecidableEq, Repr

def nmJob (w : List Word) (st : Word) : NmJob :=
  let k := blk w 0
  let (rm, sat) := outMode (bits k 18 16) (k.getLsbD 19) st
  { acc := k.getLsbD 20, rm := rm, sat := sat, fd := bits k 15 12, fc := bits k 11 8, fb := bits k 7 4, fa := bits k 3 0,
    count := (blk w 1).toNat, dst := blk w 2, a := blk w 3, b := blk w 4, c := blk w 5, prog := blk w 6 }

/-- Codes the engine accepts (R184). -/
def nmFmt (c : Nat) : Bool := [1, 2, 3, 11, 12].contains c

/-- R184: reserved bits and the fields a command does not use. -/
def nmFields (op : CmdOp) (w : List Word) : Bool :=
  let k := blk w 0
  let j := nmJob w 0#64
  bits k 63 21 == 0 && 1 ≤ j.count && j.count ≤ 2 ^ 20 &&
  (match op with
  | .nrzero => k == 0#64 && j.a == 0#64 && j.b == 0#64 && j.c == 0#64 && j.prog == 0#64
  | .nexpr => bits k 18 16 != 5 && bits k 18 16 != 6 && !j.acc && (j.a != 0#64 || j.fa == 0) && (j.b != 0#64 || j.fb == 0) &&
      (j.c != 0#64 || j.fc == 0)
  | .ngemv => bits k 19 16 == 0 && j.fb == 0 && j.fc == 0 && j.dst == 0#64 && j.prog == 0#64
  | _ => k == 0#64 && j.b == 0#64 && j.c == 0#64 && j.prog == 0#64)

def nmFormats (op : CmdOp) (j : NmJob) : Bool :=
  match op with
  | .nexpr => nmFmt j.fd && (j.a == 0#64 || nmFmt j.fa) && (j.b == 0#64 || nmFmt j.fb) && (j.c == 0#64 || nmFmt j.fc)
  | .ngemv => j.fd == 1 && j.fa == 11
  | _ => true

/-- Operand ranges: address, bytes, alignment, whether written. -/
def nmRanges (op : CmdOp) (j : NmJob) : List (Word × Nat × Nat × Bool) :=
  let sz (c : Nat) : Nat := elemBits c / 8
  match op with
  | .nrcopy => [(j.a, j.count * 2048, 2048, false), (j.dst, j.count * 2048, 2048, true)]
  | .nrzero => [(j.dst, j.count * 2048, 2048, true)]
  | .nbcopy => [(j.a, j.count * 64, 64, false), (j.dst, j.count * 64, 64, true)]
  | .nexpr =>
    (if j.a = 0#64 then [] else [(j.a, j.count * sz j.fa, sz j.fa, false)]) ++
    (if j.b = 0#64 then [] else [(j.b, j.count * sz j.fb, sz j.fb, false)]) ++
    (if j.c = 0#64 then [] else [(j.c, j.count * sz j.fc, sz j.fc, false)]) ++ [(j.dst, j.count * sz j.fd, sz j.fd, true)]
  | .ngemv => [(j.a, 128, 1, false), (j.b, j.count * 16384, 16384, false)] ++
    (if j.acc then [(j.c, j.count * 448, 4, false)] else []) ++ [(j.c, j.count * 448, 4, true)]
  | _ => []

/-! ### The program of `nexpr` (R187) -/

/-- The operators of a program area, read until END or byte 23. -/
def exprOps (bytes : List Nat) : List Nat := (bytes.take 24).takeWhile (· != 0)

/-- Operands popped and values pushed by an operator; `none` for any other code. -/
def opArity (c : Nat) : Option (Nat × Nat) :=
  if 1 ≤ c ∧ c ≤ 7 then some (0, 1)
  else if 8 ≤ c ∧ c ≤ 12 then some (2, 1)
  else if c = 13 ∨ c = 0x15 then some (3, 1)
  else if 0x10 ≤ c ∧ c ≤ 0x12 then some (1, 1)
  else if c = 0x13 then some (1, 2)
  else if c = 0x14 then some (2, 2)
  else none

/-- The depth a program leaves, where no point exceeds 4 or pops an empty stack. -/
def exprDepth : List Nat → Nat → Option Nat
  | [], d => some d
  | c :: cs, d => match opArity c with
    | none => none
    | some (i, o) => if d < i ∨ d - i + o > 4 then none else exprDepth cs (d - i + o)

/-- R187: the checks of a program. -/
def exprOk (j : NmJob) (bytes : List Nat) : Bool :=
  let ops := exprOps bytes
  exprDepth ops 0 == some 1 && ((bytes.drop 24).take 8).all (· == 0) && (bytes.drop 48).all (· == 0) &&
  !(ops.contains 1 && j.a == 0#64) && !(ops.contains 2 && j.b == 0#64) && !(ops.contains 3 && j.c == 0#64)

/-- An FP32 result with its flags. -/
def f32 (v : Val) : Nat × Flags := roundTo fp32 rne v

def pick32 (isMax : Bool) (x y : Nat) : Nat × Flags :=
  match pickMinMax isMax (fp32.value x) (fp32.value y) with
  | .first => (x, Flags.none)
  | .second => (y, Flags.none)
  | .nan nv => (fp32.nanCode, Flags.nvIf nv)

def isPositive (x : Nat) : Bool :=
  match fp32.value x with
  | .fin neg m _ => !neg && m != 0
  | .inf neg => !neg
  | .nan _ => false

/-- R31: NV for an operand that is a signalling NaN. -/
def nvSignal (x : Nat) : Flags := match fp32.value x with
  | .nan true => Flags.nv
  | _ => Flags.none

/-- One operator on a stack of FP32 codes, top first. `push` gives the streams' elements and constants. -/
def exprStep (push : Nat → Nat × Flags) (st : List Nat × Flags) (c : Nat) : List Nat × Flags :=
  let one (r : Nat × Flags) (rest : List Nat) : List Nat × Flags := (r.1 :: rest, st.2 ||| r.2)
  if 1 ≤ c ∧ c ≤ 7 then one (push c) st.1
  else match st.1 with
    | z :: rest1 =>
      if c = 0x10 then ((z ^^^ 2 ^ 31) :: rest1, st.2)
      else if c = 0x11 then (z % 2 ^ 31 :: rest1, st.2)
      else if c = 0x12 then ((if (fp32.value z).isNan then fp32.nanCode else if isPositive z then z else 0) :: rest1, st.2 ||| nvSignal z)
      else if c = 0x13 then (z :: z :: rest1, st.2)
      else match rest1 with
        | y :: rest2 =>
          let a := fp32.value y
          let b := fp32.value z
          if c = 8 then one (f32 (addVal 0 a b)) rest2
          else if c = 9 then one (f32 (addVal 0 a b.neg)) rest2
          else if c = 10 then one (f32 (mulVal a b)) rest2
          else if c = 11 then one (pick32 false y z) rest2
          else if c = 12 then one (pick32 true y z) rest2
          else if c = 0x14 then (y :: z :: rest2, st.2)
          else match rest2 with
            | x :: rest3 =>
              if c = 13 then one (f32 (fmaVal 0 (fp32.value x) a b)) rest3
              else if c = 0x15 then ((if isPositive x then y else z) :: rest3, st.2 ||| nvSignal x)
              else st
            | [] => st
        | [] => st
    | [] => st

/-! ### Memory as the engine sees it (R185) -/

/-- R385: the engine reads words of DRAM: errors are met. -/
def State.meetWord (s : State) (t ctx : Nat) (a : Word) : State :=
  match (s.tile t).extent ctx (objOf a) (granOf a) with
  | none => s
  | some e => s.meetDram t (dramKey t e.page (offOf a / 8 * 8)) 1

/-- A word of DRAM under the extent that the home holds; the bytes of replicated code are kept once for all tiles (log 3). -/
def State.dramWord (s : State) (t ctx : Nat) (a : Word) : Word × Bool :=
  match (s.tile t).extent ctx (objOf a) (granOf a) with
  | none => (s.mem.word (codeKey ctx (objOf a) (offOf a)), false)
  | some e =>
    let k := dramKey t e.page (offOf a)
    let repl : Bool := match s.object ctx (objOf a) with | some o => o.place == 3 | none => false
    (s.mem.word (if repl then codeKey ctx (objOf a) (offOf a) else k), s.mem.isPoison k)

/-- Bytes of a word written into DRAM; cached copies of the word hold the new bytes at once, tags stay (R118, R185). -/
def State.dramPut (s : State) (t ctx : Nat) (a : Word) (mask : BitVec 8) (v : Word) (bad : Bool) : State :=
  match (s.tile t).extent ctx (objOf a) (granOf a) with
  | none => s
  | some e =>
    let k := dramKey t e.page (offOf a)
    let s := s.modMem (fun m => let m := m.write k mask v; if bad then m.setPoison k true else m)
    let fix (l : Line) : Line :=
      if l.is ctx (objOf a) (lineNo a) then l.mod (wordIdx a) (fun (w : LWord) =>
        let w := w.write mask v
        { w with dirty := w.dirty &&& ~~~mask, poison := w.poison || bad }) else l
    let s := s.modTile t (fun x => { x with l1 := x.l1.map fix, slices := x.slices.map fix })
    s.wake t (objWordKey ctx a) (s.dramWord t ctx a).1

def State.dramPuts (s : State) (t ctx : Nat) (ws : List (Word × BitVec 8 × Word × Bool)) : State :=
  ws.foldl (fun s w => s.dramPut t ctx w.1 w.2.1 w.2.2.1 w.2.2.2) s

/-- `n` bytes of DRAM at an address, little-endian, with poison. -/
def State.dramField (s : State) (t ctx : Nat) (a : Word) (n : Nat) : Nat × Bool :=
  let (w, p) := s.dramWord t ctx a
  (takeBytes (offOf a) n w, p)

/-- Whether a line lies in a range. -/
def inRange (ctx : Nat) (a : Word) (n : Nat) (l : Line) : Bool :=
  l.ctx == ctx && l.obj == objOf a && l.ln * 64 < offOf a + n && offOf a < l.ln * 64 + 64

/-! ### Start (R185, R296) -/

/-- The granules of a range. -/
def granules (a : Word) (n : Nat) : List Word :=
  (List.range ((offOf a + n - 1) / 65536 + 1 - offOf a / 65536)).map (fun i =>
    BitVec.ofNat 64 (objOf a * 2 ^ 40 + (offOf a / 65536 + i) * 65536))

/-- R167, R103: the checks of an operand range. -/
def State.nmRangeCheck (s : State) (ctx : Nat) (q : Word × Nat × Nat × Bool) : Option Nat :=
  let (a, n, al, wr) := q
  match s.object ctx (objOf a) with
  | none => some EngErr.noObj
  | some o =>
    if a.toNat % al ≠ 0 then some EngErr.param
    else if offOf a + n > o.size then some EngErr.bounds
    else if wr ∧ (o.isCode ∨ !o.writable) then some EngErr.perm else none

/-- R185 step 1: a granule as the engine translates it. -/
inductive Xlate where
  | ok
  | err (code : Nat)
  | absent (a : Word)
  deriving DecidableEq, Repr

def State.translate (s : State) (t ctx : Nat) : List Word → Xlate
  | [] => .ok
  | a :: as =>
    match s.object ctx (objOf a) with
    | none => .err EngErr.noObj
    | some o =>
      if o.peer then .err EngErr.home
      else match s.trueHome ctx a t with
        | none => .err EngErr.notRes
        | some u =>
          if u ≠ t then .err EngErr.home
          else match s.resid t ctx a with
            | .draining => .err EngErr.draining
            | .lost => .err EngErr.ue
            | .absent => match s.translate t ctx as with
              | .err c => .err c
              | _ => .absent a
            | _ => s.translate t ctx as

def State.pin (s : State) (t ctx : Nat) (gs : List Word) (up : Bool) : State :=
  s.modTile t (fun x => { x with extents := Map.mapVals (fun (e : Extent) =>
    if e.ctx == ctx && gs.any (fun a => objOf a == e.obj && granOf a == e.gran) then
      { e with npin := if up then e.npin + 1 else e.npin - 1 } else e) x.extents })

/-- The program area's bytes. DESIGN CHOICE (log 118): a poisoned word of the area is read as its bytes; R187 gives UE to poisoned inputs
of an element only. -/
def State.progBytes (s : State) (t : Nat) (a : Word) : List Nat :=
  (List.range 64).map (fun i => (s.mem.byte (spadKey t (macroOf a) (macroOff a + i))).toNat)

/-- R184-R187: the checks before any read. -/
def State.nmCheck (s : State) (t : Nat) (r : Run) (w : List Word) : Option (Nat × Nat) :=
  let op := r.cmd.op
  let j := nmJob w r.cmd.st
  let rs := nmRanges op j
  let ctx := (s.runTeam t r).ctx
  if !nmFields op w then some (EngErr.param, 0)
  else if !nmFormats op j then some (EngErr.format, 0)
  else if op = .nexpr ∧ bits j.prog 63 22 ≠ 0 then some (EngErr.bounds, 0)
  else if op = .nexpr ∧ (j.prog.toNat % 64 ≠ 0 ∨ (s.blockAddr t j.prog false).toOption.isNone) then
    some (EngErr.param, 0)
  else if op = .nexpr ∧ !macroOwned (s.tile t) r.pos (macroOf j.prog) then some (EngErr.perm, macroOf j.prog)
  else if op = .nexpr ∧ !exprOk j (s.progBytes t j.prog) then some (EngErr.param, 0)
  else match rs.findSome? (s.nmRangeCheck ctx) with
    | some c => some (c, 0)
    | none =>
      let n := match rs with | (_, n, _, _) :: _ => n | [] => 0
      if (op = .nrcopy ∨ op = .nbcopy) ∧ objOf j.a = objOf j.dst ∧ offOf j.a < offOf j.dst + n ∧ offOf j.dst < offOf j.a + n then
        some (EngErr.param, 0)
      else none

/-- The end of a command: cached lines of its destination are dropped and its pins given up (R185, R296). -/
def State.nmEnd (s : State) (t : Nat) (r : Run) (err det cnt : Nat) : State :=
  let j := nmJob (r.blocks.getD 0 []) r.cmd.st
  let ctx := (s.runTeam t r).ctx
  let s := (nmRanges r.cmd.op j).foldl (fun s q => if q.2.2.2 then s.dropLines t (inRange ctx q.1 q.2.1) else s) s
  let s := s.pin t ctx (r.pins.map (fun g => BitVec.ofNat 64 (g.2.1 * 2 ^ 40 + g.2.2 * 65536))) false
  s.engDone t r err det cnt

/-- R185: the operands translated and pinned, dirty lines of the sources written back; or the command waits for an entry. -/
def State.nmBegin (s : State) (t : Nat) (r : Run) : Start :=
  let w := (s.readBlock t r.cmd.block).1
  if r.cmd.op = .nexpr ∧ bits (blk w 6) 63 22 = 0 ∧ (s.tile t).scrubs (macroOf (blk w 6)) then .wait
  else match s.nmCheck t r w with
  | some (c, d) => .err c d 0
  | none =>
    let rs := nmRanges r.cmd.op (nmJob w r.cmd.st)
    let ctx := (s.runTeam t r).ctx
    let gs := (rs.flatMap (fun q => granules q.1 q.2.1)).eraseDups
    match s.translate t ctx gs with
    | .err c => .err c 0 0
    | .absent a =>
      match s.gate t ctx a with
      | .join => .go ((s.joinEngine t ctx a .nme r).setRun t .nme (some { r with wait := .pending, killed := false }))
      | .open_ => .go ((((s.openPending t ctx a).joinEngine t ctx a .nme r).residNotice t ctx a 4#64).setRun t .nme
          (some { r with wait := .pending, killed := false }))
      | .full => .go ((s.modTile t (fun x =>
          let h : HeldAcc := .engine .nme r.pos r.cmd.ticket ctx a
          let x := x.unhold h
          { x with overflow := x.overflow ++ [h] })).setRun t .nme (some { r with wait := .pending, killed := false }))
      | .hold => .go ((s.holdAcc t ctx a (.engine .nme r.pos r.cmd.ticket ctx a)).setRun t .nme
          (some { r with wait := .pending, killed := false }))
      | _ => .wait
    | .ok =>
      let s := rs.foldl (fun s q => if q.2.2.2 then s else s.writeBack t (inRange ctx q.1 q.2.1)) s
      let s := s.pin t ctx gs true
      .go (s.setRun t .nme (some { r with blocks := [w], wait := .run, pins := gs.map (fun a => (ctx, objOf a, granOf a)) }))

/-! ### Operations (R186-R188) -/

/-- R276: whether a row pair lies in one subarray of one bank and channel. -/
def State.sameSub (s : State) (t ctx : Nat) (a d : Word) : Bool :=
  match (s.tile t).extent ctx (objOf a) (granOf a), (s.tile t).extent ctx (objOf d) (granOf d) with
  | some e, some f => e.page / 1024 == f.page / 1024 && e.page % 4 == f.page % 4 && offOf a / 2048 % 32 == offOf d / 2048 % 32
  | _, _ => false

/-- The words copied by a unit of `n` words. -/
def State.copyUnit (s : State) (t ctx : Nat) (a d : Word) (n : Nat) (zero : Bool) : State :=
  let ws := (List.range n).map (fun i =>
    let o := BitVec.ofNat 64 (8 * i)
    let (v, p) := if zero then (0#64, false) else s.dramWord t ctx (a + o)
    (d + o, 0xFF#8, v, p))
  s.dramPuts t ctx ws

/-- R187: element `i` of a stream with the flags of its conversion and its poison. -/
def State.streamEl (s : State) (t ctx : Nat) (a : Word) (c i : Nat) : (Nat × Flags) × Bool :=
  let n := elemBits c / 8
  let (v, p) := s.dramField t ctx (a + BitVec.ofNat 64 (n * i)) n
  let x : Val := if isIntFmt c then intVal (sext (8 * n) v) else (elemFmt c).value v
  (f32 x, p)

/-- R188: the bank that holds a word: stack address bits 17:14. -/
def State.bankOf (s : State) (t ctx : Nat) (a : Word) : Nat :=
  match (s.tile t).extent ctx (objOf a) (granOf a) with
  | some e => e.page % 4 * 4 + offOf a / 16384 % 4
  | none => 0

/-- R187: element `i` of the destination: its code, its flags, and the bank of the first poisoned input. -/
def State.exprEl (s : State) (t ctx : Nat) (j : NmJob) (key : BitVec 32) (bytes : List Nat) (i : Nat) :
    Nat × Flags × Option Nat :=
  let ops := exprOps bytes
  let const (k : Nat) : Nat := (((bytes.drop (32 + 4 * k)).take 4).foldr (fun b acc => acc * 256 + b) 0)
  let push (c : Nat) : Nat × Flags :=
    if c = 1 then (s.streamEl t ctx j.a j.fa i).1
    else if c = 2 then (s.streamEl t ctx j.b j.fb i).1
    else if c = 3 then (s.streamEl t ctx j.c j.fc i).1
    else (const (c - 4), Flags.none)
  let bad := [(1, j.a, j.fa), (2, j.b, j.fb), (3, j.c, j.fc)].findSome? (fun q =>
    if ops.contains q.1 && (s.streamEl t ctx q.2.1 q.2.2 i).2 then
      some (s.bankOf t ctx (q.2.1 + BitVec.ofNat 64 (elemBits q.2.2 / 8 * i)))
    else none)
  let (st, fl) := ops.foldl (exprStep push) ([], Flags.none)
  let (code, fl') := encodeElem j.fd ⟨j.rm, j.sat, key, BitVec.ofNat 32 (0x80000000 + i % 2 ^ 30)⟩ (fp32.value (st.headD 0))
  (code, fl ||| fl', bad)

/-- A tile of `ngemv`: whether its check fails, whether its bank met poison, and its outputs: code, flags, poison. -/
structure GemvTile where
  chk : Bool
  ue : Bool
  out : List (Nat × Flags × Bool)
  deriving DecidableEq, Repr

/-- R188: the outputs of one weight tile. DESIGN CHOICE (log 119): a poisoned y word of an accumulating command poisons its own output
word, with UE and the weight tile's bank in det; R188 speaks of poisoned weight and x words. -/
def State.gemvTile (s : State) (t ctx : Nat) (j : NmJob) (i : Nat) : GemvTile :=
  let w := j.b + BitVec.ofNat 64 (16384 * i)
  let byte (o : Nat) : Nat := (s.dramField t ctx (w + BitVec.ofNat 64 o) 1).1
  let q (r c : Nat) : Int := sext 8 (byte (128 * r + c))
  let x (c : Nat) : Int := sext 8 (s.dramField t ctx (j.a + BitVec.ofNat 64 c) 1).1
  let sum (f : Nat → Int) (n : Nat) : Int := (List.range n).foldl (fun a k => a + f k) 0
  let dot (r : Nat) : Int := sum (fun c => q r c * x c) 128
  let sx := sum x 128
  let cs (c : Nat) : Int := ((s.dramField t ctx (w + BitVec.ofNat 64 (15680 + 4 * c)) 4).1 : Nat)
  let chk := sum dot 112 % 2 ^ 32 != sum (fun c => cs c * x c) 128 % 2 ^ 32
  let wp := (List.range 2024).any (fun k => (s.dramWord t ctx (w + BitVec.ofNat 64 (8 * k))).2)
  let xp := (wordsOf j.a 128).any (fun a => (s.dramWord t ctx a).2)
  let out := (List.range 112).map (fun r =>
    let sc := fp16.value ((s.dramField t ctx (w + BitVec.ofNat 64 (14336 + 2 * r)) 2).1)
    let z := sext 8 (byte (15232 + r))
    let y := s.dramField t ctx (j.c + BitVec.ofNat 64 (4 * (112 * i + r))) 4
    let terms := mulVal sc (intVal (dot r - z * sx)) :: (if j.acc then [fp32.value y.1] else [])
    let (c, fl) := roundSum fp32 rne terms
    (c, fl, j.acc && y.2))
  { chk := chk, ue := wp || xp, out := out }

/-- R385: the words that the unit from element, row or tile `i` on reads are met. -/
def State.meetUnit (s : State) (t ctx : Nat) (op : CmdOp) (j : NmJob) (i : Nat) : State :=
  let sz (c : Nat) : Nat := elemBits c / 8
  let at_ (a : Word) (n k : Nat) : List Word := wordsOf (a + BitVec.ofNat 64 (n * i)) (n * k)
  let ws := match op with
    | .nrcopy => at_ j.a 2048 1
    | .nbcopy => at_ j.a 64 1
    | .nexpr => ([(j.a, j.fa), (j.b, j.fb), (j.c, j.fc)].filter (fun (q : Word × Nat) => q.1 != 0#64)).flatMap (fun (q : Word × Nat) =>
        at_ q.1 (sz q.2) (min 8 (j.count - i)))
    | .ngemv => wordsOf j.a 128 ++ at_ j.b 16384 1 ++ (if j.acc then at_ j.c 448 1 else [])
    | _ => []
  if s.mem.soft.isEmpty && s.mem.weak.isEmpty then s else ws.foldl (fun s a => s.meetWord t ctx a) s

/-- The next unit of the running command: a row, 64 bytes, the elements of one destination word, or a tile. -/
def State.nmUnit (s : State) (t : Nat) (r : Run) : State × Run :=
  let j := nmJob (r.blocks.getD 0 []) r.cmd.st
  let tm := s.runTeam t r
  let ctx := tm.ctx
  let i := r.prog
  let at_ (a : Word) (n : Nat) : Word := a + BitVec.ofNat 64 (n * i)
  match r.cmd.op with
  | .nrcopy =>
    (s.copyUnit t ctx (at_ j.a 2048) (at_ j.dst 2048) 256 false,
     { r with prog := i + 1, cnt := if s.sameSub t ctx (at_ j.a 2048) (at_ j.dst 2048) then r.cnt else r.cnt + 1 })
  | .nrzero => (s.copyUnit t ctx 0#64 (at_ j.dst 2048) 256 true, { r with prog := i + 1 })
  | .nbcopy => (s.copyUnit t ctx (at_ j.a 64) (at_ j.dst 64) 8 false, { r with prog := i + 1 })
  | .nexpr =>
    let bytes := s.progBytes t j.prog
    let n := elemBits j.fd / 8
    let first := offOf (at_ j.dst n) % 8 / n
    let k := min (8 / n - first) (j.count - i)
    let els := (List.range k).map (fun d => (d, s.exprEl t ctx j r.cmd.key bytes (i + d)))
    let m : WordBits := els.foldl (fun (m : WordBits) e =>
      addBits m (((at_ j.dst n).toNat + n * e.1) * 8) (8 * n) e.2.1 e.2.2.2.isSome) []
    let fl := els.foldl (fun f e => f ||| e.2.2.1) r.flags
    (s.dramPuts t ctx (wordWrites m),
     { r with prog := i + k, flags := fl, err := if els.any (fun e => e.2.2.2.isSome) then EngErr.ue else r.err,
              det := if r.err = 0 then (els.findSome? (fun e => e.2.2.2)).getD r.det else r.det })
  | _ =>
    let g := s.gemvTile t ctx j i
    let bad := g.chk || g.ue
    let m : WordBits := g.out.zipIdx.foldl (fun (m : WordBits) e =>
      addBits m ((j.c.toNat + 4 * (112 * i + e.2)) * 8) 32 e.1.1 (bad || e.1.2.2)) []
    let fl := g.out.foldl (fun f e => f ||| e.2.1) r.flags
    let bank := s.bankOf t ctx (j.b + BitVec.ofNat 64 (16384 * i))
    let code := if g.ue then EngErr.ue else if g.chk then EngErr.checksum else if g.out.any (fun e => e.2.2) then EngErr.ue else 0
    let s := s.dramPuts t ctx (wordWrites m)
    let s := if g.chk && !g.ue then s.modTile t (fun x => { x with chkTiles := x.chkTiles ++ [(ctx, (s.runTeam t r).kin, j.b + BitVec.ofNat 64 (16384 * i))] }) else s
    (s, { r with prog := i + 1, flags := fl, err := if r.err = 0 then code else r.err, det := if r.err = 0 ∧ code ≠ 0 then bank else r.det })

/-- R185, R190, R228: an operation of the near-memory engine completes in its turn at the tile's pipeline, or the command that waited for a granule starts afresh. -/
def execNmeOperationEnd (t : Nat) (s : State) : Out :=
  match (s.tile t).nme with
  | none => .fault .notEnabled
  | some r =>
    if r.wait = .next ∧ !s.runClosed t r then .next (s.setRun t .nme (some { r with wait := .run }))
    else if r.wait ≠ .run ∨ !s.turn t (engRank .nme) then .fault .notEnabled
    else if r.blocks.isEmpty then
      if r.killed then .next (s.engDone t r EngErr.notRes 0 0)
      else match s.nmBegin t r with
        | .wait => .fault .notEnabled
        | .err c d n => .next (s.engDone t r c d n)
        | .go s => .next s
    else
      let j := nmJob (r.blocks.getD 0 []) r.cmd.st
      let (s, r) := ((s.meetUnit t (s.runTeam t r).ctx r.cmd.op j r.prog).noteTurn t (engRank .nme)).nmUnit t r
      if r.prog ≥ j.count then .next (s.nmEnd t r r.err r.det r.cnt)
      else .next (s.setRun t .nme (some { r with wait := if s.runClosed t r then .next else .run }))

def execNrcopy (d : Reg) (p : Ptr) (s : State) : Out := blockCmd .nrcopy d p s
def execNrzero (d : Reg) (p : Ptr) (s : State) : Out := blockCmd .nrzero d p s
def execNbcopy (d : Reg) (p : Ptr) (s : State) : Out := blockCmd .nbcopy d p s
def execNexpr (d : Reg) (p : Ptr) (s : State) : Out := blockCmd .nexpr d p s
def execNgemv (d : Reg) (p : Ptr) (s : State) : Out := blockCmd .ngemv d p s

/-! ### The start of a command (R163) -/

/-- The command of a team that a restore left for an engine to resume (R341). -/
def Team.back (tm : Team) : Eng → Option Run
  | .bfe => tm.runB
  | .cpe => tm.runC
  | .nme => tm.runN

def Team.setBack (tm : Team) (e : Eng) (r : Option Run) : Team :=
  match e with
  | .bfe => { tm with runB := r }
  | .cpe => { tm with runC := r }
  | .nme => { tm with runN := r }

/-- R163: what an engine serves next: the stopped command or the head of the queue of the first team, after the team served
last, that has one. -/
def Tile.nextTeam (x : Tile) (now : Nat) (e : Eng) : Option (Nat × Run) :=
  let last := match e with | .bfe => x.lastBfe | .cpe => x.lastCpe | .nme => x.lastNme
  ((List.range 4).map (fun i => (last + 1 + i) % 4)).findSome? (fun p =>
    match x.teams.look p with
    | none => none
    | some tm =>
      if tm.closed then none
      else match tm.back e, (tm.engQ e).q with
        | some r, _ => some (p, { r with pos := p, due := now + (r.due - r.since), since := now })
        | none, c :: _ => some (p, { pos := p, cmd := c, wait := .macros })
        | none, [] => none)

def Tile.served (x : Tile) (e : Eng) (p : Nat) : Tile :=
  match e with
  | .bfe => { x with lastBfe := p }
  | .cpe => { x with lastCpe := p }
  | .nme => { x with lastNme := p }

/-- The checks of a command at its start, once its block can be read (R165, R242). -/
def State.startRun (s : State) (t : Nat) (e : Eng) (r : Run) : Start :=
  let s := if r.cmd.op.hasBlock then s.meetBlock t r.cmd.block 8 else s
  if r.cmd.op.hasBlock ∧ (s.tile t).scrubs (macroOf r.cmd.block) then .wait
  else if r.cmd.op.hasBlock ∧ (s.readBlock t r.cmd.block).2 then .err EngErr.ue 0 0
  else match e with
    | .bfe => s.bfeStart t r
    | .cpe => s.cpeStart t r
    | .nme => s.nmBegin t r

/-- R163: an idle engine takes a command from the next team's queue and checks it; one that waits for macros checks again. -/
def execCommandStart (t : Nat) (e : Eng) (s : State) : Out :=
  let x := s.tile t
  match x.run e with
  | some r =>
    if r.wait ≠ .macros ∨ s.runClosed t r then .fault .notEnabled
    else match s.startRun t e r with
      | .wait => .fault .notEnabled
      | .err c d n => .next (s.engDone t r c d n)
      | .go s => .next s
  | none =>
    if x.closed || x.fenced then .fault .notEnabled
    else match x.nextTeam s.now e with
    | none => .fault .notEnabled
    | some (p, r) =>
      let s := s.setTile t (x.served e p)
      if ((x.teams.look p).bind (fun tm => tm.back e)).isSome then
        .next ((s.modTeam t p (fun tm => tm.setBack e none)).setRun t e (some r))
      else
        let s := s.modQ t p e (fun q => { q with q := q.q.drop 1 })
        match s.startRun t e r with
        | .wait => .next (s.setRun t e (some r))
        | .err c d n => .next (s.engDone t r c d n)
        | .go s => .next s

end Sys2Proof.Machine
end

