-- ==== Sys2Proof/Machine/Preempt.lean ====
section
/-! DEFINITION. Pre-emption (R309), quiesce and restore (R332-R341). -/

namespace Sys2Proof.Machine

/-! ### The decision (R309) -/

/-- What a head order or a team held at seam wants on its tile. -/
structure Want where
  prio  : Nat
  slots : Nat
  pos   : Bool
  fmac  : Nat
  nmac  : Nat
  fcb   : Nat
  ncb   : Nat
  /-- The position that wants it, if it has one. -/
  own   : Option Nat := none
  deriving DecidableEq, Repr

/-- R309, R317: the first want of a tile: the team held at seam of the highest class, at steps 6 and 7, stands ahead of an order
of its class and below. -/
def State.want (s : State) (t : Nat) : Option Want :=
  let x := s.tile t
  let wants (e : Nat × Team) : Option Want := match e.2.seam, s.insts.look e.2.kin with
    | some (n, _, _, _), some i =>
      let l := i.rec_
      let f := e.2.fmac + e.2.nmac
      let b := e.2.fcb + e.2.ncb
      if n = 6 then some { prio := e.2.prio, slots := 0, pos := false, fmac := f, nmac := l.nmac - e.2.nmac, fcb := b,
                           ncb := l.ncb - e.2.ncb, own := some e.1 }
      else if n = 7 then some { prio := e.2.prio, slots := s.thrOn t e.2.kin, pos := false, fmac := 0, nmac := 0, fcb := 0,
                                ncb := 0, own := some e.1 }
      else none
    | _, _ => none
  let held := leastBy (fun (w : Want) => 3 - min 3 w.prio) (x.teams.filterMap wants)
  let order := match x.orders with
    | [] => none
    | o :: _ => match s.insts.look o.kin with
      | none => none
      | some i =>
        let l := i.rec_
        some { prio := o.prio, slots := s.thrOn t o.kin, pos := (x.posOf o.kin).isNone, fmac := l.fmac, nmac := l.nmac,
               fcb := l.fcb, ncb := l.ncb, own := x.posOf o.kin : Want }
  match held, order with
  | some h, some o => if o.prio > h.prio then some o else some h
  | some h, none => some h
  | none, o => o

/-- R309: whether the tile would meet a want once the teams at `vs` are gone. -/
def State.meets (s : State) (t : Nat) (w : Want) (vs : List Nat) : Bool :=
  let x := s.tile t
  let freed (o : Option Nat) : Bool := match o with | none => true | some p => vs.contains p
  s.freeSlots t + ((s.kernelSlots t).filter (fun k => vs.any (fun p => s.member t p k))).length ≥ w.slots &&
  (!w.pos || x.freePos.isSome || !vs.isEmpty) &&
  (List.range w.nmac).all (fun j => freed (x.mac (w.fmac + j)).owner) &&
  (List.range w.ncb).all (fun j => freed (x.buf (w.fcb + j)).owner)

/-- R309: the teams of lower class, lowest class first and the most recently admitted first within a class. -/
def State.lowerTeams (s : State) (t : Nat) (w : Want) : List Nat :=
  let ts := (s.tile t).teams.filter (fun e => e.2.prio < w.prio && !e.2.closed && some e.1 != w.own)
  let byAge (l : List (Nat × Team)) : List Nat := (l.mergeSort (fun a b => a.2.serial ≥ b.2.serial)).map Prod.fst
  [0, 1, 2, 3].flatMap (fun c => byAge (ts.filter (fun e => e.2.prio == c)))

/-- R309, R332: the victims: the fewest in that order that meet the want and find save areas. -/
def State.victimsFor (s : State) (t : Nat) (w : Want) : Option (List Nat) :=
  let ts := s.lowerTeams t w
  match (List.range (ts.length + 1)).find? (fun n => s.meets t w (ts.take n)) with
  | none => none
  | some n => if n = 0 ∨ n + (s.tile t).saves.length > 4 then none else some (ts.take n)

/-- R332: the lowest free save area. -/
def Tile.freeSave (x : Tile) : Option Nat := (List.range 4).find? (fun a => (x.saves.look a).isNone)

/-- R338 step 1 on a tile: admission closes, waiting arrivals move to the log, waiters are marked quiesced, and threads stop at their
boundaries; that of a running vector instruction at the end of a pass (R161). -/
def State.beginQuiesce (s : State) (t p : Nat) : State :=
  let x := s.tile t
  match x.teams.look p, x.freeSave with
  | some tm, some a =>
    let mine (f : Flit) : Bool := f.th.kin == tm.kin
    let queued := (x.queues.flatMap (fun e => e.2.q)).filter mine
    let ringed := (x.ring.filter mine).take (14848 - queued.length)
    let v : Save := { team := tm, pos := p, slots := [], macros := [], bufs := [], log := queued ++ ringed }
    let x : Tile :=
      { x with teams := x.teams.put p { tm with closed := true }
               saves := x.saves.put a v
               victims := x.victims ++ [p]
               queues := Map.mapVals (fun (q : AQueue) => { q with q := q.q.filter (fun f => !mine f) }) x.queues
               ring := x.ring.filter (fun f => !ringed.contains f) }
    let quiet (w : Waiter) : Waiter :=
      { w with quiesced := w.quiesced || (match w.slot, w.th with
          | some k, _ => s.member t p k
          | none, some th => th.kin == tm.kin
          | none, none => false) }
    let x : Tile := { x with waiters := x.waiters.map quiet, spilled := x.spilled.map quiet }
    s.setTile t ((List.range 16).foldl (fun x k =>
      if s.member t p k && !(match x.vec with | some v => v.slot == k | none => false) then x.modSlot k (·.quiesce s.now) else x) x)
  | _, _ => s

/-- R309: the controller orders the quiesce of the victims of a blocked order. -/
def execPreemptionDecision (t : Nat) (s : State) : Out :=
  let x := s.tile t
  if !x.victims.isEmpty || !x.acked.isEmpty || x.shut then .fault .notEnabled
  else match (s.want t).bind (s.victimsFor t) with
    | none => .fault .notEnabled
    | some vs => .next (vs.foldl (fun s p => s.beginQuiesce t p) s)

/-! ### Quiesce (R338) -/

/-- Whether a slot of the team has come to rest; an issued form runs to the end of its occupancy (R80, R101). -/
def Slot.atRest (sl : Slot) (now : Nat) : Bool :=
  match sl.state with
  | .free => true
  | .parked | .blocked | .stopped _ => sl.eligAt ≤ now
  | .ready => !sl.released && sl.atBoundary && !sl.retry && sl.eligAt ≤ now
  | .wait _ => sl.stops && sl.eligAt ≤ now
  | .remote => false

/-- Whether a request or an answer of a copy command is on its way. -/
def State.runMoving (s : State) (t : Nat) (r : Run) : Bool :=
  s.net.any (fun p => p.vc == 4 && p.slot == r.tag && (p.src == t || p.dst == t))

/-- R336, R338 step 2: whether a run stands at its boundary: between rows, or in a row that waits for a pending entry, here or at
another home, with nothing on its way. -/
def State.runAtBoundary (s : State) (t : Nat) (e : Eng) (r : Run) : Bool :=
  match r.wait with
  | .next | .macros | .group | .slot | .grant => true
  | .pending | .remote => e != .cpe || !s.runMoving t r
  | .run => match e with
    | .bfe => false
    | .cpe => !r.busy && r.asked.isEmpty && r.row.isEmpty
    | .nme => true

/-- The run of a team position on an engine. -/
def Tile.runAt (x : Tile) (e : Eng) (p : Nat) : Option Run :=
  match x.run e with
  | some r => if r.pos = p then some r else none
  | none => none

def State.engRest (s : State) (t : Nat) (e : Eng) (p : Nat) : Bool :=
  match (s.tile t).runAt e p with
  | none => true
  | some r => s.runAtBoundary t e r

/-- R338: whether the team at position `p` can be copied out: threads and engines at rest, its scrubs finished. -/
def State.quiet (s : State) (t p : Nat) : Bool :=
  let x := s.tile t
  (List.range 16).all (fun k => !s.member t p k || (s.slot t k).atRest s.now) &&
  s.engRest t .bfe p && s.engRest t .cpe p && s.engRest t .nme p &&
  x.macros.all (fun c => c.owner != some p || (c.state != .scrubbing && !c.due)) &&
  (match x.vec with | some v => (s.slot t v.slot).team != p || s.atService t v.slot | none => true)

/-- R336: a stopped command as it is saved: one whose row waits for a pending entry, here or at another home, comes back to that row
afresh, and answers to what it has asked find nobody; one that is over waits for its last acknowledgements. -/
def Run.saved (r : Run) : Run :=
  let away := r.cmd.op = .csend ∨ r.cmd.op = .cbcast
  if (r.wait = .pending ∨ r.wait = .remote) ∧ (cmdEng r.cmd.op ≠ .cpe ∨ r.prog < r.job.rows) then
    { r with wait := .run, begun := false, busy := false, raw := false, writes := [], got := [], asked := [], fmts := [],
             left := if away then r.left else 0, tries := r.tries + 1 }
  else r

/-- The stopped command of a team on an engine, running or not yet resumed. -/
def Tile.stopped (x : Tile) (tm : Team) (e : Eng) (p : Nat) : Option Run :=
  match x.runAt e p with
  | some r => some r.saved
  | none => tm.back e

/-- R337: the saved state of a slot at rest. -/
def Slot.savedState (sl : Slot) : Nat :=
  match sl.state with
  | .parked => 1
  | .blocked => 4
  | _ => 0

/-- R337: the record of slot `k`; a pending or standing debug stop is its dstop bit. A PARKED thread whose waiter has been woken since
the quiesce began is in state 3. -/
def State.record (s : State) (t k : Nat) : SavedSlot :=
  let sl := s.slot t k
  let w := ((s.tile t).waiters ++ (s.tile t).spilled).find? (fun w => w.slot == some k)
  let held : Bool := match sl.state with
    | .stopped .debug => true
    | _ => sl.stopReq
  { k := k, slot := { (if sl.state = .blocked ∨ sl.state = .parked then sl else sl.halt .quiesce) with stopReq := held, kept := none },
    state := if sl.savedState == 1 && (match w with | some w => w.woken | none => false) then 3 else sl.savedState,
    widx := match w with | some w => w.seq.toNat | none => 0,
    reply := sl.kept }

/-- R337: the record of a thread that waits in its waiter entry: its budget and pinning state. -/
def Waiter.record (w : Waiter) : SavedSlot :=
  { k := 16, slot := { state := .parked, th := w.th.getD {}, budget := w.hb, prev := w.prev, window := w.window }, state := 2,
    widx := w.seq.toNat }

/-- The waiters of the tile whose threads of an instance have left their slots. -/
def Tile.slotless (x : Tile) (kin : Nat) : List Waiter :=
  (x.waiters ++ x.spilled).filter (fun w => w.slot.isNone && (match w.th with | some th => th.kin == kin | none => false))

/-- R339: the team's waiters as the copy leaves them: the context of one that held a slot is in its record, and those of macro words
wait at the images. -/
def State.quiesceWaiter (s : State) (t a p kin : Nat) (w : Waiter) : Waiter :=
  let here : Bool := (w.slot.filter (fun k => s.member t p k)).isSome
  if !(here || (match w.th with | some th => th.kin == kin | none => false)) then w
  else
    let macro_ : Bool := w.key ≥ 2 ^ 100 && w.key < 2 ^ 101 && ((s.tile t).mac ((w.key - 2 ^ 100) / 2 ^ 14)).owner == some p
    { w with quiesced := true, slot := none, th := if here then none else w.th, key := if macro_ then imageWaitKey a w.key else w.key }

/-- R190, R260: a stopped command gives up its places in the pending entries, to which it comes back. -/
def Tile.unwait (x : Tile) (e : Eng) (r : Run) : Tile :=
  let x := x.unhold (.engine e r.pos r.cmd.ticket 0 0#64)
  { x with pendings := x.pendings.map (fun (p : Pending) => { p with engines := p.engines.filter (· != r.asWaiter e) }) }

/-- R338 steps 3 and 4: the team copied into save area `a` and its resources freed. The 16 records hold its threads in slots and, as
far as they go, those in waiter entries (log 112). -/
def State.copyOut (s : State) (t p a : Nat) (tm : Team) (v : Save) : State :=
  let x := s.tile t
  let ks := (List.range 16).filter (fun k => s.member t p k)
  let ms := (List.range 256).filter (fun m => (x.mac m).owner == some p)
  let v : Save :=
    { v with team := { tm with runB := x.stopped tm .bfe p, runC := x.stopped tm .cpe p, runN := x.stopped tm .nme p }
             slots := (ks.map (fun k => s.record t k) ++ (x.slotless tm.kin).map Waiter.record).take 16
             macros := x.macros.map (fun c => if c.owner = some p then c else {})
             bufs := x.bufs.map (fun b => if b.owner = some p then b else {})
             images := true }
  let wait (l : List Waiter) : List Waiter := l.map (fun w => s.quiesceWaiter t a p tm.kin w)
  let clr (e : Eng) (x : Tile) : Tile :=
    match x.runAt e p with
    | none => x
    | some r => (x.unwait e r).setRun e none
  let s := ms.foldl (fun s m => s.modMem (fun mem => mem.move (spadKey t m 0) (imageKey t a m 0) 2048)) s
  let x : Tile := ks.foldl (fun (x : Tile) k => x.modSlot k Slot.vacant) x
  let x : Tile := { x with
    waiters := wait x.waiters, spilled := wait x.spilled, saves := x.saves.put a v, victims := x.victims.filter (· != p),
    acked := x.acked ++ [a], teams := x.teams.del p,
    macros := x.macros.map (fun (c : Macro) =>
      if c.owner = some p then { c with owner := none, state := .scrubbing, since := none, due := false, loads := 0 } else c),
    bufs := x.bufs.map (fun (b : CBuf) => if b.owner = some p then {} else b),
    queues := match x.queues.look tm.ctx with
      | some q => x.queues.put tm.ctx { q with pos := p }
      | none => x.queues }
  s.setTile t (clr .bfe (clr .cpe (clr .nme x))).tidyQueues

def execQuiesce (t p : Nat) (s : State) : Out :=
  let x := s.tile t
  match x.teams.look p, x.saves.find? (fun e => e.2.pos == p && !e.2.images) with
  | some tm, some (a, v) => onEvent s (x.victims.contains p && s.quiet t p && !x.shut) (s.copyOut t p a tm v)
  | _, _ => .fault .notEnabled

/-- R338 step 5: the controller counts the acknowledgement. -/
def execQuiesceAcknowledge (t : Nat) (s : State) : Out :=
  match (s.tile t).acked with
  | [] => .fault .notEnabled
  | _ :: rest => .next (s.modTile t (fun x => { x with acked := rest }))

/-! ### Restore (R341) -/

/-- R341 step 2: macros and buffers back under position `p`. -/
def State.copyIn (s : State) (t p a : Nat) (v : Save) : State :=
  let ms := (List.range 256).filter (fun m => ((v.macros.getD m {}).owner).isSome)
  let s := ms.foldl (fun s m => s.modMem (fun mem =>
    (mem.move (imageKey t a m 0) (spadKey t m 0) 2048).clear (imageKey t a m 0) 2048)) s
  s.modTile t (fun x =>
    { x with macros := (x.macros.zip v.macros).map (fun e => if e.2.owner.isSome then { e.2 with owner := some p } else e.1)
             bufs := (x.bufs.zip v.bufs).map (fun e => if e.2.owner.isSome then { e.2 with owner := some p } else e.1)
             recvs := x.recvs.map (fun (r : Recv) => if r.kin = v.team.kin then { r with pos := p } else r) })

/-- R274: the pending entries that a thread posted name the slot `k` in which a restore puts it. -/
def State.movePoster (s : State) (t k : Nat) (th : Thread) : State :=
  { s with tiles := Map.mapVals (fun (x : Tile) => { x with pendings := x.pendings.map (fun (e : Pending) =>
    if e.postedBy th then { e with poster := some (t, k, th.tid) } else e) }) s.tiles }

/-- R341 step 3: the reply stored for a thread that has come back to slot `k`. -/
def State.applyReply (s : State) (t k : Nat) (r : SavedSlot) : State :=
  match r.reply with
  | some (w, acc) => if r.state = 4 then s.answerSlot t k (bits w 3 0) (regOfCode (bits w 15 12)) acc else s
  | none => s

/-- The waiter entry that a record names. -/
def Tile.recordWaiter (x : Tile) (r : SavedSlot) : Option Waiter :=
  (x.waiters ++ x.spilled).find? (fun w => w.seq.toNat == r.widx && w.quiesced)

/-- The waiter entry of a record whose thread was PARKED in its slot is removed. -/
def Tile.dropRecord (x : Tile) (r : SavedSlot) : Tile :=
  let keep (w : Waiter) : Bool := !((r.state == 1 || r.state == 3) && w.seq.toNat == r.widx && w.quiesced)
  { x with waiters := x.waiters.filter keep, spilled := x.spilled.filter keep }

/-- R341 step 3: what a thread that was READY, or has been woken, comes back to: it stays STOPPED where a debug stop holds it. -/
def SavedSlot.ready (r : SavedSlot) (base : Slot) : Slot :=
  { base with state := if r.slot.stopReq && r.slot.stepReq.isNone then .stopped .debug else .ready
              stopReq := r.slot.stopReq && r.slot.stepReq.isSome }

/-- R341 step 3: a saved thread in slot `k`; its instance's threads that wait in an entry stay there. -/
def State.putBack (s : State) (t p k : Nat) (r : SavedSlot) : State :=
  let s := s.movePoster t k r.slot.th
  let x := s.tile t
  let old := x.slot k
  let base : Slot := { r.slot with team := p, eligAt := old.eligAt, reqSeq := old.reqSeq }
  match r.state with
  | 4 => s.modSlot t k (fun _ => { base with msgSlot := some (r.slot.msgSlot.getD r.k) })
  | 1 =>
    let fix (l : List Waiter) : List Waiter :=
      l.map (fun (u : Waiter) => if u.seq.toNat == r.widx && u.quiesced then { u with slot := some k, th := none } else u)
    s.modTile t (fun x => { x with waiters := fix x.waiters, spilled := fix x.spilled }.modSlot k
      (fun _ => { base with state := .parked, fseq := old.fseq }))
  | 3 =>
    let s' := (s.modTile t (fun x => x.dropRecord r)).modSlot t k (fun _ => (r.ready { base with fseq := old.fseq }).goto r.slot.th.pc)
    match x.recordWaiter r with
    | some w => s'.emit t k 8 w.addr
    | none => s'
  | _ => s.modSlot t k (fun _ => r.ready { base with fseq := old.fseq })

/-- R341 step 4: an entry of the log joins the tail of the context's queue, or the ring. -/
def Tile.requeue (x : Tile) (aq p : Nat) (f : Flit) : Tile :=
  let q := (x.queues.look f.th.ctx).getD { depth := aq, pos := p }
  if q.q.length < q.depth then { x with queues := x.queues.put f.th.ctx { q with q := q.q ++ [f] } }
  else { x with queues := x.queues.put f.th.ctx q, ring := x.ring ++ [f] }

/-- R341: the team of save area `a` comes back; a context whose entry is lost ends as killed (R385). -/
def State.copyBack (s : State) (t a : Nat) (v : Save) : State :=
  let p := (s.tile t).freePos.getD 0
  let ks := (s.kernelSlots t).filter (fun k => (s.slot t k).state == .free)
  let s := s.copyIn t p a v
  let s := s.modTile t (fun x => { x with teams := x.teams.put p { v.team with closed := false }, saves := x.saves.del a })
  let rs := v.slots.filter (fun r => r.state != 2)
  let s := (rs.zip ks).foldl (fun s e =>
    if e.1.slot.th.foul then (s.modTile t (fun x => x.dropRecord e.1)).killContext t e.1.slot.th else s.putBack t p e.2 e.1) s
  let back (w : Waiter) : Waiter :=
    let mine : Bool := w.quiesced && (match w.th, w.slot with
      | some th, _ => th.kin == v.team.kin
      | none, some k => s.member t p k
      | none, none => false)
    if !mine then w
    else { w with quiesced := false, key := if w.key ≥ 2 ^ 102 * (a + 1) then w.key - 2 ^ 102 * (a + 1) else w.key }
  let aq := match s.insts.look v.team.kin with | some i => i.rec_.aq | none => 2
  let s := s.modTile t (fun x =>
    let x : Tile := { x with waiters := x.waiters.map back, spilled := x.spilled.map back }
    let x : Tile := if (x.queues.look v.team.ctx).isSome then x
      else { x with queues := x.queues.put v.team.ctx { depth := aq, pos := p } }
    (v.log.filter (fun f => !f.th.foul)).foldl (fun x f => x.requeue aq p f) x)
  let s := (v.log.filter (fun f => f.th.foul)).foldl (fun s f => s.killContext t f.th) s
  (rs.zip ks).foldl (fun s e => if e.1.slot.th.foul then s else s.applyReply t e.2 e.1) s

/-- R208: whether the spill ring has room for the arrivals of a log that the context's queue does not take (log 115). -/
def State.logFits (s : State) (t : Nat) (v : Save) : Bool :=
  let x := s.tile t
  let q := (x.queues.look v.team.ctx).getD { depth := match s.insts.look v.team.kin with | some i => i.rec_.aq | none => 2, pos := 0 }
  x.ring.length + (v.log.length - (q.depth - q.q.length)) ≤ 65536

/-- R309: a restore: its resources are free and no order of a higher class waits. -/
def execRestore (t a : Nat) (s : State) : Out :=
  let x := s.tile t
  match x.saves.look a with
  | none => .fault .notEnabled
  | some v =>
    onEvent s (s.restorable t v && x.orders.all (fun o => o.prio ≤ v.team.prio) && !s.heldAhead t (v.team.prio + 1) &&
        s.freeSlots t ≥ s.reserved t + (v.slots.filter (fun r => r.state != 2)).length && s.logFits t v && !x.shut)
      (s.copyBack t a v)

end Sys2Proof.Machine
end

