-- ==== Sys2Proof/Machine/SaveArea.lean ====
section
/-! DEFINITION. The reserve of a tile (R290) as its words: the save areas with their layout (R333-R337), and what a word of the
reserve that is lost takes with it (R385). -/

namespace Sys2Proof.Machine

/-! ### Places (R290) -/

/-- R290: the first byte of the reserve in a tile's DRAM. DESIGN CHOICE (log 114): its areas stand in the order of R290's table. -/
def reserveBase : Nat := 0x7C00 * 2 ^ 16
def waiterBase : Nat := reserveBase + 8 * 2 ^ 20
def heldBase : Nat := reserveBase + 12 * 2 ^ 20
def frameBase : Nat := reserveBase + 20 * 2 ^ 20
def extentBase : Nat := frameBase + 2 ^ 19
def gridBase : Nat := reserveBase + 61 * 2 ^ 20
/-- R332: the first byte of save area `a`. -/
def saveBase (a : Nat) : Nat := reserveBase + 37 * 2 ^ 20 + a * (6 * 2 ^ 20)

/-! ### Records (R334, R335, R337) -/

/-- `n` as the field of width `w` whose lowest bit is `lo`. -/
def place (n w lo : Nat) : Nat := n % 2 ^ w * 2 ^ lo

/-- R334: the header of a save area. -/
def Save.header (v : Save) : BitVec 128 :=
  let tm := v.team
  BitVec.ofNat 128 (place v.log.length 16 112 + place (match tm.seam with | some (n, _, _, _) => n | none => 0) 4 108 +
    place tm.prio 2 106 + place v.slots.length 5 101 + place tm.ncb 5 96 + place tm.fcb 4 92 + place tm.nmac 9 83 +
    place tm.fmac 8 75 + place v.pos 2 73 + place 1 1 72 + place tm.kin 20 44 + place tm.ctx 12 32 + tm.srkey.toNat)

/-- R335: the state code of a macro record; no macro is saved while it scrubs. -/
def MState.code : MState → Nat
  | .plain | .scrubbing => 0
  | .loading => 1
  | .ready => 2
  | .stationary => 3

/-- R335: the record of a macro. -/
def Macro.record (c : Macro) : BitVec 32 :=
  BitVec.ofNat 32 (place c.loads 8 9 + place c.state.code 3 6 + place c.grp.toNat 2 4 + c.fmt.toNat)

/-- R25: the 104-byte context of a thread. -/
def contextBytes (th : Thread) : List Byte :=
  wordBytes th.pc ++ wordBytes th.regs.w0 ++ wordBytes th.regs.w1 ++ wordBytes th.regs.w2 ++ wordBytes th.regs.w3 ++ wordBytes th.regs.w4 ++
  wordBytes th.regs.w5 ++ wordBytes th.regs.w6 ++ wordBytes th.regs.w7 ++ wordBytes th.acc ++ wordBytes th.st ++
  natBytes 4 th.trkA.toNat ++ natBytes 4 th.trkB.toNat ++ natBytes 4 th.tid.toNat ++ natBytes 4 (th.kin % 2 ^ 20 * 2 ^ 12 + th.ctx % 2 ^ 12)

/-- R337: byte 116 of a thread record. -/
def SavedSlot.stateByte (r : SavedSlot) : Nat :=
  place r.state 3 0 + place (if r.slot.stopReq then 1 else 0) 1 3 + place (if r.slot.dropped then 1 else 0) 1 4 +
  place (if r.reply.isSome then 1 else 0) 1 5

/-- R337: the waiter table or waiter spill index of a record's waiter entry. -/
def Tile.waiterIndex (x : Tile) (r : SavedSlot) : Nat :=
  match firstIdx (fun (w : Waiter) => w.seq.toNat == r.widx) x.waiters with
  | some i => i
  | none => (firstIdx (fun (w : Waiter) => w.seq.toNat == r.widx) x.spilled).getD 0

/-- R337: the 128 bytes of a thread record. -/
def Tile.threadRecord (x : Tile) (r : SavedSlot) : List Byte :=
  contextBytes r.slot.th ++ List.replicate 9 0#8 ++ natBytes 2 (if 1 ≤ r.state ∧ r.state ≤ 3 then x.waiterIndex r else 0) ++
  natBytes 1 r.slot.fseq.toNat ++ natBytes 1 r.stateByte ++ natBytes 2 r.slot.window ++
  natBytes 3 (match r.slot.prev with | some n => n.toNat | none => 0xFFFFFF) ++ natBytes 6 r.slot.budget

/-! ### The words of a save area (R333) -/

/-- R333: the tag and poison plane: the word of bits for 32 words of the images, from word `j` of the images on. -/
def State.planeWord (s : State) (t a f j : Nat) : Word :=
  BitVec.ofNat 64 ((List.range 32).foldl (fun n i =>
    let k := imageKey t a (f + (j + i) / 2048) ((j + i) % 2048 * 8)
    n + (if s.mem.isEmpty k then 0 else 2 ^ (2 * i)) + (if s.mem.isPoison k then 2 ^ (2 * i + 1) else 0)) 0)

/-- R333: the word at byte offset `off` of save area `a`, where a rule gives the bits of it: the header, the seam mask, the reply
store, the macro records, the thread records, the contexts of the arrival log, the tag and poison plane and the images. The engine
and buffer records have no stated bits (log 114). -/
def State.saveWord (s : State) (t a off : Nat) : Option Word :=
  let x := s.tile t
  match x.saves.look a with
  | none => none
  | some v =>
    let sub (l : List Byte) (o : Nat) : Option Word := if o < l.length then some (bytesWord ((l.drop o).take 8)) else none
    if off < 0x10 then some (v.header.extractLsb' (8 * off) 64)
    else if 0x20 ≤ off ∧ off < 0x40 then
      v.team.seam.map (fun q => q.2.1.extractLsb' (8 * (off - 0x20)) 64)
    else if 0x500 ≤ off ∧ off < 0x600 then
      match v.slots[(off - 0x500) / 16]? with
      | some r => r.reply.map (fun w => if off % 16 < 8 then w.1 else w.2)
      | none => none
    else if 0x600 ≤ off ∧ off < 0xA00 then
      let m := v.team.fmac + (off - 0x600) / 4
      some ((v.macros.getD (m + 1) {}).record ++ (v.macros.getD m {}).record)
    else if 0x1000 ≤ off ∧ off < 0x1800 then
      match v.slots[(off - 0x1000) / 128]? with
      | some r => sub (x.threadRecord r) ((off - 0x1000) % 128)
      | none => none
    else if 0x10000 ≤ off ∧ off < 0x1E0000 then
      match v.log[(off - 0x10000) / 128]? with
      | some f => sub (contextBytes f.th) (off % 128)
      | none => none
    else if 0x1E0000 ≤ off ∧ off < 0x200000 then some (s.planeWord t a v.team.fmac ((off - 0x1E0000) * 4))
    else if 0x200000 ≤ off ∧ off < 0x600000 then
      some (s.mem.word (imageKey t a (v.team.fmac + (off - 0x200000) / 16384) (off % 16384 / 8 * 8)))
    else none

/-! ### A word of the reserve that is lost (R385) -/

def Thread.spoil (th : Thread) : Thread := { th with foul := true }

/-- R385: a word of a save area that is lost: a thread record's context, an entry of the arrival log, or a word of an image, which
is poisoned. The spec gives no effect to the loss of its other records (log 114). -/
def State.loseSaved (s : State) (t a off : Nat) : State :=
  let upd (f : Save → Save) : State := s.modTile t (fun x => match x.saves.look a with
    | some v => { x with saves := x.saves.put a (f v) }
    | none => x)
  if 0x1000 ≤ off ∧ off < 0x1800 then
    upd (fun v => { v with slots := modifyAt v.slots ((off - 0x1000) / 128) (fun (r : SavedSlot) =>
      if off % 128 < 104 then { r with slot := { r.slot with th := r.slot.th.spoil } } else r) })
  else if 0x10000 ≤ off ∧ off < 0x1E0000 then
    upd (fun v => { v with log := modifyAt v.log ((off - 0x10000) / 128) (fun (f : Flit) => { f with th := f.th.spoil }) })
  else if 0x200000 ≤ off ∧ off < 0x600000 then
    match (s.tile t).saves.look a with
    | some v =>
      if v.images then
        s.modMem (fun m => m.setPoison (imageKey t a (v.team.fmac + (off - 0x200000) / 16384) (off % 16384 / 8 * 8)) true)
      else s
    | none => s
  else s

/-- R385: an entry of the reserve that is lost, by the byte of the tile's DRAM at which the error is: an entry of the spill ring or
the waiter spill area, a held write, a spawn frame, a mapping, or a word of a save area (log 114). -/
def State.loseReserve (s : State) (t off : Nat) : State :=
  if off < reserveBase then s
  else if off < waiterBase then
    s.modTile t (fun x => { x with ring := modifyAt x.ring ((off - reserveBase) / 128) (fun (f : Flit) => { f with th := f.th.spoil }) })
  else if off < heldBase then
    s.modTile t (fun x => { x with spilled := modifyAt x.spilled ((off - waiterBase) / 128) (fun (w : Waiter) =>
      { w with th := w.th.map Thread.spoil }) })
  else if off < frameBase then
    let i := (off - heldBase) / 128
    let seqs := ((s.tile t).pendings.flatMap (fun (e : Pending) => e.writes)).map (·.seq)
    s.modTile t (fun x => { x with pendings := x.pendings.map (fun (e : Pending) => { e with writes := e.writes.map (fun (p : Packet) =>
      if seqs[i]? = some p.seq then { p with foul := true } else p) }) })
  else if off < extentBase then
    s.modTile t (fun x => { x with frames := modifyAt x.frames ((off - frameBase) / 128) (fun (f : Frame) =>
      { f with th := f.th.spoil }) })
  else if off < extentBase + 2 ^ 19 then
    match (s.tile t).extents.look ((off - extentBase) / 16) with
    | some e => s.modTile t (fun x => { x.tlbDrop e.ctx e.obj e.gran with extents := x.extents.del e.page })
    | none => s
  else if saveBase 0 ≤ off ∧ off < gridBase then s.loseSaved t ((off - saveBase 0) / (6 * 2 ^ 20)) ((off - saveBase 0) % (6 * 2 ^ 20))
  else s

end Sys2Proof.Machine
end

