-- ==== Sys2Proof/Machine/Dusk.lean ====
section
/-! DEFINITION. Dusk (R377-R381), liveness and fencing (R383, R384), patrol (R386), sparing (R387, R388) and the notices of the
tile monitors (R389). -/

namespace Sys2Proof.Machine

/-! ### Dusk (R377-R381) -/

/-- R378 step 2: every dirty line of a tile is written to DRAM and its caches are empty. -/
def State.cleanTile (s : State) (t : Nat) : State :=
  let s := s.writeBack t (fun _ => true)
  let s := (s.tile t).slices.foldl (fun s l => s.sliceOut t l) s
  s.modTile t (fun x => { x with l1 := [], slices := [] })

/-- R378 step 2: the window opens. -/
def State.openDusk (s : State) (t q : Nat) : State :=
  let s := s.cleanTile t
  { s.modTile t (fun x => { x with closed := true }) with dusk := some { tile := t, spare := q, opened := true, since := s.now } }

/-- R381: what a router returns at the advance: every flit under way, returned ones included, but those of VC1 that are neither of
class 6 nor of class 8. One that has arrived is under way no more. -/
def Packet.returns (p : Packet) : Bool :=
  !p.held && (p.ret != .no || p.vc != 1 || p.body.cls == 8)

/-- R381: the installed routes whose path passes site `p` or that list tile `t`: instance and route. -/
def State.routesHit (s : State) (t p : Nat) : List (Nat × Route) :=
  s.insts.flatMap (fun e => if !e.2.routed then [] else
    (e.2.rec_.routes.filter (fun r => r.tiles.contains t ||
      (s.routers.lookD p []).any (fun q => q.num == r.num && q.kin == e.1))).map (fun r => (e.1, r)))

/-- R381: those routes rewritten from the new tables. DESIGN CHOICE (log 100): one that no longer fits a router's table (R253) has no
entries; its transfers end with ROUTE. -/
def State.rebuildRoutes (s : State) (t p : Nat) : State :=
  let hit := s.routesHit t p
  let kept : Map (List RouteEntry) := Map.mapVals (fun (l : List RouteEntry) =>
    l.filter (fun q => !hit.any (fun h => h.1 == q.kin && h.2.num == q.num))) s.routers
  { s with routers := hit.foldl (fun (m : Map (List RouteEntry)) h =>
      ((s.routeEntries h.2.num h.1 4 false h.2.tiles).foldl (fun o e => o.bind (fun m => installEntry m e)) (some m)).getD m) kept }

/-- R305: a controller sends the orders of the launches it still holds. -/
def State.flushLaunches (s : State) (f : Nat) : State :=
  s.modField f (fun g => { g with launches := [], sent := g.sent ++ g.launches.flatMap (fun kin => match s.insts.look kin with
    | none => []
    | some i => (i.rec_.tiles.filter (fun t => s.fieldOf t == f)).map (fun t => (t, kin))) })

/-- R212, R259, R305: a tile whose new site lies in another field reports to that field's controller, which sends it the orders it has
not received. -/
def State.moveReport (s : State) (t f g : Nat) : State :=
  if f = g then s
  else
    let mine := (s.field f).sent.filter (fun e => e.1 == t)
    let s := (s.modField f (fun x => { x with sent := x.sent.filter (fun e => e.1 != t) })).modField g (fun x =>
      { x with sent := x.sent ++ mine })
    match (s.field f).freeMap.look t with
    | none => s
    | some n => (s.modField f (fun x => { x with freeMap := x.freeMap.del t })).modField g (fun x => { x with freeMap := x.freeMap.put t n })

/-- R378, R380, R385: what a working tile's words carry to the new site: lines written since the window opened go to DRAM first, and
a word of DRAM that cannot be corrected moves poisoned. -/
def State.carry (s : State) (t : Nat) : State := (s.cleanTile t).meetDram t (dramKey t 0 0) (2 ^ 28)

/-- R389: the BLOCKED threads of a tile, in slots and in save areas. -/
def Tile.blockedCount (x : Tile) : Nat :=
  (x.slots.filter (fun sl => sl.state == .blocked)).length +
    (x.saves.map (fun e => (e.2.slots.filter (fun r => r.state == 4)).length)).foldl (· + ·) 0

/-- R377: no spare remains for a tile: each RETIRE that names it is answered NOSPACE. -/
def State.noSpare (s : State) (t : Nat) : State :=
  let mine := s.retires.filter (fun e => e.1 == t)
  mine.foldl (fun s e => s.mgmtAnswer e.2 0x0B Status.noSpace 0 []) { s with
    retires := s.retires.filter (fun e => e.1 != t), duskQueue := s.duskQueue.filter (· != t) }

/-- R378 steps 4-7, R381: site `q` answers for tile `t` from now on: the generation advances, the old site is defective, the map
is recorded and the notice goes out. -/
def State.advance (s : State) (t q : Nat) (lossy : Bool) : State :=
  let p := s.site t
  let old := s.name t
  let f := s.fieldOf t
  let s := if f = fieldOfSite q then s else (s.flushLaunches f).flushLaunches (fieldOfSite q)
  let blocked := (s.tile t).blockedCount
  let s := if lossy then s else s.carry t
  let gen := (s.gen + 1) % 255
  let siteOf : Map Nat := if plainSite t = q then s.siteOf.del t else s.siteOf.put t q
  let s : State := { s with
    gen := gen, siteOf := siteOf, grids := s.grids.del p, bad := insertNat s.bad p, fencedSites := eraseNat s.fencedSites p,
    tabOut := (eraseNat s.fencedSites p).foldl insertNat (insertNat s.bad p), lastAdvance := some s.now, dusk := none
    duskQueue := s.duskQueue.filter (· != t), retires := s.retires.filter (fun e => e.1 != t)
    net := s.net.map (fun p => if p.returns then { p with ret := .stale } else p)
    tiles := Map.mapVals (fun (x : Tile) => { x with odc := x.odc.filter (fun e => e.stamp != gen) }) s.tiles }
  let s := s.modTile t (fun x =>
    { x with closed := false, fenced := false, missed := 0, duskGen := some gen, odc := [], l1 := [], slices := [], rowsUsed := [],
             banksUsed := [], corrRow := [], uncRows := [], traced := [], spared := [], chkFail := [], bankDue := [] })
  let s := (s.moveReport t f (s.fieldOf t)).rebuildRoutes t p
  let s := match s.dmap with
    | none => s
    | some d =>
      let d : DefectMap := { d with bad := insertNat d.bad p, map := if t < d.nrows * 96 then (if plainSite t = q then d.map.del t else d.map.put t q) else d.map }
      match d.addRecord (if lossy then 5 else 4) p (t * 2 ^ 14 + (if lossy then 0 else q * 2 ^ 28)) with
      | some d => s.storeMap d
      | none => { s.storeMap d with unrec := true }
  (s.notice t 0x40 0 (BitVec.ofNat 64 (p + q * 2 ^ 16 + (if lossy then 2 ^ 31 else 0))) (old.zeroExtend 64)
    (BitVec.ofNat 64 ((s.name t).toNat + blocked * 2 ^ 32))).windowWords

/-- R378 step 2, R379: whether a closed tile's engines stand at their boundaries; answers of other tiles, which the window holds back,
come to them afterwards. -/
def State.enginesRest (s : State) (t : Nat) : Bool :=
  [Eng.bfe, .cpe, .nme].all (fun e => match (s.tile t).run e with
    | none => true
    | some r => s.runAtBoundary t e r || r.wait == .remote || r.wait == .pending)

/-- R377: whether a dusk may close its tile now. -/
def State.duskDue (s : State) : Bool :=
  match s.lastAdvance with
  | none => true
  | some c => s.now ≥ c + 1048576

/-- R378: the dusk of a working tile, in two steps: the window opens, and once the tile is at rest the generation advances. With no
spare left the tile stays where it is. -/
def execDusk (t : Nat) (s : State) : Out :=
  match s.dusk with
  | some d => onEvent s (d.tile == t && s.enginesRest t && !(s.tile t).fenced) (s.advance t d.spare false)
  | none =>
    if s.duskQueue.head? ≠ some t || !s.duskDue || (s.tile t).fenced then .fault .notEnabled
    else match s.spareFor (s.site t) 8448 with
      | (s, some q) => .next (s.openDusk t q)
      | (s, none) => .next (s.noSpare t)

/-! ### Liveness and fencing (R383) -/

/-- R383: the controllers and the root send their probes. -/
def execLivenessSweep (s : State) : Out :=
  onEvent s s.sweepDue { s with sweep := s.sweep + 1 }

/-- R383: the site of a tile is fenced: nothing of it goes on, packets for it are returned with FENCED, and the notices go out. -/
def State.fence (s : State) (t : Nat) : State :=
  let p := s.site t
  let s := s.modTile t (fun x =>
    { x with fenced := true, fencedAt := s.now, relock := false, bfe := none, cpe := none, nme := none, vec := none })
  let s : State := { s with
    noClock := s.noClock.put p s.now
    fencedSites := insertNat s.fencedSites p, fencedCount := min 4095 (s.fencedCount + 1)
    net := (s.net.filter (fun q => !(q.dst == t && q.vc == 1))).map (fun q =>
      if q.dst = t ∧ (q.ret = .no ∨ q.held = true) then { q with ret := .fenced, held := false } else q) }
  s.notice t 0x41 0 (BitVec.ofNat 64 p) (BitVec.ofNat 64 s.sweep) 0#64

/-- R383: a monitor has not answered the last sweep within 65,536 cycles; on the second of two consecutive sweeps its site is
fenced. -/
def execProbeTimeout (t : Nat) (s : State) : Out :=
  let x := s.tile t
  if !s.isTile t || x.fenced || s.sweep = 0 || x.missed = s.sweep || s.now % 1048576 < 65536 then .fault .notEnabled
  else if x.missed ≠ 0 ∧ x.missed + 1 = s.sweep then .next (s.fence t)
  else .next (s.modTile t (fun x => { x with missed := s.sweep }))

/-! ### Lossy dusk (R384) -/

/-- R384: the instances that had something on a tile. -/
def State.instsOn (s : State) (t : Nat) : List Nat :=
  let x := s.tile t
  let slots := ((List.range 16).filter (fun k => (x.slot k).state != .free && !s.atService t k)).map (fun k => (x.slot k).th.kin)
  (x.teams.map (fun e => e.2.kin) ++ x.saves.map (fun e => e.2.team.kin) ++ slots ++
    (x.queues.flatMap (fun e => e.2.q) ++ x.ring).map (fun f => f.th.kin) ++
    (x.waiters ++ x.spilled).filterMap (fun w => w.th.map (·.kin)) ++ x.frames.map (fun f => f.th.kin)).eraseDups

/-- R107: whether a packet is a write. -/
def Body.isWrite : Body → Bool
  | .store .. | .stf .. | .nrAtomic .. | .peerStore .. | .copyWrite .. | .gridStore .. => true
  | _ => false

/-- R384: the accesses that a tile held and the writes that a dusk's window held for it end with FENCED; what else the window held is
sent again (R379). -/
def State.dropHeld (s : State) (t : Nat) : State :=
  let x := s.tile t
  let at_ : List Packet := (x.pendings.flatMap (·.held) ++ x.overflow).filterMap (fun g => match g with
    | .packet p => some p
    | _ => none)
  let mine (p : Packet) : Bool := p.dst == t && p.body.isWrite
  let ps := x.pendings.flatMap (·.writes) ++ at_ ++ s.held.filter mine
  let s : State := { s with held := s.held.filter (fun p => !mine p) }
  ps.foldl (fun s p =>
    let n : Word := (nameOf p.gen t).zeroExtend 64
    match p.body with
    | .readReq _ a _ | .atomicReq _ a .. | .exitJ _ a => s.refuse t p FaultCode.fenced a n
    | .peerStore _ _ a _ _ => s.answer t p.src p.slot (.writeAck none (some (FaultCode.fenced, a, n)))
    | _ => s.discardPacket t p FaultCode.fenced EngErr.fenced n) s

/-- R345, R347: requests of the host and of peers that a tile held are decided afresh. -/
def State.retryOutside (s : State) (l : List HeldAcc) : State :=
  l.foldl (fun s g => match g with
    | .host r w => s.releaseHost r w
    | .peer q w => s.releasePeer q w
    | _ => s) s

/-- R259, R384: a BLOCKED thread whose message is lost, in a slot or in a save area, has a dropped mark, and its field's service
thread sees DROPPED. -/
def State.markDropped (s : State) (t k : Nat) (seq : BitVec 8) : State :=
  (s.modTile t (fun x => x.markDropped k seq)).modField (s.fieldOf t) (fun f => { f with dropped := true })

/-- Whether a slot's content waits on a pending entry among `keys` without having posted. -/
def Slot.joinedAny (sl : Slot) (keys : List Nat) : Bool := match sl.joined with
  | some k => keys.contains k
  | none => false

/-- R260, R384: the threads blocked without a message on entries that are lost have dropped marks (R259). -/
def State.loseJoined (s : State) (keys : List Nat) : State :=
  let lose (sl : Slot) : Slot := if sl.joinedAny keys then { sl with dropped := true, joined := none } else sl
  let hit (x : Tile) : Bool :=
    x.slots.any (·.joinedAny keys) || x.saves.any (fun e => e.2.slots.any (fun r => r.slot.joinedAny keys))
  let fs := (s.tiles.filter (fun e => hit e.2)).map (fun e => s.fieldOf e.1)
  fs.foldl (fun s f => s.modField f (fun f => { f with dropped := true })) { s with
    tiles := Map.mapVals (fun (x : Tile) =>
      { x with slots := x.slots.map lose
               saves := Map.mapVals (fun (v : Save) =>
                 { v with slots := v.slots.map (fun (r : SavedSlot) => { r with slot := lose r.slot }) }) x.saves }) s.tiles }

/-- R384: a service tile's thread restarts from its firmware entry with an empty fault buffer. -/
def State.restartService (s : State) (t : Nat) : State :=
  match s.serviceField t with
  | none => s
  | some f =>
    let ms := (s.field f).fbuf
    let s := ms.foldl (fun s m => if m.kind = 1 then s.markDropped (nameTile m.tile) m.slot m.seq else s) s
    (s.modField f (fun x => { x with fbuf := [], mq := [], svctx := 0, svcUsed := [] })).modTile t (fun x => x.modSlot 15 (fun _ => serviceSlot))

/-- R384: what replaces a tile whose site was fenced: nothing of it is kept but its numbers. -/
def Tile.replaced (x : Tile) (gen : Nat) : Tile :=
  { Tile.fresh with nextSeq := x.nextSeq, serial := x.serial, lossy := true, lossGen := some gen, fenced := true, orders := x.orders,
                    seqTo := x.seqTo, nextOp := x.nextOp }

def State.lossyDusk (s : State) (t q : Nat) : State :=
  let keys := (s.tile t).pendings.map (fun e => granKey e.ctx e.obj e.gran)
  let outside := (s.tile t).pendings.flatMap (·.held) ++ (s.tile t).overflow
  let s := (s.instsOn t).foldl (fun s k => s.killKernel k) s
  let s := s.dropHeld t
  let s := s.loseJoined keys
  let s := s.modTile t (fun x => x.replaced ((s.gen + 1) % 255))
  let s := s.modMem (fun m => (m.clear (dramKey t 0 0) (2 ^ 28)).clear (spadKey t 0 0) (2 ^ 19))
  ((s.restartService t).advance t q true).retryOutside outside

/-- R384: the lossy dusk of a fenced tile. Where every spare that is left fails its self-test, they are marked defective and the tile
stays fenced (R377). -/
def execLossyDusk (t : Nat) (s : State) : Out :=
  let busy : Bool := match s.dusk with
    | some d => d.tile != t
    | none => false
  if !(s.tile t).fenced || busy then .fault .notEnabled
  else match s.spareFor (s.site t) 8448 with
    | (s, some q) => .next (s.lossyDusk t q)
    | (s', none) => onEvent s (s.spareOrder (s.site t)).isSome (s'.noSpare t)

/-! ### Patrol (R385, R386) -/

/-- The extent whose page holds a byte of a tile's DRAM. -/
def Tile.extentOfPage (x : Tile) (page : Nat) : Option Extent := x.extents.look page

/-- The memory key of the first byte of a row (R185, R390): channel and low bank bits choose among a page's rows, the high bank
bits, row and subarray among pages. -/
def rowKey (t ch bank sub row : Nat) : Nat := dramKey t (sub * 1024 + row * 4 + bank / 4) ((bank % 4 * 8 + ch) * 2048)

/-- R264, R385, R386: an uncorrectable word of DRAM is poisoned and reported, with its object address where it has one; an entry of the
reserve is lost. -/
def State.patrolBad (s : State) (t off : Nat) : State :=
  let key := t * 2 ^ 31 + off
  let s := (s.modMem (fun m => m.setPoison key true)).countDram t [] [key]
  match (s.tile t).extentOfPage (off / 65536) with
  | some e => s.chargeNotice t FaultCode.ue e.ctx (BitVec.ofNat 64 (e.obj * 2 ^ 40 + e.gran * 2 ^ 16 + off % 65536 / 8 * 8)) 2#64
  | none => (s.loseReserve t off).chargeNotice t FaultCode.ue 0 0#64 2#64

/-- The same for a word of a macro. -/
def State.patrolMacro (s : State) (t a : Nat) (bad : Bool) : State :=
  if !bad then s.countSram t 1 0
  else
    let s := (s.modMem (fun m => m.setPoison (spadKey t 0 a) true)).countSram t 0 1
    let ctx := match ((s.tile t).mac (a / 16384)).owner.bind (s.tile t).teams.look with
      | some tm => tm.ctx
      | none => 0
    s.chargeNotice t FaultCode.ue ctx (spadAddr (a / 16384) (a % 16384 / 8 * 8)) 2#64

/-- R386: a patrol read that meets an error: corrected and counted, or uncorrectable. `key` is a byte of the tile's DRAM or
scratchpad; a macro that is scrubbing is skipped. -/
def execPatrolRead (t key : Nat) (bad : Bool) (s : State) : Out :=
  let x := s.tile t
  if !s.isTile t || x.fenced then .fault .notEnabled
  else if t * 2 ^ 31 ≤ key ∧ key < (t + 1) * 2 ^ 31 then
    let off := key - t * 2 ^ 31
    if bad then .next (s.patrolBad t off)
    else .next (s.countDram t [key] [])
  else if spadKey t 0 0 ≤ key ∧ key < spadKey t 0 0 + 2 ^ 22 then
    if (x.mac ((key - spadKey t 0 0) / 16384)).state = .scrubbing then .fault .notEnabled
    else .next (s.patrolMacro t (key - spadKey t 0 0) bad)
  else .fault .notEnabled

/-! ### Sparing (R387, R388) -/

/-- The poisoned words of a stretch of memory. -/
def Mem.poisonedIn (m : Mem) (key n : Nat) : Nat := (m.poison.filter (fun a => key ≤ a && a < key + n)).length

/-- R387: whether a row must be spared. -/
def State.rowFails (s : State) (t ch bank sub row : Nat) : Bool :=
  let x := s.tile t
  let n := rowNumber ch bank sub row
  x.uncRows.contains n ||
  (s.withinDay (x.corrRow.lookD n [])).length ≥ 8 || x.traced.contains n

/-- R390: where a row or a bank is. -/
def whereRow (ch bank sub row : Nat) : Nat := ch * 2 ^ 39 + bank * 2 ^ 35 + sub * 2 ^ 30 + row * 2 ^ 22
def whereBank (ch bank : Nat) : Nat := ch * 2 ^ 39 + bank * 2 ^ 35

def dramPlace (ch bank sub row : Nat) : Bool := ch < 8 && bank < 16 && sub < 32 && row < 256

/-- R387: a row is copied to a spare row of its subarray. -/
def execRowSparing (t ch bank sub row : Nat) (s : State) : Out :=
  let x := s.tile t
  let used := x.rowsUsed.lookD (subKey ch bank sub) 0
  let n := rowNumber ch bank sub row
  let w := whereRow ch bank sub row + used * 2 ^ 20
  let s1 := s.modTile t (fun x =>
    { x with rowsUsed := x.rowsUsed.put (subKey ch bank sub) (used + 1), corrRow := x.corrRow.del n,
             traced := eraseNat x.traced n, uncRows := eraseNat x.uncRows n, spared := insertNat x.spared n })
  onEvent s (s.isTile t && !x.shut && dramPlace ch bank sub row && used < 2 && s.rowFails t ch bank sub row)
    ((s1.addRepair 1 (s.site t) w).notice t 0x42 0 (BitVec.ofNat 64 w)
      (BitVec.ofNat 64 (s.mem.poisonedIn (rowKey t ch bank sub row) 2048)) 0#64)

/-- R387, R388: whether a bank must be spared: a subarray needs a third spare row, or three checksum failures within a day. -/
def State.bankFails (s : State) (t ch bank : Nat) : Bool :=
  let x := s.tile t
  (List.range 32).any (fun sub => x.rowsUsed.lookD (subKey ch bank sub) 0 ≥ 2 &&
    (List.range 256).any (fun row => s.rowFails t ch bank sub row)) || x.bankDue.contains (ch * 16 + bank)

/-- R387: words left poisoned in a bank. -/
def State.bankPoison (s : State) (t ch bank : Nat) : Nat :=
  (s.mem.poison.filter (fun a => a / 2 ^ 31 == t && (rowOfByte (a % 2 ^ 31)) / 8192 == ch * 16 + bank)).length

/-- R387: a bank is copied to the spare bank of its channel; with that in use, the monitor asks for a dusk. -/
def State.spareBank (s : State) (t ch bank : Nat) : State :=
  let w := whereBank ch bank
  let left := BitVec.ofNat 64 (s.bankPoison t ch bank)
  if (s.tile t).banksUsed.lookD ch 0 = 0 then
    let s := s.modTile t (fun x => x.freshBank ch bank)
    (s.addRepair 2 (s.site t) w).notice t 0x43 0 (BitVec.ofNat 64 w) left 0#64
  else ({ s with duskQueue := s.duskQueue ++ [t] } : State).notice t 0x46 0 (BitVec.ofNat 64 w) left 0#64

def execBankSparing (t ch bank : Nat) (s : State) : Out :=
  onEvent s (s.isTile t && !(s.tile t).shut && ch < 8 && bank < 16 && s.bankFails t ch bank && !s.duskQueue.contains t)
    (s.spareBank t ch bank)

/-- R188, R388: the keys of the rows of a weight tile: one in each channel, in the tile's bank. -/
def State.tileRows (s : State) (t ctx : Nat) (a : Word) : List Nat :=
  match (s.tile t).extent ctx (objOf a) (granOf a) with
  | none => []
  | some e => (List.range 8).map (fun ch => rowKey t ch (s.bankOf t ctx a) (e.page / 1024) (e.page / 4 % 256))

/-- R388: the second reading of the rows at `keys`: the words that it cannot correct are poisoned and counted, `bad` for one that a
draw chooses (log 72). The state, and the affected rows. -/
def State.reread (s : State) (t : Nat) (keys : List Nat) (bad : Bool) : State × List Nat :=
  let (i, s) := s.draw
  let word := keys.getD (Config.badWord i / 256 % 8) (dramKey t 0 0) + Config.badWord i % 256 * 8
  let weak := keys.flatMap (fun k => s.mem.weakIn k 256) ++ (if bad then [word] else [])
  let s := keys.foldl (fun s k => s.meetDram t k 256) s
  (if bad then (s.modMem (fun m => m.setPoison word true)).countDram t [] [word] else s,
   (weak.map (fun a => rowOfByte (a % 2 ^ 31))).eraseDups)

/-- R388: the monitor's second reading of the oldest failing weight tile, with `bad` for an uncorrectable word. -/
def execChecksumReread (t bank : Nat) (bad : Bool) (s : State) : Out :=
  let x := s.tile t
  match x.chkTiles with
  | [] => .fault .notEnabled
  | (ctx, kin, a) :: rest =>
    let times := s.withinDay (x.chkFail.lookD bank []) ++ [s.wall9]
    let (s', rows) := s.reread t (s.tileRows t ctx a) bad
    let disp := if !rows.isEmpty then 1 else if times.length ≥ 3 then 2 else 0
    let after (x : Tile) : Tile :=
      { x with chkTiles := rest, chkFail := x.chkFail.put bank (if disp = 2 then [] else times)
               errs := { x.errs with checksum := x.errs.checksum + 1 }
               traced := rows.foldl insertNat x.traced
               bankDue := if disp = 2 then (List.range 8).foldl (fun l ch => insertNat l (ch * 16 + bank)) x.bankDue else x.bankDue }
    onEvent s (!x.shut && bank == s.bankOf t ctx a)
      ((s'.modTile t after).notice t 0x44 ctx (BitVec.ofNat 64 (bank + disp * 256)) a (BitVec.ofNat 64 kin))

/-- R389: the hourly counts of a tile. -/
def execErrcount (t : Nat) (s : State) : Out :=
  let e := (s.tile t).errs
  let w (n lo : Nat) : Nat := min n (2 ^ lo - 1)
  onEvent s (s.step == 6 && s.isTile t && !(s.tile t).fenced && s.wallDue 3600000000000 && (s.tile t).errsAt != some s.now)
    ((s.modTile t (fun x => { x with errs := {}, errsAt := some s.now })).notice t 0x45 0
      (BitVec.ofNat 64 (w e.corrDram 32 + w e.uncDram 32 * 2 ^ 32)) (BitVec.ofNat 64 (w e.corrSram 32 + w e.uncSram 32 * 2 ^ 32))
      (BitVec.ofNat 64 (w e.checksum 16 + w e.link 32 * 2 ^ 16)))

end Sys2Proof.Machine
end

