-- ==== Sys2Proof/Machine/System.lean ====
section
/-! DEFINITION. The system group (R191, R193) and the service-only group (R192, R194-R201). -/

namespace Sys2Proof.Machine

/-! ### Specials (R22-R24, R191, R192) -/

/-- The field of a service slot's tile. -/
def State.here (s : State) (t : Nat) : Field := s.field (s.fieldOf t)

/-- R16, R191: cycles from the issue of an instruction, in FE, to its register read, in OP. -/
def opDelay : Nat := 2

/-- R24, R191: a special at user level as OP reads it: `cyc`, `wall` and `hbr` have gone on since the issue. -/
def State.special (s : State) (t k n : Nat) : Word :=
  let sl := s.slot t k
  match n with
  | 0x00 => sl.th.tid.zeroExtend 64
  | 0x01 => BitVec.ofNat 64 (sl.team % 4 * 2 ^ 16 + sl.th.ctx % 4096)
  | 0x02 => BitVec.ofNat 64 (sl.th.kin % 2 ^ 20)
  | 0x03 => (s.name t).zeroExtend 64
  | 0x04 => (s.name (birthTile sl.th.tid)).zeroExtend 64
  | 0x05 => BitVec.ofNat 64 (s.now + opDelay)
  | 0x06 => BitVec.ofNat 64 ((s.wall9 + opDelay * s.ninths) / 9)
  | 0x07 => sl.th.st
  | 0x08 => (sl.th.trkB ++ sl.th.trkA : BitVec 64)
  | 0x09 => BitVec.ofNat 64 (sl.budget - opDelay)
  | 0x0A => sl.th.seamin.zeroExtend 64
  | _ => match s.insts.look sl.th.kin with
    | some i => i.rec_.args
    | none => 0#64

/-- R192: `fbuf`. -/
def Field.fbufWord (f : Field) : Word := BitVec.ofNat 64 (f.fbuf.length % 16 + (if f.dropped then 16 else 0))

/-- R191, R192: a special at service level; `none` where it raises ILLEGAL. -/
def State.serviceSpecial (s : State) (t k n : Nat) : Option Word :=
  if n ≤ 0x02 ∨ n = 0x08 ∨ n = 0x09 ∨ n = 0x0A ∨ n = 0x0C then some 0#64
  else if n < 0x0D then some (s.special t k n)
  else match n with
    | 0x20 => some (BitVec.ofNat 64 (s.here t).svctx)
    | 0x21 => some (s.here t).fbufWord
    | 0x22 => some (BitVec.ofNat 64 s.gen)
    | 0x23 => some (BitVec.ofNat 64 (s.fieldOf t))
    | 0x24 => some (BitVec.ofNat 64 ((s.here t).mq.length % 2 ^ 16))
    | _ => none

/-- R24, R191: an instruction that names special `n` at user level. -/
def State.specialFault (s : State) (t k n : Nat) : Option Nat :=
  if 0x0D ≤ n ∧ n < 0x20 then some FaultCode.illegal
  else if n ≥ 0x20 ∧ !s.atService t k then some FaultCode.priv
  else none

def execMfs (d : Reg) (n : BitVec 6) (s : State) : Out :=
  onIssue s (fun t k _ s =>
    let w : Word := (wordOf (.mfs d n)).zeroExtend 64
    match s.specialFault t k n.toNat with
    | some code => s.raise t k code 0#64 w
    | none =>
      if n = 0x0B#6 then
        let (i, s) := s.draw
        s.modSlot t k (fun sl => { sl with th := sl.th.setReg d (Config.freeRng i) }.finish)
      else
        let v := if s.atService t k then s.serviceSpecial t k n.toNat else some (s.special t k n.toNat)
        match v with
        | none => s.raise t k FaultCode.illegal 0#64 w
        | some v => s.modSlot t k (fun sl => { sl with th := sl.th.setReg d v }.finish))

/-- R23: the write of `st`: entirely or, on ILLEGAL, not at all. -/
def State.stWrite (s : State) (t k : Nat) (v w : Word) : State :=
  match writeSt (s.slot t k).th.st v with
  | none => s.raise t k FaultCode.illegal 0#64 w
  | some st => s.modSlot t k (fun sl => { sl with th := { sl.th with st := st } }.finish)

/-- R192: the write of `fbuf`: bit 4 clears DROPPED. -/
def State.fbufWrite (s : State) (t k : Nat) (v w : Word) : State :=
  if bits v 63 5 ≠ 0 then s.raise t k FaultCode.illegal 0#64 w
  else (s.modField (s.fieldOf t) (fun f => { f with dropped := f.dropped && !v.getLsbD 4 })).modSlot t k Slot.finish

/-- R192: the write of `svctx`. -/
def State.svctxWrite (s : State) (t k : Nat) (v w : Word) : State :=
  if bits v 63 12 ≠ 0 then s.raise t k FaultCode.illegal 0#64 w
  else (s.modField (s.fieldOf t) (fun f => { f with svctx := v.toNat, svcUsed := insertNat f.svcUsed f.svctx })).modSlot t k Slot.finish

/-- R191: `mts` of the special numbered `n`. -/
def State.mts (s : State) (t k n : Nat) (v w : Word) : State :=
  match s.specialFault t k n with
  | some code => s.raise t k code 0#64 w
  | none =>
    if n = 0x07 then s.stWrite t k v w
    else if n = 0x20 then s.svctxWrite t k v w
    else if n = 0x21 then s.fbufWrite t k v w
    else s.raise t k FaultCode.illegal 0#64 w

def execMts (a : Reg) (n : BitVec 6) (s : State) : Out :=
  onIssue s (fun t k sl s => s.mts t k n.toNat (sl.th.reg a) ((wordOf (.mts a n)).zeroExtend 64))

def execStWrite (a : Reg) (s : State) : Out :=
  onIssue s (fun t k sl s => s.mts t k 0x07 (sl.th.reg a) ((wordOf (.mts a 0x07#6)).zeroExtend 64))

def execFbufWrite (a : Reg) (s : State) : Out :=
  onIssue s (fun t k sl s => s.mts t k 0x21 (sl.th.reg a) ((wordOf (.mts a 0x21#6)).zeroExtend 64))

/-! ### Trap, breakpoint, service call (R193) -/

/-- R193: the extra word: the code and the form. -/
def callWord (form : Nat) (c : BitVec 10) : Word := BitVec.ofNat 64 (form * 2 ^ 10 + c.toNat)

def execTrap (c : BitVec 10) (s : State) : Out := raiseCur s FaultCode.svc 0#64 (callWord 2 c)
def execBrk (c : BitVec 10) (s : State) : Out := raiseCur s FaultCode.brk 0#64 (callWord 3 c)
def execSvc (c : BitVec 10) (s : State) : Out := raiseCur s FaultCode.svc 0#64 (callWord 4 c)

/-! ### The service-only group -/

/-- R26, R64: PRIV at user level. -/
def privileged (s : State) (i : Instr) (f : Nat → Nat → Slot → State → State) : Out :=
  onIssue s (fun t k sl s =>
    if s.atService t k then f t k sl s else s.raise t k FaultCode.priv 0#64 ((wordOf i).zeroExtend 64))

/-- R194: a service form: the release at wafer scope, then its effect. -/
def service (s : State) (i : Instr) (f : Nat → Nat → Slot → State → State) : Out :=
  privileged s i (fun t k sl s => s.release t k .wafer false (fun s => f t k sl s))

/-- The status word written, the form complete. -/
def State.serviceEnd (s : State) (t k : Nat) (d : Reg) (v : Word) : State :=
  s.modSlot t k (fun sl => { sl with th := sl.th.setReg d v, state := .ready }.finish)

def execReply (d a b : Reg) (s : State) : Out :=
  service s (.reply d a b) (fun t k sl s =>
    let (s, n) := s.reply (sl.th.reg a) (sl.th.reg b) sl.th.acc
    s.serviceEnd t k d (statusBits n 0))

/-- The tiles of a field that answer a `replaya` of region 0. -/
def State.liveTiles (s : State) (f : Nat) : List Nat :=
  s.tiles.keys.filter (fun t => s.fieldOf t == f && s.isTile t && !(s.tile t).fenced)

def execReplaya (d a b : Reg) (s : State) : Out :=
  service s (.replaya d a b) (fun t k sl s =>
    let g := sl.th.reg a
    let w := sl.th.reg b
    let f := s.fieldOf t
    if replyBad w || bits w 3 0 = 2 then s.serviceEnd t k d (statusBits Status.badArg 0)
    else if g = 0#64 then
      let ts := s.liveTiles f
      let s := s.modSlot t k (fun sl => { sl with state := .wait .reply, pend := .service d ts.length 0 })
      ts.foldl (fun s u => s.send { vc := 0, src := t, dst := u, gen := s.gen, slot := k, body := .droppedReq w sl.th.acc }) s
    else
      let (s, n) := s.replyGranule f (s.here t).svctx g w sl.th.acc
      s.serviceEnd t k d (statusBits Status.done (min n 65535)))

/-- R199: the tile that takes an extent command: the granule's home, the home an `xmap` gives, or the directory tile. -/
def State.commandHome (s : State) (op : SvcOp) (ctx : Nat) (a w : Word) (here : Nat) : Nat :=
  if op = .dinval then dirTile ctx (objOf a)
  else match s.trueHome ctx a here with
    | some h => h
    | none =>
      let n : BitVec 24 := w.extractLsb' 32 24
      if op = .xmap ∧ n ≠ 0#24 ∧ s.nameOk n then nameTile n else dirTile ctx (objOf a)

/-- R199: the request goes out and the slot is REMOTE until its answer. -/
def State.command (s : State) (t k : Nat) (op : SvcOp) (d : Reg) (a w : Word) : State :=
  let ctx := (s.here t).svctx
  (s.modSlot t k (fun sl => { sl with state := .remote, pend := .service d 1 0 })).send
    { vc := 0, src := t, dst := s.commandHome op ctx a w t, gen := s.gen, slot := k, body := .svcReq op ctx a w (.slot t k) }

def execXmap (d a b : Reg) (s : State) : Out :=
  service s (.xmap d a b) (fun t k sl s => s.command t k .xmap d (sl.th.reg a) (sl.th.reg b))
def execXunmap (d a : Reg) (s : State) : Out :=
  service s (.xunmap d a) (fun t k sl s => s.command t k .xunmap d (sl.th.reg a) 0#64)
def execXdrain (d a b : Reg) (s : State) : Out :=
  service s (.xdrain d a b) (fun t k sl s => s.command t k .xdrain d (sl.th.reg a) (sl.th.reg b))
def execDinval (d a : Reg) (s : State) : Out :=
  service s (.dinval d a) (fun t k sl s => s.command t k .dinval d (sl.th.reg a) 0#64)

/-- R200: `msend`: the message is sent to its queue, whose tile answers. -/
def execMsend (d a : Reg) (s : State) : Out :=
  service s (.msend d a) (fun t k sl s =>
    let v := sl.th.reg a
    let n : BitVec 24 := v.extractLsb' 0 24
    let dest := bits v 27 24
    let r := sl.th.regs
    if bits v 63 28 ≠ 0 || dest > 2 then s.serviceEnd t k d (statusBits Status.badArg 0)
    else if dest = 2 then (s.notify 2 r.w0 r.w1 r.w2 r.w3).serviceEnd t k d (statusBits Status.done 0)
    else if !s.nameOk n then s.serviceEnd t k d (statusBits Status.badArg 0)
    else if nameGen n ≠ s.gen then s.serviceEnd t k d (statusBits Status.gone 0)
    else
      let u := if dest = 0 then (s.field (s.fieldOf (nameTile n))).tile else nameTile n
      (s.modSlot t k (fun sl => { sl with state := .wait .reply, pend := .service d 1 0 })).send
        { vc := 0, src := t, dst := u, gen := s.gen, slot := k,
          body := .svcMsg { kind := 2, tile := s.name t, w0 := r.w0, w1 := r.w1, w2 := r.w2, w3 := r.w3 } (dest == 1) })

/-- R196: the handle of a message, with the current generation. -/
def State.msgHandle (s : State) (m : Msg) : Word :=
  BitVec.ofNat 64 (m.kind % 16 * 2 ^ 60 + m.seq.toNat * 2 ^ 32 + m.slot % 16 * 2 ^ 28 + (s.name (nameTile m.tile)).toNat)

/-- R196: the words of a message and its handle in the thread that takes it. -/
def Thread.takeMsg (th : Thread) (d : Reg) (m : Msg) (h : Word) : Thread :=
  { th with regs := { th.regs with w0 := m.w0, w1 := m.w1, w2 := m.w2, w3 := m.w3 } }.setReg d h

def execMrecv (d : Reg) (s : State) : Out :=
  privileged s (.mrecv d) (fun t k _ s =>
    let f := s.here t
    let got (m : Msg) (s : State) : State :=
      let h := s.msgHandle m
      s.modSlot t k (fun sl => { sl with th := sl.th.takeMsg d m h, state := .ready }.finish)
    match f.fbuf, f.mq with
    | m :: rest, _ => got m (s.modField (s.fieldOf t) (fun f => { f with fbuf := rest }))
    | [], m :: rest => got m (s.modField (s.fieldOf t) (fun f => { f with mq := rest }))
    | [], [] => s.modSlot t k (fun sl => sl.waitFor .message))

def execDstop (d a : Reg) (s : State) : Out :=
  service s (.dstop d a) (fun t k sl s =>
    let h := sl.th.reg a
    if !s.handleOk h then s.serviceEnd t k d (statusBits Status.gone 0)
    else
      let (s, v) := s.stopSlot (handleTarget h) (handleSlot h)
      (s.answerDebug (handleTarget h) (handleSlot h) false (bits v 63 56)).serviceEnd t k d v)

def execDresume (d a : Reg) (s : State) : Out :=
  service s (.dresume d a) (fun t k sl s =>
    let h := sl.th.reg a
    if !s.handleOk h then s.serviceEnd t k d (statusBits Status.gone 0)
    else
      let (s, v) := s.resumeSlot (handleTarget h) (handleSlot h)
      (s.answerDebug (handleTarget h) (handleSlot h) true (bits v 63 56)).serviceEnd t k d v)

end Sys2Proof.Machine
end

