-- ==== Sys2Proof/Machine/Manage.lean ====
section
/-! DEFINITION. The management commands of the host (R376, R394-R398) but for debugging. -/

namespace Sys2Proof.Machine

/-- R344, R376, R396: a MGMT message of command `op`: refused until compute is enabled unless it is `early`; BADARG for another
payload length than `n`, a reserved bit or a context where none is named (`ctxed`); otherwise its effect. The module hears
nothing at step 0. -/
def mgmt (s : State) (r : HostReq) (op : Nat) (early ctxed : Bool) (n : Option Nat) (reserved : Bool) (go : State → State) : Out :=
  hostMsg s r (onEvent s (s.hostUp r && s.step != 0 && r.data.length == r.len)
    (if !s.enabled && !early then s.mgmtAnswer r op Status.refused 0 []
     else if n.any (· != r.len) || reserved || (!ctxed && r.ctx != 0) || r.addr != 0#64 then s.mgmtAnswer r op Status.badArg 0 []
     else go s))

/-! ### The module (R394, R395, R397) -/

/-- R397. -/
def State.statusWord (s : State) : Nat :=
  let b (p : Bool) (n : Nat) : Nat := if p then 2 ^ n else 0
  let (x, y) := modeCaps s.mode
  s.pumpsOut.length % 4 * 2 ^ 28 + s.stagesOut.length % 16 * 2 ^ 24 + b s.unrec 23 + b (s.bfeCap < x || s.dramCap < y) 22 + b s.changing 21 +
  s.mode % 4 * 2 ^ 19 + (s.rows - 80) % 4 * 2 ^ 17 + b s.attested 16 + b s.enabled 15 + s.step % 8 * 2 ^ 12 + min s.fencedCount 4095

def execStatus (r : HostReq) (s : State) : Out :=
  mgmt s r 0x01 true false (some 0) false (fun s => s.mgmtAnswer r 0x01 Status.done s.statusWord [])

def execModeset (r : HostReq) (s : State) : Out :=
  mgmt s r 0x02 false false (some 8) ((dword r 0).toNat > 3 || s.changing) (fun s =>
    let (s, done) := s.setMode (dword r 0).toNat
    s.mgmtAnswer r 0x02 (if done then Status.done else Status.pending) 0 [])

/-- R395, R398: the kind and index of a part. -/
def partBad (w : Word) : Bool :=
  bits w 63 16 ≠ 0 || bits w 7 0 > 2 || bits w 15 8 ≥ [3, 24, 16].getD (bits w 7 0) 0

def execPartout (r : HostReq) (s : State) : Out :=
  let w := dword r 0
  mgmt s r 0x0C false false (some 8) (partBad w) (fun s =>
    match s.takeOut (bits w 7 0) (bits w 15 8) with
    | some s => s.mgmtAnswer r 0x0C Status.done 0 []
    | none => s.mgmtAnswer r 0x0C Status.noSpace 0 [])

def execPartin (r : HostReq) (s : State) : Out :=
  let w := dword r 0
  mgmt s r 0x0D false false (some 8) (partBad w) (fun s => (s.putIn (bits w 7 0) (bits w 15 8)).mgmtAnswer r 0x0D Status.done 0 [])

/-! ### Contexts and objects (R283-R285) -/

def execCtxcreate (r : HostReq) (s : State) : Out :=
  let w := dword r 0
  let n := bits w 11 0
  mgmt s r 0x03 false false (some 8) (bits w 63 13 ≠ 0 || n == 0) (fun s =>
    if (s.ctxs.look n).isSome then s.mgmtAnswer r 0x03 Status.present 0 []
    else ({ s with ctxs := s.ctxs.put n { debuggable := w.getLsbD 12 } } : State).mgmtAnswer r 0x03 Status.done 0 [])

def execCtxdestroy (r : HostReq) (s : State) : Out :=
  let w := dword r 0
  let n := bits w 11 0
  mgmt s r 0x04 false false (some 8) (bits w 63 12 ≠ 0) (fun s =>
    match s.ctxs.look n with
    | none => s.mgmtAnswer r 0x04 Status.gone 0 []
    | some c =>
      if c.dying.isSome then s.mgmtAnswer r 0x04 Status.gone 0 []
      else ({ s with ctxs := s.ctxs.put n { c with dying := some r } } : State).settleContext n)

/-- R284, R285: the descriptor of a request: its bits and the tile set of its mask. -/
def descOf (r : HostReq) : BitVec 512 := BitVec.ofNat 512 (bytesNat (r.data.drop 8))

/-- R284: the bits that a descriptor must leave zero, `valid` and `lost`. -/
def descBad (o : Object) : Bool :=
  let z (hi lo : Nat) : Bool := (o.desc.toNat >>> lo) % 2 ^ (hi + 1 - lo) ≠ 0
  z 63 9 || z 255 104 || z 267 256 || z 351 312 || z 415 384 || !o.desc.getLsbD 7 || o.attr == 3 ||
  (o.place != 0 && o.maskAddr != 0#64)

/-- R285: the ranks of the mask's tiles in the rectangle. -/
def State.maskRanks (s : State) (ctx : Nat) (o : Object) : List Nat :=
  (s.maskTiles ctx o.maskAddr o.x0 o.y0 o.w o.h).map (fun t => (t / 96 - o.y0) * o.w + (t % 96 - o.x0))

/-- R285: whether creation is refused for the descriptor. -/
def State.objectBad (s : State) (ctx : Nat) (o : Object) : Bool :=
  let maskBad : Bool := o.place == 0 && o.maskAddr != 0#64 && (match s.object ctx (objOf o.maskAddr) with
    | none => true
    | some m => offOf o.maskAddr + (o.w * o.h + 7) / 8 > m.size || (s.maskRanks ctx o).isEmpty)
  (o.isCode && (o.place != 3 || o.writable)) || (o.place == 3 && !o.isCode) ||
  (o.place == 0 && (o.w == 0 || o.h == 0 || o.x0 + o.w > 96 || o.y0 + o.h > 80)) ||
  (o.place == 1 && !o.peer && (o.x0 ≥ 96 || o.y0 ≥ 80)) || (o.peer && o.place != 1) || maskBad

def execObjcreate (r : HostReq) (s : State) : Out :=
  let w := dword r 0
  let n := bits w 23 0
  let o : Object := { desc := descOf r }
  mgmt s r 0x05 false true (some 72) (bits w 63 24 ≠ 0 || n == 0 || descBad o || (s.ctxs.look r.ctx).isNone) (fun s =>
    if (s.object r.ctx n).isSome then s.mgmtAnswer r 0x05 Status.present 0 []
    else if s.objectBad r.ctx o then s.mgmtAnswer r 0x05 Status.badArg 0 []
    else
      let o : Object := if o.place = 0 ∧ o.maskAddr ≠ 0#64 then { o with set := some (s.maskRanks r.ctx o) } else o
      let o := if o.peer && s.lostPeers.contains o.module then o.setLost true else o
      let need := 1 + (if o.set.isSome then (o.w * o.h + 511) / 512 else 0)
      if s.slabUsed (dirTile r.ctx n) + need > 262144 then s.mgmtAnswer r 0x05 Status.noSpace 0 []
      else ({ s with objects := s.objects.put (objKey r.ctx n) o } : State).mgmtAnswer r 0x05 Status.done 0 [])

def execObjdestroy (r : HostReq) (s : State) : Out :=
  let w := dword r 0
  let n := bits w 23 0
  mgmt s r 0x06 false true (some 8) (bits w 63 24 ≠ 0) (fun s =>
    if (s.object r.ctx n).isNone || s.objDying.any (fun e => e.1 == r.ctx && e.2.1 == n) then s.mgmtAnswer r 0x06 Status.gone 0 []
    else if s.insts.any (fun e => e.2.ctx == r.ctx && e.2.rec_.ops.any (fun p => p.1 == n)) then s.mgmtAnswer r 0x06 Status.badArg 0 []
    else s.destroyObject r.ctx n r)

/-- R398: `xmap` for the host: the request goes to the granule's home as the form's does. -/
def execMgmtXmap (r : HostReq) (s : State) : Out :=
  mgmt s r 0x07 false true (some 16) false (fun s =>
    let a := dword r 0
    let w := dword r 1
    let t := dirTile r.ctx (objOf a)
    s.send { vc := 0, src := t, dst := s.commandHome .xmap r.ctx a w t, gen := s.gen, body := .svcReq .xmap r.ctx a w (.host r) })

/-! ### Ports, peers, service threads, retirement (R195, R297, R342, R377) -/

def execPortmap (r : HostReq) (s : State) : Out :=
  let b (i : Nat) : Nat := (r.data.getD i 0#8).toNat
  let me := b 32
  let bad := (List.range 16).any (fun p => b (2 * p) > 2 || (b (2 * p) == 2 && b (2 * p + 1) == me)) ||
    (List.range 7).any (fun i => b (33 + i) != 0)
  mgmt s r 0x08 false false (some 40) bad (fun s =>
    ({ s with flash := { s.flash with ports := r.data } } : State).mgmtAnswer r 0x08 Status.done 0 [])

def execPeeradmit (r : HostReq) (s : State) : Out :=
  let w := dword r 0
  mgmt s r 0x09 false false (some 8) (bits w 63 8 ≠ 0) (fun s =>
    if (s.peerPorts (bits w 7 0)).isEmpty then s.mgmtAnswer r 0x09 Status.gone 0 []
    else s.markPeer (bits w 7 0) false (.host r))

/-- R195: a stopped service thread starts again from its firmware entry; what it had open is released. -/
def State.serviceRestart (s : State) (t : Nat) : State :=
  (s.releaseHandles t (s.slot t 15).th 0).modSlot t 15 (fun sl => { serviceSlot with fseq := sl.fseq })

def execSvcrestart (r : HostReq) (s : State) : Out :=
  let w := dword r 0
  mgmt s r 0x0A false false (some 8) (bits w 63 7 ≠ 0) (fun s =>
    match s.fields.look (bits w 6 0) with
    | none => s.mgmtAnswer r 0x0A Status.gone 0 []
    | some f =>
      match (s.slot f.tile 15).state with
      | .stopped _ => (s.serviceRestart f.tile).mgmtAnswer r 0x0A Status.done 0 []
      | _ => s.mgmtAnswer r 0x0A Status.gone 0 [])

def execRetire (r : HostReq) (s : State) : Out :=
  let w := dword r 0
  let n : BitVec 24 := w.extractLsb' 0 24
  mgmt s r 0x0B false false (some 8) (bits w 63 24 ≠ 0 || !s.nameOk n) (fun s =>
    if s.spares.isEmpty then s.mgmtAnswer r 0x0B Status.noSpace 0 []
    else
      let t := nameTile n
      let s : State := { s with duskQueue := if s.duskQueue.contains t then s.duskQueue else s.duskQueue ++ [t], retires := s.retires ++ [(t, r)] }
      s.mgmtAnswer r 0x0B Status.pending 0 [])

/-! ### Map, firmware, token, attestation (R353, R365-R373) -/

def execMapread (r : HostReq) (s : State) : Out :=
  let o := (dword r 0).toNat
  let n := (dword r 1).toNat + 1
  mgmt s r 0x10 true false (some 16) (n > 4096 || o + n > 92852) (fun s =>
    match s.dmap with
    | none => s.mgmtAnswer r 0x10 Status.badArg 0 []
    | some d => s.mgmtAnswer r 0x10 Status.done 0 ((d.bytes.drop o).take n))

/-- R369: a survey map accepted by its digest. -/
def execMapaccept (r : HostReq) (s : State) : Out :=
  mgmt s r 0x11 true false (some 32) false (fun s =>
    let ok : Bool := match s.dmap with
      | none => false
      | some d => !s.attested && s.survey && s.step == 6 && d.hash == r.data
    if ok then ({ s with enabled := true } : State).mgmtAnswer r 0x11 Status.done 0 []
    else s.mgmtAnswer r 0x11 Status.refused 0 [])

/-- R398: a chunk: its offset, length and bytes. -/
def chunkOff (r : HostReq) : Nat := bits (dword r 0) 31 0
def chunkLen (r : HostReq) : Nat := (dword r 1).toNat
def chunkBad (r : HostReq) (fw : Bool) : Bool :=
  bits (dword r 0) 62 (if fw then 34 else 32) ≠ 0 || chunkLen r == 0 || chunkLen r > 4080 || r.len != 16 + chunkLen r ||
  (if fw then bits (dword r 0) 33 32 == 0 || bits (dword r 0) 33 32 == 3 else chunkOff r + chunkLen r > 92852)

/-- The chunk's bytes in the staging image, which lists every byte sent. -/
def stage (cs : List Host.Cell) (r : HostReq) : List Host.Cell :=
  ((r.data.drop 16).zipIdx).foldl (fun cs e => insertCell cs (chunkOff r + e.2) e.1) cs

/-- The staged image up to its last byte. -/
def image (cs : List Host.Cell) : List Byte := (List.range (cs.foldl (fun m c => max m (c.1 + 1)) 0)).map (readCell cs)

/-- R367: the highest epoch of the map in use and of the copies in flash. -/
def State.lastEpoch (s : State) : Nat := ((s.dmap.toList ++ s.flash.map1.toList ++ s.flash.map2.toList).map (·.epoch)).foldl max 0

/-- R367, R376, R398: a committed map image, when it is valid, is an update; one that comes during dawn is written after step 6. -/
def State.mapCommit (s : State) (l : List Byte) : Option State :=
  match DefectMap.parse l with
  | none => none
  | some d =>
    if !d.valid s.serial then none
    else
      let d := { d with epoch := s.lastEpoch }.signed
      let s : State := { s with stageMap := [] }
      some (if s.step < 6 then { s with laterMap := some d } else s.writeMap d)

def execMapload (r : HostReq) (s : State) : Out :=
  mgmt s r 0x12 true false none (chunkBad r false) (fun s =>
    let s : State := { s with stageMap := stage s.stageMap r }
    if !(dword r 0).getLsbD 63 then s.mgmtAnswer r 0x12 Status.done 0 []
    else match s.mapCommit (image s.stageMap) with
      | some s => s.mgmtAnswer r 0x12 Status.done 0 []
      | none => ({ s with stageMap := [] } : State).mgmtAnswer r 0x12 Status.badArg 0 [])

/-- R365, R398: a committed firmware image: its slot is written, and the module that found none starts a new dawn. -/
def State.fwCommit (s : State) (slot : Nat) (l : List Byte) : Option State :=
  if (firmwareBody l).isNone then none
  else
    let s : State := { s with stageFw := [], flash := if slot = 1 then { s.flash with fw1 := l } else { s.flash with fw2 := l } }
    some (if s.step = 1 then s.dawn else s)

def execFwload (r : HostReq) (s : State) : Out :=
  mgmt s r 0x13 true false none (chunkBad r true) (fun s =>
    let s : State := { s with stageFw := stage s.stageFw r }
    if !(dword r 0).getLsbD 63 then s.mgmtAnswer r 0x13 Status.done 0 []
    else match s.fwCommit (bits (dword r 0) 33 32) (image s.stageFw) with
      | some s => s.mgmtAnswer r 0x13 Status.done 0 []
      | none => ({ s with stageFw := [] } : State).mgmtAnswer r 0x13 Status.badArg 0 [])

def execTokenload (r : HostReq) (s : State) : Out :=
  mgmt s r 0x14 true false (some 2484) false (fun s =>
    if Config.verify 0 (r.data.take 64) (r.data.drop 64) then
      let s : State := if s.step < 6 then { s with laterToken := some r.data } else { s with flash := { s.flash with token := r.data } }
      s.mgmtAnswer r 0x14 Status.done 0 []
    else s.mgmtAnswer r 0x14 Status.badArg 0 [])

/-- R353: bytes 0-159 of the report. -/
def State.reportBody (s : State) (c : Context) (nonce : List Byte) : List Byte :=
  let flags := (if s.attested then 2 ^ 11 else 0) + (s.rows - 80) % 4 * 2 ^ 9 + (if c.debuggable then 2 ^ 8 else 0)
  natBytes 8 flags ++ natBytes 8 (s.serial % 2 ^ 48) ++ List.replicate 48 0#8 ++
  (match s.dmap with | some d => d.hash | none => List.replicate 32 0#8) ++ padBytes 32 (Config.digest s.fw) ++ nonce

/-- Context 0, which no CTXCREATE makes, is always there (R376, log 109). -/
def execAttest (r : HostReq) (s : State) : Out :=
  let w := dword r 0
  mgmt s r 0x15 true false (some 40) (bits w 63 12 ≠ 0) (fun s =>
    match (if w = 0#64 then some ({ debuggable := false } : Context) else s.ctxs.look (bits w 11 0)) with
    | none => s.mgmtAnswer r 0x15 Status.gone 0 []
    | some c =>
      let b := s.reportBody c (r.data.drop 8)
      s.mgmtAnswer r 0x15 Status.done 0 (b ++ padBytes 2420 (Config.sign b)))

end Sys2Proof.Machine
end

