-- ==== Sys2Proof/Machine/Route.lean ====
section
/-! DEFINITION. Copy-engine traffic at its two ends (R181), route transfers (R179, R253, R254), and the acknowledgements of trace
and counter-grid stores (R357, R363). -/

namespace Sys2Proof.Machine

/-! ### The sending side of a route -/

/-- A sender whose flits have all been delivered and whose grants are complete goes on (R254). -/
def Run.routeReady (r : Run) (tiles : Nat) : Run :=
  if r.wait = .grant ∧ r.left = 0 ∧ (r.granted.length ≥ tiles ∨ r.fatal) then { r with wait := .run } else r

/-- The run of tile `t` that sends on a route of an instance, running or saved, changed. -/
def State.modSender (s : State) (t num kin : Nat) (f : Run → Run) : State :=
  let n (r : Run) : Nat := ((s.routeTiles t kin num (r.cmd.op == .cbcast)).getD []).length
  let g (r : Run) : Run :=
    if r.cmd.kin = kin ∧ (r.cmd.op = .csend ∨ r.cmd.op = .cbcast) ∧ r.job.route = num then (f r).routeReady (n r) else r
  s.modTile t (fun x =>
    let h (tm : Team) : Team := { tm with runC := tm.runC.map g }
    { x with cpe := x.cpe.map g
             teams := Map.mapVals h x.teams
             saves := Map.mapVals (fun (v : Save) => { v with team := h v.team }) x.saves })

/-- An error of a delivering tile at a row: the first one that stops the command counts its rows. -/
def Run.routeErr (r : Run) (err det row : Nat) : Run :=
  if r.fatal then r else { r with err := err, det := det, cnt := row }

/-- R254: a grant for one delivery; a tile that cannot take the transfer answers with an error instead. -/
def execRouteSlotGrant (n : Nat) (s : State) : Out :=
  onPacket s n (fun p s => match p.body with
    | .routeGrant _ num kin err =>
      .yes (s.modSender p.dst num kin (fun r =>
        let r := { r with granted := r.granted ++ [p.src] }
        if err = 0 then r else r.routeErr err 0 0))
    | _ => .no)

/-! ### The delivering side -/

/-- The transfer that a pass of a route delivers at a tile. -/
def Recv.serves (r : Recv) (num kin src inp : Nat) : Bool := r.num == num && r.kin == kin && r.src == src && r.inp == inp
def Tile.recvOf (x : Tile) (num kin src inp : Nat) : Option Recv := x.recvs.find? (fun r => r.serves num kin src inp)
def Tile.dropRecv (x : Tile) (r : Recv) : Tile :=
  { x with recvs := x.recvs.filter (fun q => !q.serves r.num r.kin r.src r.inp) }
def Tile.putRecv (x : Tile) (r : Recv) : Tile := { x with recvs := (x.dropRecv r).recvs ++ [r] }

/-- Whether instance `k` is `kin` or succeeds it. -/
def State.succeeds (s : State) (kin : Nat) : Nat → Nat → Bool
  | 0, _ => false
  | n + 1, k => k == kin || (match (s.insts.look k).bind (·.pred) with | some j => s.succeeds kin n j | none => false)

/-- R254, R321: the instance under which a tile holds the team of instance `kin`: a successor's after a seam. -/
def State.kinAt (s : State) (u kin : Nat) : Nat :=
  let x := s.tile u
  ((x.teams.map (fun e => e.2.kin) ++ x.saves.map (fun e => e.2.team.kin)).find? (fun k => s.succeeds kin 32 k)).getD kin

/-- What the first flit of a transfer meets at a delivering tile. -/
inductive Opened where
  | hold
  | ok (s : State) (r : Recv)
  | bad (err : Nat)
  deriving DecidableEq, Repr

/-- R246: whether a slot of a buffer goes to another claimant of this cycle first: the tile's own copy command that waits for one, or a
transfer of a lower route number whose first flit is at the tile's port. -/
def State.takesAhead (s : State) (u b num : Nat) : Bool :=
  let x := s.tile u
  (match x.cpe with | some r => r.wait == .slot && r.job.cbn == b && !s.runClosed u r | none => false) ||
  s.net.zipIdx.any (fun e => e.1.dst == u && e.1.ret == .no && (match e.1.body with
    | .route f | .routeLast f => f.num < num && f.cbn == some b && (x.recvOf f.num f.kin e.1.src f.inp).isNone && s.atPort e.2 e.1
    | _ => false))

/-- R242, R254: the first flit: the team of the instance, and a free slot of its buffer or its scratchpad. A quiesced team, a
buffer with no free slot and a slot that scrubs hold the flit (R339). -/
def State.openRecv (s : State) (u src : Nat) (f : RouteFlit) : Opened :=
  let x := s.tile u
  let k := s.kinAt u f.kin
  if x.quiesced k then .hold
  else match x.posOf k with
    | none => .bad EngErr.peerGone
    | some p =>
      let r : Recv := { num := f.num, kin := f.kin, pos := p, src := src, buf := f.cbn, inp := f.inp }
      match f.cbn with
      | none => .ok s r
      | some b =>
        let c := x.buf b
        if c.owner ≠ some p then .bad EngErr.peerGone
        else if c.cfg.isNone then .bad EngErr.perm
        else if c.free = 0 ∨ (x.slotState b .scrubbing).isSome ∨ s.takesAhead u b f.num then .hold
        else if (x.slotState b .stationary).isSome then .bad EngErr.state
        else
          let (x, i) := x.takeFree b
          .ok (s.setTile u x) { r with slot := i }

/-- What a row leads to at a delivering tile. -/
inductive RowIn where
  | hold
  | bad (err det : Nat)
  | ok (s : State) (r : Recv) (fl : Flags) (ue : Bool)

/-- The macros that a transfer loads at a delivering tile. -/
def Tile.loadedBy (x : Tile) (r : Recv) : List Nat :=
  r.loading ++ (match r.buf with
    | some b => match (x.buf b).cfg with | some w => slotMacros w r.slot | none => []
    | none => [])

/-- The segments of a row at a delivering tile. -/
def State.recvSegs (s : State) (u : Nat) (r : Recv) (f : RouteFlit) (bytes : Bool) : Except Nat (List Seg) :=
  match r.buf with
  | none => s.spadRow u f.dst f.len bytes
  | some b => match ((s.tile u).buf b).cfg with
    | none => .error EngErr.perm
    | some w =>
      let gs := s.slotRow u w r.slot f.row f.len bytes
      if segTotal gs < f.len then .error EngErr.bounds else .ok gs

/-- R179, R244, R254: the elements of a flit written at a delivering tile. The checks are those of its row, whose first flit reads the
formats. -/
def State.rowIn (s : State) (u : Nat) (r : Recv) (f : RouteFlit) : RowIn :=
  let x := s.tile u
  let bytes := f.data.any (fun e => e.fmt == 0)
  let g := if f.off = 0 then s else s.underFormats u r.fmts
  match g.recvSegs u r f bytes with
  | .error e => .bad e 0
  | .ok gs =>
    let ms := (segMacros gs).eraseDups
    let kinds := (f.data.map (fun e => (e.fmt, e.grp))).eraseDups
    if !bytes && ms.any (fun m => g.fmtAt u m == 0) then .bad EngErr.format 0
    else if !bytes && !groupsMatch kinds (ms.map (fun m => (g.fmtAt u m, g.grpAt u m))) then .bad EngErr.format 0
    else if !g.unitsOk u bytes gs then .bad EngErr.param 0
    else match ms.find? (fun m => !macroOwned x r.pos m) with
      | some _ => .bad EngErr.peerGone 0
      | none => match ms.find? (fun m => (x.mac m).state == .stationary) with
        | some m => .bad EngErr.state m
        | none =>
          if ms.any (fun m => (x.mac m).state == .scrubbing || ((x.mac m).due && !(x.loadedBy r).contains m)) then .hold
          else
            let fresh := if r.buf.isSome then [] else ms.filter (fun m => !r.loading.contains m)
            let s := s.setTile u (fresh.foldl Tile.beginLoad x)
            let cells := ((g.spadCells u bytes false gs).drop f.off).take f.data.length
            let (ps, fl, ue) := moveRow 0 f.rm f.sat f.key f.data cells
            .ok (s.putSpad u ps) { r with loading := r.loading ++ fresh, fmts := g.addFormats u [] ms } fl ue

/-- R242: the macros that the rows of a transfer after that of a flit write. -/
def State.laterMacros (s : State) (u : Nat) (f : RouteFlit) (bytes : Bool) : List Nat :=
  (List.range (f.rows - 1 - f.row)).flatMap (fun k =>
    match s.spadRow u (f.dst + BitVec.ofNat 64 (k + 1) * f.step) f.len bytes with
    | .ok gs => segMacros gs
    | .error _ => [])

/-- R242: after the last flit of a row, the macros of its region that no later row writes are no longer loaded by the transfer. -/
def State.rowLoaded (s : State) (u : Nat) (r : Recv) (f : RouteFlit) : State × Recv :=
  if r.buf.isSome ∨ f.off + f.data.length < f.len then (s, r)
  else
    let later := s.laterMacros u f (f.data.any (fun e => e.fmt == 0))
    (s.setTile u ((r.loading.filter (fun m => !later.contains m)).foldl Tile.endLoad (s.tile u)),
     { r with loading := r.loading.filter (fun m => later.contains m) })

/-- R183, R254: what a transfer holds at a delivering tile is given up: loading counts, and its slot is filled. -/
def State.closeRecv (s : State) (u : Nat) (r : Recv) : State :=
  let s := s.setTile u (r.loading.foldl Tile.endLoad ((s.tile u).dropRecv r))
  match r.buf, r.dead with
  | some b, false => s.modTile u (fun x => x.fillEnd b r.slot)
  | _, _ => s

/-- R253, R254: the deliveries of a flit from the entry of a site on. -/
def State.routeAhead (s : State) (num kin : Nat) (all : Bool) : Nat → Nat → Nat → Nat
  | 0, _, _ => 0
  | n + 1, site, inp => match s.routeEntry site num kin inp with
    | none => 0
    | some e =>
      let here := if e.last || (e.deliver && all) then 1 else 0
      if e.last then here else match siteStep site e.out with
        | none => here
        | some v => here + s.routeAhead num kin all n v (oppositePort e.out)

/-- R254: deliveries of a flit that will not take place: the sender no longer awaits them, and its command ends with an error. -/
def State.routeLost (s : State) (src num kin n err : Nat) : State :=
  s.modSender src num kin (fun q => { q.routeErr err 0 q.prog with left := q.left - n })

/-- R254: a `cbcast` flit goes onward from a tile that has taken it; without an entry for the route there (log 100) it is lost. -/
def State.forward (s : State) (u src : Nat) (last : Bool) (f : RouteFlit) : State :=
  match s.routeEntry (s.site u) f.num f.kin f.inp with
  | none => s
  | some e =>
    if e.last || !f.all then s
    else match s.routeHop f.num f.kin f.all 8448 (s.site u) e.out with
      | some q => s.postRoute src last f q
      | none =>
        let rest := ((s.routeTiles src f.kin f.num true).getD []).dropWhile (· != u)
        s.routeLost src f.num f.kin (rest.length - 1) EngErr.route

/-- A flit at a delivering tile whose transfer is open; the final one closes it. -/
def State.deliverFlit (s : State) (u src : Nat) (last : Bool) (f : RouteFlit) (r : Recv) : Taken :=
  let sent (g : Run → Run) (s : State) : State := s.modSender src r.num r.kin (fun q => g { q with left := q.left - 1 })
  let close (r : Recv) (s : State) : State := if last then s.closeRecv u r else s.modTile u (fun x => x.putRecv r)
  let on (s : State) : Taken := .yes (s.forward u src last f)
  if r.dead ∨ f.data.isEmpty then on (sent id (close r s))
  else match s.rowIn u r f with
    | .hold => .no
    | .bad e d =>
      let s := (s.closeRecv u r).modTile u (fun x => if last then x else x.putRecv { r with dead := true, loading := [] })
      on (sent (fun q => q.routeErr e d f.row) s)
    | .ok s r fl ue =>
      let (s, r) := s.rowLoaded u r f
      on (sent (fun q => { q with flags := q.flags ||| fl, err := if ue ∧ q.err = 0 then EngErr.ue else q.err }) (close r s))

/-- R254: a flit of a route at a tile that takes it; the first of a transfer opens it there and is answered with the grant. -/
def State.takeRoute (s : State) (u src : Nat) (last : Bool) (f : RouteFlit) : Taken :=
  if (s.tile u).quiesced (s.kinAt u f.kin) then .no
  else match (s.tile u).recvOf f.num f.kin src f.inp with
  | some r => s.deliverFlit u src last f r
  | none => match s.openRecv u src f with
    | .hold => .no
    | .bad e =>
      let r : Recv := { num := f.num, kin := f.kin, pos := 0, src := src, buf := none, dead := true, inp := f.inp }
      match s.deliverFlit u src last f r with
      | .no => .no
      | .yes s => .yes (s.answer u src 16 (.routeGrant u f.num f.kin e))
    | .ok s r =>
      match s.deliverFlit u src last f r with
      | .no => .no
      | .yes s => .yes (s.answer u src 16 (.routeGrant u f.num f.kin 0))

def execRouteDataFlit (n : Nat) (s : State) : Out :=
  onPacket s n (fun p s => match p.body with
    | .route f => s.takeRoute p.dst p.src false f
    | _ => .no)

def execRouteLastFlit (n : Nat) (s : State) : Out :=
  onPacket s n (fun p s => match p.body with
    | .routeLast f =>
      if (match f.cbn with | some b => (s.tile p.dst).fillLate b s.now | none => false) then .no else s.takeRoute p.dst p.src true f
    | _ => .no)

/-! ### Copy-engine packets (R181) -/

def execCopyReadRequest (n : Nat) (s : State) : Out :=
  onPacket s n (fun p s => match p.body with
    | .copyReadReq _ _ _ i =>
      if p.dst ≥ 16384 then
        .yes (s.peerGive p (fun d s => s.send { vc := 4, src := p.dst, dst := p.src, gen := s.gen, slot := p.slot,
                                                body := .copyData i (Config.freePeer d) (peerPoison d) 0 }))
      else .yes (s.takeWrite p.dst p)
    | _ => .no)

/-- R181: an error that a home answers: the first that stops the command counts its rows. -/
def Run.homeErr (r : Run) (err : Nat) : Run :=
  if err = 0 ∨ r.fatal ∨ (err = EngErr.ue ∧ r.err ≠ 0) then r else { r with err := err, cnt := min r.prog r.job.rows }

/-- A reply to the command of tag `tag` of tile `t`, running or stopped by a quiesce. -/
def State.modCopy (s : State) (t tag : Nat) (f : Run → Run) : State :=
  let g (r : Run) : Run := if r.tag = tag then f r else r
  let h (tm : Team) : Team := { tm with runC := tm.runC.map g }
  s.modTile t (fun x => { x with cpe := x.cpe.map g, teams := Map.mapVals h x.teams,
                                 saves := Map.mapVals (fun (v : Save) => { v with team := h v.team }) x.saves })

def execCopyReadData (n : Nat) (s : State) : Out :=
  onPacket s n (fun p s => match p.body with
    | .copyData i v poison err =>
      .yes (s.modCopy p.dst p.slot (fun r =>
        if !r.asked.contains i then r
        else
          let r := { r.homeErr err with got := r.got.put i (v, poison || err != 0) }
          { r with wait := if r.wait = .remote ∧ r.asked.all (fun k => (r.got.look k).isSome) then .run else r.wait }))
    | _ => .no)

/-- R357: the records of a trace object meet a granule that is not mapped and are dropped; any other write goes on. -/
def State.takeRecord (s : State) (p : Packet) : State :=
  match p.body with
  | .gridStore ctx a _ _ => match s.gate p.dst ctx a with
    | .go | .hold | .elsewhere => s.takeWrite p.dst p
    | _ => s.send { vc := 4, src := p.dst, dst := p.src, gen := s.gen, slot := p.slot, body := .copyAck 12 }
  | _ => s

def execCopyWrite (n : Nat) (s : State) : Out :=
  onPacket s n (fun p s => match p.body with
    | .copyWrite .. =>
      if p.dst ≥ 16384 then
        .yes (s.peerGive p (fun _ s => s.send { vc := 4, src := p.dst, dst := p.src, gen := s.gen, slot := p.slot, body := .copyAck 0 }))
      else .yes (s.takeWrite p.dst p)
    | .gridStore _ _ _ ph => if ph ≥ 10 then .yes (s.takeRecord p) else .no
    | _ => .no)

def execCounterGridStore (n : Nat) (s : State) : Out :=
  onPacket s n (fun p s => match p.body with
    | .gridStore _ _ _ ph => if ph < 10 then .yes (s.takeWrite p.dst p) else .no
    | _ => .no)

/-- R357: the next buffered trace record goes out once the last is settled. -/
def State.traceNext (s : State) (t : Nat) (lost : Bool) : State :=
  match (s.tile t).trace with
  | [] => s
  | (ctx, _) :: rest =>
    let s := s.modTile t (fun x =>
      if lost then { x with trace := rest, traceLost := x.traceLost.put ctx (x.traceLost.lookD ctx 0 + 1) }
      else { x with trace := rest, traceN := x.traceN.put ctx (x.traceN.lookD ctx 0 + 1) })
    s.traceSend t 10

/-- R248, R362, R363: the stores of a phase of a grid record: their words and offsets. A flit carries at most 128 bytes, so that the
second phase has two. -/
def gridPhase (ws : List Word) (ph : Nat) : List (List Word × Nat) :=
  let last := ws.getD 31 0#64
  match ph with
  | 1 => [([last ||| (0x80#64 <<< 48)], 248)]
  | 2 => [(ws.take 16, 0), ((ws.drop 16).take 15, 128)]
  | _ => [([last], 248)]

/-- The address by which the fabric names the monitor of a site: its tile's, or the site's own for a spare (log 101). -/
def State.monitorOf (s : State) (p : Nat) : Nat := (s.tileAt p).getD (32768 + p)

/-- R363: a phase of a site's oldest record is stored in the grid object. -/
def State.gridSend (s : State) (p ph : Nat) : State :=
  let g := s.siteGrid p
  let l := gridPhase (g.recs.headD []) ph
  let src := s.monitorOf p
  let s : State := { s with grids := s.grids.put p { g with phase := ph, left := l.length } }
  l.foldl (fun s e =>
    let a := s.gridObj + BitVec.ofNat 64 (p * 256 + e.2)
    s.send { vc := 4, src := src, dst := (s.trueHome s.gridCtx a src).getD src, gen := s.gen, slot := 17,
             body := .gridStore s.gridCtx a e.1 ph }) s

/-- R363: a store of phase `ph` of a site's record is acknowledged: the last of a phase begins the next, and after the third the next
record begins. With storing stopped (R362) the records go. -/
def State.gridAck (s : State) (p ph : Nat) : State :=
  let g := s.siteGrid p
  let put (g : SiteGrid) : State := { s with grids := s.grids.put p g }
  if g.phase ≠ ph ∨ g.left = 0 then s
  else if s.gridObj = 0#64 then put { g with phase := 0, left := 0, recs := [] }
  else if g.left > 1 then put { g with left := g.left - 1 }
  else if ph < 3 then s.gridSend p (ph + 1)
  else
    let rest := g.recs.drop 1
    let s := put { g with phase := 0, left := 0, recs := rest }
    if rest.isEmpty then s else s.gridSend p 1

def execCopyWriteAcknowledgement (n : Nat) (s : State) : Out :=
  onPacket s n (fun p s => match p.body with
    | .copyAck e =>
      let t := p.dst
      if p.slot = 18 then
        .yes (if e = 10 then s.traceSend t 11 else s.traceNext t (e == 12))
      else if p.slot = 17 then
        .yes (s.gridAck (if t ≥ 32768 then t - 32768 else s.site t) e)
      else
        .yes (s.modCopy t p.slot (fun r =>
          let r := { r.homeErr e with left := r.left - 1 }
          { r with wait := if r.left = 0 ∧ r.wait = .remote then .run else r.wait }))
    | _ => .no)

/-! ### Returned packets (R107, R202, R214, R263, R379) -/

/-- R107: an access returned STALE: sent once more to the home its refreshed record names, or discarded. DESIGN CHOICE (log 102):
with NOOBJ or NOTRES where the record names no object or no home any more. -/
def State.staleAccess (s : State) (p : Packet) (ctx : Nat) (a : Word) : State :=
  let n : Word := (nameOf p.gen p.dst).zeroExtend 64
  let give (code eng : Nat) (x : Word) : State :=
    match p.body with
    | .readReq .. | .atomicReq .. | .exitJ .. => s.refuse p.dst p code a x
    | _ => s.discardPacket p.dst p code eng x
  if p.resent then give FaultCode.stale EngErr.stale n
  else
    let s' := s.refresh p.src ctx a
    match s.object ctx (objOf a), s.trueHome ctx a p.src with
    | none, _ => give FaultCode.noObj EngErr.noObj 0#64
    | some o, none => if o.peer then s'.resend p p.dst true else give FaultCode.notRes EngErr.notRes 1#64
    | some _, some u => s'.resend p u true

/-- R107, R132, R214, R263: a packet without an object address returned STALE: sent once more with its tile's name in the current
generation; a request or write of a thread that comes back again raises STALE, a placement request is refused, and what a tile sends on
its own account goes out again (log 98). -/
def State.staleRequest (s : State) (p : Packet) : State :=
  let n : Word := (nameOf p.gen p.dst).zeroExtend 64
  if !p.resent then s.resend p p.dst true
  else match p.body with
    | .peerLoad _ _ a _ => s.refuse p.dst p FaultCode.stale a n
    | .peerStore _ _ a _ _ => s.answer p.dst p.src p.slot (.writeAck none (some (FaultCode.stale, a, n)))
    | .trackQuery .. => s.refuse p.dst p FaultCode.stale n n
    | .placeReq _ => s.answer p.dst p.src p.slot (.admission none)
    | .svcReq .. | .svcMsg .. | .droppedReq .. =>
      if p.slot < 16 then s.refuse p.dst p FaultCode.stale n n else s.resend p p.dst true
    | _ => s.resend p p.dst true

/-- R105, R222: returned packets are sent again in the order in which their source sent them. -/
def State.firstReturned (s : State) (p : Packet) : Bool :=
  s.net.all (fun q => !(q.ret != .no && q.src == p.src && q.dst == p.dst && (q.vc == 0 || q.vc == 2) && q.seq < p.seq)) ||
  !(p.vc == 0 || p.vc == 2)

/-- R263, R383: a packet that a fenced tile's neighbours return, or `none` while it waits for the tile's replacement. -/
def State.fencedReturn (s : State) (p : Packet) : Option State :=
  let n : Word := (nameOf p.gen p.dst).zeroExtend 64
  match p.body with
  | .readReq _ a _ | .atomicReq _ a .. | .exitJ _ a | .peerLoad _ _ a _ => some (s.refuse p.dst p FaultCode.fenced a n)
  | .store .. | .stf .. | .nrAtomic .. | .copyReadReq .. | .copyWrite .. | .gridStore .. =>
    some (s.discardPacket p.dst p FaultCode.fenced EngErr.fenced n)
  | .peerStore _ _ a _ _ => some (s.answer p.dst p.src p.slot (.writeAck none (some (FaultCode.fenced, a, n))))
  | .trackQuery _ b =>
    some (if p.slot < 16 ∧ (s.slot p.src p.slot).pend = .query b then s.fencedHandle p.src p.slot b else s)
  | .trackRelease .. | .copyData .. | .copyAck .. => some s
  | .placeReq _ => some (s.answer p.dst p.src p.slot (.admission none))
  | .dirInval _ op => some (s.answer p.dst p.src 16 (.invalDone op))
  | .droppedReq .. => some (s.answer p.dst p.src p.slot (.svcAnswer 0#64))
  | .route f | .routeLast f =>
    some (s.routeLost p.src f.num f.kin (s.routeAhead f.num f.kin f.all 8448 (s.site p.dst) f.inp) EngErr.fenced)
  | _ => if (s.tile p.dst).fenced then none else some (s.resend p p.dst false)

def execStaleReturn (n : Nat) (s : State) : Out :=
  match s.net[n]? with
  | none => .fault .notEnabled
  | some p =>
    let rest : State := { s with net := dropAt s.net n }
    let migrates : Bool := match p.body with
      | .migrate _ => true
      | _ => false
    if migrates || !s.firstReturned p || p.src < 16384 && (s.tile p.src).closed then .fault .notEnabled
    else match p.ret with
      | .no | .hold => .fault .notEnabled
      | .fenced => match rest.fencedReturn p with
        | none => .fault .notEnabled
        | some s => .next s
      | .stale => match p.body.place with
        | some (ctx, a) => .next (rest.staleAccess p ctx a)
        | none => .next (rest.staleRequest p)

/-- R379: a held packet is sent again once the generation has advanced and its tile answers, after those that its source sent
before it to the same tile (R105). -/
def execHeldPacketResend (n : Nat) (s : State) : Out :=
  match s.held[n]? with
  | none => .fault .notEnabled
  | some p =>
    if p.gen = s.gen ∨ (s.tile p.dst).closed ∨ (s.held.take n).any (fun q => q.src == p.src && q.dst == p.dst && q.vc == p.vc) then
      .fault .notEnabled
    else .next ({ s with held := dropAt s.held n }.resend p p.dst false)

end Sys2Proof.Machine
end

