-- ==== Sys2Proof/Machine/Debug.lean ====
section
/-! DEFINITION. Debug commands (R352-R356), breakpoints, trace and sampling (R355, R357, R360) and the counter grid (R361-R363). -/

namespace Sys2Proof.Machine

/-! ### One thread (R354) -/

/-- R352, R354: a debug command on a named slot: GONE for a name before the last dusk or an empty slot, REFUSED for a thread that is
not debuggable, otherwise `go` gives the answer's status and data. -/
def debugCmd (s : State) (r : HostReq) (op n : Nat) (go : Nat → Nat → Slot → State → State × Nat × List Byte) : Out :=
  mgmt s r op false false (some n) (bits (dword r 0) 63 28 ≠ 0) (fun s =>
    let t := dbgTile r
    let k := dbgSlot r
    let sl := s.slot t k
    if !s.handleOk ((dword r 0) &&& 0xFFFFFF#64) || sl.state == .free then s.mgmtAnswer r op Status.gone 0 []
    else if !s.debuggable sl.th.ctx then s.mgmtAnswer r op Status.refused 0 []
    else
      let (s, st, data) := go t k sl s
      s.mgmtAnswer r op st 0 data)

/-- R196, R354: the message of kind 4 that brings DBGSTOP or DBGRESUME to a service thread. DESIGN CHOICE (log 108): word 0 holds the
command number in bits 63:56, word 1 the payload, word 2 the tag. -/
def debugMsg (s : State) (r : HostReq) (op f : Nat) : Msg :=
  { kind := 4, tile := s.name (s.field f).tile, w0 := BitVec.ofNat 64 (op * 2 ^ 56), w1 := dword r 0, w2 := BitVec.ofNat 64 r.tag, w3 := 0#64 }

/-- R354: DBGSTOP, or DBGRESUME (`on`): the field's service thread hears of it and performs it (R201), which answers it. -/
def debugByService (s : State) (r : HostReq) (on : Bool) : Out :=
  let op := if on then 0x19 else 0x18
  mgmt s r op false false (some 8) (bits (dword r 0) 63 28 ≠ 0) (fun s =>
    let f := s.fieldOf (dbgTile r)
    if !s.handleOk ((dword r 0) &&& 0xFFFFFF#64) || (s.fields.look f).isNone then s.mgmtAnswer r op Status.gone 0 []
    else ({ s with dbgReqs := s.dbgReqs ++ [(r, on)] } : State).modField f (fun g => { g with mq := g.mq ++ [debugMsg s r op f] }))

def execDbgstop (r : HostReq) (s : State) : Out := debugByService s r false
def execDbgresume (r : HostReq) (s : State) : Out := debugByService s r true

def execDbgread (r : HostReq) (s : State) : Out :=
  debugCmd s r 0x1A 8 (fun _ _ sl s => match sl.state with
    | .stopped .debug => (s, Status.done, contextBytes sl.th ++ [6#8])
    | .blocked => (s, Status.done, contextBytes sl.th ++ [5#8])
    | _ => (s, Status.gone, []))

/-- R354: the thread with the context written over it; `none` where the context is refused. -/
def dbgContext (th : Thread) (l : List Byte) : Option Thread :=
  let w (i : Nat) : Word := bytesWord (l.drop (8 * i))
  if bits (w 0) 1 0 ≠ 0 then none
  else (writeSt th.st (w 10)).map (fun st =>
    { th with pc := w 0, acc := w 9, st := st,
              regs := { w0 := w 1, w1 := w 2, w2 := w 3, w3 := w 4, w4 := w 5, w5 := w 6, w6 := w 7, w7 := w 8 } })

def execDbgwrite (r : HostReq) (s : State) : Out :=
  debugCmd s r 0x1B 112 (fun t k sl s => match sl.state with
    | .stopped .debug => match dbgContext sl.th (r.data.drop 8) with
      | none => (s, Status.badArg, [])
      | some th => (s.modSlot t k (fun sl => { sl with th := th }.goto th.pc), Status.done, [])
    | _ => (s, Status.gone, []))

/-- R354: DBGSTEP: the thread issues one instruction; the answer leaves when it has stopped again or left its slot. -/
def execDbgstep (r : HostReq) (s : State) : Out :=
  let stopped (s : State) : Bool := (s.slot (dbgTile r) (dbgSlot r)).state == .stopped .debug
  mgmt s r 0x1C false false (some 8) (bits (dword r 0) 63 28 ≠ 0) (fun s =>
    let t := dbgTile r
    let k := dbgSlot r
    let sl := s.slot t k
    if !s.handleOk ((dword r 0) &&& 0xFFFFFF#64) || sl.state == .free then s.mgmtAnswer r 0x1C Status.gone 0 []
    else if !s.debuggable sl.th.ctx then s.mgmtAnswer r 0x1C Status.refused 0 []
    else if !stopped s then s.mgmtAnswer r 0x1C Status.gone 0 []
    else s.modSlot t k (fun sl => { sl with state := .ready, stepReq := some r }))

/-! ### Breakpoints, trace, sampling (R355, R357, R360) -/

/-- R352: a facility of a context: BADARG where there is no such context, REFUSED where it is not debuggable. -/
def facility (s : State) (r : HostReq) (op n : Nat) (reserved : Bool) (go : Context → State → Option State) : Out :=
  mgmt s r op false true (some n) (reserved || (s.ctxs.look r.ctx).isNone) (fun s => match s.ctxs.look r.ctx with
    | none => s
    | some c =>
      if !c.debuggable then s.mgmtAnswer r op Status.refused 0 []
      else match go c s with
        | some s => s.mgmtAnswer r op Status.done 0 []
        | none => s.mgmtAnswer r op Status.badArg 0 [])

def State.setCtx (s : State) (n : Nat) (c : Context) : State := { s with ctxs := s.ctxs.put n c }

def execDbgbrk (r : HostReq) (s : State) : Out :=
  let a := dword r 1
  facility s r 0x1D 16 (bits (dword r 0) 63 2 ≠ 0 || bits a 1 0 ≠ 0) (fun c s =>
    some (s.setCtx r.ctx { c with brk := modifyAt c.brk (bits (dword r 0) 1 0) (fun _ => a) }))

/-- R357: whether an object may hold `n` bytes of records from its start. -/
def State.recordsFit (s : State) (ctx : Nat) (a : Word) (n : Nat) : Bool :=
  match s.object ctx (objOf a) with
  | none => false
  | some o => o.writable && !o.peer && o.size ≥ n && offOf a == 0

def execTraceset (r : HostReq) (s : State) : Out :=
  let a := dword r 0
  facility s r 0x1E 8 false (fun c s =>
    if a ≠ 0#64 ∧ !s.recordsFit r.ctx a (96 * s.rows * 64) then none
    else
      let s := s.setCtx r.ctx { c with trace := a }
      some { s with tiles := Map.mapVals (fun (x : Tile) =>
        { x with traceN := x.traceN.del r.ctx, traceLost := x.traceLost.del r.ctx }) s.tiles })

def execSampleset (r : HostReq) (s : State) : Out :=
  let p := (dword r 0).toNat
  facility s r 0x1F 8 ((1 ≤ p && p ≤ 9) || p > 24) (fun c s => some (s.setCtx r.ctx { c with sample := p }))

/-- R358, R360: the record of the instruction that a tile issued in this cycle. -/
def State.sampleWords (s : State) (t : Nat) (i : Issued) : List Word :=
  [ BitVec.ofNat 64 (i.tid.toNat + i.kin % 2 ^ 20 * 2 ^ 32 + i.slot % 16 * 2 ^ 52 + 9 * 2 ^ 56),
    BitVec.ofNat 64 ((s.name t).toNat + (s.wall9 / 9) % 2 ^ 40 * 2 ^ 24),
    i.pc, BitVec.ofNat 64 (i.ready % 32 + i.elig % 32 * 2 ^ 8) ]

/-- R360: a sample of the instruction that the tile issued in a cycle in which `cyc` mod 2^p = 0. -/
def execSample (t : Nat) (s : State) : Out :=
  let x := s.tile t
  match x.issued with
  | none => .fault .notEnabled
  | some i => onEvent s (s.sampleDue t) ((s.setTile t { x with issued := none }).pushTrace t i.ctx (s.sampleWords t i))

/-! ### The counter grid (R361-R363) -/

def execGridset (r : HostReq) (s : State) : Out :=
  let a := dword r 0
  let u := if dword r 1 = 0#64 then 100 else (dword r 1).toNat
  mgmt s r 0x20 false true (some 16) (u < 10 || u > 10000) (fun s =>
    if a ≠ 0#64 ∧ !s.recordsFit r.ctx a 2162688 then s.mgmtAnswer r 0x20 Status.badArg 0 []
    else ({ s with gridObj := a, gridCtx := r.ctx, gridUs := u } : State).mgmtAnswer r 0x20 Status.done 0 [])

/-- R362: the flags byte of a site, whose tile is `x` where it holds one: relock, a neighbour fenced, the spill ring, the waiter
overflow. -/
def State.gridFlags (s : State) (p : Nat) (x : Option Tile) : Nat :=
  let b (q : Bool) (n : Nat) : Nat := if q then 2 ^ n else 0
  b ((s.siteGrid p).relockSeen || x.any (fun x => x.relock)) 3 + b ((siteNeighbours p).any s.fencedSites.contains) 2 + b (x.any (fun x => !x.ring.isEmpty)) 1 +
    b (x.any (fun x => !x.spilled.isEmpty)) 0

/-- R361: the flits and the stalls of pair `i` in an interval of `n` cycles: how the traffic fell in it is a draw (log 52), and their
sum is at most `n`. -/
def gridPair (draw i n : Nat) : Word :=
  let f := (Config.freeCount draw (2 * i)).toNat % (n + 1)
  let w := (Config.freeCount draw (2 * i + 1)).toNat % (n - f + 1)
  BitVec.ofNat 64 (f + w * 2 ^ 32)

/-- R361, R362: the resends of ports N, E, S and W, each saturating at 255. -/
def resendBytes (l : List Nat) : Nat := (List.range 4).foldl (fun v k => v + min 255 (l.getD k 0) * 256 ^ k) 0

/-- R362: the record of an interval: 30 pairs of a router's counters, the tile's counts, the CRC resends and the flags. -/
def State.gridRecord (s : State) (p draw : Nat) : List Word :=
  let x := (s.tileAt p).map s.tile
  let g := s.siteGrid p
  let issued := match x with
    | some x => x.issuedN
    | none => 0
  (List.range 30).map (fun i => gridPair draw i (s.now - g.at_)) ++
  [BitVec.ofNat 64 (issued % 2 ^ 32 + (s.now - g.at_ - issued) % 2 ^ 32 * 2 ^ 32),
   BitVec.ofNat 64 (resendBytes g.resends + g.seq.toNat * 2 ^ 32 + s.gridFlags p x * 2 ^ 48)]

/-- R363: the counters of a site are latched and zeroed; the record waits for those before it, and else its first phase goes out. -/
def State.gridLatch (s : State) (p : Nat) : State :=
  let (i, s) := s.draw
  let l := s.gridRecord p i
  let g := s.siteGrid p
  let s : State := { s with grids := s.grids.put p { g with
    at_ := s.now, seq := g.seq + 1#16, resends := [0, 0, 0, 0], relockSeen := false, recs := g.recs ++ [l] } }
  let s := match s.tileAt p with
    | some t => s.modTile t (fun x => { x with issuedN := 0 })
    | none => s
  if g.recs.isEmpty then s.gridSend p 1 else s

def execGridInterval (site : Nat) (s : State) : Out := onEvent s (s.gridOpen site) (s.gridLatch site)

end Sys2Proof.Machine
end

