-- ==== Sys2Proof/Machine/Seam.lean ====
section
/-! DEFINITION. `seam` (R143) and the sequence that follows it on the tile (R314-R322, R325). -/

namespace Sys2Proof.Machine

/-! ### Shapes and inheritance (R316, R318) -/

/-- R318: the configured buffers of a team position whose macros are all inherited. -/
def Tile.keptBufs (x : Tile) (p : Nat) (mask : BitVec 256) : List Nat :=
  (List.range 16).filter (fun b => let c := x.buf b
    c.owner == some p && (match c.cfg with | some w => (bufMacros w).all (fun m => mask.getLsbD m) | none => false))

/-- The bits set in a mask, ascending. -/
def maskBits (mask : BitVec 256) : List Nat := (List.range 256).filter (fun m => mask.getLsbD m)

/-- R316 step 1: s and sb, the macros and buffers that a successor must declare. -/
def Tile.seamShape (x : Tile) (p : Nat) (tm : Team) (mask : BitVec 256) : Nat × Nat :=
  (match (maskBits mask).getLast? with | some m => m - tm.fmac + 1 | none => 0,
   match (x.keptBufs p mask).getLast? with | some b => b - tm.fcb + 1 | none => 0)

/-- R143: the mask's bytes at `a`: little-endian, bit i of the 256. -/
def State.seamMask (s : State) (t : Nat) (a : Word) : BitVec 256 :=
  (List.range 4).foldr (fun i (acc : BitVec 256) =>
    (acc <<< 64) ||| ((s.spadRead t (a + BitVec.ofNat 64 (8 * i))).1).zeroExtend 256) 0#256

/-- R319: `seamin`. -/
def seamInOf (i : Nat) (m : BitVec 9) : BitVec 12 := BitVec.ofNat 12 (i % 4 * 1024 + 512 + m.toNat)

/-- R319: the registers of a mask, the others zero. -/
def keepRegs (m : BitVec 9) (r : Regs) : Regs :=
  let k (i : Nat) (v : Word) : Word := if m.getLsbD i then v else 0#64
  { w0 := k 0 r.w0, w1 := k 1 r.w1, w2 := k 2 r.w2, w3 := k 3 r.w3, w4 := k 4 r.w4, w5 := k 5 r.w5, w6 := k 6 r.w6, w7 := k 7 r.w7 }

/-- R302, R314: the first start of a successor reads its own successor entries. -/
def State.startSucc (s : State) (kin : Nat) : State :=
  match s.insts.look kin with
  | none => s
  | some i =>
    if i.read then s
    else
      let (s, ks) := s.readEntries kin i.ctx i.rec_.succ
      let s := s.modInst kin (fun i => { i with read := true, succ := ks })
      ks.foldl (fun s k => if k = 0 then s else match s.installRoutes k s.routers with
        | some m => s.setRouted [k] m
        | none => s) s

/-- R316 step 3, R325: the sequence begins: the slot is FREE, the team belongs to the successor, and the counts follow. -/
def State.beginSeam (s : State) (t k idx : Nat) (m : BitVec 9) (mask : BitVec 256) (tm : Team) : State :=
  let sl := s.slot t k
  let p := sl.team
  let kin := tm.succ.getD idx 0
  let prio := match s.insts.look kin with | some i => i.rec_.prio | none => 0
  let thr := match s.insts.look kin with | some i => i.rec_.thr | none => 0
  let s := s.emit t k 5 (m.zeroExtend 64)
  let s := (s.releaseHandles t sl.th tm.kin).fall tm.kin
  let s := s.vacate t k
  let n := (s.tile t).serial
  let s := s.modTile t (fun x => { x with serial := n + 1 })
  let s := s.modTeam t p (fun tm => { tm with
    kin := kin, prio := prio, serial := n, succ := [], seam := some (4, mask, tm.nmac, tm.ncb), seamRegs := keepRegs m sl.th.regs,
    seamAcc := if m.getLsbD 8 then sl.th.acc else 0#64, seamIn := seamInOf idx m })
  let s := s.modInst tm.kin (fun i => { i with teams := i.teams - 1 })
  let s := s.modInst kin (fun i => { i with live := i.live + thr, teams := i.teams + 1, admitted := i.admitted + 1, started := true })
  let s := s.startSucc kin
  if s.killedInst kin then s.killSeams kin t else s

/-- R143, R316 steps 1 and 2, once the thread is alone and its release is complete. DEDUCED (log 111): the mask's macro is waited for
while it loads or scrubs, as by an access (R116), and a poisoned word of the mask is read as its bytes, since R145 names no UE. -/
def State.seamNow (s : State) (t k idx : Nat) (a : Word) (m : BitVec 9) (tm : Team) : State :=
  let x := s.tile t
  let p := (s.slot t k).team
  if !x.settled (macroOf a) || (x.mac (macroOf a)).due then s.modSlot t k (fun sl => sl.waitFor (.mac (macroOf a)))
  else
    let mask := s.seamMask t a
    match (maskBits mask).find? (fun b => !macroOwned x p b) with
    | some b => s.raise t k FaultCode.perm a (BitVec.ofNat 64 b)
    | none =>
      let (n, nb) := x.seamShape p tm mask
      match s.insts.look (tm.succ.getD idx 0) with
      | none => s.raise t k FaultCode.seamShape a 0#64
      | some i =>
        if i.rec_.nmac < n || i.rec_.ncb < nb then s.raise t k FaultCode.seamShape a 1#64
        else s.beginSeam t k idx m mask tm

/-- R143, R214: the checks at issue, the wait for the team to empty, the release, the wait on the handles, and the seam. DEDUCED
(log 110): a team without successor entries, which has no macros either, raises SEAMSHAPE before PERM (R315). -/
def execSeam (a : Ptr) (m : BitVec 9) (s1 : BitVec 2) (c : Scope) (s : State) : Out :=
  onIssue s (fun t k sl s => s.notService t k (.seam a m s1 c) (fun s =>
    let w := sl.th.regs.get a
    let p := sl.team
    match (s.tile t).teams.look p with
    | none => s.raise t k FaultCode.seamShape w 0#64
    | some tm =>
      if w.toNat % 32 ≠ 0 then s.raise t k FaultCode.align w 0#64
      else if bits w 63 22 ≠ 0 then s.raise t k FaultCode.bounds w 0#64
      else if tm.succ.isEmpty then s.raise t k FaultCode.seamShape w 0#64
      else if !macroOwned (s.tile t) p (macroOf w) then s.raise t k FaultCode.perm w 0#64
      else if tm.succ.getD s1.toNat 0 = 0 then s.raise t k FaultCode.seamShape w 0#64
      else if (List.range 16).any (fun j => j != k && s.member t p j) then s.modSlot t k (fun sl => sl.waitFor .alone)
      else s.release t k c false (fun s => s.drain t k (fun s => s.seamNow t k s1.toNat w m tm))))

/-! ### Stranded commands (R321) -/

/-- The macros and the buffers that a command names: block, linked blocks, program, regions, weights, endpoints, slots. -/
def State.cmdTouch (s : State) (t : Nat) (r : Run) : List Nat × List Nat :=
  let c := r.cmd
  let b := (s.readBlock t c.block).1
  let held := r.taken.map Prod.fst
  match c.op with
  | .stn | .unstn | .mfmt => (c.group, [])
  | .bfly | .bchain =>
    let bs := if !r.blocks.isEmpty then r.blocks else if c.op = .bfly then [b]
      else match s.chainBlocks t r.pos 12 c.block 0 [] with
        | .ok l => l
        | .error _ => [b]
    let gs := bs.map (fun l => stageOf l c.st)
    (macroOf c.block :: (bs.filterMap (fun l => if c.op = .bchain ∧ blk l 6 ≠ 0#64 then some (macroOf (blk l 6)) else none)) ++
      s.bfeNamed t bs c.st, (gs.filter (·.cb)).map (·.cbn) ++ held)
  | .cbcfg => (macroOf c.block :: bufMacros (blk b 0), held)
  | .cpy | .cring | .csend | .cred | .cbcast =>
    let j := cpJob (r.blocks.getD 0 b) c.st
    let away := c.op = .csend ∨ c.op = .cbcast
    (macroOf c.block :: s.sourceMacros t c.op j ++ s.rowsMacros t c.op j 0,
     (if j.dk = 2 ∧ !away then [j.cbn] else []) ++ held)
  | .nrcopy | .nrzero | .nbcopy | .ngemv => ([macroOf c.block], held)
  | .nexpr => ([macroOf c.block, macroOf (blk (r.blocks.getD 0 b) 6)], held)

/-- R321: the commands of a team, running, stopped and queued. -/
def Tile.commands (x : Tile) (p : Nat) (tm : Team) : List Run :=
  ([x.runAt .bfe p, x.runAt .cpe p, x.runAt .nme p, tm.runB, tm.runC, tm.runN].filterMap id) ++
  (tm.bfe.q ++ tm.cpe.q ++ tm.nme.q).map (fun c => { pos := p, cmd := c })

def State.stranded (s : State) (t p : Nat) (tm : Team) (mask : BitVec 256) : Bool :=
  let x := s.tile t
  let kept := x.keptBufs p mask
  (x.commands p tm).any (fun r =>
    let (ms, bs) := s.cmdTouch t r
    ms.any (fun m => !mask.getLsbD m) || bs.any (fun b => !kept.contains b))

/-! ### Steps 5 to 8 (R316) -/

/-- R316 step 5: uninherited macros are scrubbed, inside the new run under their position and outside it freed; uninherited
buffers are deconfigured. -/
def Tile.seamScrub (x : Tile) (p : Nat) (tm : Team) (mask : BitVec 256) (l : Launch) : Tile :=
  let kept := x.keptBufs p mask
  let gone := (List.range 256).filter (fun m => (x.mac m).owner == some p && !mask.getLsbD m)
  let x := x.dueScrub gone
  { x with
    macros := x.macros.zipIdx.map (fun (e : Macro × Nat) =>
      if e.1.owner = some p ∧ e.2 ≥ tm.fmac + l.nmac then { e.1 with owner := none } else e.1)
    bufs := x.bufs.zipIdx.map (fun (e : CBuf × Nat) =>
      if e.1.owner ≠ some p ∨ kept.contains e.2 then e.1
      else if e.2 < tm.fcb + l.ncb then { owner := some p } else {})
    teams := x.teams.put p { tm with nmac := min tm.nmac l.nmac, ncb := min tm.ncb l.ncb,
                                     seam := tm.seam.map (fun q => (6, q.2)) } }

/-- R316 step 6: the macros and buffers that the predecessor did not have. -/
def Tile.seamClaim (x : Tile) (p : Nat) (tm : Team) (l : Launch) : Tile :=
  let x := x.give p (tm.fmac + tm.nmac) (l.nmac - tm.nmac) (tm.fcb + tm.ncb) (l.ncb - tm.ncb)
  { x with teams := x.teams.put p { tm with nmac := l.nmac, ncb := l.ncb, seam := tm.seam.map (fun q => (7, q.2)) } }

/-- R316 step 8, R319: the successor's threads start. -/
def State.seamStart (s : State) (t p : Nat) (tm : Team) (i : Inst) : State :=
  let s := s.modTeam t p (fun tm => { tm with seam := none, succ := i.succ })
  s.startThreads t p tm.kin i.ctx i.rec_ (fun th => { th with regs := tm.seamRegs, acc := tm.seamAcc, seamin := tm.seamIn })

/-- R317: whether a team held at seam, that has reached step `n`, stands ahead of the one at position `p`: of a higher class, or
of its class at a lower position. -/
def seamAhead (p : Nat) (tm : Team) (n : Nat) (e : Nat × Team) : Bool :=
  e.1 != p && e.2.seamStep == some n && (e.2.prio > tm.prio || (e.2.prio == tm.prio && e.1 < p))

/-- R306, R317: whether steps 6 and 7 of a team held at seam may take what they need: no admission order of a higher class
waits. -/
def Tile.seamTurn (x : Tile) (tm : Team) : Bool := !x.orderAhead tm.prio

/-- R316, R317: the slots that step 7 leaves to the teams ahead of it. -/
def State.seamSlots (s : State) (t p : Nat) (tm : Team) : Nat :=
  ((s.tile t).teams.filter (seamAhead p tm 7)).foldl (fun n e => n + s.thrOn t e.2.kin) (s.thrOn t tm.kin)

/-- R318: whether an incoming transfer fills a slot of a buffer that is not inherited. -/
def Tile.seamFills (x : Tile) (p : Nat) (mask : BitVec 256) : Bool :=
  let kept := x.keptBufs p mask
  x.recvs.any (fun r => r.pos == p && !r.dead && (match r.buf with | some b => !kept.contains b | none => false))

/-- R316, R317: the next step of a team held at seam, where it can be taken. -/
def State.seamNext (s : State) (t p : Nat) (tm : Team) (i : Inst) : Option State :=
  let x := s.tile t
  let l := i.rec_
  match tm.seam with
  | some (4, mask, _, _) =>
    if s.stranded t p tm mask || x.seamFills p mask then none else some (s.setTile t (x.seamScrub p tm mask l))
  | some (6, _, _, _) =>
    if x.seamTurn tm && !x.teams.any (seamAhead p tm 6) && x.macrosFree (tm.fmac + tm.nmac) (l.nmac - tm.nmac) && x.bufsFree (tm.fcb + tm.ncb) (l.ncb - tm.ncb) then
      some (s.setTile t (x.seamClaim p tm l))
    else none
  | some (7, _, _, _) =>
    if x.seamTurn tm && s.freeSlots t ≥ s.seamSlots t p tm && i.succReady then some (s.seamStart t p tm i) else none
  | _ => none

def execSeamSequence (t p : Nat) (s : State) : Out :=
  match (s.tile t).teams.look p with
  | none => .fault .notEnabled
  | some tm =>
    if tm.closed || (s.tile t).shut then .fault .notEnabled
    else match s.insts.look tm.kin with
      | none => .fault .notEnabled
      | some i => match s.seamNext t p tm i with
        | none => .fault .notEnabled
        | some s => .next s

end Sys2Proof.Machine
end

