-- ==== Sys2Proof/Machine/Auto.lean ====
section
/-! DEFINITION. The meaning of each step that the module takes of itself: the meaning `exec` gives its constructor. -/

namespace Sys2Proof.Machine

def runAuto (i : Auto) (s : State) : Out :=
  match i with
  | .waitResume t k => execWaitResume t k s
  | .mergingFill t k => execMergingFill t k s
  | .migrationDeparture t k => execMigrationDeparture t k s
  | .loadDepartureTimeout t k => execLoadDepartureTimeout t k s
  | .qstallTimeout t k => execQstallTimeout t k s
  | .childFlitTimeout t k => execChildFlitTimeout t k s
  | .spawnRetry t k => execSpawnRetry t k s
  | .migrationFlit n => execMigrationFlit n s
  | .slotGrant t => execSlotGrant t s
  | .ringToQueue t => execRingToQueue t s
  | .waiterUnspill t => execWaiterUnspill t s
  | .parkRetry t k => execParkRetry t k s
  | .remoteReadRequest n => execRemoteReadRequest n s
  | .atomicRequest n => execAtomicRequest n s
  | .peerWindowLoad n => execPeerWindowLoad n s
  | .trackerQuery n => execTrackerQuery n s
  | .trackerRelease n => execTrackerRelease n s
  | .placementRequest n => execPlacementRequest n s
  | .directoryFillRequest n => execDirectoryFillRequest n s
  | .directoryInvalidate n => execDirectoryInvalidate n s
  | .serviceRequest n => execServiceRequest n s
  | .readData n => execReadData n s
  | .atomicResult n => execAtomicResult n s
  | .writeAcknowledgement n => execWriteAcknowledgement n s
  | .trackerAnswer n => execTrackerAnswer n s
  | .admissionAnswer n => execAdmissionAnswer n s
  | .directoryFill n => execDirectoryFill n s
  | .staleReturn n => execStaleReturn n s
  | .serviceAnswer n => execServiceAnswer n s
  | .routeSlotGrant n => execRouteSlotGrant n s
  | .storeWrite n => execStoreWrite n s
  | .stfWrite n => execStfWrite n s
  | .nrAtomicWrite n => execNrAtomicWrite n s
  | .exitJDecrement n => execExitJDecrement n s
  | .peerWindowStore n => execPeerWindowStore n s
  | .copyReadRequest n => execCopyReadRequest n s
  | .copyReadData n => execCopyReadData n s
  | .copyWrite n => execCopyWrite n s
  | .copyWriteAcknowledgement n => execCopyWriteAcknowledgement n s
  | .counterGridStore n => execCounterGridStore n s
  | .routeDataFlit n => execRouteDataFlit n s
  | .routeLastFlit n => execRouteLastFlit n s
  | .commandStart t e => execCommandStart t e s
  | .butterflyStageEnd t => execButterflyStageEnd t s
  | .macroControlEnd t => execMacroControlEnd t s
  | .copyRowEnd t => execCopyRowEnd t s
  | .nmeOperationEnd t => execNmeOperationEnd t s
  | .bufferSlotTake t => execBufferSlotTake t s
  | .copySlotTake t => execCopySlotTake t s
  | .scrubStart t m => execScrubStart t m s
  | .scrubEnd t m => execScrubEnd t m s
  | .teamRetire t p => execTeamRetire t p s
  | .faultMessage n => execFaultMessage n s
  | .serviceMessage n => execServiceMessage n s
  | .droppedAnswerRequest n => execDroppedAnswerRequest n s
  | .launchReady kin => execLaunchReady kin s
  | .launchRelease kin => execLaunchRelease kin s
  | .fieldLaunch f kin => execFieldLaunch f kin s
  | .admissionOrder t kin => execAdmissionOrder t kin s
  | .teamAdmission t => execTeamAdmission t s
  | .preemptionDecision t => execPreemptionDecision t s
  | .quiesce t p => execQuiesce t p s
  | .quiesceAcknowledge t => execQuiesceAcknowledge t s
  | .restore t a => execRestore t a s
  | .liveCountReport => execLiveCountReport s
  | .instanceComplete kin => execInstanceComplete kin s
  | .freeSlotUpdate t => execFreeSlotUpdate t s
  | .seamSequence t p => execSeamSequence t p s
  | .successorReady kin => execSuccessorReady kin s
  | .extentDrainComplete t i => execExtentDrainComplete t i s
  | .heldPacketResend n => execHeldPacketResend n s
  | .dusk t => execDusk t s
  | .lossyDusk t => execLossyDusk t s
  | .modeChangeComplete => execModeChangeComplete s
  | .vectorPassEnd t => execVectorPassEnd t s
  | .clockRelock t => execClockRelock t s
  | .clockParentSwitch p => execClockParentSwitch p s
  | .sample t => execSample t s
  | .livenessSweep => execLivenessSweep s
  | .powerCheck =>
    let (i, s) := s.draw
    execPowerCheck (Config.inputPower i) s
  | .gridInterval p => execGridInterval p s
  | .freeCountRefresh => execFreeCountRefresh s
  | .errcount t => execErrcount t s

end Sys2Proof.Machine
end

