-- ==== Sys2Proof/Machine/Boundary.lean ====
section
/-! DEFINITION. What happens at an instruction boundary or in decoding in place of an instruction: ILLEGAL (R64), HBEAT
(R141, R218), a code breakpoint (R355). -/

namespace Sys2Proof.Machine

/-- R64, R258: ILLEGAL carries the offending word, or the first XW of the run, in its extra word. -/
def execIllegal (w : BitVec 32) (s : State) : Out := raiseCur s FaultCode.illegal 0#64 (w.zeroExtend 64)

/-- The exponent k of a slot's kernel (R141, R218). -/
def State.hkOf (s : State) (t k : Nat) : Nat :=
  match s.insts.look (s.slot t k).th.kin with
  | some i => i.rec_.hk
  | none => 16

/-- R141, R218: a READY thread at a boundary with no budget left takes HBEAT with k in its extra word. -/
def execHbeatExpiry (t k : Nat) (s : State) : Out :=
  onEvent s (s.hbeatDue t k)
    (s.raise t k FaultCode.hbeat 0#64 (BitVec.ofNat 64 (s.hkOf t k)))

/-- R355: a READY thread whose `pc` equals a comparator of its context raises BRK before it issues. -/
def execBreakpointMatch (t k : Nat) (s : State) : Out :=
  let sl := s.slot t k
  let j := match s.ctxs.look sl.th.ctx with
    | none => none
    | some c => firstIdx (fun a => a != 0#64 && a == sl.th.pc) c.brk
  match j with
  | none => .fault .notEnabled
  | some j => onEvent s (sl.state == .ready && !s.barred t k && sl.atBoundary && !sl.brkSkip)
      (s.raise t k FaultCode.brk 0#64 (BitVec.ofNat 64 (j + 5 * 2 ^ 10)))

end Sys2Proof.Machine
end

