-- ==== Sys2Proof/Machine/Alu.lean ====
section
/-! DEFINITION. Integer, immediate, wide-constant, bitfield and integer accumulator instructions (R78-R89). -/

namespace Sys2Proof.Machine

/-- R82: the result of a `.w` form is its 32 bits sign-extended. -/
def narrow (w : Bool) (x : Word) : Word := if w then (x.extractLsb' 0 32).signExtend 64 else x

/-- A form `op rd, ra, rb` on 64-bit values. -/
def op2 (s : State) (d a b : Reg) (f : Word → Word → Word) : Out :=
  onThread s (fun sl => sl.th.setReg d (f (sl.th.reg a) (sl.th.reg b)))

/-- A form `op rd, ra, rb` with a `.w` form on bits 31:0. -/
def op2w (s : State) (d a b : Reg) (w : Bool) (f : Word → Word → Word) (g : BitVec 32 → BitVec 32 → BitVec 32) : Out :=
  op2 s d a b (fun x y => if w then (g (x.extractLsb' 0 32) (y.extractLsb' 0 32)).signExtend 64 else f x y)

/-- A form `op rd, ra`. -/
def op1 (s : State) (d a : Reg) (f : Word → Word) : Out := onThread s (fun sl => sl.th.setReg d (f (sl.th.reg a)))

def boolWord (b : Bool) : Word := if b then 1#64 else 0#64

/-- R83: quotient and remainder at width N, with the results for a zero divisor and the overflowing quotient. -/
def divSigned {n : Nat} (a b : BitVec n) : BitVec n := if b = 0#n then BitVec.allOnes n else BitVec.sdiv a b
def remSigned {n : Nat} (a b : BitVec n) : BitVec n := if b = 0#n then a else BitVec.srem a b
def divUnsigned {n : Nat} (a b : BitVec n) : BitVec n := if b = 0#n then BitVec.allOnes n else a / b
def remUnsigned {n : Nat} (a b : BitVec n) : BitVec n := if b = 0#n then a else a % b

def execAdd (d a b : Reg) (w : Bool) (s : State) : Out := op2w s d a b w (· + ·) (· + ·)
def execSub (d a b : Reg) (w : Bool) (s : State) : Out := op2w s d a b w (· - ·) (· - ·)
def execAnd (d a b : Reg) (s : State) : Out := op2 s d a b (· &&& ·)
def execOr (d a b : Reg) (s : State) : Out := op2 s d a b (· ||| ·)
def execXor (d a b : Reg) (s : State) : Out := op2 s d a b (· ^^^ ·)
def execSll (d a b : Reg) (w : Bool) (s : State) : Out :=
  op2w s d a b w (fun x y => x <<< (y.toNat % 64)) (fun x y => x <<< (y.toNat % 32))
def execSrl (d a b : Reg) (w : Bool) (s : State) : Out :=
  op2w s d a b w (fun x y => x >>> (y.toNat % 64)) (fun x y => x >>> (y.toNat % 32))
def execSra (d a b : Reg) (w : Bool) (s : State) : Out :=
  op2w s d a b w (fun x y => x.sshiftRight (y.toNat % 64)) (fun x y => x.sshiftRight (y.toNat % 32))
def execSlt (d a b : Reg) (s : State) : Out := op2 s d a b (fun x y => boolWord (x.slt y))
def execSltu (d a b : Reg) (s : State) : Out := op2 s d a b (fun x y => boolWord (x.ult y))
def execMin (d a b : Reg) (s : State) : Out := op2 s d a b (fun x y => if x.slt y then x else y)
def execMax (d a b : Reg) (s : State) : Out := op2 s d a b (fun x y => if x.slt y then y else x)
def execMinu (d a b : Reg) (s : State) : Out := op2 s d a b (fun x y => if x.ult y then x else y)
def execMaxu (d a b : Reg) (s : State) : Out := op2 s d a b (fun x y => if x.ult y then y else x)
def execMul (d a b : Reg) (w : Bool) (s : State) : Out := op2w s d a b w (· * ·) (· * ·)
def execMulh (d a b : Reg) (s : State) : Out :=
  op2 s d a b (fun x y => (x.signExtend 128 * y.signExtend 128).extractLsb' 64 64)
def execMulhu (d a b : Reg) (s : State) : Out :=
  op2 s d a b (fun x y => (x.zeroExtend 128 * y.zeroExtend 128).extractLsb' 64 64)
def execDiv (d a b : Reg) (w : Bool) (s : State) : Out := op2w s d a b w divSigned divSigned
def execDivu (d a b : Reg) (w : Bool) (s : State) : Out := op2w s d a b w divUnsigned divUnsigned
def execRem (d a b : Reg) (w : Bool) (s : State) : Out := op2w s d a b w remSigned remSigned
def execRemu (d a b : Reg) (w : Bool) (s : State) : Out := op2w s d a b w remUnsigned remUnsigned

/-! ### Immediates (R84-R87) -/

/-- A form `op rd, ra, imm`; the immediate depends on the pending XW payloads. -/
def opImm (s : State) (d a : Reg) (f : List (BitVec 25) → Word → Word) : Out :=
  onThread s (fun sl => sl.th.setReg d (f sl.ext (sl.th.reg a)))

def execAddi (d a : Reg) (i : BitVec 18) (s : State) : Out := opImm s d a (fun e x => x + immWord e i)
def execAndi (d a : Reg) (i : BitVec 18) (s : State) : Out := opImm s d a (fun e x => x &&& immWord e i)
def execOri (d a : Reg) (i : BitVec 18) (s : State) : Out := opImm s d a (fun e x => x ||| immUnsigned e i)
/-- R84: `xori` is unsigned without extension and signed with it. -/
def execXori (d a : Reg) (i : BitVec 18) (s : State) : Out :=
  opImm s d a (fun e x => x ^^^ (if e.isEmpty then immUnsigned e i else immWord e i))
def execSlti (d a : Reg) (i : BitVec 18) (s : State) : Out := opImm s d a (fun e x => boolWord (x.slt (immWord e i)))
def execSlli (d a : Reg) (k : BitVec 6) (s : State) : Out := op1 s d a (fun x => x <<< k.toNat)
def execSrli (d a : Reg) (k : BitVec 6) (s : State) : Out := op1 s d a (fun x => x >>> k.toNat)
def execSrai (d a : Reg) (k : BitVec 6) (s : State) : Out := op1 s d a (fun x => x.sshiftRight k.toNat)
def execMovi (d : Reg) (i : BitVec 22) (s : State) : Out := onThread s (fun sl => sl.th.setReg d (immWord sl.ext i))
/-- R87: the upper half replaced by the immediate's low 32 bits. -/
def execMovhi (d : Reg) (i : BitVec 22) (s : State) : Out :=
  onThread s (fun sl => sl.th.setReg d ((immWord sl.ext i <<< 32) ||| ((sl.th.reg d).extractLsb' 0 32).zeroExtend 64))

/-! ### Bitfields (R88) -/

def lowMask (n : Nat) : Word := BitVec.ofNat 64 (2 ^ n - 1)

def execBext (d a : Reg) (p l : BitVec 6) (s : State) : Out := op1 s d a (fun x => (x >>> p.toNat) &&& lowMask (l.toNat + 1))
def execBexts (d a : Reg) (p l : BitVec 6) (s : State) : Out :=
  op1 s d a (fun x => BitVec.ofInt 64 (sext (l.toNat + 1) (x >>> p.toNat).toNat))
def execBins (d a : Reg) (p l : BitVec 6) (s : State) : Out :=
  onThread s (fun sl =>
    let m := lowMask (l.toNat + 1) <<< p.toNat
    sl.th.setReg d ((sl.th.reg d &&& ~~~m) ||| ((sl.th.reg a <<< p.toNat) &&& m)))

/-- Leading zero bits among bits `n - 1` to 0, trailing zero bits from bit `i` up, and one bits. -/
def leadZeros (x : Word) : Nat → Nat
  | 0 => 0
  | n + 1 => if x.getLsbD n then 0 else leadZeros x n + 1
def trailZeros (x : Word) : Nat → Nat
  | 0 => 0
  | n + 1 => if x.getLsbD (63 - n) then 0 else trailZeros x n + 1
def oneBits (x : Word) : Nat → Nat
  | 0 => 0
  | n + 1 => (if x.getLsbD n then 1 else 0) + oneBits x n

def execClz (d a : Reg) (s : State) : Out := op1 s d a (fun x => BitVec.ofNat 64 (leadZeros x 64))
def execCtz (d a : Reg) (s : State) : Out := op1 s d a (fun x => BitVec.ofNat 64 (trailZeros x 64))
def execPopc (d a : Reg) (s : State) : Out := op1 s d a (fun x => BitVec.ofNat 64 (oneBits x 64))
def execBswap (d a : Reg) (s : State) : Out := op1 s d a (fun x => bytesWord (wordBytes x).reverse)

/-! ### Accumulator (R89) -/

def execMac (a b : Reg) (s : State) : Out :=
  onThread s (fun sl => { sl.th with acc := sl.th.acc + sl.th.reg a * sl.th.reg b })
def execMsb (a b : Reg) (s : State) : Out :=
  onThread s (fun sl => { sl.th with acc := sl.th.acc - sl.th.reg a * sl.th.reg b })

end Sys2Proof.Machine
end

