-- ==== Sys2Proof/Machine/Atomic.lean ====
section
/-! DEFINITION. Atomics and `acas` (R121-R125). -/

namespace Sys2Proof.Machine

/-- R104: a request that the slot waits for, REMOTE. -/
def State.atomAway (s : State) (t k dst gen : Nat) (d : Reg) (body : Body) : State :=
  (s.modSlot t k (fun sl => { sl with state := .remote, pend := .atomic d })).send
    { vc := 0, src := t, dst := dst, gen := gen, slot := k, body := body }

/-- R121-R125: a fetching atomic or `acas` (`op` none, compare value `c`). -/
def State.fetchAtom (s : State) (t k : Nat) (op : Option AtomOp) (wide rel : Bool) (sc : Scope) (a b c : Word) (d : Reg) : State :=
  let ctx := s.memCtx t k
  let body : Body := .atomicReq ctx a op wide b c
  s.access t k a (if wide then 8 else 4) true true
    (fun o s => s.releaseIf t k rel sc (fun s => s.atHome t k ctx a (fun s =>
      let (s, old, bad) := s.homeAtomic t ctx a op wide b c o.isUO
      if bad then s.poisoned t k a
      else s.modSlot t k (fun sl => { sl with th := sl.th.setReg d old, state := .ready }.finish))))
    (fun _ t' g s => s.releaseIf t k rel sc (fun s => s.atomAway t k t' g d body))
    (fun o s => s.releaseIf t k rel sc (fun s => s.atomAway t k (16384 + o.module) s.gen d body))

/-- R106, R113, R121: a `.nr` atomic. -/
def State.nrAtom (s : State) (t k : Nat) (op : AtomOp) (wide rel : Bool) (sc : Scope) (a b : Word) : State :=
  let ctx := s.memCtx t k
  s.access t k a (if wide then 8 else 4) true true
    (fun o s => s.releaseIf t k rel sc (fun s => s.atHome t k ctx a (fun s =>
      let (s, _, bad) := s.homeAtomic t ctx a (some op) wide b 0#64 o.isUO
      if bad then s.poisoned t k a else s.modSlot t k (fun sl => sl.stored none))))
    (fun o t' g s => s.releaseIf t k rel sc (fun s => s.sendWrite t k o t' g none (fun tr => .nrAtomic ctx a op wide b tr)))
    (fun o s => s.releaseIf t k rel sc (fun s =>
      s.sendWrite t k o (16384 + o.module) s.gen none (fun tr => .nrAtomic ctx a op wide b tr)))

/-- One form of the atomic group. -/
def atomic (s : State) (op : AtomOp) (d : Reg) (a : Ptr) (b : Reg) (n : Bool) (o : Sys2Proof.Order) (c : Scope) (wide : Bool) : Out :=
  onIssue s (fun t k sl s =>
    if n then s.nrAtom t k op wide (orderRel o) c (sl.th.regs.get a) (sl.th.reg b)
    else s.fetchAtom t k (some op) wide (orderRel o) c (sl.th.regs.get a) (sl.th.reg b) 0#64 d)

def execAadd (d : Reg) (a : Ptr) (b : Reg) (n : Bool) (o : Sys2Proof.Order) (c : Scope) (z : Bool) (s : State) : Out :=
  atomic s .add d a b n o c z
def execAand (d : Reg) (a : Ptr) (b : Reg) (n : Bool) (o : Sys2Proof.Order) (c : Scope) (z : Bool) (s : State) : Out :=
  atomic s .and d a b n o c z
def execAor (d : Reg) (a : Ptr) (b : Reg) (n : Bool) (o : Sys2Proof.Order) (c : Scope) (z : Bool) (s : State) : Out :=
  atomic s .or d a b n o c z
def execAxor (d : Reg) (a : Ptr) (b : Reg) (n : Bool) (o : Sys2Proof.Order) (c : Scope) (z : Bool) (s : State) : Out :=
  atomic s .xor d a b n o c z
def execAmin (d : Reg) (a : Ptr) (b : Reg) (n : Bool) (o : Sys2Proof.Order) (c : Scope) (z : Bool) (s : State) : Out :=
  atomic s .min d a b n o c z
def execAmax (d : Reg) (a : Ptr) (b : Reg) (n : Bool) (o : Sys2Proof.Order) (c : Scope) (z : Bool) (s : State) : Out :=
  atomic s .max d a b n o c z
def execAminu (d : Reg) (a : Ptr) (b : Reg) (n : Bool) (o : Sys2Proof.Order) (c : Scope) (z : Bool) (s : State) : Out :=
  atomic s .minu d a b n o c z
def execAmaxu (d : Reg) (a : Ptr) (b : Reg) (n : Bool) (o : Sys2Proof.Order) (c : Scope) (z : Bool) (s : State) : Out :=
  atomic s .maxu d a b n o c z
def execAswp (d : Reg) (a : Ptr) (b : Reg) (n : Bool) (o : Sys2Proof.Order) (c : Scope) (z : Bool) (s : State) : Out :=
  atomic s .swp d a b n o c z
def execAfadd (d : Reg) (a : Ptr) (b : Reg) (n : Bool) (o : Sys2Proof.Order) (c : Scope) (s : State) : Out :=
  atomic s .fadd d a b n o c false
def execAfmax (d : Reg) (a : Ptr) (b : Reg) (n : Bool) (o : Sys2Proof.Order) (c : Scope) (s : State) : Out :=
  atomic s .fmax d a b n o c false
def execAfmin (d : Reg) (a : Ptr) (b : Reg) (n : Bool) (o : Sys2Proof.Order) (c : Scope) (s : State) : Out :=
  atomic s .fmin d a b n o c false

/-- R124: the compare value is the destination register's. -/
def execAcas (d : Reg) (a : Ptr) (b : Reg) (o : Sys2Proof.Order) (c : Scope) (z : Bool) (s : State) : Out :=
  onIssue s (fun t k sl s =>
    s.fetchAtom t k none z (orderRel o) c (sl.th.regs.get a) (sl.th.reg b) (sl.th.reg d) d)

end Sys2Proof.Machine
end

