-- ==== Sys2Proof/Machine/Fp.lean ====
section
/-! DEFINITION. Scalar floating point, fused multiply-add, floating accumulator and conversion instructions (R79, R89-R96). -/

namespace Sys2Proof.Machine

/-- R79: an instruction that sets flags with its result, with the team's SR key at hand. -/
def onThreadKey (s : State) (f : BitVec 32 → Slot → Thread) : Out :=
  onThread s (f (s.srkey s.cur.1 s.cur.2))

/-- R90: a rounded result written with its flags; the upper half of a `.s` destination is zero. -/
def putFp (th : Thread) (dbl : Bool) (d : Reg) (r : Rnd) (v : Val) (fl : Flags) : Thread :=
  let (code, fl') := roundTo (fpFmt dbl) r v
  (th.setReg d (BitVec.ofNat 64 code)).orFlags (fl ||| fl')

/-- R91: a two-operand arithmetic form; `f` gets the rounding mode and the exact operand values. -/
def fp2 (s : State) (d a b : Reg) (p : Bool) (f : Nat → Val → Val → Val × Flags) : Out :=
  onThreadKey s (fun key sl =>
    let th := sl.th
    let r := f th.rm (fpVal p (th.reg a)) (fpVal p (th.reg b))
    putFp th p d (th.rnd key false (regCode d)) r.1 r.2)

def execFadd (d a b : Reg) (p : Bool) (s : State) : Out := fp2 s d a b p (fun rm x y => (addVal rm x y, Flags.none))
def execFsub (d a b : Reg) (p : Bool) (s : State) : Out := fp2 s d a b p (fun rm x y => (addVal rm x y.neg, Flags.none))
def execFmul (d a b : Reg) (p : Bool) (s : State) : Out := fp2 s d a b p (fun _ x y => (mulVal x y, Flags.none))
def execFdiv (d a b : Reg) (p : Bool) (s : State) : Out := fp2 s d a b p (fun _ x y => divVal x y)
def execFsqrt (d a : Reg) (p : Bool) (s : State) : Out := fp2 s d a .zr p (fun _ x _ => (sqrtVal x, Flags.none))

/-- R93: one operand bit for bit, or the canonical NaN. -/
def fpPick (s : State) (isMax : Bool) (d a b : Reg) (p : Bool) : Out :=
  onThread s (fun sl =>
    let th := sl.th
    let x := fpBits p (th.reg a)
    let y := fpBits p (th.reg b)
    match pickMinMax isMax ((fpFmt p).value x) ((fpFmt p).value y) with
    | .first => th.setReg d (BitVec.ofNat 64 x)
    | .second => th.setReg d (BitVec.ofNat 64 y)
    | .nan nv => (th.setReg d (BitVec.ofNat 64 (fpFmt p).nanCode)).orFlags (Flags.nvIf nv))

def execFmin (d a b : Reg) (p : Bool) (s : State) : Out := fpPick s false d a b p
def execFmax (d a b : Reg) (p : Bool) (s : State) : Out := fpPick s true d a b p

/-- R90, R94: the sign bit of a form. -/
def signMask (p : Bool) : Word := if p then 0x8000000000000000#64 else 0x80000000#64
def fpWord (p : Bool) (x : Word) : Word := if p then x else x &&& 0xFFFFFFFF#64

def execFabs (d a : Reg) (p : Bool) (s : State) : Out := op1 s d a (fun x => fpWord p x &&& ~~~signMask p)
def execFneg (d a : Reg) (p : Bool) (s : State) : Out := op1 s d a (fun x => fpWord p x ^^^ signMask p)

/-- R94: a comparison; `quiet` forms set NV for a signalling NaN only. -/
def compareVal (quiet : Bool) (test : Int → Bool) (x y : Val) : Bool × Flags :=
  if x.isNan || y.isNan then (false, Flags.nvIf (!quiet || x.isSig || y.isSig)) else (test (cmpVal x y), Flags.none)

def fpCmp (s : State) (d a b : Reg) (p quiet : Bool) (test : Int → Bool) : Out :=
  onThread s (fun sl =>
    let r := compareVal quiet test (fpVal p (sl.th.reg a)) (fpVal p (sl.th.reg b))
    (sl.th.setReg d (boolWord r.1)).orFlags r.2)

def execFeq (d a b : Reg) (p : Bool) (s : State) : Out := fpCmp s d a b p true (· == 0)
def execFlt (d a b : Reg) (p : Bool) (s : State) : Out := fpCmp s d a b p false (· < 0)
def execFle (d a b : Reg) (p : Bool) (s : State) : Out := fpCmp s d a b p false (· ≤ 0)

/-- R94: the class bit of a code. -/
def classBit (f : Fmt) (code : Nat) : Nat :=
  match f.value code with
  | .nan sig => if sig then 8 else 9
  | .inf neg => if neg then 0 else 7
  | .fin neg m _ =>
    if m = 0 then (if neg then 3 else 4)
    else if m < 2 ^ f.manBits then (if neg then 2 else 5)
    else if neg then 1 else 6

def execFclass (d a : Reg) (p : Bool) (s : State) : Out := op1 s d a (fun x => 1#64 <<< classBit (fpFmt p) (fpBits p x))

/-- R95: a fused form: `np` negates the product, `nz` the added term. -/
def fused (s : State) (d a b : Reg) (p np nz : Bool) : Out :=
  onThreadKey s (fun key sl =>
    let th := sl.th
    let x := fpVal p (th.reg a)
    let z := fpVal p (th.reg d)
    let v := fmaVal th.rm (if np then x.neg else x) (fpVal p (th.reg b)) (if nz then z.neg else z)
    putFp th p d (th.rnd key false (regCode d)) v Flags.none)

def execFma (d a b : Reg) (p : Bool) (s : State) : Out := fused s d a b p false false
def execFms (d a b : Reg) (p : Bool) (s : State) : Out := fused s d a b p false true
def execFnma (d a b : Reg) (p : Bool) (s : State) : Out := fused s d a b p true false
def execFnms (d a b : Reg) (p : Bool) (s : State) : Out := fused s d a b p true true

/-- R89: the fused accumulate into `acc`. -/
def accFused (s : State) (a b : Reg) (p : Bool) : Out :=
  onThreadKey s (fun key sl =>
    let th := sl.th
    let v := fmaVal th.rm (fpVal p (th.reg a)) (fpVal p (th.reg b)) (fpVal p th.acc)
    putFp th p .acc (th.rnd key false 8) v Flags.none)

def execFmacS (a b : Reg) (s : State) : Out := accFused s a b false
def execFmacD (a b : Reg) (s : State) : Out := accFused s a b true

/-! ### Conversion (R66, R96) -/

/-- R66: a scalar type is a floating-point format or an integer of some bits, signed or not. -/
def cvtKind : CvtType → Sum Fmt (Nat × Bool)
  | .s64 => .inr (64, true) | .n64 => .inr (64, false) | .s32 => .inr (32, true) | .n32 => .inr (32, false)
  | .f64 => .inl fp64 | .f32 => .inl fp32 | .bf16 => .inl bf16 | .f16 => .inl fp16 | .e4m3 => .inl e4m3 | .e5m2 => .inl e5m2

/-- R96: the exact value of a source, taken from the low end of its register. -/
def cvtSource (t : CvtType) (x : Word) : Val :=
  match cvtKind t with
  | .inl f => f.value (x.toNat % 2 ^ f.width)
  | .inr (n, sg) => intVal (if sg then sext n x.toNat else (x.toNat % 2 ^ n : Nat))

/-- R96: one rounding of the exact value into the destination type. -/
def cvtResult (t : CvtType) (r : Rnd) (v : Val) : Nat × Flags :=
  match cvtKind t with
  | .inl f => roundTo f r v
  | .inr (n, sg) =>
    let (x, fl) := roundInt (if sg then -(2 ^ (n - 1)) else 0) (if sg then 2 ^ (n - 1) - 1 else 2 ^ n - 1) r v
    (toField n x, fl)

def execCvt (d a : Reg) (t src : CvtType) (s : State) : Out :=
  onThreadKey s (fun key sl =>
    let (code, fl) := cvtResult t (sl.th.rnd key true (regCode d)) (cvtSource src (sl.th.reg a))
    (sl.th.setReg d (BitVec.ofNat 64 code)).orFlags fl)

end Sys2Proof.Machine
end

