-- ==== Sys2Proof/Machine/Dispatch.lean ====
section
/-! DEFINITION. One step of the opcode table: each constructor's meaning. -/

namespace Sys2Proof.Machine

def exec (i : Instr) (s : State) : Host.Outcome State Fault Refusal :=
  match i with
  | .add d a b w => Sys2Proof.Machine.execAdd d a b w s
  | .sub d a b w => Sys2Proof.Machine.execSub d a b w s
  | .and d a b => Sys2Proof.Machine.execAnd d a b s
  | .or d a b => Sys2Proof.Machine.execOr d a b s
  | .xor d a b => Sys2Proof.Machine.execXor d a b s
  | .sll d a b w => Sys2Proof.Machine.execSll d a b w s
  | .srl d a b w => Sys2Proof.Machine.execSrl d a b w s
  | .sra d a b w => Sys2Proof.Machine.execSra d a b w s
  | .slt d a b => Sys2Proof.Machine.execSlt d a b s
  | .sltu d a b => Sys2Proof.Machine.execSltu d a b s
  | .min d a b => Sys2Proof.Machine.execMin d a b s
  | .max d a b => Sys2Proof.Machine.execMax d a b s
  | .minu d a b => Sys2Proof.Machine.execMinu d a b s
  | .maxu d a b => Sys2Proof.Machine.execMaxu d a b s
  | .mul d a b w => Sys2Proof.Machine.execMul d a b w s
  | .mulh d a b => Sys2Proof.Machine.execMulh d a b s
  | .mulhu d a b => Sys2Proof.Machine.execMulhu d a b s
  | .div d a b w => Sys2Proof.Machine.execDiv d a b w s
  | .divu d a b w => Sys2Proof.Machine.execDivu d a b w s
  | .rem d a b w => Sys2Proof.Machine.execRem d a b w s
  | .remu d a b w => Sys2Proof.Machine.execRemu d a b w s
  | .addi d a imm => Sys2Proof.Machine.execAddi d a imm s
  | .andi d a imm => Sys2Proof.Machine.execAndi d a imm s
  | .ori d a imm => Sys2Proof.Machine.execOri d a imm s
  | .xori d a imm => Sys2Proof.Machine.execXori d a imm s
  | .slli d a k => Sys2Proof.Machine.execSlli d a k s
  | .srli d a k => Sys2Proof.Machine.execSrli d a k s
  | .srai d a k => Sys2Proof.Machine.execSrai d a k s
  | .slti d a imm => Sys2Proof.Machine.execSlti d a imm s
  | .movi d imm => Sys2Proof.Machine.execMovi d imm s
  | .movhi d imm => Sys2Proof.Machine.execMovhi d imm s
  | .mac a b => Sys2Proof.Machine.execMac a b s
  | .msb a b => Sys2Proof.Machine.execMsb a b s
  | .fmacS a b => Sys2Proof.Machine.execFmacS a b s
  | .fmacD a b => Sys2Proof.Machine.execFmacD a b s
  | .fadd d a b p => Sys2Proof.Machine.execFadd d a b p s
  | .fsub d a b p => Sys2Proof.Machine.execFsub d a b p s
  | .fmul d a b p => Sys2Proof.Machine.execFmul d a b p s
  | .fdiv d a b p => Sys2Proof.Machine.execFdiv d a b p s
  | .fsqrt d a p => Sys2Proof.Machine.execFsqrt d a p s
  | .fmin d a b p => Sys2Proof.Machine.execFmin d a b p s
  | .fmax d a b p => Sys2Proof.Machine.execFmax d a b p s
  | .fabs d a p => Sys2Proof.Machine.execFabs d a p s
  | .fneg d a p => Sys2Proof.Machine.execFneg d a p s
  | .feq d a b p => Sys2Proof.Machine.execFeq d a b p s
  | .flt d a b p => Sys2Proof.Machine.execFlt d a b p s
  | .fle d a b p => Sys2Proof.Machine.execFle d a b p s
  | .fclass d a p => Sys2Proof.Machine.execFclass d a p s
  | .fma d a b p => Sys2Proof.Machine.execFma d a b p s
  | .fms d a b p => Sys2Proof.Machine.execFms d a b p s
  | .fnma d a b p => Sys2Proof.Machine.execFnma d a b p s
  | .fnms d a b p => Sys2Proof.Machine.execFnms d a b p s
  | .cvt d a t s1 => Sys2Proof.Machine.execCvt d a t s1 s
  | .bext d a p l => Sys2Proof.Machine.execBext d a p l s
  | .bexts d a p l => Sys2Proof.Machine.execBexts d a p l s
  | .bins d a p l => Sys2Proof.Machine.execBins d a p l s
  | .clz d a => Sys2Proof.Machine.execClz d a s
  | .ctz d a => Sys2Proof.Machine.execCtz d a s
  | .popc d a => Sys2Proof.Machine.execPopc d a s
  | .bswap d a => Sys2Proof.Machine.execBswap d a s
  | .beq a b f => Sys2Proof.Machine.execBeq a b f s
  | .bne a b f => Sys2Proof.Machine.execBne a b f s
  | .blt a b f => Sys2Proof.Machine.execBlt a b f s
  | .bge a b f => Sys2Proof.Machine.execBge a b f s
  | .bltu a b f => Sys2Proof.Machine.execBltu a b f s
  | .bgeu a b f => Sys2Proof.Machine.execBgeu a b f s
  | .bz a f => Sys2Proof.Machine.execBz a f s
  | .bnz a f => Sys2Proof.Machine.execBnz a f s
  | .bltz a f => Sys2Proof.Machine.execBltz a f s
  | .bgez a f => Sys2Proof.Machine.execBgez a f s
  | .bgtz a f => Sys2Proof.Machine.execBgtz a f s
  | .blez a f => Sys2Proof.Machine.execBlez a f s
  | .jmp f => Sys2Proof.Machine.execJmp f s
  | .jal f => Sys2Proof.Machine.execJal f s
  | .jr a => Sys2Proof.Machine.execJr a s
  | .jalr d a => Sys2Proof.Machine.execJalr d a s
  | .dbnz a f => Sys2Proof.Machine.execDbnz a f s
  | .ld d b z m o c f => Sys2Proof.Machine.execLd d b z m o c f s
  | .lds d b z m o c f => Sys2Proof.Machine.execLds d b z m o c f s
  | .st d b z m o c f => Sys2Proof.Machine.execSt d b z m o c f s
  | .sts d b z m o c f => Sys2Proof.Machine.execSts d b z m o c f s
  | .ldx d a b z o c => Sys2Proof.Machine.execLdx d a b z o c s
  | .ldsx d a b z o c => Sys2Proof.Machine.execLdsx d a b z o c s
  | .stx d a b z o c => Sys2Proof.Machine.execStx d a b z o c s
  | .stsx d a b z o c => Sys2Proof.Machine.execStsx d a b z o c s
  | .ldf d b o c f => Sys2Proof.Machine.execLdf d b o c f s
  | .ldfs d b o c f => Sys2Proof.Machine.execLdfs d b o c f s
  | .stf d b o c f => Sys2Proof.Machine.execStf d b o c f s
  | .stfs d b o c f => Sys2Proof.Machine.execStfs d b o c f s
  | .ldr d b z o c f => Sys2Proof.Machine.execLdr d b z o c f s
  | .aadd d a b n o c z => Sys2Proof.Machine.execAadd d a b n o c z s
  | .aand d a b n o c z => Sys2Proof.Machine.execAand d a b n o c z s
  | .aor d a b n o c z => Sys2Proof.Machine.execAor d a b n o c z s
  | .axor d a b n o c z => Sys2Proof.Machine.execAxor d a b n o c z s
  | .amin d a b n o c z => Sys2Proof.Machine.execAmin d a b n o c z s
  | .amax d a b n o c z => Sys2Proof.Machine.execAmax d a b n o c z s
  | .aminu d a b n o c z => Sys2Proof.Machine.execAminu d a b n o c z s
  | .amaxu d a b n o c z => Sys2Proof.Machine.execAmaxu d a b n o c z s
  | .aswp d a b n o c z => Sys2Proof.Machine.execAswp d a b n o c z s
  | .afadd d a b n o c => Sys2Proof.Machine.execAfadd d a b n o c s
  | .afmax d a b n o c => Sys2Proof.Machine.execAfmax d a b n o c s
  | .afmin d a b n o c => Sys2Proof.Machine.execAfmin d a b n o c s
  | .acas d a b o c z => Sys2Proof.Machine.execAcas d a b o c z s
  | .fenceAcq c => Sys2Proof.Machine.execFenceAcq c s
  | .fenceRel c => Sys2Proof.Machine.execFenceRel c s
  | .fenceAr c => Sys2Proof.Machine.execFenceAr c s
  | .fenceAll c => Sys2Proof.Machine.execFenceAll c s
  | .trkw => Sys2Proof.Machine.execTrkw s
  | .spawn d a b => Sys2Proof.Machine.execSpawn d a b s
  | .spawnM d a b => Sys2Proof.Machine.execSpawnM d a b s
  | .exit => Sys2Proof.Machine.execExit s
  | .exitJ a => Sys2Proof.Machine.execExitJ a s
  | .yield => Sys2Proof.Machine.execYield s
  | .hop a => Sys2Proof.Machine.execHop a s
  | .pin => Sys2Proof.Machine.execPin s
  | .unpin => Sys2Proof.Machine.execUnpin s
  | .hbeat => Sys2Proof.Machine.execHbeat s
  | .join a b => Sys2Proof.Machine.execJoin a b s
  | .waitwEq a b => Sys2Proof.Machine.execWaitwEq a b s
  | .waitwNe a b => Sys2Proof.Machine.execWaitwNe a b s
  | .waitwGe a b => Sys2Proof.Machine.execWaitwGe a b s
  | .seam a m s1 c => Sys2Proof.Machine.execSeam a m s1 c s
  | .bar => Sys2Proof.Machine.execBar s
  | .vadd d a b l x y z => Sys2Proof.Machine.execVadd d a b l x y z s
  | .vsub d a b l x y z => Sys2Proof.Machine.execVsub d a b l x y z s
  | .vmul d a b l x y z => Sys2Proof.Machine.execVmul d a b l x y z s
  | .vmin d a b l x y z => Sys2Proof.Machine.execVmin d a b l x y z s
  | .vmax d a b l x y z => Sys2Proof.Machine.execVmax d a b l x y z s
  | .vabs d a l x y => Sys2Proof.Machine.execVabs d a l x y s
  | .vneg d a l x y => Sys2Proof.Machine.execVneg d a l x y s
  | .vrcp d a l x y => Sys2Proof.Machine.execVrcp d a l x y s
  | .vrsqrt d a l x y => Sys2Proof.Machine.execVrsqrt d a l x y s
  | .vsqrt d a l x y => Sys2Proof.Machine.execVsqrt d a l x y s
  | .vexp2 d a l x y => Sys2Proof.Machine.execVexp2 d a l x y s
  | .vlog2 d a l x y => Sys2Proof.Machine.execVlog2 d a l x y s
  | .vtanh d a l x y => Sys2Proof.Machine.execVtanh d a l x y s
  | .vsigm d a l x y => Sys2Proof.Machine.execVsigm d a l x y s
  | .vcmpeq d a b l x y z => Sys2Proof.Machine.execVcmpeq d a b l x y z s
  | .vcmplt d a b l x y z => Sys2Proof.Machine.execVcmplt d a b l x y z s
  | .vcmple d a b l x y z => Sys2Proof.Machine.execVcmple d a b l x y z s
  | .vfma d a b l x y z => Sys2Proof.Machine.execVfma d a b l x y z s
  | .vfms d a b l x y z => Sys2Proof.Machine.execVfms d a b l x y z s
  | .vfnma d a b l x y z => Sys2Proof.Machine.execVfnma d a b l x y z s
  | .vscal d a l x y => Sys2Proof.Machine.execVscal d a l x y s
  | .vaxpy d a b l x y z => Sys2Proof.Machine.execVaxpy d a b l x y z s
  | .vrsum a l y => Sys2Proof.Machine.execVrsum a l y s
  | .vrmax a l y => Sys2Proof.Machine.execVrmax a l y s
  | .vrmin a l y => Sys2Proof.Machine.execVrmin a l y s
  | .vrsumsq a l y => Sys2Proof.Machine.execVrsumsq a l y s
  | .vrdot a b l y z => Sys2Proof.Machine.execVrdot a b l y z s
  | .vcvt d a l x y => Sys2Proof.Machine.execVcvt d a l x y s
  | .vcopy d a l x y => Sys2Proof.Machine.execVcopy d a l x y s
  | .vfill d l x => Sys2Proof.Machine.execVfill d l x s
  | .vsel d a b l x y z => Sys2Proof.Machine.execVsel d a b l x y z s
  | .bfly d p => Sys2Proof.Machine.execBfly d p s
  | .bchain d p => Sys2Proof.Machine.execBchain d p s
  | .stn d p q => Sys2Proof.Machine.execStn d p q s
  | .unstn d p q => Sys2Proof.Machine.execUnstn d p q s
  | .mfmt d p q => Sys2Proof.Machine.execMfmt d p q s
  | .cpy d p => Sys2Proof.Machine.execCpy d p s
  | .cring d p => Sys2Proof.Machine.execCring d p s
  | .csend d p => Sys2Proof.Machine.execCsend d p s
  | .cred d p => Sys2Proof.Machine.execCred d p s
  | .cbcast d p => Sys2Proof.Machine.execCbcast d p s
  | .cbcfg d p q => Sys2Proof.Machine.execCbcfg d p q s
  | .cbwait p q => Sys2Proof.Machine.execCbwait p q s
  | .cbfree p q => Sys2Proof.Machine.execCbfree p q s
  | .cbstat d p => Sys2Proof.Machine.execCbstat d p s
  | .nrcopy d p => Sys2Proof.Machine.execNrcopy d p s
  | .nrzero d p => Sys2Proof.Machine.execNrzero d p s
  | .nbcopy d p => Sys2Proof.Machine.execNbcopy d p s
  | .nexpr d p => Sys2Proof.Machine.execNexpr d p s
  | .ngemv d p => Sys2Proof.Machine.execNgemv d p s
  | .tlread d e => Sys2Proof.Machine.execTlread d e s
  | .tlwait p e => Sys2Proof.Machine.execTlwait p e s
  | .mfs d s1 => Sys2Proof.Machine.execMfs d s1 s
  | .mts a s1 => Sys2Proof.Machine.execMts a s1 s
  | .stWrite a => Sys2Proof.Machine.execStWrite a s
  | .fbufWrite a => Sys2Proof.Machine.execFbufWrite a s
  | .trap c => Sys2Proof.Machine.execTrap c s
  | .brk c => Sys2Proof.Machine.execBrk c s
  | .svc c => Sys2Proof.Machine.execSvc c s
  | .reply d a b => Sys2Proof.Machine.execReply d a b s
  | .replaya d a b => Sys2Proof.Machine.execReplaya d a b s
  | .xmap d a b => Sys2Proof.Machine.execXmap d a b s
  | .xunmap d a => Sys2Proof.Machine.execXunmap d a s
  | .xdrain d a b => Sys2Proof.Machine.execXdrain d a b s
  | .dinval d a => Sys2Proof.Machine.execDinval d a s
  | .msend d a => Sys2Proof.Machine.execMsend d a s
  | .mrecv d => Sys2Proof.Machine.execMrecv d s
  | .dstop d a => Sys2Proof.Machine.execDstop d a s
  | .dresume d a => Sys2Proof.Machine.execDresume d a s
  | .xwExtension e => Sys2Proof.Machine.execXwExtension e s
  | .xwModifier n x => Sys2Proof.Machine.execXwModifier n x s
  | .hbeatExpiry t k => Sys2Proof.Machine.execHbeatExpiry t k s
  | .waitResume t k => Sys2Proof.Machine.execWaitResume t k s
  | .mergingFill t k => Sys2Proof.Machine.execMergingFill t k s
  | .migrationDeparture t k => Sys2Proof.Machine.execMigrationDeparture t k s
  | .loadDepartureTimeout t k => Sys2Proof.Machine.execLoadDepartureTimeout t k s
  | .qstallTimeout t k => Sys2Proof.Machine.execQstallTimeout t k s
  | .childFlitTimeout t k => Sys2Proof.Machine.execChildFlitTimeout t k s
  | .spawnRetry t k => Sys2Proof.Machine.execSpawnRetry t k s
  | .migrationFlit n => Sys2Proof.Machine.execMigrationFlit n s
  | .slotGrant t => Sys2Proof.Machine.execSlotGrant t s
  | .ringToQueue t => Sys2Proof.Machine.execRingToQueue t s
  | .waiterUnspill t => Sys2Proof.Machine.execWaiterUnspill t s
  | .parkRetry t k => Sys2Proof.Machine.execParkRetry t k s
  | .remoteReadRequest n => Sys2Proof.Machine.execRemoteReadRequest n s
  | .atomicRequest n => Sys2Proof.Machine.execAtomicRequest n s
  | .peerWindowLoad n => Sys2Proof.Machine.execPeerWindowLoad n s
  | .trackerQuery n => Sys2Proof.Machine.execTrackerQuery n s
  | .trackerRelease n => Sys2Proof.Machine.execTrackerRelease n s
  | .placementRequest n => Sys2Proof.Machine.execPlacementRequest n s
  | .directoryFillRequest n => Sys2Proof.Machine.execDirectoryFillRequest n s
  | .directoryInvalidate n => Sys2Proof.Machine.execDirectoryInvalidate n s
  | .serviceRequest n => Sys2Proof.Machine.execServiceRequest n s
  | .readData n => Sys2Proof.Machine.execReadData n s
  | .atomicResult n => Sys2Proof.Machine.execAtomicResult n s
  | .writeAcknowledgement n => Sys2Proof.Machine.execWriteAcknowledgement n s
  | .trackerAnswer n => Sys2Proof.Machine.execTrackerAnswer n s
  | .admissionAnswer n => Sys2Proof.Machine.execAdmissionAnswer n s
  | .directoryFill n => Sys2Proof.Machine.execDirectoryFill n s
  | .staleReturn n => Sys2Proof.Machine.execStaleReturn n s
  | .serviceAnswer n => Sys2Proof.Machine.execServiceAnswer n s
  | .routeSlotGrant n => Sys2Proof.Machine.execRouteSlotGrant n s
  | .storeWrite n => Sys2Proof.Machine.execStoreWrite n s
  | .stfWrite n => Sys2Proof.Machine.execStfWrite n s
  | .nrAtomicWrite n => Sys2Proof.Machine.execNrAtomicWrite n s
  | .exitJDecrement n => Sys2Proof.Machine.execExitJDecrement n s
  | .peerWindowStore n => Sys2Proof.Machine.execPeerWindowStore n s
  | .copyReadRequest n => Sys2Proof.Machine.execCopyReadRequest n s
  | .copyReadData n => Sys2Proof.Machine.execCopyReadData n s
  | .copyWrite n => Sys2Proof.Machine.execCopyWrite n s
  | .copyWriteAcknowledgement n => Sys2Proof.Machine.execCopyWriteAcknowledgement n s
  | .counterGridStore n => Sys2Proof.Machine.execCounterGridStore n s
  | .routeDataFlit n => Sys2Proof.Machine.execRouteDataFlit n s
  | .routeLastFlit n => Sys2Proof.Machine.execRouteLastFlit n s
  | .headerCrcError n => Sys2Proof.Machine.execHeaderCrcError n s
  | .commandStart t e => Sys2Proof.Machine.execCommandStart t e s
  | .butterflyStageEnd t => Sys2Proof.Machine.execButterflyStageEnd t s
  | .macroControlEnd t => Sys2Proof.Machine.execMacroControlEnd t s
  | .copyRowEnd t => Sys2Proof.Machine.execCopyRowEnd t s
  | .nmeOperationEnd t => Sys2Proof.Machine.execNmeOperationEnd t s
  | .bufferSlotTake t => Sys2Proof.Machine.execBufferSlotTake t s
  | .copySlotTake t => Sys2Proof.Machine.execCopySlotTake t s
  | .scrubStart t m => Sys2Proof.Machine.execScrubStart t m s
  | .scrubEnd t m => Sys2Proof.Machine.execScrubEnd t m s
  | .teamRetire t p => Sys2Proof.Machine.execTeamRetire t p s
  | .faultMessage n => Sys2Proof.Machine.execFaultMessage n s
  | .serviceMessage n => Sys2Proof.Machine.execServiceMessage n s
  | .droppedAnswerRequest n => Sys2Proof.Machine.execDroppedAnswerRequest n s
  | .launch r => Sys2Proof.Machine.execLaunch r s
  | .launchReady kin => Sys2Proof.Machine.execLaunchReady kin s
  | .launchRelease kin => Sys2Proof.Machine.execLaunchRelease kin s
  | .fieldLaunch f kin => Sys2Proof.Machine.execFieldLaunch f kin s
  | .admissionOrder t kin => Sys2Proof.Machine.execAdmissionOrder t kin s
  | .teamAdmission t => Sys2Proof.Machine.execTeamAdmission t s
  | .preemptionDecision t => Sys2Proof.Machine.execPreemptionDecision t s
  | .quiesce t p => Sys2Proof.Machine.execQuiesce t p s
  | .quiesceAcknowledge t => Sys2Proof.Machine.execQuiesceAcknowledge t s
  | .restore t a => Sys2Proof.Machine.execRestore t a s
  | .liveCountReport => Sys2Proof.Machine.execLiveCountReport s
  | .instanceComplete kin => Sys2Proof.Machine.execInstanceComplete kin s
  | .freeSlotUpdate t => Sys2Proof.Machine.execFreeSlotUpdate t s
  | .freeCountRefresh => Sys2Proof.Machine.execFreeCountRefresh s
  | .seamSequence t p => Sys2Proof.Machine.execSeamSequence t p s
  | .successorReady kin => Sys2Proof.Machine.execSuccessorReady kin s
  | .extentDrainComplete t imm => Sys2Proof.Machine.execExtentDrainComplete t imm s
  | .heldPacketResend n => Sys2Proof.Machine.execHeldPacketResend n s
  | .dawn => Sys2Proof.Machine.execDawn s
  | .livenessSweep => Sys2Proof.Machine.execLivenessSweep s
  | .probeTimeout t => Sys2Proof.Machine.execProbeTimeout t s
  | .dusk t => Sys2Proof.Machine.execDusk t s
  | .lossyDusk t => Sys2Proof.Machine.execLossyDusk t s
  | .clockParentSwitch site => Sys2Proof.Machine.execClockParentSwitch site s
  | .patrolRead t key bad => Sys2Proof.Machine.execPatrolRead t key bad s
  | .rowSparing t ch bank sub row => Sys2Proof.Machine.execRowSparing t ch bank sub row s
  | .bankSparing t ch bank => Sys2Proof.Machine.execBankSparing t ch bank s
  | .checksumReread t bank bad => Sys2Proof.Machine.execChecksumReread t bank bad s
  | .errcount t => Sys2Proof.Machine.execErrcount t s
  | .powerCheck watts => Sys2Proof.Machine.execPowerCheck watts s
  | .modeChangeComplete => Sys2Proof.Machine.execModeChangeComplete s
  | .laneFailure port lane => Sys2Proof.Machine.execLaneFailure port lane s
  | .peerLoss m => Sys2Proof.Machine.execPeerLoss m s
  | .peerAccess q => Sys2Proof.Machine.execPeerAccess q s
  | .gridInterval t => Sys2Proof.Machine.execGridInterval t s
  | .sample t => Sys2Proof.Machine.execSample t s
  | .memRead r => Sys2Proof.Machine.execMemRead r s
  | .memWrite r => Sys2Proof.Machine.execMemWrite r s
  | .status r => Sys2Proof.Machine.execStatus r s
  | .modeset r => Sys2Proof.Machine.execModeset r s
  | .ctxcreate r => Sys2Proof.Machine.execCtxcreate r s
  | .ctxdestroy r => Sys2Proof.Machine.execCtxdestroy r s
  | .objcreate r => Sys2Proof.Machine.execObjcreate r s
  | .objdestroy r => Sys2Proof.Machine.execObjdestroy r s
  | .mgmtXmap r => Sys2Proof.Machine.execMgmtXmap r s
  | .portmap r => Sys2Proof.Machine.execPortmap r s
  | .peeradmit r => Sys2Proof.Machine.execPeeradmit r s
  | .svcrestart r => Sys2Proof.Machine.execSvcrestart r s
  | .retire r => Sys2Proof.Machine.execRetire r s
  | .partout r => Sys2Proof.Machine.execPartout r s
  | .partin r => Sys2Proof.Machine.execPartin r s
  | .mapread r => Sys2Proof.Machine.execMapread r s
  | .mapaccept r => Sys2Proof.Machine.execMapaccept r s
  | .mapload r => Sys2Proof.Machine.execMapload r s
  | .fwload r => Sys2Proof.Machine.execFwload r s
  | .tokenload r => Sys2Proof.Machine.execTokenload r s
  | .attest r => Sys2Proof.Machine.execAttest r s
  | .dbgstop r => Sys2Proof.Machine.execDbgstop r s
  | .dbgresume r => Sys2Proof.Machine.execDbgresume r s
  | .dbgread r => Sys2Proof.Machine.execDbgread r s
  | .dbgwrite r => Sys2Proof.Machine.execDbgwrite r s
  | .dbgstep r => Sys2Proof.Machine.execDbgstep r s
  | .dbgbrk r => Sys2Proof.Machine.execDbgbrk r s
  | .traceset r => Sys2Proof.Machine.execTraceset r s
  | .sampleset r => Sys2Proof.Machine.execSampleset r s
  | .gridset r => Sys2Proof.Machine.execGridset r s
  | .illegal w => Sys2Proof.Machine.execIllegal w s
  | .breakpointMatch t k => Sys2Proof.Machine.execBreakpointMatch t k s
  | .vectorPassEnd t => Sys2Proof.Machine.execVectorPassEnd t s
  | .clockRelock t => Sys2Proof.Machine.execClockRelock t s
  | .powerLoss => Sys2Proof.Machine.execPowerLoss s
  | .linkCrcResend port => Sys2Proof.Machine.execLinkCrcResend port s

end Sys2Proof.Machine
end

