-- ==== Sys2Proof/Machine/Seat.lean ====
section
/-! DEFINITION. Seating one instruction word for the next step (log 14): what a launch of a one-word code object leaves. -/

namespace Sys2Proof.Machine

/-- The code object that holds the seated word: object 2, eight bytes, REPL, replicated. -/
def seatDesc : BitVec 512 := (7#512 <<< 64) ||| 0x9E#512

/-- The tile and slot of the seated thread: slot 0 of tile 0, or the service thread of field 0 for a word of major 0x39. -/
def State.seatAt (s : State) (w : BitVec 32) : Nat × Nat :=
  if w.toNat / 2 ^ 26 = 0x39 then ((s.field 0).tile, 15) else (0, 0)

/-- The context of the seated thread: 1, or the firmware's for the service thread. -/
def seatCtx (w : BitVec 32) : Nat := if w.toNat / 2 ^ 26 = 0x39 then 0 else 1

def seatPc : Word := 0x0000020000000000#64

/-- A team of instance 1 with all macros and buffers, as an admission leaves it. -/
def seatTeam : Team := { kin := 1, ctx := 1, nmac := 256, ncb := 16 }

def State.seatWord (s : State) (w : BitVec 32) : State :=
  let (t, k) := s.seatAt w
  let c := seatCtx w
  let o : Object := { desc := seatDesc, replicated := true }
  let s : State := { s with enabled := true, objects := s.objects.put (objKey c 2) o }
  let s : State := { s with mem := s.mem.write (codeKey c 2 0) 0x0F#8 (w.zeroExtend 64), agenda := [.issue t k] }
  let s : State := if c = 0 then s else { s with ctxs := s.ctxs.put 1 { debuggable := false } }
  s.modTile t (fun (x : Tile) =>
    let slots := x.slots.map (fun (sl : Slot) => if sl.state = .ready then { sl with eligAt := s.now + 1 } else sl)
    let x : Tile := { x with ptr := 0, nextIssue := 0, relock := false, closed := false, fenced := false, slots := slots,
                             l1i := [], vec := none }
    let x : Tile := if c = 0 then x
      else
        { x with teams := x.teams.put 0 seatTeam
                 macros := x.macros.map (fun (m : Macro) => { m with owner := some 0 })
                 bufs := x.bufs.map (fun (b : CBuf) => { b with owner := some 0 }) }
    x.modSlot k (fun (sl : Slot) =>
      { state := .ready, th := { sl.th with pc := seatPc, kin := if c = 0 then 0 else 1, ctx := c }, ipc := seatPc,
        budget := 65536, fseq := sl.fseq }))

end Sys2Proof.Machine
end

