-- ==== Sys2Proof/Machine/Step.lean ====
section
/-! DEFINITION. One step of the module: the next entry of the schedule, or, where it is empty, the default order (log 1). -/

namespace Sys2Proof.Machine

/-- Carries the outcome of an issued instruction to the settling of a single step (R354). -/
def settled (t k : Nat) : Out → Out
  | .next s => .next (s.settle t k)
  | .fault r => .fault r
  | .refused r => .refused r

/-- The issue of one slot. -/
def issueStep (s : State) (t k : Nat) : Out :=
  match s.prepare t k with
  | .no => .fault .notEnabled
  | .done s' => .next s'
  | .run i s' => settled t k (exec i s')
  | .illegal w s' => settled t k (execIllegal w s')
  | .breakpoint s' => execBreakpointMatch t k s'
  | .hbeat s' => execHbeatExpiry t k s'

/-- The first of a list of steps that can be taken. -/
def firstStep (s : State) : List Auto → Option State
  | [] => none
  | i :: is => match runAuto i s with
    | .next s' => some s'
    | _ => firstStep s is

/-- R242, R246: whether a butterfly stage of a tile ends in this cycle. -/
def State.stageDue (s : State) (t : Nat) : Bool := match (s.tile t).bfe with
  | some r => (r.cmd.op == .bfly || r.cmd.op == .bchain) && r.wait == .run && r.due ≤ s.now
  | none => false

/-- The default order: the ends of butterfly stages, whose counts and macro states the cycle's accesses find (R242, R246); a tile that can
issue, lowest first; then the first step without an instruction word that can be
taken; then time passes to the next due cycle. -/
def autoStep (s : State) : Out :=
  match firstStep s ((s.tiles.keys.filter s.stageDue).map Auto.butterflyStageEnd) with
  | some s' => .next s'
  | none => match s.tiles.keys.find? (fun t => (s.arbiter t).isSome) with
  | some t => issueStep s t ((s.arbiter t).getD 0)
  | none => match firstStep s s.autoSteps with
    | some s' => .next s'
    | none => match s.nextDue with
      | some c => s.tick (c - s.now)
      | none => .fault .idle

def step (s : State) : Host.Outcome State Fault Refusal :=
  match s.agenda with
  | [] => autoStep s
  | .tick n :: rest => { s with agenda := rest }.tick n
  | .issue t k :: rest => issueStep { s with agenda := rest } t k
  | .event i :: rest =>
    if (encode i).isNone then exec i { s with agenda := rest } else .fault .notEnabled

/-- `s` with an instruction seated where the next step fetches it: a thread that the next step issues, at a code object
that holds the word (log 14). -/
def State.withFetchWord (s : State) (_nbits w : Nat) : State := s.seatWord (BitVec.ofNat 32 w)

end Sys2Proof.Machine
end

