-- ==== Sys2Proof/Safety.lean ====
section
/-! DEFINITION. What counts as a safe run: the notions in which claims are stated. -/

namespace Sys2Proof.Machine

/-- Runs of the machine. -/
inductive Reaches : State → State → Prop where
  | refl (s : State) : Reaches s s
  | step {s t u : State} : Reaches s t → step t = .next u → Reaches s u

/-- The memory is in its canonical form. -/
def State.MemWf (s : State) : Prop := s.mem.wf = true

/-- R381: the wafer generation is one of 0x00-0xFE. -/
def State.GenOk (s : State) : Prop := s.gen < 255

/-- What every step keeps: the canonical form of memory, a legal generation and a legal power mode (R381, R394). -/
def State.Inv (s : State) : Prop := s.MemWf ∧ s.GenOk ∧ s.mode < 4

/-! ### The issuing slot -/

/-- The value a register field names in the thread that issues (R56). -/
def State.rd (s : State) (r : Reg) : Word := s.curSlot.th.reg r

/-- The address of the word after the one being issued. -/
def State.following (s : State) : Word := s.curSlot.ipc + 4#64

/-- `s` with the issuing slot's instruction ended: its thread changed and its `pc` at an address. -/
def State.ended (s : State) (f : Thread → Thread) (pc : Word) : State :=
  s.modCur (fun sl => { sl with th := f sl.th }.goto pc)

/-- `s` after an instruction whose one result goes to register `d`; `zr` discards it (R78). -/
def State.wrote (s : State) (d : Reg) (v : Word) : State := s.ended (fun th => th.setReg d v) s.following

/-- The same with flags ORed into `st` (R40). -/
def State.wroteFlags (s : State) (d : Reg) (v : Word) (fl : Flags) : State :=
  s.ended (fun th => (th.setReg d v).orFlags fl) s.following

/-- The thread that issued in `s`, as `t` holds it. -/
def State.then_ (s t : State) : Thread := (t.slot s.cur.1 s.cur.2).th

/-- The low 32 bits, and 32 bits as a `.w` result (R82). -/
def lo32 (x : Word) : BitVec 32 := x.extractLsb' 0 32
def fromInt32 (x : Int) : Word := (BitVec.ofInt 32 x).signExtend 64
def fromInt (x : Int) : Word := BitVec.ofInt 64 x
def fromNat (x : Nat) : Word := BitVec.ofNat 64 x

/-- R54, R60: a signed immediate as at most two pending XW payloads extend it, and the same bits read unsigned. -/
def extInt (ext : List (BitVec 25)) {k : Nat} (f : BitVec k) : Int :=
  match ext with
  | [] => f.toInt
  | [e] => (e ++ f).toInt
  | e :: e' :: _ => (e ++ e' ++ f).toInt
def extNat (ext : List (BitVec 25)) {k : Nat} (f : BitVec k) : Nat :=
  match ext with
  | [] => f.toNat
  | [e] => (e ++ f).toNat
  | e :: e' :: _ => (e ++ e' ++ f).toNat

/-- R83: quotient rounded toward zero, all ones for a zero divisor. -/
def quotSigned (n : Nat) (a b : Int) : Int := if b = 0 then 2 ^ n - 1 else a.tdiv b
def remSigned' (a b : Int) : Int := if b = 0 then a else a - a.tdiv b * b
def quotUnsigned (n a b : Nat) : Nat := if b = 0 then 2 ^ n - 1 else a / b
def remUnsigned' (a b : Nat) : Nat := if b = 0 then a else a % b

/-! ### Frames -/

/-- Everything of the module but one slot is as it was. -/
def State.OnlySlot (s t : State) (u k : Nat) : Prop :=
  t = { s with tiles := t.tiles } ∧ (∀ v, v ≠ u → t.tile v = s.tile v) ∧
  { t.tile u with slots := (s.tile u).slots } = s.tile u ∧ ∀ j, j ≠ k → t.slot u j = s.slot u j

/-- Every byte, tag and poison bit of memory is as it was. -/
def State.SameMem (s t : State) : Prop :=
  ∀ a, t.mem.byte a = s.mem.byte a ∧ t.mem.isEmpty a = s.mem.isEmpty a ∧ t.mem.isPoison a = s.mem.isPoison a

/-- Every byte of memory outside `n` bytes at key `k` is as it was. -/
def State.SameBytesBut (s t : State) (k n : Nat) : Prop := ∀ a, a < k ∨ k + n ≤ a → t.mem.byte a = s.mem.byte a

/-- The thread registers that no destination field names: `st` but its flags, the tracker handles, `seamin`, the numbers. -/
def Thread.SameSpecial (a b : Thread) : Prop :=
  b.trkA = a.trkA ∧ b.trkB = a.trkB ∧ b.bOlder = a.bOlder ∧ b.drainA = a.drainA ∧ b.drainB = a.drainB ∧ b.errA = a.errA ∧
  b.errB = a.errB ∧ b.tid = a.tid ∧ b.kin = a.kin ∧ b.ctx = a.ctx ∧ b.seamin = a.seamin ∧
  b.st &&& ~~~0x3F0#64 = a.st &&& ~~~0x3F0#64

/-! ### Numbers -/

/-- The rational number a finite value stands for (R30). -/
def Val.rat : Val → ℚ
  | .fin n m e => (if n then -1 else 1) * (m : ℚ) * (2 : ℚ) ^ e
  | _ => 0

/-- The order of values that are no NaN, with both zeros equal (R94). -/
def Val.Below : Val → Val → Prop
  | .fin n m e, .fin n' m' e' => (Val.fin n m e).rat < (Val.fin n' m' e').rat
  | .inf true, .inf b => b = false
  | .inf true, .fin .. => True
  | .fin .., .inf b => b = false
  | _, _ => False
def Val.Same : Val → Val → Prop
  | .fin n m e, .fin n' m' e' => (Val.fin n m e).rat = (Val.fin n' m' e').rat
  | .inf a, .inf b => a = b
  | _, _ => False

/-- The precision's smallest normal magnitude (R29). -/
def leastNormal (p : Bool) : ℚ := if p then (2 : ℚ) ^ (-1022 : Int) else (2 : ℚ) ^ (-126 : Int)

/-- `s` after a floating-point form: the value `v` rounded once into the destination, its flags ORed in (R79, R90). -/
def State.wroteRounded (s : State) (p : Bool) (d : Reg) (code : Nat) (v : Val) (fl : Flags) : State :=
  let r := roundTo (fpFmt p) (s.curSlot.th.rnd (s.srkey s.cur.1 s.cur.2) false code) v
  s.wroteFlags d (fromNat r.1) (fl ||| r.2)

/-! ### Memory as its home reads it -/

/-- R385: no word of a line holds an error. -/
def Line.Sound (l : Line) : Prop := ∀ w, w ∈ l.words → w.soft = false ∧ w.weak = false

/-- R385: no word of memory, nor of a cached line, holds an error that nothing has met yet. -/
def State.Sound (s : State) : Prop :=
  s.mem.weak = [] ∧ s.mem.soft = [] ∧ ∀ u l, l ∈ (s.tile u).l1 ∨ l ∈ (s.tile u).slices → l.Sound

/-- R103, R202, R292: tile `u` is the home of the `n` bytes at `a`, which lie within object `o` and are resident there. -/
structure State.AtHome (s : State) (u ctx : Nat) (a : Word) (n : Nat) (o : Object) : Prop where
  aligned : a.toNat % n = 0
  named : s.homeOf u ctx a = .here o ∨ ∃ g, s.homeOf u ctx a = .tile o u g
  inside : offOf a + n ≤ o.size
  resident : s.gate u ctx a = .go

/-- R58, R102: address and thread after an access of `n` bytes with extended offset `o` in a mode. -/
def memPlace (th : Thread) (p : Ptr) (m : Mode) (n : Nat) (o : Int) : Word × Thread :=
  let b := th.regs.get p
  let e := b + fromInt (o * n)
  match m with
  | .offset => (e, th)
  | .post => (b, { th with regs := th.regs.set p e })
  | .pre => (e, { th with regs := th.regs.set p e })

/-- R108: what a release at a scope does to the lines of the contexts under which the thread wrote, once no handle counts a write. -/
def State.afterRelease (s : State) (u : Nat) (ctxs : List Nat) (rel : Bool) (c : Scope) : State :=
  if rel && c != .tile then s.releaseLines u ctxs false else s

/-- R236, R237: a word as its home reads it: the L1 over the slice over DRAM. -/
def State.view (s : State) (u ctx : Nat) (a : Word) : LWord := (s.homeRead u ctx a).2

/-- R236: a word with its tag as an atomic or full/empty access finds it in the slice. -/
def State.tagView (s : State) (u ctx : Nat) (a : Word) (uo : Bool) : LWord := (s.slicePrep u ctx a uo).sliceWord u ctx a

/-- The `n` bytes of a word at an address's place in it, as a number. -/
def bytesAt (a : Word) (n : Nat) (w : Word) : Nat := w.toNat / 2 ^ (8 * (a.toNat % 8)) % 2 ^ (8 * n)

/-- R111: a loaded number in a register. -/
def loadedWord (z : Size) (sx : Bool) (v : Nat) : Word := if sx then fromInt (sext (8 * sizeBytes z) v) else fromNat v

/-- R235: every cached line of a tile holds its eight words. -/
def Tile.LinesOk (x : Tile) : Prop := ∀ l, l ∈ x.l1 ∨ l ∈ x.slices → l.words.length = 8
def State.LinesOk (s : State) : Prop := ∀ u, (s.tile u).LinesOk

/-- The L1 has room for the line of a word without writing another one back (R235). -/
def Tile.L1Room (x : Tile) (ctx : Nat) (a : Word) : Prop :=
  ((x.l1.filter (fun m => !m.is ctx (objOf a) (lineNo a))).filter
    (fun m => l1Set m == l1Set { ctx := ctx, obj := objOf a, ln := lineNo a, uo := false, words := [] })).length < 8

/-- The slice holds the line of a word or has room for it without writing another one back (R239). -/
def Tile.SliceRoom (x : Tile) (ctx : Nat) (a : Word) : Prop :=
  ((x.slices.filter (fun m => !m.is ctx (objOf a) (lineNo a))).filter
    (fun m => sliceSet m == sliceSet { ctx := ctx, obj := objOf a, ln := lineNo a, uo := false, words := [] })).length < 8

/-- The L1 holds no line of a word's 64 bytes (R235). -/
def Tile.NotInL1 (x : Tile) (ctx : Nat) (a : Word) : Prop := findLine x.l1 ctx (objOf a) (lineNo a) = none

/-- What an access of the issuing slot at tile `u` leaves alone in memory: DRAM and scratchpads, the other tiles and the
other slots of `u`. -/
def State.AsideSame (s t : State) (u k : Nat) : Prop :=
  t.mem = s.mem ∧ (∀ v, v ≠ u → t.tile v = s.tile v) ∧ ∀ j, j ≠ k → t.slot u j = s.slot u j

/-- No thread waits at a word of an object (R137). -/
def Tile.NoWaiter (x : Tile) (key : Nat) : Prop := ∀ w, w ∈ x.waiters ∨ w ∈ x.spilled → w.key ≠ key

/-- No thread waits at a word whose home is tile `u`, on that tile or on one that was its home before. -/
def State.NoWaiter (s : State) (u key : Nat) : Prop := s.waitersAt u key = []

/-- R106, R126: neither handle of the issuing thread counts a write. -/
def Thread.NoHandles (th : Thread) : Prop := handleValid th.trkA = false ∧ handleValid th.trkB = false

/-- R108, R223, R226: a release of the issuing thread at a scope has nothing to wait for: `.tile` and `.stack` never wait, the
wider scopes need both handles at zero, and `.host` the copy engine without a write of the team bound for the link. -/
def State.CanRelease (s : State) (c : Scope) : Prop :=
  c = .tile ∨ c = .stack ∨ (s.curSlot.th.NoHandles ∧ (c = .host → s.linkBound s.cur.1 s.cur.2 = false))

/-- R122: the new value of an integer atomic. -/
def atomInt (op : AtomOp) {n : Nat} (old b : BitVec n) : BitVec n :=
  match op with
  | .add => BitVec.ofInt n (old.toInt + b.toInt)
  | .and => old &&& b
  | .or => old ||| b
  | .xor => old ^^^ b
  | .min => BitVec.ofInt n (min old.toInt b.toInt)
  | .max => BitVec.ofInt n (max old.toInt b.toInt)
  | .minu => BitVec.ofNat n (min old.toNat b.toNat)
  | .maxu => BitVec.ofNat n (max old.toNat b.toNat)
  | _ => b

/-- R121: the constructor of an integer atomic. -/
def atomInstr (op : AtomOp) (d : Reg) (a : Ptr) (b : Reg) (n : Bool) (o : Sys2Proof.Order) (c : Scope) (z : Bool) : Instr :=
  match op with
  | .add => .aadd d a b n o c z
  | .and => .aand d a b n o c z
  | .or => .aor d a b n o c z
  | .xor => .axor d a b n o c z
  | .min => .amin d a b n o c z
  | .max => .amax d a b n o c z
  | .minu => .aminu d a b n o c z
  | .maxu => .amaxu d a b n o c z
  | .swp => .aswp d a b n o c z
  | .fadd => .afadd d a b n o c
  | .fmax => .afmax d a b n o c
  | .fmin => .afmin d a b n o c

/-! ### Packets and requests -/

/-- R250: packet `n` is `p`, under way and next at its destination, a tile that takes packets. -/
structure State.Arrives (s : State) (n : Nat) (p : Packet) : Prop where
  there : s.net[n]? = some p
  going : p.ret = .no
  turn : s.canArrive n p = true
  tile : p.dst < 16384
  open_ : (s.tile p.dst).closed = false
  standing : (s.tile p.dst).fenced = false

/-- R249: the fabric holds in `t` what it held in `s` but packet `n`, and one packet more, from the destination of `p` to its
source, of a class, with the slot of the header tag. -/
def State.Sends (s t : State) (n : Nat) (p : Packet) (vc slot : Nat) (b : Body) : Prop :=
  ∃ q, t.net = dropAt s.net n ++ [q] ∧ q.vc = vc ∧ q.src = p.dst ∧ q.dst = p.src ∧ q.slot = slot ∧ q.body = b ∧ q.gen = s.gen

/-- The answer goes to the slot that issued. -/
def State.Answered (s t : State) (n : Nat) (p : Packet) (b : Body) : Prop := s.Sends t n p 1 p.slot b

/-- Packet `n` is gone and nothing is sent. -/
def State.Taken_ (s t : State) (n : Nat) : Prop := t.net = dropAt s.net n

/-- A kernel's slot of a tile is there and holds a thread that awaits a reply of the given kind. -/
def State.Awaiting (s : State) (t k : Nat) (w : Pend) : Prop :=
  k < 16 ∧ k < (s.tile t).slots.length ∧ s.atService t k = false ∧ (s.slot t k).pend = w

/-! ### Vector instructions and engine commands -/

/-- R149: operation, pointers with increment bits and count register of a vector instruction. -/
def vecForm : Instr → Option VecForm
  | .vadd d a b l x y z => some ⟨.add, some (d, x), some (a, y), some (b, z), l⟩
  | .vsub d a b l x y z => some ⟨.sub, some (d, x), some (a, y), some (b, z), l⟩
  | .vmul d a b l x y z => some ⟨.mul, some (d, x), some (a, y), some (b, z), l⟩
  | .vmin d a b l x y z => some ⟨.min, some (d, x), some (a, y), some (b, z), l⟩
  | .vmax d a b l x y z => some ⟨.max, some (d, x), some (a, y), some (b, z), l⟩
  | .vabs d a l x y => some ⟨.abs, some (d, x), some (a, y), none, l⟩
  | .vneg d a l x y => some ⟨.neg, some (d, x), some (a, y), none, l⟩
  | .vrcp d a l x y => some ⟨.rcp, some (d, x), some (a, y), none, l⟩
  | .vrsqrt d a l x y => some ⟨.rsqrt, some (d, x), some (a, y), none, l⟩
  | .vsqrt d a l x y => some ⟨.sqrt, some (d, x), some (a, y), none, l⟩
  | .vexp2 d a l x y => some ⟨.exp2, some (d, x), some (a, y), none, l⟩
  | .vlog2 d a l x y => some ⟨.log2, some (d, x), some (a, y), none, l⟩
  | .vtanh d a l x y => some ⟨.tanh, some (d, x), some (a, y), none, l⟩
  | .vsigm d a l x y => some ⟨.sigm, some (d, x), some (a, y), none, l⟩
  | .vcmpeq d a b l x y z => some ⟨.cmpeq, some (d, x), some (a, y), some (b, z), l⟩
  | .vcmplt d a b l x y z => some ⟨.cmplt, some (d, x), some (a, y), some (b, z), l⟩
  | .vcmple d a b l x y z => some ⟨.cmple, some (d, x), some (a, y), some (b, z), l⟩
  | .vfma d a b l x y z => some ⟨.fma, some (d, x), some (a, y), some (b, z), l⟩
  | .vfms d a b l x y z => some ⟨.fms, some (d, x), some (a, y), some (b, z), l⟩
  | .vfnma d a b l x y z => some ⟨.fnma, some (d, x), some (a, y), some (b, z), l⟩
  | .vscal d a l x y => some ⟨.scal, some (d, x), some (a, y), none, l⟩
  | .vaxpy d a b l x y z => some ⟨.axpy, some (d, x), some (a, y), some (b, z), l⟩
  | .vrsum a l y => some ⟨.rsum, none, some (a, y), none, l⟩
  | .vrmax a l y => some ⟨.rmax, none, some (a, y), none, l⟩
  | .vrmin a l y => some ⟨.rmin, none, some (a, y), none, l⟩
  | .vrsumsq a l y => some ⟨.rsumsq, none, some (a, y), none, l⟩
  | .vrdot a b l y z => some ⟨.rdot, none, some (a, y), some (b, z), l⟩
  | .vcvt d a l x y => some ⟨.cvt, some (d, x), some (a, y), none, l⟩
  | .vcopy d a l x y => some ⟨.copy, some (d, x), some (a, y), none, l⟩
  | .vfill d l x => some ⟨.fill, some (d, x), none, none, l⟩
  | .vsel d a b l x y z => some ⟨.sel, some (d, x), some (a, y), some (b, z), l⟩
  | _ => none

/-- R163: operation, ticket register and block pointer of a command with a parameter block at issue. -/
def blockForm : Instr → Option (CmdOp × Reg × Ptr)
  | .bfly d p => some (.bfly, d, p)
  | .bchain d p => some (.bchain, d, p)
  | .cpy d p => some (.cpy, d, p)
  | .cring d p => some (.cring, d, p)
  | .csend d p => some (.csend, d, p)
  | .cred d p => some (.cred, d, p)
  | .cbcast d p => some (.cbcast, d, p)
  | .nrcopy d p => some (.nrcopy, d, p)
  | .nrzero d p => some (.nrzero, d, p)
  | .nbcopy d p => some (.nbcopy, d, p)
  | .nexpr d p => some (.nexpr, d, p)
  | .ngemv d p => some (.ngemv, d, p)
  | _ => none

/-- R163: the engine of a command, as the manual's table assigns it. -/
def engineOf : CmdOp → Eng
  | .bfly | .bchain | .stn | .unstn | .mfmt => .bfe
  | .cpy | .cring | .csend | .cred | .cbcast | .cbcfg => .cpe
  | .nrcopy | .nrzero | .nbcopy | .nexpr | .ngemv => .nme

/-- The three counters of a team's queue on an engine in a state, where the team is there. -/
def State.queueOf (s : State) (u p : Nat) (e : Eng) : Option EngQ := ((s.tile u).teams.look p).map (fun tm => tm.engQ e)

/-- R264, R266: slot `k` of tile `u` holds a kernel's thread that issues. -/
def State.userIssues (s : State) : Prop := s.issuing = true ∧ s.atService s.cur.1 s.cur.2 = false
def State.serviceIssues (s : State) : Prop := s.issuing = true ∧ s.atService s.cur.1 s.cur.2 = true

/-! ### Results of the vector unit and of the engines -/

/-- R49: the sum of terms that the 40-bit window keeps: each term is cut toward zero at the 39th bit below the leading bit of
the greatest one. -/
def windowSum (T : List ℚ) (y : ℚ) : Prop :=
  ((∀ x, x ∈ T → x = 0) ∧ y = 0) ∨
  ∃ e : Int, (∃ x, x ∈ T ∧ (2 : ℚ) ^ e ≤ |x|) ∧ (∀ x, x ∈ T → |x| < (2 : ℚ) ^ (e + 1)) ∧
    y = (T.map (fun x => (if x < 0 then -1 else 1) * (⌊|x| / (2 : ℚ) ^ (e - 39)⌋ : ℚ) * (2 : ℚ) ^ (e - 39))).sum

/-- R41, R43, R44: `code` is a rational number rounded once into a format without a shared scale. -/
def roundedTo (c : Nat) (r : Rnd) (y : ℚ) (code : Nat) : Prop :=
  ∃ v : Val, v.isFinite = true ∧ v.rat = y ∧ code = (encodeElem c r v).1

/-- R46: eight values as a block of format `c`: a value that is not finite gives scale 0xFF and zeros; otherwise the scale
takes the greatest one to the top binade of the element format, within -127 to 127, and each element is rounded once under it
with saturation on. -/
def blockOf (c : Nat) (r : Nat → Rnd) (v : Nat → Val) (sc : Nat) (code : Nat → Nat) : Prop :=
  ((∃ i, i < 8 ∧ (v i).isFinite = false) → sc = 0xFF ∧ ∀ i, i < 8 → code i = 0) ∧
  ((∀ i, i < 8 → (v i).isFinite = true) → ∃ x : Int, -127 ≤ x ∧ x ≤ 127 ∧ (sc : Int) = x + 127 ∧
    (x < 127 → ∀ i, i < 8 → |(v i).rat| < (2 : ℚ) ^ (x + elemMax c + 1)) ∧
    (-127 < x → ∃ i, i < 8 ∧ (2 : ℚ) ^ (x + elemMax c) ≤ |(v i).rat|) ∧
    ∀ i, i < 8 → code i = (roundTo (elemFmt c) { r i with sat := true } ((v i).scale (-x))).1)

/-- R91, R153: the finite operands for which a form gives a finite value. -/
def VecOp.Defined (op : VecOp) (a : Val) : Prop :=
  match op with
  | .rcp => a.rat ≠ 0
  | .rsqrt | .log2 => 0 < a.rat
  | .sqrt => 0 ≤ a.rat
  | _ => True

/-- R152, R153: `x` is the value of a form for finite elements, before its one rounding. Quotients and roots are given to
within a bound beyond the precision of every format; of the other functions, the points where R153 gives an exact value and
the arguments whose value is nearest to 0, 1/2 or 1. -/
def elementIs (op : VecOp) (acc a b d x : Val) : Prop :=
  x.isFinite = true ∧
  match op with
  | .add => x.rat = a.rat + b.rat
  | .sub => x.rat = a.rat - b.rat
  | .mul => x.rat = a.rat * b.rat
  | .min => x.rat = min a.rat b.rat
  | .max => x.rat = max a.rat b.rat
  | .abs => x.rat = |a.rat|
  | .neg => x.rat = -a.rat
  | .cmpeq => x.rat = if a.rat = b.rat then 1 else 0
  | .cmplt => x.rat = if a.rat < b.rat then 1 else 0
  | .cmple => x.rat = if a.rat ≤ b.rat then 1 else 0
  | .fma => x.rat = a.rat * b.rat + d.rat
  | .fms => x.rat = a.rat * b.rat - d.rat
  | .fnma => x.rat = d.rat - a.rat * b.rat
  | .scal => x.rat = acc.rat * a.rat
  | .axpy => x.rat = acc.rat * a.rat + b.rat
  | .fill => x.rat = acc.rat
  | .cvt => x.rat = a.rat
  | .sel => x.rat = if d.rat = 0 then b.rat else a.rat
  | .rcp => |x.rat * a.rat - 1| * 2 ^ 199 ≤ 1
  | .rsqrt => 0 < x.rat ∧ |x.rat ^ 2 * a.rat - 1| * 2 ^ 190 ≤ 1
  | .sqrt => 0 ≤ x.rat ∧ |x.rat ^ 2 - a.rat| * 2 ^ 199 ≤ a.rat
  | .exp2 => ∀ k : Int, |k| < 2 ^ 20 → a.rat = k → x.rat = (2 : ℚ) ^ k
  | .log2 => ∀ k : Int, a.rat = (2 : ℚ) ^ k → x.rat = k
  | .tanh => (a.rat = 0 → x.rat = 0) ∧ (64 ≤ a.rat → |x.rat - 1| * 2 ^ 200 ≤ 1) ∧ (a.rat ≤ -64 → |x.rat + 1| * 2 ^ 200 ≤ 1) ∧
      (|a.rat| * 2 ^ 110 < 1 → |x.rat - a.rat| * 2 ^ 200 ≤ |a.rat|)
  | .sigm => (a.rat = 0 → x.rat = 1 / 2) ∧ (2 ^ 21 ≤ a.rat → |x.rat - 1| * 2 ^ 200 ≤ 1) ∧
      (a.rat ≤ -2 ^ 21 → 0 < x.rat ∧ x.rat * 2 ^ 1000 ≤ 1) ∧ (|a.rat| * 2 ^ 70 < 1 → |x.rat - 1 / 2| * 2 ^ 200 ≤ 1)
  | .copy | .rsum | .rmax | .rmin | .rsumsq | .rdot => True

/-- The vector unit of a tile ends a pass: it has begun, its time has come, its operands pass the checks of R156 in the formats
it took at its start (R244), no word is poisoned or holds an error, no thread waits at a word, and no stop is pending. -/
structure State.PassEnds (s : State) (u : Nat) (v : VecRun) (o : VecOps) : Prop where
  standing : (s.tile u).shut = false
  running  : (s.tile u).vec = some v
  begun    : v.begun = true
  due      : v.due ≤ s.now
  wf       : s.MemWf
  clean    : s.mem.poison = []
  sound    : s.Sound
  slot     : v.slot < (s.tile u).slots.length
  checked  : s.vecCheck u v.slot v.form v.n = .ok o
  formats  : v.fmts = s.formatsOf u o
  more     : v.at_ < v.n ∧ 0 < v.len
  quiet    : ∀ w, w ∉ (s.tile u).waiters ∧ w ∉ (s.tile u).spilled
  going    : s.vecHalts u v.slot = false

/-- The same of a form with a destination, which lies in one macro that takes stores (R159). -/
structure State.WritesPass (s : State) (u : Nat) (v : VecRun) (o : VecOps) (m e : Nat) : Prop extends s.PassEnds u v o where
  dest  : o.d = [(m, e, v.n, 0)]
  room  : e + v.n ≤ fmtCap (s.fmtAt u m)
  open_ : (s.tile u).spadGate m true = .go

/-- R244: formats read earlier are the present ones. -/
def State.Current (s : State) (t : Nat) (fs : List (Nat × Nat × Nat)) : Prop :=
  ∀ f, f ∈ fs → f.2.1 = s.fmtAt t f.1 ∧ f.2.2 = s.grpAt t f.1

/-- What an engine's access to memory rests on in the statements: no word holds poison or an error, and no thread of the tile
waits at a word. -/
structure State.Plain (s : State) (t : Nat) : Prop where
  wf    : s.MemWf
  clean : s.mem.poison = []
  sound : s.Sound
  quiet : ∀ w, w ∉ (s.tile t).waiters ∧ w ∉ (s.tile t).spilled

/-- The copy engine of a tile is at a row of a command, checked, with nothing under way (R181). -/
structure State.RowEnds (s : State) (t : Nat) (r : Run) : Prop where
  running : (s.tile t).cpe = some r
  turn    : s.turn t (engRank .cpe) = true
  wait    : r.wait = .run
  err     : r.err = 0
  killed  : r.killed = false
  row     : r.row = []
  busy    : r.busy = false
  begun   : r.begun = true
  asked   : r.asked = []
  slot    : r.slot = none
  more    : r.prog < r.job.rows
  plain   : r.job.ck = false
  formats : s.Current t r.fmts

/-- R187: what a program of `nexpr` does to a stack of FP32 codes, top first: `push` gives the streams' elements and the
constants; each arithmetic operator rounds once to nearest. Every operand is finite here. -/
inductive ExprRuns (push : Nat → Nat) : List Nat → List Nat → List Nat → Prop where
  | done (st : List Nat) : ExprRuns push [] st st
  | push (c : Nat) (cs st f : List Nat) : 1 ≤ c → c ≤ 7 → ExprRuns push cs (push c :: st) f → ExprRuns push (c :: cs) st f
  | two (c y z k : Nat) (q : ℚ) (cs st f : List Nat) : (fp32.value y).isFinite = true → (fp32.value z).isFinite = true →
      (c = 8 ∧ q = (fp32.value y).rat + (fp32.value z).rat ∨ c = 9 ∧ q = (fp32.value y).rat - (fp32.value z).rat ∨
        c = 10 ∧ q = (fp32.value y).rat * (fp32.value z).rat) →
      q ≠ 0 → roundedTo 1 rne q k → ExprRuns push cs (k :: st) f → ExprRuns push (c :: cs) (z :: y :: st) f
  | least (y z : Nat) (cs st f : List Nat) : (fp32.value y).Below (fp32.value z) → ExprRuns push cs (y :: st) f →
      ExprRuns push (11 :: cs) (z :: y :: st) f
  | greatest (y z : Nat) (cs st f : List Nat) : (fp32.value y).Below (fp32.value z) → ExprRuns push cs (z :: st) f →
      ExprRuns push (12 :: cs) (z :: y :: st) f
  | fma (x y z k : Nat) (q : ℚ) (cs st f : List Nat) : (fp32.value x).isFinite = true → (fp32.value y).isFinite = true →
      (fp32.value z).isFinite = true → q = (fp32.value x).rat * (fp32.value y).rat + (fp32.value z).rat →
      q ≠ 0 → roundedTo 1 rne q k → ExprRuns push cs (k :: st) f → ExprRuns push (13 :: cs) (z :: y :: x :: st) f
  | neg (z : Nat) (cs st f : List Nat) : z < 2 ^ 31 → ExprRuns push cs ((z + 2 ^ 31) :: st) f → ExprRuns push (16 :: cs) (z :: st) f
  | abs (z : Nat) (cs st f : List Nat) : ExprRuns push cs (z % 2 ^ 31 :: st) f → ExprRuns push (17 :: cs) (z :: st) f
  | relu (z : Nat) (cs st f : List Nat) : (fp32.value z).isFinite = true →
      ExprRuns push cs ((if 0 < (fp32.value z).rat then z else 0) :: st) f → ExprRuns push (18 :: cs) (z :: st) f
  | dup (z : Nat) (cs st f : List Nat) : ExprRuns push cs (z :: z :: st) f → ExprRuns push (19 :: cs) (z :: st) f
  | swap (y z : Nat) (cs st f : List Nat) : ExprRuns push cs (y :: z :: st) f → ExprRuns push (20 :: cs) (z :: y :: st) f
  | sel (x y z : Nat) (cs st f : List Nat) : (fp32.value x).isFinite = true →
      ExprRuns push cs ((if 0 < (fp32.value x).rat then y else z) :: st) f → ExprRuns push (21 :: cs) (z :: y :: x :: st) f

/-- R185: tile `t` holds `n` bytes at an address, within one granule of an object that is no replicated code, at DRAM key `k`. -/
def State.InDram (s : State) (t ctx : Nat) (a : Word) (n k : Nat) : Prop :=
  ∃ e o, (s.tile t).extent ctx (objOf a) (granOf a) = some e ∧ s.object ctx (objOf a) = some o ∧ o.place ≠ 3 ∧
    offOf a % 65536 + n ≤ 65536 ∧ k = dramKey t e.page (offOf a) ∧ k + n ≤ 2 ^ 80

/-- R185: no cached line of tile `t` holds bytes of the destination of a command. -/
def State.NoLines (s : State) (t ctx : Nat) (op : CmdOp) (j : NmJob) : Prop :=
  ∀ q l, q ∈ nmRanges op j → q.2.2.2 = true → l ∈ (s.tile t).l1 ∨ l ∈ (s.tile t).slices → inRange ctx q.1 q.2.1 l = false

/-- The little-endian number of `n` bytes at a key of memory. -/
def Mem.num (m : Mem) (k n : Nat) : Nat := ((List.range n).map (fun i => (m.byte (k + i)).toNat * 256 ^ i)).sum

end Sys2Proof.Machine
end

