-- ==== Sys2Proof/Certificates/Slice0/Obligations.lean ====
section
/-! DEFINITION. The statements of this model, from the numbered rules of the manual. -/

open Sys2Proof Sys2Proof.Machine

/-! ### Scalar instructions (R78-R100) -/

/-- R82: each integer form writes the arithmetic result of its operands and ends at the next word, from every issuing
state. -/
def Sys2Proof.Claim.integerResults : Prop :=
  ∀ (s : State) (d a b : Reg), s.issuing = true →
    let x := s.rd a
    let y := s.rd b
    let x3 := lo32 x
    let y3 := lo32 y
    exec (.add d a b false) s = .next (s.wrote d (fromInt (x.toInt + y.toInt))) ∧
    exec (.add d a b true) s = .next (s.wrote d (fromInt32 (x3.toInt + y3.toInt))) ∧
    exec (.sub d a b false) s = .next (s.wrote d (fromInt (x.toInt - y.toInt))) ∧
    exec (.sub d a b true) s = .next (s.wrote d (fromInt32 (x3.toInt - y3.toInt))) ∧
    exec (.sll d a b false) s = .next (s.wrote d (fromNat (x.toNat * 2 ^ (y.toNat % 64)))) ∧
    exec (.sll d a b true) s = .next (s.wrote d (fromInt32 (x3.toNat * 2 ^ (y3.toNat % 32) : Nat))) ∧
    exec (.srl d a b false) s = .next (s.wrote d (fromNat (x.toNat / 2 ^ (y.toNat % 64)))) ∧
    exec (.srl d a b true) s = .next (s.wrote d (fromInt32 (x3.toNat / 2 ^ (y3.toNat % 32) : Nat))) ∧
    exec (.sra d a b false) s = .next (s.wrote d (fromInt (x.toInt / 2 ^ (y.toNat % 64)))) ∧
    exec (.sra d a b true) s = .next (s.wrote d (fromInt32 (x3.toInt / 2 ^ (y3.toNat % 32)))) ∧
    exec (.slt d a b) s = .next (s.wrote d (if x.toInt < y.toInt then 1#64 else 0#64)) ∧
    exec (.sltu d a b) s = .next (s.wrote d (if x.toNat < y.toNat then 1#64 else 0#64)) ∧
    exec (.min d a b) s = .next (s.wrote d (fromInt (min x.toInt y.toInt))) ∧
    exec (.max d a b) s = .next (s.wrote d (fromInt (max x.toInt y.toInt))) ∧
    exec (.minu d a b) s = .next (s.wrote d (fromNat (min x.toNat y.toNat))) ∧
    exec (.maxu d a b) s = .next (s.wrote d (fromNat (max x.toNat y.toNat))) ∧
    exec (.mul d a b false) s = .next (s.wrote d (fromInt (x.toInt * y.toInt))) ∧
    exec (.mul d a b true) s = .next (s.wrote d (fromInt32 (x3.toInt * y3.toInt))) ∧
    exec (.mulh d a b) s = .next (s.wrote d (fromInt (x.toInt * y.toInt / 2 ^ 64))) ∧
    exec (.mulhu d a b) s = .next (s.wrote d (fromNat (x.toNat * y.toNat / 2 ^ 64))) ∧
    (∃ u v w, exec (.and d a b) s = .next (s.wrote d u) ∧ exec (.or d a b) s = .next (s.wrote d v) ∧
      exec (.xor d a b) s = .next (s.wrote d w) ∧
      ∀ i, i < 64 → u.getLsbD i = (x.getLsbD i && y.getLsbD i) ∧ v.getLsbD i = (x.getLsbD i || y.getLsbD i) ∧
        w.getLsbD i = (x.getLsbD i != y.getLsbD i))

/-- R83: division at both widths, zero divisors and the overflowing quotient included. -/
def Sys2Proof.Claim.divisionResults : Prop :=
  ∀ (s : State) (d a b : Reg), s.issuing = true →
    let x := s.rd a
    let y := s.rd b
    let x3 := lo32 x
    let y3 := lo32 y
    exec (.div d a b false) s = .next (s.wrote d (fromInt (quotSigned 64 x.toInt y.toInt))) ∧
    exec (.div d a b true) s = .next (s.wrote d (fromInt32 (quotSigned 32 x3.toInt y3.toInt))) ∧
    exec (.divu d a b false) s = .next (s.wrote d (fromNat (quotUnsigned 64 x.toNat y.toNat))) ∧
    exec (.divu d a b true) s = .next (s.wrote d (fromInt32 (quotUnsigned 32 x3.toNat y3.toNat))) ∧
    exec (.rem d a b false) s = .next (s.wrote d (fromInt (remSigned' x.toInt y.toInt))) ∧
    exec (.rem d a b true) s = .next (s.wrote d (fromInt32 (remSigned' x3.toInt y3.toInt))) ∧
    exec (.remu d a b false) s = .next (s.wrote d (fromNat (remUnsigned' x.toNat y.toNat))) ∧
    exec (.remu d a b true) s = .next (s.wrote d (fromInt32 (remUnsigned' x3.toNat y3.toNat)))

/-- R82, R83: the integer forms, division included. -/
def Obligations.IntegerResults : Prop := Claim.integerResults ∧ Claim.divisionResults

/-- R84-R87: the immediate forms with the immediate read as the pending XW words extend it: none, one or two. -/
def Obligations.ImmediateResults : Prop :=
  ∀ (s : State) (d a : Reg) (i : BitVec 18) (j : BitVec 22) (k : BitVec 6), s.issuing = true →
    (let x := s.rd a
     exec (.slli d a k) s = .next (s.wrote d (fromNat (x.toNat * 2 ^ k.toNat))) ∧
     exec (.srli d a k) s = .next (s.wrote d (fromNat (x.toNat / 2 ^ k.toNat))) ∧
     exec (.srai d a k) s = .next (s.wrote d (fromInt (x.toInt / 2 ^ k.toNat))) ∧
     (s.curSlot.ext.length ≤ 2 →
       let v := extInt s.curSlot.ext i
       let w := extInt s.curSlot.ext j
       let xi : Word := if s.curSlot.ext = [] then fromNat i.toNat else fromInt v
       exec (.addi d a i) s = .next (s.wrote d (fromInt (x.toInt + v))) ∧
       exec (.andi d a i) s = .next (s.wrote d (x &&& fromInt v)) ∧
       exec (.ori d a i) s = .next (s.wrote d (x ||| fromNat (extNat s.curSlot.ext i))) ∧
       exec (.xori d a i) s = .next (s.wrote d (x ^^^ xi)) ∧
       exec (.slti d a i) s = .next (s.wrote d (if x.toInt < (fromInt v).toInt then 1#64 else 0#64)) ∧
       exec (.movi d j) s = .next (s.wrote d (fromInt w)) ∧
       exec (.movhi d j) s = .next (s.wrote d (fromInt (w % 2 ^ 32 * 2 ^ 32 + ((s.rd d).toNat % 2 ^ 32 : Nat))))))

/-- R88: fields are taken, inserted, counted and bytes reversed, bit by bit. -/
def Obligations.BitfieldResults : Prop :=
  ∀ (s : State) (d a : Reg) (p l : BitVec 6), s.issuing = true → p.toNat + l.toNat + 1 ≤ 64 →
    let x := s.rd a
    let n := l.toNat + 1
    exec (.bext d a p l) s = .next (s.wrote d (fromNat (x.toNat / 2 ^ p.toNat % 2 ^ n))) ∧
    exec (.bexts d a p l) s = .next (s.wrote d (fromInt (sext n (x.toNat / 2 ^ p.toNat)))) ∧
    exec (.bins d a p l) s = .next (s.wrote d (fromNat ((s.rd d).toNat -
      (s.rd d).toNat / 2 ^ p.toNat % 2 ^ n * 2 ^ p.toNat + x.toNat % 2 ^ n * 2 ^ p.toNat))) ∧
    (∃ c, exec (.clz d a) s = .next (s.wrote d (fromNat c)) ∧ c ≤ 64 ∧ x.toNat < 2 ^ (64 - c) ∧
      (c < 64 → x.getLsbD (63 - c) = true)) ∧
    (∃ c, exec (.ctz d a) s = .next (s.wrote d (fromNat c)) ∧ c ≤ 64 ∧ x.toNat % 2 ^ c = 0 ∧
      (c < 64 → x.getLsbD c = true)) ∧
    exec (.popc d a) s = .next (s.wrote d (fromNat ((List.range 64).countP (fun i => x.getLsbD i)))) ∧
    (∃ v, exec (.bswap d a) s = .next (s.wrote d v) ∧
      ∀ i, i < 8 → v.extractLsb' (8 * i) 8 = x.extractLsb' (8 * (7 - i)) 8)

/-- R89: the integer accumulate forms. -/
def Obligations.AccumulatorResults : Prop :=
  ∀ (s : State) (a b : Reg), s.issuing = true →
    exec (.mac a b) s = .next (s.wrote .acc (fromInt ((s.rd .acc).toInt + (s.rd a).toInt * (s.rd b).toInt))) ∧
    exec (.msb a b) s = .next (s.wrote .acc (fromInt ((s.rd .acc).toInt - (s.rd a).toInt * (s.rd b).toInt)))

/-- R31, R89, R91, R95: sums, products and fused forms round the exact rational result once for finite operands, and a NaN
operand gives the canonical NaN with NV for a signalling one. -/
def Obligations.FloatSums : Prop :=
  ∀ (s : State) (d a b : Reg) (p : Bool), s.issuing = true →
    let x := fpVal p (s.rd a)
    let y := fpVal p (s.rd b)
    let z := fpVal p (s.rd d)
    let w := fpVal p (s.rd .acc)
    let nan (r : Reg) (sig : Bool) : State := s.wroteFlags r (fromNat (fpFmt p).nanCode) (Flags.nvIf sig)
    let put (r : Reg) (v : Val) : State := s.wroteRounded p r (regCode r) v Flags.none
    let one (i : Instr) (r : Reg) (q : ℚ) : Prop := ∃ v, v.isFinite = true ∧ v.rat = q ∧ exec i s = .next (put r v)
    let acc : Instr := if p then .fmacD a b else .fmacS a b
    (x.isFinite = true → y.isFinite = true →
      one (.fadd d a b p) d (x.rat + y.rat) ∧ one (.fsub d a b p) d (x.rat - y.rat) ∧
      one (.fmul d a b p) d (x.rat * y.rat) ∧
      (z.isFinite = true → one (.fma d a b p) d (x.rat * y.rat + z.rat) ∧ one (.fms d a b p) d (x.rat * y.rat - z.rat) ∧
        one (.fnma d a b p) d (-(x.rat * y.rat) + z.rat) ∧ one (.fnms d a b p) d (-(x.rat * y.rat) - z.rat)) ∧
      (w.isFinite = true → one acc .acc (w.rat + x.rat * y.rat))) ∧
    ((x.isNan || y.isNan) = true →
      exec (.fadd d a b p) s = .next (nan d (x.isSig || y.isSig)) ∧
      exec (.fsub d a b p) s = .next (nan d (x.isSig || y.isSig)) ∧
      exec (.fmul d a b p) s = .next (nan d (x.isSig || y.isSig)) ∧
      (z.isNan = false → exec (.fma d a b p) s = .next (nan d (x.isSig || y.isSig)) ∧
        exec (.fms d a b p) s = .next (nan d (x.isSig || y.isSig)) ∧
        exec (.fnma d a b p) s = .next (nan d (x.isSig || y.isSig)) ∧
        exec (.fnms d a b p) s = .next (nan d (x.isSig || y.isSig))) ∧
      (w.isNan = false → exec acc s = .next (nan .acc (x.isSig || y.isSig))))

/-- R91: quotients and roots: a zero divisor, zero by zero, and for ordinary operands one rounding of a value within
2^-199 of the exact one. -/
def Obligations.FloatQuotients : Prop :=
  ∀ (s : State) (d a b : Reg) (p : Bool), s.issuing = true →
    let x := fpVal p (s.rd a)
    let y := fpVal p (s.rd b)
    let put (v : Val) (fl : Flags) : State := s.wroteRounded p d (regCode d) v fl
    (x.isFinite = true → y.isFinite = true → y.rat ≠ 0 →
      ∃ v, v.isFinite = true ∧ |v.rat * y.rat - x.rat| * 2 ^ 199 ≤ |x.rat| ∧ exec (.fdiv d a b p) s = .next (put v Flags.none)) ∧
    (x.isFinite = true → y.isFinite = true → y.rat = 0 → x.rat ≠ 0 →
      exec (.fdiv d a b p) s = .next (put (.inf (x.sign != y.sign)) Flags.dz)) ∧
    (x.isFinite = true → y.isFinite = true → y.rat = 0 → x.rat = 0 →
      exec (.fdiv d a b p) s = .next (s.wroteFlags d (fromNat (fpFmt p).nanCode) Flags.nv)) ∧
    (x.isFinite = true → 0 ≤ x.rat →
      ∃ v, v.isFinite = true ∧ |v.rat * v.rat - x.rat| * 2 ^ 199 ≤ x.rat ∧ exec (.fsqrt d a p) s = .next (put v Flags.none)) ∧
    (x.isFinite = true → x.rat < 0 → exec (.fsqrt d a p) s = .next (s.wroteFlags d (fromNat (fpFmt p).nanCode) Flags.nv)) ∧
    (x.isNan = true → exec (.fsqrt d a p) s = .next (s.wroteFlags d (fromNat (fpFmt p).nanCode) (Flags.nvIf x.isSig)))

/-- R41: a value that the format can represent rounds to its own code without a flag, in every mode. -/
def Obligations.RoundingKeepsRepresentable : Prop :=
  ∀ (f : Fmt) (r : Rnd) (c : Nat), f ∈ [fp64, fp32, bf16, fp16, e4m3, e5m2, e2m3, e3m2, e2m1] → c < 2 ^ f.width →
    (f.value c).isFinite = true → roundTo f r (f.value c) = (c, Flags.none)

/-- R93, R94: minimum and maximum answer an operand bit for bit; comparisons, sign operations and classification. -/
def Obligations.FloatComparisons : Prop :=
  ∀ (s : State) (d a b : Reg) (p : Bool), s.issuing = true →
    let cx := fpBits p (s.rd a)
    let cy := fpBits p (s.rd b)
    let x := fpVal p (s.rd a)
    let y := fpVal p (s.rd b)
    let sg : Nat := if p then 63 else 31
    let bit (n : Nat) : Prop := exec (.fclass d a p) s = .next (s.wrote d (fromNat (2 ^ n)))
    (x.isNan = false → y.isNan = false →
      (x.Below y → exec (.fmin d a b p) s = .next (s.wrote d (fromNat cx)) ∧ exec (.fmax d a b p) s = .next (s.wrote d (fromNat cy)) ∧
        exec (.flt d a b p) s = .next (s.wrote d 1#64) ∧ exec (.fle d a b p) s = .next (s.wrote d 1#64) ∧
        exec (.feq d a b p) s = .next (s.wrote d 0#64)) ∧
      (y.Below x → exec (.fmin d a b p) s = .next (s.wrote d (fromNat cy)) ∧ exec (.fmax d a b p) s = .next (s.wrote d (fromNat cx)) ∧
        exec (.flt d a b p) s = .next (s.wrote d 0#64) ∧ exec (.fle d a b p) s = .next (s.wrote d 0#64) ∧
        exec (.feq d a b p) s = .next (s.wrote d 0#64)) ∧
      (x.Same y → exec (.flt d a b p) s = .next (s.wrote d 0#64) ∧ exec (.fle d a b p) s = .next (s.wrote d 1#64) ∧
        exec (.feq d a b p) s = .next (s.wrote d 1#64))) ∧
    ((x.isNan || y.isNan) = true →
      exec (.flt d a b p) s = .next (s.wroteFlags d 0#64 Flags.nv) ∧ exec (.fle d a b p) s = .next (s.wroteFlags d 0#64 Flags.nv) ∧
      exec (.feq d a b p) s = .next (s.wroteFlags d 0#64 (Flags.nvIf (x.isSig || y.isSig)))) ∧
    ((x.isSig || y.isSig) = true →
      exec (.fmin d a b p) s = .next (s.wroteFlags d (fromNat (fpFmt p).nanCode) Flags.nv) ∧
      exec (.fmax d a b p) s = .next (s.wroteFlags d (fromNat (fpFmt p).nanCode) Flags.nv)) ∧
    (∃ u v, exec (.fabs d a p) s = .next (s.wrote d u) ∧ exec (.fneg d a p) s = .next (s.wrote d v) ∧
      ∀ i, i < 64 → u.getLsbD i = (i < sg && (s.rd a).getLsbD i) ∧
        v.getLsbD i = (if i = sg then !(s.rd a).getLsbD i else i < sg && (s.rd a).getLsbD i)) ∧
    (x = .inf true → bit 0) ∧ (x = .inf false → bit 7) ∧ (x = .nan true → bit 8) ∧ (x = .nan false → bit 9) ∧
    (x.isFinite = true → x.rat = 0 → bit (if x.sign then 3 else 4)) ∧
    (x.isFinite = true → x.rat ≠ 0 → |x.rat| < leastNormal p → bit (if x.sign then 2 else 5)) ∧
    (x.isFinite = true → leastNormal p ≤ |x.rat| → bit (if x.sign then 1 else 6))

/-- R96: a conversion takes the exact value once: an integer that fits is written as it is, one that does not becomes the
nearer limit with NV, a NaN becomes 0 with NV, a floating-point destination gets the value rounded once. -/
def Obligations.Conversions : Prop :=
  ∀ (s : State) (d a : Reg) (t u : CvtType), s.issuing = true → t ≠ u →
    let v := cvtSource u (s.rd a)
    (∀ f, cvtKind t = .inl f →
      let r := roundTo f (s.curSlot.th.rnd (s.srkey s.cur.1 s.cur.2) true (regCode d)) v
      exec (.cvt d a t u) s = .next (s.wroteFlags d (fromNat r.1) r.2)) ∧
    (∀ n sg, cvtKind t = .inr (n, sg) →
      let lo : Int := if sg then -(2 ^ (n - 1)) else 0
      let hi : Int := if sg then 2 ^ (n - 1) - 1 else 2 ^ n - 1
      let put (k : Int) (fl : Flags) : State := s.wroteFlags d (fromNat (k % 2 ^ n).toNat) fl
      (v.isNan = true → exec (.cvt d a t u) s = .next (put 0 Flags.nv)) ∧
      (v.isFinite = true → ∀ k : Int, v.rat = k →
        (lo ≤ k → k ≤ hi → exec (.cvt d a t u) s = .next (put k Flags.none)) ∧
        (k < lo → exec (.cvt d a t u) s = .next (put lo Flags.nv)) ∧
        (hi < k → exec (.cvt d a t u) s = .next (put hi Flags.nv))) ∧
      (v.isFinite = true → s.curSlot.th.rm = 1 → lo < v.rat → v.rat < hi → (∀ k : Int, v.rat ≠ k) →
        ∃ k : Int, |v.rat - k| < 1 ∧ |(k : ℚ)| < |v.rat| ∧ exec (.cvt d a t u) s = .next (put k Flags.nx)))

/-- R97, R98, R100: branches go to the word's own address plus four times the extended offset when their condition holds. -/
def Sys2Proof.Claim.branches : Prop :=
  ∀ (s : State) (a b : Reg) (f : BitVec 15) (g : BitVec 26), s.issuing = true →
    let x := s.rd a
    let y := s.rd b
    let ip := s.curSlot.ipc
    let stay : State := s.ended id (ip + 4#64)
    s.curSlot.ext.length ≤ 2 →
      let o := extInt s.curSlot.ext f
      let o2 := extInt s.curSlot.ext g
      let go : State := s.ended id (fromInt (ip.toInt + 4 * o))
      let pick (c : Prop) (t : State) : Prop := (c → t = go) ∧ (¬ c → t = stay)
      let br (i : Instr) (c : Prop) : Prop := ∃ t, exec i s = .next t ∧ pick c t
      br (.beq a b f) (x = y) ∧ br (.bne a b f) (x ≠ y) ∧ br (.blt a b f) (x.toInt < y.toInt) ∧
      br (.bge a b f) (y.toInt ≤ x.toInt) ∧ br (.bltu a b f) (x.toNat < y.toNat) ∧ br (.bgeu a b f) (y.toNat ≤ x.toNat) ∧
      br (.bz a f) (x.toInt = 0) ∧ br (.bnz a f) (x.toInt ≠ 0) ∧ br (.bltz a f) (x.toInt < 0) ∧
      br (.bgez a f) (0 ≤ x.toInt) ∧ br (.bgtz a f) (0 < x.toInt) ∧ br (.blez a f) (x.toInt ≤ 0) ∧
      exec (.jmp g) s = .next (s.ended id (fromInt (ip.toInt + 4 * o2))) ∧
      exec (.jal g) s = .next (s.ended (fun th => th.setReg (.w 7#3) (ip + 4#64)) (fromInt (ip.toInt + 4 * o2))) ∧
      (let v := fromInt (x.toInt - 1)
       exec (.dbnz a f) s = .next (s.ended (fun th => th.setReg a v)
         (if v = 0#64 then ip + 4#64 else fromInt (ip.toInt + 4 * o))))

/-- R97, R99: register jumps link and go to a multiple of 4; any other target raises ALIGN with that target and writes no
register. -/
def Sys2Proof.Claim.registerJumps : Prop :=
  ∀ (s : State) (d a : Reg), s.issuing = true →
    let x := s.rd a
    (x.toNat % 4 = 0 →
      exec (.jr a) s = .next (s.ended id x) ∧
      exec (.jalr d a) s = .next (s.ended (fun th => th.setReg d s.following) x)) ∧
    (x.toNat % 4 ≠ 0 →
      exec (.jr a) s = .next (s.raise s.cur.1 s.cur.2 0x03 x 0#64) ∧
      exec (.jalr d a) s = .next (s.raise s.cur.1 s.cur.2 0x03 x 0#64))

/-- R97-R100: branches and register jumps. -/
def Obligations.BranchesAndJumps : Prop := Claim.branches ∧ Claim.registerJumps

/-- R60-R62: an XW word keeps its payload or modifier for the next word of the run; a third word, or a word after a
modifier, raises ILLEGAL with the run's first word. -/
def Obligations.XwWords : Prop :=
  ∀ (s : State) (e : BitVec 25) (n x : Bool), s.issuing = true →
    let sl := s.curSlot
    (sl.ext.length < 2 → sl.ipc = sl.th.pc + fromNat (4 * sl.ext.length) →
      exec (.xwExtension e) s = .next (s.modCur (fun sl => { sl with ipc := sl.ipc + 4#64, ext := sl.ext ++ [e] })) ∧
      exec (.xwModifier n x) s = .next (s.modCur (fun sl => { sl with ipc := sl.ipc + 4#64, sx := x, nt := n }))) ∧
    (∀ e0 e1, sl.ext = [e0, e1] →
      let w : Word := (0xFC000000#32 ||| e0.zeroExtend 32).zeroExtend 64
      exec (.xwExtension e) s = .next (s.raise s.cur.1 s.cur.2 0x01 0#64 w) ∧
      exec (.xwModifier n x) s = .next (s.raise s.cur.1 s.cur.2 0x01 0#64 w)) ∧
    (sl.ext = [] → sl.ipc ≠ sl.th.pc →
      let w : Word := (0xFE000000#32 ||| (if sl.nt then 2#32 else 0#32) ||| (if sl.sx then 1#32 else 0#32)).zeroExtend 64
      exec (.xwExtension e) s = .next (s.raise s.cur.1 s.cur.2 0x01 0#64 w) ∧
      exec (.xwModifier n x) s = .next (s.raise s.cur.1 s.cur.2 0x01 0#64 w))

/-- The destination of an instruction of "Scalar and Control": the one register that it may write. -/
def scalarDest : Instr → Option Reg
  | .add d _ _ _ | .sub d _ _ _ | .sll d _ _ _ | .srl d _ _ _ | .sra d _ _ _ | .mul d _ _ _ | .div d _ _ _ | .divu d _ _ _
  | .rem d _ _ _ | .remu d _ _ _ => some d
  | .and d _ _ | .or d _ _ | .xor d _ _ | .slt d _ _ | .sltu d _ _ | .min d _ _ | .max d _ _ | .minu d _ _ | .maxu d _ _
  | .mulh d _ _ | .mulhu d _ _ => some d
  | .addi d _ _ | .andi d _ _ | .ori d _ _ | .xori d _ _ | .slti d _ _ | .slli d _ _ | .srli d _ _ | .srai d _ _ => some d
  | .movi d _ | .movhi d _ | .clz d _ | .ctz d _ | .popc d _ | .bswap d _ => some d
  | .bext d _ _ _ | .bexts d _ _ _ | .bins d _ _ _ => some d
  | .mac _ _ | .msb _ _ | .fmacS _ _ | .fmacD _ _ => some .acc
  | .fadd d _ _ _ | .fsub d _ _ _ | .fmul d _ _ _ | .fdiv d _ _ _ | .fmin d _ _ _ | .fmax d _ _ _ | .feq d _ _ _
  | .flt d _ _ _ | .fle d _ _ _ | .fma d _ _ _ | .fms d _ _ _ | .fnma d _ _ _ | .fnms d _ _ _ => some d
  | .fsqrt d _ _ | .fabs d _ _ | .fneg d _ _ | .fclass d _ _ => some d
  | .cvt d _ _ _ => some d
  | .beq .. | .bne .. | .blt .. | .bge .. | .bltu .. | .bgeu .. | .bz .. | .bnz .. | .bltz .. | .bgez .. | .bgtz ..
  | .blez .. | .jmp _ => some .zr
  | .jal _ => some (.w 7#3)
  | .dbnz a _ => some a
  | _ => none

/-- R79: whether a scalar instruction may set flags. -/
def setsFlags : Instr → Bool
  | .fmacS .. | .fmacD .. | .fadd .. | .fsub .. | .fmul .. | .fdiv .. | .fsqrt .. | .fmin .. | .fmax .. | .feq .. | .flt ..
  | .fle .. | .fma .. | .fms .. | .fnma .. | .fnms .. | .cvt .. => true
  | _ => false

/-- R78-R80: the frame of every scalar instruction but `jr` and `jalr`: no register but the destination changes, no
special register, no `st` bit but the sticky flags of a form that sets them, no other slot, no tile, no byte of memory and
nothing else of the module. -/
def Obligations.ScalarFrame : Prop :=
  ∀ (i : Instr) (d : Reg) (s t : State), scalarDest i = some d → exec i s = .next t →
    s.OnlySlot t s.cur.1 s.cur.2 ∧ s.SameMem t ∧
    (∀ r, r ≠ d → (s.then_ t).reg r = s.rd r) ∧ s.curSlot.th.SameSpecial (s.then_ t) ∧
    (setsFlags i = false → (s.then_ t).st = s.curSlot.th.st) ∧
    (∀ n, s.curSlot.th.st.getLsbD n = true → (s.then_ t).st.getLsbD n = true)

/-! ### Memory instructions (R102-R126) -/

/-- R103, R104, R111: loads performed at the thread's own tile: every form, size, mode and extension; the destination gets the bytes,
the base its new value, nothing else of the thread changes, and the slot goes on. -/
def Obligations.LoadResults : Prop :=
  ∀ (s : State) (d : Reg) (b : Ptr) (x : Reg) (z : Size) (m : Mode) (o : Sys2Proof.Order) (c : Scope) (f : BitVec 9) (ob : Object),
    s.issuing = true → s.curSlot.ext.length ≤ 2 →
    let u := s.cur.1
    let th := s.curSlot.th
    let ctx := s.memCtx u s.cur.2
    let n := sizeBytes z
    let off := extInt s.curSlot.ext f
    let ok (a : Word) (nt : Bool) : Prop := s.AtHome u ctx a n ob ∧ (s.view u ctx a).poison = false ∧
      (nt = true ∨ s.l1Has u ctx a = true)
    let done (i : Instr) (a : Word) (th' : Thread) : Prop := ∃ t, exec i s = .next t ∧ (t.slot u s.cur.2).state = .ready ∧
      s.then_ t = { th'.setReg d (loadedWord z s.curSlot.sx (bytesAt a n (s.view u ctx a).data)) with pc := s.following }
    (let (a, th') := memPlace th b m n off
     ok a s.curSlot.nt → done (.ld d b z m o c f) a th') ∧
    (let a := th.regs.get b + fromInt ((s.rd x).toInt * n)
     ok a s.curSlot.nt → done (.ldx d b x z o c) a th) ∧
    (let a := th.regs.get b + fromInt (off * n)
     ok a false → done (.ldr d b z o c f) a th)

/-- R106, R108, R111: stores performed at the thread's own tile: the bytes at the address read as the register's low bytes,
the base gets its new value and the thread goes on, a release form too where its release has nothing to wait for. -/
def Obligations.StoreResults : Prop :=
  ∀ (s : State) (d : Reg) (b : Ptr) (x : Reg) (z : Size) (m : Mode) (o : Sys2Proof.Order) (c : Scope) (f : BitVec 9) (ob : Object),
    s.issuing = true → s.curSlot.ext.length ≤ 2 → s.MemWf →
    let u := s.cur.1
    let th := s.curSlot.th
    let ctx := s.memCtx u s.cur.2
    let n := sizeBytes z
    let ok (a : Word) : Prop := s.AtHome u ctx a n ob ∧ ob.isCode = false ∧ ob.writable = true ∧
      (orderRel o = true → s.CanRelease c) ∧ (s.tile u).LinesOk ∧ s.NoWaiter u (objWordKey ctx a)
    let done (i : Instr) (a : Word) (th' : Thread) : Prop := ∃ t, exec i s = .next t ∧ (t.slot u s.cur.2).state = .ready ∧
      s.then_ t = { th' with pc := s.following } ∧
      bytesAt a n (t.view u ctx a).data = (s.rd d).toNat % 2 ^ (8 * n)
    (let (a, th') := memPlace th b m n (extInt s.curSlot.ext f)
     ok a → done (.st d b z m o c f) a th') ∧
    (let a := th.regs.get b + fromInt ((s.rd x).toInt * n)
     ok a → done (.stx d b x z o c) a th)

/-- R106, R111, R235: a plain store to a word of the own tile whose L1 set has room changes no other byte: DRAM, scratchpads
and slices are as they were, every other word of the context reads as before and the bytes of the word beside the stored
ones too. -/
def Obligations.StoreFrame : Prop :=
  ∀ (s t : State) (d : Reg) (b : Ptr) (x : Reg) (z : Size) (m : Mode) (o : Sys2Proof.Order) (c : Scope) (f : BitVec 9) (ob : Object)
    (i : Instr) (a : Word),
    (i = .st d b z m o c f ∧ a = (memPlace s.curSlot.th b m (sizeBytes z) (extInt s.curSlot.ext f)).1 ∨
      i = .stx d b x z o c ∧ a = s.curSlot.th.regs.get b + fromInt ((s.rd x).toInt * sizeBytes z)) →
    let u := s.cur.1
    let ctx := s.memCtx u s.cur.2
    let n := sizeBytes z
    s.curSlot.ext.length ≤ 2 → s.Sound → orderRel o = false → s.curSlot.nt = false →
    s.AtHome u ctx a n ob → ob.place ≠ 3 → ob.isCode = false → ob.writable = true → (s.tile u).LinesOk →
    s.NoWaiter u (objWordKey ctx a) → (s.tile u).L1Room ctx a → exec i s = .next t →
    t.mem = s.mem ∧ (t.tile u).slices = (s.tile u).slices ∧ (∀ v, v ≠ u → t.tile v = s.tile v) ∧
    (∀ j, j ≠ s.cur.2 → t.slot u j = s.slot u j) ∧
    (∀ a', (objOf a', offOf a' / 8) ≠ (objOf a, offOf a / 8) →
      (t.view u ctx a').data = (s.view u ctx a').data ∧ (t.view u ctx a').poison = (s.view u ctx a').poison) ∧
    (∀ k, k < 8 → (k < a.toNat % 8 ∨ a.toNat % 8 + n ≤ k) →
      (t.view u ctx a).data.extractLsb' (8 * k) 8 = (s.view u ctx a).data.extractLsb' (8 * k) 8)

/-- R103, R203: the checks of an object-space access in their order: a misaligned address raises ALIGN, an object of
number 0 NOOBJ, an access past the object's end BOUNDS, a store to a code or read-only object PERM; each with the address. -/
def Sys2Proof.Claim.accessFaults : Prop :=
  ∀ (s : State) (d : Reg) (b : Ptr) (z : Size) (m : Mode) (o : Sys2Proof.Order) (c : Scope) (f : BitVec 9) (ob : Object),
    s.issuing = true → s.curSlot.ext.length ≤ 2 →
    let u := s.cur.1
    let k := s.cur.2
    let ctx := s.memCtx u k
    let n := sizeBytes z
    let a := (memPlace s.curSlot.th b m n (extInt s.curSlot.ext f)).1
    let s' := s.odcUse u ctx a
    let own : Prop := s.homeOf u ctx a = .here ob ∨ ∃ v g, s.homeOf u ctx a = .tile ob v g
    (a.toNat % n ≠ 0 → (∀ key, s.homeOf u ctx a ≠ .miss key) →
      exec (.ld d b z m o c f) s = .next (s'.raise u k 0x03 a 0#64) ∧
      exec (.st d b z m o c f) s = .next (s'.raise u k 0x03 a 0#64)) ∧
    (a.toNat % n = 0 → objOf a = 0 → exec (.ld d b z m o c f) s = .next (s'.raise u k 0x05 a 0#64) ∧
      exec (.st d b z m o c f) s = .next (s'.raise u k 0x05 a 0#64)) ∧
    (a.toNat % n = 0 → own → ob.size < offOf a + n → exec (.ld d b z m o c f) s = .next (s'.raise u k 0x04 a 0#64) ∧
      exec (.st d b z m o c f) s = .next (s'.raise u k 0x04 a 0#64)) ∧
    (a.toNat % n = 0 → own → offOf a + n ≤ ob.size → (ob.isCode = true ∨ ob.writable = false) →
      exec (.st d b z m o c f) s = .next (s'.raise u k 0x06 a 0#64))

/-- R113: a load that reads a poisoned word raises UE with the word's address and writes no register. -/
def Sys2Proof.Claim.poisonedLoad : Prop :=
  ∀ (s : State) (d : Reg) (b : Ptr) (z : Size) (m : Mode) (o : Sys2Proof.Order) (c : Scope) (f : BitVec 9) (ob : Object),
    s.issuing = true → s.curSlot.ext.length ≤ 2 → s.curSlot.nt = true →
    let u := s.cur.1
    let ctx := s.memCtx u s.cur.2
    let a := (memPlace s.curSlot.th b m (sizeBytes z) (extInt s.curSlot.ext f)).1
    s.AtHome u ctx a (sizeBytes z) ob → (s.view u ctx a).poison = true → s.atService u s.cur.2 = false →
    ∃ t, exec (.ld d b z m o c f) s = .next t ∧ (t.slot u s.cur.2).state = .blocked ∧
      s.then_ t = s.curSlot.th ∧
      (t.slot u s.cur.2).fault = some { code := 0x0A, pc := s.curSlot.th.pc, addr := fromNat (a.toNat / 8 * 8), extra := 0#64 }

/-- R103, R113, R203: the faults of an object-space access at its issue and at its read. -/
def Obligations.AccessFaults : Prop := Claim.accessFaults ∧ Claim.poisonedLoad

/-- R16, R104, R105, R112: a load homed on another tile: a thread that is not pinned, with no write outstanding and no bounce,
leaves for the home once its occupancy has brought it to MB; a pinned one, and `ldr`, asks the home and is REMOTE. -/
def Sys2Proof.Claim.loadsElsewhere : Prop :=
  ∀ (s : State) (d : Reg) (b : Ptr) (x : Reg) (z : Size) (m : Mode) (o : Sys2Proof.Order) (c : Scope) (f : BitVec 9) (ob : Object) (v g : Nat),
    s.issuing = true → s.curSlot.ext.length ≤ 2 →
    let u := s.cur.1
    let k := s.cur.2
    let th := s.curSlot.th
    let n := sizeBytes z
    let away (a : Word) : Prop := a.toNat % n = 0 ∧ s.homeOf u th.ctx a = .tile ob v g ∧ v ≠ u ∧ offOf a + n ≤ ob.size
    let mb := max s.now (s.curSlot.eligAt - 2)
    let left (i : Instr) : Prop := ∃ t, exec i s = .next t ∧ (t.slot u k).state = .wait (.departure mb 0 v g) ∧
      (s.then_ t).pc = th.pc ∧ (s.then_ t).regs = th.regs ∧ (s.then_ t).acc = th.acc ∧ s.AsideSame t u k
    let asked (i : Instr) (a : Word) : Prop := ∃ t p, exec i s = .next t ∧ (t.slot u k).state = .remote ∧
      s.then_ t = th ∧ t.net = s.net ++ [p] ∧ p.vc = 0 ∧ p.src = u ∧ p.dst = v ∧ p.gen = g ∧ p.slot = k ∧
      p.body = .readReq th.ctx a z ∧ s.AsideSame t u k
    s.atService u k = false →
    let a := (memPlace th b m n (extInt s.curSlot.ext f)).1
    let ax := th.regs.get b + fromInt ((s.rd x).toInt * n)
    let ar := th.regs.get b + fromInt (extInt s.curSlot.ext f * n)
    (away a → th.pinned = false → s.curSlot.prev = none → th.NoHandles → left (.ld d b z m o c f)) ∧
    (away ax → th.pinned = false → s.curSlot.prev = none → th.NoHandles → left (.ldx d b x z o c)) ∧
    (away a → th.pinned = true → asked (.ld d b z m o c f) a) ∧
    (away ax → th.pinned = true → asked (.ldx d b x z o c) ax) ∧
    (away ar → asked (.ldr d b z o c f) ar)

/-- R106: a plain store homed on another tile leaves as a write on VC2, counted by the lowest free tracker of the tile, whose
handle the thread records in A; the thread goes on. -/
def Sys2Proof.Claim.storeElsewhere : Prop :=
  ∀ (s : State) (d : Reg) (b : Ptr) (z : Size) (m : Mode) (o : Sys2Proof.Order) (c : Scope) (f : BitVec 9) (ob : Object) (v g i : Nat),
    s.issuing = true → s.curSlot.ext.length ≤ 2 → orderRel o = false →
    let u := s.cur.1
    let k := s.cur.2
    let th := s.curSlot.th
    let n := sizeBytes z
    let (a, th') := memPlace th b m n (extInt s.curSlot.ext f)
    a.toNat % n = 0 → s.homeOf u th.ctx a = .tile ob v g → v ≠ u → v < 16384 → offOf a + n ≤ ob.size → ob.isCode = false →
    ob.writable = true → ob.isSO = false → s.atService u k = false → th.NoHandles → i < (s.tile u).trackers.length →
    ((s.tile u).tracker i).open_ = false → (∀ j, j < i → ((s.tile u).tracker j).open_ = true) →
    ∃ t p, exec (.st d b z m o c f) s = .next t ∧ t.net = s.net ++ [p] ∧ p.vc = 2 ∧ p.src = u ∧ p.dst = v ∧ p.gen = g ∧
      p.body = .store th.ctx a z (s.rd d) s.curSlot.nt (some i) ∧
      (t.slot u k).state = .ready ∧ (s.then_ t).pc = s.following ∧ (s.then_ t).regs = th'.regs ∧
      (s.then_ t).acc = th.acc ∧ (s.then_ t).st = th.st ∧
      (s.then_ t).trkA = handle (s.name u) i ∧ ((t.tile u).tracker i).open_ = true ∧
      ((t.tile u).tracker i).count = ((s.tile u).tracker i).count + 1 ∧ s.AsideSame t u k

/-- R104-R106, R112: loads and plain stores whose home is another tile. -/
def Obligations.RemoteAccess : Prop := Claim.loadsElsewhere ∧ Claim.storeElsewhere

/-- R115, R116, R227: scratchpad loads and stores of the team's own macros: the bytes of the macro in memory; a store
changes no other byte of the machine's memory. -/
def Obligations.ScratchpadAccess : Prop :=
  ∀ (s : State) (d : Reg) (b : Ptr) (x : Reg) (z : Size) (m : Mode) (o : Sys2Proof.Order) (c : Scope) (f : BitVec 9),
    s.issuing = true → s.curSlot.ext.length ≤ 2 → s.MemWf → s.Sound →
    let u := s.cur.1
    let th := s.curSlot.th
    let n := sizeBytes z
    let key (a : Word) : Nat := spadKey u (macroOf a) (macroOff a)
    let mine (a : Word) : Prop := a.toNat % n = 0 ∧ bits a 63 22 = 0 ∧ u < s.rows * 96 ∧ (s.tile u).fenced = false ∧
      s.atService u s.cur.2 = false ∧ ((s.tile u).mac (macroOf a)).owner = some s.curSlot.team ∧
      ((s.tile u).mac (macroOf a)).due = false
    let state (a : Word) : MState := ((s.tile u).mac (macroOf a)).state
    let readable (a : Word) : Prop := state a = .plain ∨ state a = .ready ∨ state a = .stationary
    let loads (i : Instr) (a : Word) (th' : Thread) : Prop := mine a → readable a → s.mem.isPoison (key a) = false →
      ∃ t, exec i s = .next t ∧ s.OnlySlot t u s.cur.2 ∧
        s.then_ t = { th'.setReg d (loadedWord z s.curSlot.sx (bytesAt a n (s.mem.word (key a)))) with pc := s.following }
    let stores (i : Instr) (a : Word) (th' : Thread) : Prop := mine a → s.NoWaiter u (spadWordKey a) →
      (state a = .plain ∨ state a = .ready → orderRel o = false → ∃ t, exec i s = .next t ∧
        (t.slot u s.cur.2).state = .ready ∧ s.then_ t = { th' with pc := s.following } ∧
        bytesAt a n (t.mem.word (key a)) = (s.rd d).toNat % 2 ^ (8 * n) ∧ s.SameBytesBut t (key a) n ∧
        t.mem.empty = s.mem.empty) ∧
      (state a = .stationary → orderRel o = false →
        exec i s = .next (s.raise u s.cur.2 0x11 a (fromNat (macroOf a))))
    let (a, th') := memPlace th b m n (extInt s.curSlot.ext f)
    let ax := th.regs.get b + fromInt ((s.rd x).toInt * n)
    loads (.lds d b z m o c f) a th' ∧ loads (.ldsx d b x z o c) ax th ∧
    stores (.sts d b z m o c f) a th' ∧ stores (.stsx d b x z o c) ax th

/-- R119, R120, R136: full/empty words of the own tile: `ldf` takes a full word and leaves it empty, parks at an empty one;
`stf` fills it; the scratchpad forms do the same in a macro. -/
def Obligations.FullEmptyWords : Prop :=
  ∀ (s : State) (d : Reg) (b : Ptr) (o : Sys2Proof.Order) (c : Scope) (f : BitVec 9) (ob : Object),
    s.issuing = true → s.curSlot.ext.length ≤ 2 → s.MemWf → s.Sound →
    let u := s.cur.1
    let k := s.cur.2
    let th := s.curSlot.th
    let ctx := s.memCtx u k
    let a := th.regs.get b + fromInt (extInt s.curSlot.ext f * 8)
    let w := s.tagView u ctx a ob.isUO
    let key := spadKey u (macroOf a) (macroOff a)
    let spad : Prop := a.toNat % 8 = 0 ∧ bits a 63 22 = 0 ∧ u < s.rows * 96 ∧ (s.tile u).fenced = false ∧
      s.atService u k = false ∧ ((s.tile u).mac (macroOf a)).owner = some s.curSlot.team ∧
      ((s.tile u).mac (macroOf a)).due = false ∧ ((s.tile u).mac (macroOf a)).state = .plain
    (s.AtHome u ctx a 8 ob → (s.tile u).LinesOk → w.poison = false → w.empty = false →
      ∃ t, exec (.ldf d b o c f) s = .next t ∧ (t.slot u k).state = .ready ∧
        s.then_ t = { th.setReg d w.data with pc := s.following } ∧ (t.tagView u ctx a ob.isUO).empty = true ∧
        (t.tagView u ctx a ob.isUO).data = w.data) ∧
    (s.AtHome u ctx a 8 ob → w.poison = false → w.empty = true → (s.tile u).waiters.length < 256 → (s.tile u).spilled = [] →
      ∃ t e, exec (.ldf d b o c f) s = .next t ∧ (t.slot u k).state = .parked ∧ s.then_ t = th ∧
        (t.tile u).waiters = (s.tile u).waiters ++ [e] ∧ e.key = objWordKey ctx a ∧ e.slot = some k ∧ e.form = .ldf d ∧
        e.next = s.following) ∧
    (s.AtHome u ctx a 8 ob → (s.tile u).LinesOk → ob.isCode = false → ob.writable = true →
      (orderRel o = true → s.CanRelease c) →
      s.NoWaiter u (objWordKey ctx a) →
      ∃ t, exec (.stf d b o c f) s = .next t ∧ (t.slot u k).state = .ready ∧ s.then_ t = { th with pc := s.following } ∧
        (t.tagView u ctx a ob.isUO).empty = false ∧ (t.tagView u ctx a ob.isUO).data = s.rd d ∧
        (t.tagView u ctx a ob.isUO).poison = false) ∧
    (spad → s.mem.isPoison key = false → s.mem.isEmpty key = false →
      ∃ t, exec (.ldfs d b o c f) s = .next t ∧ s.then_ t = { th.setReg d (s.mem.word key) with pc := s.following } ∧
        t.mem.isEmpty key = true ∧ t.mem.cells = s.mem.cells ∧ t.mem.poison = s.mem.poison) ∧
    (spad → orderRel o = false → s.NoWaiter u (spadWordKey a) →
      ∃ t, exec (.stfs d b o c f) s = .next t ∧ s.then_ t = { th with pc := s.following } ∧ t.mem.word key = s.rd d ∧
        t.mem.isEmpty key = false ∧ t.mem.isPoison key = false ∧ s.SameBytesBut t key 8)

/-- R121, R122, R124: integer atomics and `acas` at the own tile: the destination gets the old word zero-extended, the word
its new value, in one step; a `.nr` form writes no register. -/
def Sys2Proof.Claim.atomicResults : Prop :=
  ∀ (s : State) (op : AtomOp) (d : Reg) (p : Ptr) (b : Reg) (o : Sys2Proof.Order) (c : Scope) (wide : Bool) (ob : Object),
    s.issuing = true →
    let u := s.cur.1
    let th := s.curSlot.th
    let ctx := s.memCtx u s.cur.2
    let a := th.regs.get p
    let n := if wide then 8 else 4
    let w := (s.afterRelease u (s.memCtxs u s.cur.2) (orderRel o) c).tagView u ctx a ob.isUO
    let old := bytesAt a n w.data
    let put (v : Nat) (t : State) : Prop := bytesAt a n (t.tagView u ctx a ob.isUO).data = v
    let ends (t : State) (th' : Thread) : Prop := (t.slot u s.cur.2).state = .ready ∧ s.then_ t = { th' with pc := s.following }
    s.AtHome u ctx a n ob → ob.isCode = false → ob.writable = true → (orderRel o = true → s.CanRelease c) →
    (s.tile u).LinesOk → s.NoWaiter u (objWordKey ctx a) → w.poison = false →
    (op ∉ [.fadd, .fmax, .fmin] →
      let new : Nat := (atomInt op (BitVec.ofNat (8 * n) old) (BitVec.ofNat (8 * n) (s.rd b).toNat)).toNat
      (∃ t, exec (atomInstr op d p b false o c wide) s = .next t ∧ ends t (th.setReg d (fromNat old)) ∧ put new t) ∧
      (∃ t, exec (atomInstr op .zr p b true o c wide) s = .next t ∧ ends t th ∧ put new t)) ∧
    (let new := if old = (s.rd d).toNat % 2 ^ (8 * n) then (s.rd b).toNat % 2 ^ (8 * n) else old
     ∃ t, exec (.acas d p b o c wide) s = .next t ∧ ends t (th.setReg d (fromNat old)) ∧ put new t)

/-- R123: the FP32 atomics: `afadd` rounds the exact sum once to nearest, `afmax` and `afmin` leave the greater or the
lesser operand bit for bit. -/
def Sys2Proof.Claim.floatAtomicResults : Prop :=
  ∀ (s : State) (d : Reg) (p : Ptr) (b : Reg) (o : Sys2Proof.Order) (c : Scope) (ob : Object),
    s.issuing = true →
    let u := s.cur.1
    let th := s.curSlot.th
    let ctx := s.memCtx u s.cur.2
    let a := th.regs.get p
    let w := (s.afterRelease u (s.memCtxs u s.cur.2) (orderRel o) c).tagView u ctx a ob.isUO
    let old := bytesAt a 4 w.data
    let new := (s.rd b).toNat % 2 ^ 32
    let x := fp32.value old
    let y := fp32.value new
    let done (i : Instr) (v : Nat) : Prop := ∃ t, exec i s = .next t ∧
      s.then_ t = { th.setReg d (fromNat old) with pc := s.following } ∧ bytesAt a 4 (t.tagView u ctx a ob.isUO).data = v
    s.AtHome u ctx a 4 ob → ob.isCode = false → ob.writable = true → (orderRel o = true → s.CanRelease c) →
    (s.tile u).LinesOk → s.NoWaiter u (objWordKey ctx a) → w.poison = false →
    (x.isFinite = true → y.isFinite = true → ∃ v, v.isFinite = true ∧ v.rat = x.rat + y.rat ∧
      done (.afadd d p b false o c) (roundTo fp32 rne v).1) ∧
    (x.Below y → done (.afmax d p b false o c) new ∧ done (.afmin d p b false o c) old) ∧
    (y.Below x → done (.afmax d p b false o c) old ∧ done (.afmin d p b false o c) new)

/-- R121-R124: the atomics at the own tile, integer and FP32. -/
def Obligations.AtomicResults : Prop := Claim.atomicResults ∧ Claim.floatAtomicResults

/-- R108, R126, R223, R226: fences whose release has nothing to wait for let the thread go on; a release at `.stack` or wider leaves no dirty
line of the context in the tile's L1 and slices (for `fence.all` also UO lines); `trkw` waits while a tracker of the tile
still counts. -/
def Obligations.Fences : Prop :=
  ∀ (s : State) (c : Scope), s.issuing = true →
    let u := s.cur.1
    let k := s.cur.2
    let th := s.curSlot.th
    let on (t : State) : Prop := s.then_ t = { th with pc := s.following } ∧ (t.slot u k).state = .ready
    let clean (t : State) (all : Bool) : Prop := c ≠ .tile → ∀ l, l ∈ (t.tile u).l1 ∨ l ∈ (t.tile u).slices →
      l.ctx = s.memCtx u k → (all = true ∨ l.uo = false) → l.isDirty = false
    exec (.fenceAcq c) s = .next (s.ended id s.following) ∧
    (s.CanRelease c → ∃ t, exec (.fenceRel c) s = .next t ∧ on t ∧ clean t false) ∧
    (s.CanRelease c → ∃ t, exec (.fenceAr c) s = .next t ∧ on t ∧ clean t false) ∧
    (s.CanRelease c → ∃ t, exec (.fenceAll c) s = .next t ∧ on t ∧ clean t true) ∧
    (th.NoHandles → exec .trkw s = .next (s.ended id s.following)) ∧
    (handleValid th.trkA = true → handleTile th.trkA = u → s.handleLost th.trkA = false →
      0 < ((s.tile u).tracker (handleIdx th.trkA)).count →
      ∃ t, exec .trkw s = .next t ∧ (t.slot u k).state = .wait .handles ∧ s.then_ t = th)

/-! ### Threads and synchronisation (R128-R145) -/

/-- R130-R132: a `spawn` on the current tile that finds a free slot: the child is READY there with the caller's `w0`-`w3`, the
other registers zero, its own number and a full budget, its instance counts it, and the caller goes on with that number. -/
def Obligations.SpawnHere : Prop :=
  ∀ (s : State) (d a b : Reg) (m : Bool) (ob : Object) (i : Inst) (j p : Nat), s.userIssues →
    let u := s.cur.1
    let th := s.curSlot.th
    let target := s.rd a
    let pc := s.rd b
    let tid := tidOf u (s.tile u).nextSeq
    bits target 23 16 ≠ 0xFF → nameTile (target.extractLsb' 0 24) = u → s.nameOk (target.extractLsb' 0 24) = true →
    pc.toNat % 4 = 0 → s.object th.ctx (objOf pc) = some ob → ob.isCode = true → offOf pc < ob.size → th.NoHandles →
    s.insts.look th.kin = some i → i.killed = false → (s.tile u).quiesced th.kin = false → (s.tile u).slots.length = 16 →
    16 ≤ (s.tile u).nextSeq → (s.tile u).nextSeq ≤ 524287 → (s.tile u).posOf th.kin = some p → s.openSlot u = some j →
    s.canSeat u th.kin = true →
    ∃ t, exec (if m then .spawnM d a b else .spawn d a b) s = .next t ∧ j ≠ s.cur.2 ∧
      (t.slot u s.cur.2).state = .ready ∧ s.then_ t = { th.setReg d (tid.zeroExtend 64) with pc := s.following } ∧
      (let c := t.slot u j
       c.state = .ready ∧ c.th.pc = pc ∧ c.th.tid = tid ∧ c.th.kin = th.kin ∧ c.th.ctx = th.ctx ∧ c.th.acc = 0#64 ∧
       c.th.regs = { w0 := th.regs.w0, w1 := th.regs.w1, w2 := th.regs.w2, w3 := th.regs.w3 } ∧
       c.th.migratable = (m || th.migratable) ∧ c.th.rm = th.rm ∧ c.th.NoHandles ∧ c.budget = 2 ^ i.rec_.hk ∧ c.team = p) ∧
      t.insts.look th.kin = some { i with live := i.live + 1 } ∧ s.SameMem t ∧
      (∀ l, l ≠ j → l ≠ s.cur.2 → t.slot u l = s.slot u l) ∧
      (t.tile u).nextSeq = if (s.tile u).nextSeq ≥ 524287 then 16 else (s.tile u).nextSeq + 1

/-- R133-R135: a thread with no write outstanding ends: its slot is FREE and its instance will count one thread less; an
inline child gives the slot back to its caller; `exit.j` also lowers the join word by one. -/
def Obligations.ThreadEnds : Prop :=
  ∀ (s : State) (a : Ptr) (ob : Object) (f : Frame), s.userIssues →
    let u := s.cur.1
    let k := s.cur.2
    let th := s.curSlot.th
    let w := th.regs.get a
    th.NoHandles → s.curSlot.released = false →
    (th.inline = 0 → ∃ t, exec .exit s = .next t ∧ (t.slot u k).state = .free ∧ t.falls = s.falls ++ [th.kin] ∧ s.SameMem t) ∧
    (th.inline ≠ 0 → birthTile th.tid = u → (s.tile u).frames.find? (fun g => g.child == th.tid) = some f →
      f.th.foul = false → ∃ t, exec .exit s = .next t ∧ (t.slot u k).state = .ready ∧ (t.slot u k).th = f.th ∧ (t.slot u k).ipc = f.th.pc ∧
        t.falls = s.falls ∧ s.AsideSame t u k ∧ ∀ g, g ∈ (t.tile u).frames → g.child ≠ f.child) ∧
    (th.inline = 0 → s.AtHome u th.ctx w 8 ob → ob.isCode = false → ob.writable = true → (s.tile u).LinesOk →
      s.NoWaiter u (objWordKey th.ctx w) → (s.tagView u th.ctx w ob.isUO).poison = false →
      ∃ t, exec (.exitJ a) s = .next t ∧ (t.slot u k).state = .free ∧ t.falls = s.falls ++ [th.kin] ∧
        (t.tagView u th.ctx w ob.isUO).data = fromInt ((s.tagView u th.ctx w ob.isUO).data.toInt - 1) ∧
        (t.tagView u th.ctx w ob.isUO).empty = (s.tagView u th.ctx w ob.isUO).empty)

/-- R139, R141: `pin` sets `pinned` and `pinloads` 64, `unpin` clears both and `bounce`, `hbeat` fills the budget; no other
field of the thread changes but `pc`; each occupies its slot for 8 cycles. -/
def Obligations.PinAndHeartbeat : Prop :=
  ∀ (s : State) (i : Inst), s.userIssues → s.insts.look s.curSlot.th.kin = some i →
    let u := s.cur.1
    let k := s.cur.2
    let th := s.curSlot.th
    let same (t : State) : Prop := s.OnlySlot t u k ∧ (t.slot u k).state = .ready ∧
      { s.then_ t with pc := th.pc, st := th.st } = th ∧ (s.then_ t).pc = s.following
    (∃ t, exec .pin s = .next t ∧ same t ∧ (s.then_ t).pinned = true ∧ (s.then_ t).pinloads = 64 ∧
      ∀ n, n < 16 ∨ 24 ≤ n → (s.then_ t).st.getLsbD n = th.st.getLsbD n) ∧
    (∃ t, exec .unpin s = .next t ∧ same t ∧ (s.then_ t).pinned = false ∧ (s.then_ t).pinloads = 0 ∧
      (s.then_ t).bounce = 0 ∧ ∀ n, n < 13 ∨ 24 ≤ n → (s.then_ t).st.getLsbD n = th.st.getLsbD n) ∧
    (∃ t, exec .hbeat s = .next t ∧ same t ∧ (s.then_ t).st = th.st ∧ (t.slot u k).budget = 2 ^ i.rec_.hk) ∧
    (∀ j, j ∈ [Instr.pin, .unpin, .hbeat] → s.curSlot.retry = false → ((s.charge u k j).slot u k).eligAt = s.now + 8)

/-- R139, R140, R142, R210: `hop` to the own tile and `yield` with nobody waiting whom the slot could go to do nothing but go on; `hop`
elsewhere departs for the named tile, raising BOUNDS for a name that is no tile; `yield` gives the slot to the head of the
context's queue where the order of R210 lets that head take it, and its thread joins the end of the queue; members of its team
that wait at a barrier for it alone go on. -/
def Obligations.HopAndYield : Prop :=
  ∀ (s : State) (a : Reg) (q : AQueue) (f : Flit) (rest : List Flit) (p : Nat), s.userIssues →
    let u := s.cur.1
    let k := s.cur.2
    let th := s.curSlot.th
    let n : BitVec 24 := (s.rd a).extractLsb' 0 24
    (s.nameOk n = true → nameGen n ≠ 0xFF → nameTile n = u → exec (.hop a) s = .next (s.ended id s.following)) ∧
    (s.nameOk n = true → nameGen n ≠ 0xFF → nameTile n ≠ u → th.NoHandles → s.curSlot.resent = false →
      ∃ t, exec (.hop a) s = .next t ∧
        (t.slot u k).state = .wait (.departure (max s.now (s.curSlot.eligAt - 2)) 1 (nameTile n) (nameGen n)) ∧
        (s.then_ t).pc = th.pc ∧ (s.then_ t).regs = th.regs ∧ (s.then_ t).acc = th.acc ∧ s.AsideSame t u k) ∧
    (s.nameOk n = false ∨ nameGen n = 0xFF → exec (.hop a) s = .next (s.raise u k 0x04 (s.rd a) 0#64)) ∧
    ((s.tile u).queues.look th.ctx = none → exec .yield s = .next (s.ended id s.following)) ∧
    ((s.tile u).queues.look th.ctx = some q → q.q = [] ∨ s.queueTakes u th.ctx = false →
      exec .yield s = .next (s.ended id s.following)) ∧
    ((s.tile u).queues.look th.ctx = some q → q.q = f :: rest → q.q.length < q.depth → s.queueTakes u th.ctx = true →
      (s.tile u).posOf f.th.kin = some p → f.kind = 0 → f.back = none → f.stop = false →
      ∃ t y, exec .yield s = .next t ∧ (t.slot u k).state = .ready ∧ (t.slot u k).th = f.th ∧ (t.slot u k).team = p ∧
        (t.tile u).queues.look th.ctx = some { q with q := rest ++ [y] } ∧ y.th = { th with pc := s.following } ∧
        y.window = s.curSlot.window ∧ t.mem = s.mem ∧ (∀ v, v ≠ u → t.tile v = s.tile v) ∧
        ∀ j, j ≠ k → t.slot u j = s.slot u j ∨ ((s.slot u j).state = .wait .barrier ∧ (s.slot u j).team = s.curSlot.team ∧
          t.slot u j = (s.slot u j).finishReady))

/-- R136, R137, R215: `join` and the `waitw` forms at the own tile go on when the condition holds for the word, and else
park with an entry of the waiter table that names the condition. -/
def Sys2Proof.Claim.waitsAtWords : Prop :=
  ∀ (s : State) (a : Ptr) (b : Reg) (ob : Object), s.userIssues →
    let u := s.cur.1
    let k := s.cur.2
    let th := s.curSlot.th
    let w := th.regs.get a
    let x := (s.tagView u th.ctx w ob.isUO).data
    let y := s.rd b
    let on (i : Instr) : Prop := ∃ t, exec i s = .next t ∧ (t.slot u k).state = .ready ∧ s.then_ t = { th with pc := s.following }
    let parks (i : Instr) (g : WForm) : Prop := ∃ t e, exec i s = .next t ∧ (t.slot u k).state = .parked ∧ s.then_ t = th ∧
      (t.tile u).waiters = (s.tile u).waiters ++ [e] ∧ e.key = objWordKey th.ctx w ∧ e.form = g ∧ e.b = y ∧ e.slot = some k ∧
      e.next = s.following
    s.AtHome u th.ctx w 8 ob → (s.tagView u th.ctx w ob.isUO).poison = false →
    (s.tile u).waiters.length < 256 → (s.tile u).spilled = [] →
    (x.toInt ≤ y.toInt → on (.join a b)) ∧ (y.toInt < x.toInt → parks (.join a b) .join) ∧
    (x.toNat = y.toNat → on (.waitwEq a b) ∧ parks (.waitwNe a b) .waitNe) ∧
    (x.toNat ≠ y.toNat → on (.waitwNe a b) ∧ parks (.waitwEq a b) .waitEq) ∧
    (y.toInt ≤ x.toInt → on (.waitwGe a b)) ∧ (x.toInt < y.toInt → parks (.waitwGe a b) .waitGe)

/-- R142: `bar` completes at once for a team with one member on the tile, and waits while another member has not arrived. -/
def Sys2Proof.Claim.teamBarrier : Prop :=
  ∀ (s : State) (j : Nat), s.userIssues →
    let u := s.cur.1
    let k := s.cur.2
    let p := s.curSlot.team
    ((∀ j, j < 16 → j ≠ k → s.member u p j = false) →
      ∃ t, exec .bar s = .next t ∧ s.OnlySlot t u k ∧ (t.slot u k).state = .ready ∧
        s.then_ t = { s.curSlot.th with pc := s.following }) ∧
    (j < 16 → j ≠ k → s.member u p j = true → (s.slot u j).state ≠ .wait .barrier →
      ∃ t, exec .bar s = .next t ∧ (t.slot u k).state = .wait .barrier ∧ s.then_ t = s.curSlot.th ∧ s.OnlySlot t u k)

/-- R136, R137, R142, R215: waits at words and at the barrier of a team. -/
def Obligations.ThreadWaits : Prop := Claim.waitsAtWords ∧ Claim.teamBarrier

/-- R143, R316, R319: a `seam` by a team's only thread with a valid mask and a successor that declares enough: the slot is
FREE, the team belongs to the successor with the registers of the mask and `seamin`, and the kernel counts one less. -/
def Sys2Proof.Claim.seamBegins : Prop :=
  ∀ (s : State) (a : Ptr) (m : BitVec 9) (e : BitVec 2) (c : Scope) (tm : Team) (i : Inst), s.userIssues →
    let u := s.cur.1
    let k := s.cur.2
    let th := s.curSlot.th
    let p := s.curSlot.team
    let w := th.regs.get a
    let x := s.tile u
    let next := tm.succ.getD e.toNat 0
    let s1 := s.afterRelease u [th.ctx] true c
    let mask := s1.seamMask u w
    x.teams.look p = some tm → w.toNat % 32 = 0 → bits w 63 22 = 0 → (x.mac (macroOf w)).owner = some p → next ≠ 0 →
    (∀ j, j < 16 → j ≠ k → s.member u p j = false) → th.NoHandles → s.CanRelease c →
    ((x.mac (macroOf w)).state = .plain ∨ (x.mac (macroOf w)).state = .ready) → (x.mac (macroOf w)).due = false →
    (∀ n, n < 256 → mask.getLsbD n = true → (x.mac n).owner = some p) →
    s.insts.look next = some i → (x.seamShape p tm mask).1 ≤ i.rec_.nmac → (x.seamShape p tm mask).2 ≤ i.rec_.ncb →
    i.killed = false → i.read = true → next ≠ tm.kin →
    ∃ t tm', exec (.seam a m e c) s = .next t ∧ (t.slot u k).state = .free ∧ t.falls = s.falls ++ [tm.kin] ∧
      (t.tile u).teams.look p = some tm' ∧ tm'.kin = next ∧ tm'.seam = some (4, mask, tm.nmac, tm.ncb) ∧
      tm'.seamIn.toNat = e.toNat * 1024 + 512 + m.toNat ∧
      (∀ n : BitVec 3, tm'.seamRegs.get n = if m.getLsbD n.toNat then th.regs.get n else 0#64) ∧
      tm'.seamAcc = (if m.getLsbD 8 then th.acc else 0#64) ∧
      (t.insts.look next).map (fun i => i.live) = some (i.live + i.rec_.thr)

/-- R243, R317-R319: the steps of a team held at seam: the macros that it does not hand on are scrubbed, then the successor's further
macros are claimed, then its threads start in the lowest free slots with the registers that the seam kept. -/
def Sys2Proof.Claim.seamSteps : Prop :=
  ∀ (s : State) (t p j b c : Nat) (tm : Team) (i : Inst) (mask : BitVec 256) (js : List Nat),
    let x := s.tile t
    let on (tm' : Team) (u : State) : Prop := exec (.seamSequence t p) s = .next u ∧ (u.tile t).teams.look p = some tm'
    let alone : Prop := x.orders = [] ∧ ∀ r, r ∈ x.teams → r.1 = p
    x.teams.look p = some tm → tm.closed = false → x.shut = false → s.insts.look tm.kin = some i →
    (tm.seam = some (4, mask, b, c) → s.stranded t p tm mask = false → x.seamFills p mask = false →
      ∃ u tm', on tm' u ∧ tm'.seam = some (6, mask, b, c) ∧ tm'.kin = tm.kin ∧
        ∀ m, m < 256 → m < x.macros.length → (x.mac m).owner = some p → mask.getLsbD m = false → (x.mac m).state ≠ .loading →
          ((u.tile t).mac m).state = .scrubbing) ∧
    (tm.seam = some (6, mask, b, c) → alone → x.macrosFree (tm.fmac + tm.nmac) (i.rec_.nmac - tm.nmac) = true →
      x.bufsFree (tm.fcb + tm.ncb) (i.rec_.ncb - tm.ncb) = true →
      ∃ u tm', on tm' u ∧ tm'.seam = some (7, mask, b, c) ∧ tm'.nmac = i.rec_.nmac ∧
        ∀ m, tm.fmac + tm.nmac ≤ m → m < tm.fmac + i.rec_.nmac → m < x.macros.length → ((u.tile t).mac m).owner = some p) ∧
    (tm.seam = some (7, mask, b, c) → alone → s.freeSlots t ≥ s.thrOn t tm.kin → i.succReady = true → 1 ≤ s.thrOn t tm.kin →
      (s.kernelSlots t).filter (fun k => (s.slot t k).state == .free) = j :: js → j < x.slots.length → i.rec_.stop = false →
      ∃ u tm', on tm' u ∧ tm'.seam = none ∧ (u.slot t j).state = .ready ∧ (u.slot t j).th.pc = i.rec_.entry &&& ~~~3#64 ∧
        (u.slot t j).th.regs = tm.seamRegs ∧ (u.slot t j).th.acc = tm.seamAcc ∧ (u.slot t j).th.seamin = tm.seamIn)

/-- R143, R243, R316-R319: a `seam`, and the steps by which the tile brings its successor on. -/
def Obligations.SeamBegins : Prop := Claim.seamBegins ∧ Claim.seamSteps

/-! ### Vector instructions (R146-R162) -/

/-- R149, R157-R159: every vector instruction whose operands pass the checks of R156 starts on an idle vector unit with `rm`
and `sat` as it reads them, its first pass at once where no operand macro of it is loading or scrubbing; a count of zero completes it at once, a reduction leaving zero in `acc`; a count above 4,194,240
raises BOUNDS with the count. -/
def Obligations.VectorStart : Prop :=
  ∀ (s : State) (i : Instr) (f : VecForm) (o : VecOps), vecForm i = some f → s.issuing = true →
    let u := s.cur.1
    let k := s.cur.2
    let th := s.curSlot.th
    let n := (th.regs.get f.l).toNat
    let red := f.op ∈ [VecOp.rsum, .rmax, .rmin, .rsumsq, .rdot]
    let idle : Prop := (s.tile u).vec = none ∧ (s.tile u).vecAhead k (s.curSlot.vecSince.getD s.now) = false
    (n ≤ 4194240 → 0 < n → s.vecCheck u k f n = .ok o → idle → (th.vprog = 0 ∨ red) → s.vecHalts u k = false →
      ∃ t v, exec i s = .next t ∧ (t.tile u).vec = some v ∧ v.slot = k ∧ v.form = f ∧ v.n = n ∧ v.at_ = 0 ∧ v.rm = th.rm ∧
        v.sat = th.sat ∧ (v.len = 64 ∨ v.len = 128) ∧ (t.slot u k).state = .ready ∧ s.then_ t = th ∧ s.SameMem t ∧
        (s.passClear u o 0 (min n v.len) = true → v.begun = true ∧ s.now < v.due)) ∧
    (n = 0 → idle → th.vprog = 0 →
      ∃ t, exec i s = .next t ∧ (t.tile u).vec = none ∧ (t.slot u k).state = .ready ∧ (s.then_ t).pc = s.following ∧
        (s.then_ t).regs = th.regs ∧ (s.then_ t).acc = (if f.op.isReduction then 0#64 else th.acc) ∧ s.SameMem t) ∧
    (4194240 < n → exec i s = .next (s.raise u k 0x04 (fromNat n) 0#64))

/-- R41, R150, R152, R157, R159: the end of a pass of `vadd`, `vsub` or `vmul` over FP32 macros: every element of the pass is the
exact result of its operands rounded once with the destination's SR position; the last pass ends the instruction, any other is
followed by the next. -/
def Sys2Proof.Claim.vectorSums : Prop :=
  ∀ (s : State) (u m ma mb e ea eb c : Nat) (v : VecRun) (o : VecOps),
    let hi := min v.n (v.at_ + v.len)
    let key := s.srkey u v.slot
    let x (n : Nat) := s.elem u ma (ea + n)
    let y (n : Nat) := s.elem u mb (eb + n)
    (s.tile u).shut = false → (s.tile u).vec = some v → v.begun = true → v.due ≤ s.now → s.MemWf → s.mem.poison = [] → s.Sound →
    v.slot < (s.tile u).slots.length → v.form.op ∈ [VecOp.add, .sub, .mul] → v.fmts = s.formatsOf u o →
    s.vecCheck u v.slot v.form v.n = .ok o → o.a = [(ma, ea, c, 0)] → o.b = [(mb, eb, c, 0)] → o.d = [(m, e, c, 0)] →
    c = v.n → e + c ≤ 4096 → m < 256 → v.at_ < hi → s.fmtAt u ma = 1 → s.fmtAt u mb = 1 → s.fmtAt u m = 1 →
    (∀ g, g ∈ [ma, mb, m] → (s.tile u).spadGate g true = .go) →
    (∀ n, v.at_ ≤ n → n < hi → (x n).isFinite = true ∧ (y n).isFinite = true) →
    (∀ w, w ∉ (s.tile u).waiters ∧ w ∉ (s.tile u).spilled) → s.vecHalts u v.slot = false →
    ∃ t, exec (.vectorPassEnd u) s = .next t ∧
      (∀ n, v.at_ ≤ n → n < hi → ∃ q : Val, q.isFinite = true ∧
        q.rat = (if v.form.op = .add then (x n).rat + (y n).rat else if v.form.op = .sub then (x n).rat - (y n).rat
          else (x n).rat * (y n).rat) ∧
        t.elemCode u m (e + n) = (roundTo fp32 ⟨v.rm, v.sat, key, BitVec.ofNat 32 (m * 2 ^ 15 + (e + n))⟩ q).1) ∧
      (∀ b, b < spadKey u m (4 * (e + v.at_)) ∨ spadKey u m (4 * (e + hi)) ≤ b → t.mem.byte b = s.mem.byte b) ∧
      (hi = v.n → (t.tile u).vec = none ∧ (t.slot u v.slot).state = .ready ∧
        (t.slot u v.slot).th.pc = (s.slot u v.slot).ipc + 4#64 ∧ (t.slot u v.slot).th.vprog = 0) ∧
      (hi < v.n → ∃ v', (t.tile u).vec = some v' ∧ v'.at_ = hi ∧ v'.n = v.n ∧ v'.begun = true ∧ s.now < v'.due)

/-- R150-R153: the end of a pass of an elementwise form writes each element of a destination without shared scales with the
form's exact value rounded once under the element's own SR position; NaN operands, zeros and negative operands give what R91,
R94 and R153 state; the other bytes of the destination's macro stay. -/
def Sys2Proof.Claim.vectorElements : Prop :=
  ∀ (s : State) (u m e ma ea mb eb : Nat) (v : VecRun) (o : VecOps),
    let c := s.fmtAt u m
    let hi := min v.n (v.at_ + v.len)
    let op := v.form.op
    let acc := fp32.value ((s.slot u v.slot).th.acc.toNat % 2 ^ 32)
    let a (n : Nat) : Val := if o.a = [] then intVal 0 else s.elem u ma (ea + n)
    let b (n : Nat) : Val := if o.b = [] then intVal 0 else s.elem u mb (eb + n)
    let d (n : Nat) : Val := if op.readsD then s.elem u m (e + n) else intVal 0
    s.WritesPass u v o m e → c ≠ 0 → isBlock c = false → isAffine c = false → op ≠ .copy →
    (∀ g, g ∈ o.a → g = (ma, ea, v.n, 0)) → (∀ g, g ∈ o.b → g = (mb, eb, v.n, 0)) →
    (op = .cvt → isBlock (s.fmtAt u ma) = false) →
    ∃ t, exec (.vectorPassEnd u) s = .next t ∧
      (∀ n, v.at_ ≤ n → n < hi →
        let r := elemRnd v.rm v.sat (s.srkey u v.slot) m (e + n)
        let gives (x : Val) : Prop := t.elemCode u m (e + n) = (encodeElem c r x).1
        ((a n).isFinite = true → (b n).isFinite = true → (d n).isFinite = true →
          (op ∈ [VecOp.fill, .scal, .axpy] → acc.isFinite = true) → op.Defined (a n) →
          ∃ x, elementIs op acc (a n) (b n) (d n) x ∧ gives x) ∧
        (op ∈ [VecOp.add, .sub, .mul, .fma, .fms, .fnma, .abs, .neg, .cvt, .sqrt, .rcp, .rsqrt, .exp2, .log2, .tanh, .sigm] →
          (a n).isNan = true ∨ (b n).isNan = true ∨ (d n).isNan = true → gives (.nan false)) ∧
        (op ∈ [VecOp.cmpeq, .cmplt, .cmple] → (a n).isNan = true ∨ (b n).isNan = true → gives (intVal 0)) ∧
        (op = .min ∨ op = .max → (a n).isSig = false → (b n).isSig = false →
          ((a n).isNan = true → (b n).isNan = false → gives (b n)) ∧ ((b n).isNan = true → (a n).isNan = false → gives (a n))) ∧
        (op = .rcp ∨ op = .rsqrt → (a n).isZero = true → gives (.inf (a n).sign)) ∧
        (op = .log2 → (a n).isZero = true → gives (.inf true)) ∧
        (op = .sqrt ∨ op = .rsqrt ∨ op = .log2 → (a n).isFinite = true → (a n).rat < 0 → gives (.nan false))) ∧
      (∀ k, k < spadKey u m (elemBits c / 8 * (e + v.at_)) ∨ spadKey u m (elemBits c / 8 * (e + hi)) ≤ k →
        t.mem.byte k = s.mem.byte k) ∧
      (hi = v.n → (t.tile u).vec = none ∧ (t.slot u v.slot).state = .ready ∧
        (t.slot u v.slot).th.pc = (s.slot u v.slot).ipc + 4#64 ∧ (t.slot u v.slot).th.vprog = 0)

/-- R46, R47, R150: into a destination of a format with shared scales, each block of eight positions of a pass is the block of
the eight exact values; where R47 makes a `vcvt` exact, scale and values are the source's. -/
def Sys2Proof.Claim.vectorBlocks : Prop :=
  ∀ (s : State) (u m e ma ea mb eb i : Nat) (v : VecRun) (o : VecOps),
    let c := s.fmtAt u m
    let hi := min v.n (v.at_ + v.len)
    let op := v.form.op
    let acc := fp32.value ((s.slot u v.slot).th.acc.toNat % 2 ^ 32)
    let a (n : Nat) : Val := if o.a = [] then intVal 0 else s.elem u ma (ea + n)
    let b (n : Nat) : Val := if o.b = [] then intVal 0 else s.elem u mb (eb + n)
    let d (n : Nat) : Val := if op.readsD then s.elem u m (e + n) else intVal 0
    let whole : Prop := op = .cvt ∧ expands (s.fmtAt u ma) c = true ∧ ea % 8 = 0
    s.WritesPass u v o m e → isBlock c = true → op ≠ .copy → (op ∈ [VecOp.fill, .scal, .axpy] → acc.isFinite = true) →
    (∀ g, g ∈ o.a → g = (ma, ea, v.n, 0)) → (∀ g, g ∈ o.b → g = (mb, eb, v.n, 0)) →
    (∀ n, v.at_ ≤ n → n < hi → (a n).isFinite = true ∧ (b n).isFinite = true ∧ (d n).isFinite = true ∧ op.Defined (a n)) →
    v.at_ ≤ 8 * i → 8 * i + 8 ≤ hi →
    ∃ t, exec (.vectorPassEnd u) s = .next t ∧
      (¬whole → ∃ x : Nat → Val, (∀ j, j < 8 → elementIs op acc (a (8 * i + j)) (b (8 * i + j)) (d (8 * i + j)) (x j)) ∧
        blockOf c (fun j => elemRnd v.rm v.sat (s.srkey u v.slot) m (e + 8 * i + j)) x (t.scaleCode u m (e + 8 * i))
          (fun j => t.elemCode u m (e + 8 * i + j))) ∧
      (whole → t.scaleCode u m (e + 8 * i) = s.scaleCode u ma (ea + 8 * i) ∧
        ∀ j, j < 8 → (t.elem u m (e + 8 * i + j)).rat = (a (8 * i + j)).rat)

/-- R151, R154: `vcopy` moves the codes of every format, with the scales of whole blocks and the scales and zero points of
whole groups; `vfill` into a RAW macro writes the low byte of `acc`. -/
def Sys2Proof.Claim.vectorCopies : Prop :=
  ∀ (s : State) (u m e ma ea : Nat) (v : VecRun) (o : VecOps),
    let c := s.fmtAt u m
    let hi := min v.n (v.at_ + v.len)
    s.WritesPass u v o m e → (v.form.op = .copy ∧ o.a = [(ma, ea, v.n, 0)] ∨ v.form.op = .fill ∧ c = 0) →
    ∃ t, exec (.vectorPassEnd u) s = .next t ∧ ∀ n, v.at_ ≤ n → n < hi →
      (v.form.op = .copy → t.elemCode u m (e + n) = s.elemCode u ma (ea + n) ∧
        (isBlock c = true → n % 8 = 0 → ea % 8 = 0 → t.scaleCode u m (e + n) = s.scaleCode u ma (ea + n)) ∧
        (isAffine c = true → n % groupLen (s.grpAt u m) = 0 → ea % groupLen (s.grpAt u m) = 0 →
          t.groupScale u m (e + n) = s.groupScale u ma (ea + n) ∧ t.groupZero u m (e + n) = s.groupZero u ma (ea + n))) ∧
      (v.form.op = .fill → t.elemCode u m (e + n) = (s.slot u v.slot).th.acc.toNat % 256)

/-- R155: a reduction that one pass performs leaves its result in `acc`: an exact sum of integers limited to 32 bits, the window
sum of floating-point terms rounded to FP32 (R49, R51), or a greatest or least element. -/
def Sys2Proof.Claim.vectorReductions : Prop :=
  ∀ (s : State) (u ma ea mb eb : Nat) (v : VecRun) (o : VecOps),
    let op := v.form.op
    let a (n : Nat) : ℚ := (s.elem u ma (ea + n)).rat
    let b (n : Nat) : ℚ := (s.elem u mb (eb + n)).rat
    let T : List ℚ := (List.range v.n).map (fun n => if op = .rsumsq then a n * a n else if op = .rdot then a n * b n else a n)
    let limited (z : Int) : Word := BitVec.ofInt 64 (max (-2 ^ 31) (min (2 ^ 31 - 1) z))
    let ints : Prop := isIntFmt (s.fmtAt u ma) = true ∧ (op = .rdot → isIntFmt (s.fmtAt u mb) = true)
    s.PassEnds u v o → v.at_ = 0 → v.n ≤ v.len → v.parts = [] → v.int = 0 → v.sel = none →
    op ∈ [VecOp.rsum, .rsumsq, .rdot, .rmax, .rmin] → o.d = [] → o.a = [(ma, ea, v.n, 0)] → (op = .rdot → o.b = [(mb, eb, v.n, 0)]) →
    (∀ n, n < v.n → (s.elem u ma (ea + n)).isFinite = true ∧ (op = .rdot → (s.elem u mb (eb + n)).isFinite = true)) →
    (v.ints = true → ints) →
    ∃ t, exec (.vectorPassEnd u) s = .next t ∧ t.mem = s.mem ∧ (t.tile u).vec = none ∧ (t.slot u v.slot).state = .ready ∧
      (t.slot u v.slot).th.pc = (s.slot u v.slot).ipc + 4#64 ∧
      let acc := (t.slot u v.slot).th.acc
      (op = .rmax ∨ op = .rmin → ∃ n, n < v.n ∧ (∀ k, k < v.n → if op = .rmax then a k ≤ a n else a n ≤ a k) ∧
        (v.ints = false → acc = fromNat (roundTo fp32 rne (s.elem u ma (ea + n))).1) ∧
        (v.ints = true → ∃ z : Int, (z : ℚ) = a n ∧ acc = limited z)) ∧
      (op = .rsum ∨ op = .rsumsq ∨ op = .rdot →
        (v.ints = false → ∃ y k, windowSum T y ∧ roundedTo 1 rne y k ∧ acc = fromNat k) ∧
        (v.ints = true → ∃ z : Int, (z : ℚ) = T.sum ∧ acc = limited z))

/-- R46, R47, R49, R150-R161: a pass of the vector unit: sums, differences and products over FP32 with their frame; every
elementwise form over every format of its destination; copies and fills as bits; and the reductions. -/
def Obligations.VectorPass : Prop :=
  Claim.vectorSums ∧ Claim.vectorElements ∧ Claim.vectorBlocks ∧ Claim.vectorCopies ∧ Claim.vectorReductions

/-! ### Engine commands (R163-R190) -/

/-- R163-R165: an engine command whose register or block passes its checks takes the next ticket of its team's counter on its
engine, joins the queue with the block's address and `st`, and writes the ticket; a misaligned block raises ALIGN. -/
def Obligations.EngineIssue : Prop :=
  ∀ (s : State) (i : Instr) (op : CmdOp) (d : Reg) (p : Ptr) (r : Reg) (q : EngQ), s.userIssues →
    let u := s.cur.1
    let k := s.cur.2
    let th := s.curSlot.th
    let pos := s.curSlot.team
    let a := th.regs.get p
    let b := s.rd r
    let n := (q.issued + 1) % 2 ^ 64
    let key := s.srkey u k
    let room (op : CmdOp) : Prop := s.queueOf u pos (engineOf op) = some q ∧ q.q.length < 2
    let takes (i : Instr) (c : Cmd) : Prop := ∃ t, exec i s = .next t ∧ (t.slot u k).state = .ready ∧
      s.then_ t = { th.setReg d (fromNat n) with pc := s.following } ∧
      t.queueOf u pos (engineOf c.op) = some { q with q := q.q ++ [c], issued := n } ∧ s.SameMem t
    let mine (m : Nat) : Prop := ((s.tile u).mac m).owner = some pos
    let free (m : Nat) : Prop := mine m ∧ (s.tile u).bufferOf m 16 = none
    (blockForm i = some (op, d, p) → room op → a.toNat % 64 = 0 → bits a 63 22 = 0 → mine (macroOf a) →
      takes i { op := op, ticket := n, block := a, st := th.st, kin := th.kin, key := key }) ∧
    (blockForm i = some (op, d, p) → a.toNat % 64 ≠ 0 → exec i s = .next (s.raise u k 0x03 a 0#64)) ∧
    (room .cbcfg → a.toNat % 64 = 0 → bits a 63 22 = 0 → mine (macroOf a) → b.toNat < 16 →
      ((s.tile u).buf b.toNat).owner = some pos →
      takes (.cbcfg d p r) { op := .cbcfg, ticket := n, block := a, a := b, st := th.st, kin := th.kin, key := key }) ∧
    (room .stn → 0 < b.toNat → b.toNat ≤ 192 → a.toNat + b.toNat ≤ 256 → (∀ j, j < b.toNat → free (a.toNat + j)) →
      takes (.stn d p r) { op := .stn, ticket := n, block := 0#64, a := a, b := b, st := th.st, kin := th.kin, key := key } ∧
      takes (.unstn d p r) { op := .unstn, ticket := n, block := 0#64, a := a, b := b, st := th.st, kin := th.kin, key := key }) ∧
    (room .mfmt → bits b 63 16 = 0 → bits b 7 6 = 0 → bits b 3 0 ≠ 15 → bits b 5 4 ≠ 3 → a.toNat + (bits b 15 8 + 1) ≤ 256 →
      (∀ j, j < bits b 15 8 + 1 → free (a.toNat + j)) →
      takes (.mfmt d p r) { op := .mfmt, ticket := n, block := 0#64, a := a, b := b, st := th.st, kin := th.kin, key := key })

/-- R168: `tlread` answers the timeline; `tlwait` goes on once the timeline has the ticket, taking the unreported flags, waits
before that, raises BOUNDS beyond the last ticket and ENGFAULT for a recorded error. -/
def Obligations.Timelines : Prop :=
  ∀ (s : State) (d : Reg) (p : Ptr) (e : Eng) (q : EngQ), s.userIssues →
    let u := s.cur.1
    let k := s.cur.2
    let th := s.curSlot.th
    let n := (th.regs.get p).toNat
    s.queueOf u s.curSlot.team e = some q →
    exec (.tlread d e) s = .next (s.wrote d (fromNat q.done)) ∧
    (n = 0 → exec (.tlwait p e) s = .next (s.ended id s.following)) ∧
    (q.issued < n → exec (.tlwait p e) s = .next (s.raise u k 0x04 (th.regs.get p) 0#64)) ∧
    (n ≤ q.issued → q.done < n → ∃ t, exec (.tlwait p e) s = .next t ∧ (t.slot u k).state = .wait (.timeline e) ∧ s.then_ t = th ∧
      s.OnlySlot t u k) ∧
    (0 < n → n ≤ q.issued → n ≤ q.done → q.err = none →
      ∃ t, exec (.tlwait p e) s = .next t ∧ (t.slot u k).state = .ready ∧
        s.then_ t = { th with pc := s.following, st := th.st ||| (q.flags.zeroExtend 64 <<< 4) } ∧ s.AsideSame t u k ∧
        t.queueOf u s.curSlot.team e = some { q with flags := 0#6 }) ∧
    (∀ j w a, 0 < n → n ≤ q.issued → n ≤ q.done → q.err = some (j, w, a) → j ≤ n →
      exec (.tlwait p e) s = .next (s.raise u k 0x13 a w))

/-- R183: `cbwait` goes on when enough slots are filled and waits otherwise, `cbfree` moves slots from filled to free, and
`cbstat` answers the counts, on a configured thread-mode buffer of the team. -/
def Obligations.CircularBuffers : Prop :=
  ∀ (s : State) (d : Reg) (p : Ptr) (r : Reg) (w : Word), s.userIssues →
    let u := s.cur.1
    let k := s.cur.2
    let th := s.curSlot.th
    let b := (th.regs.get p).toNat
    let n := (s.rd r).toNat
    let c := (s.tile u).buf b
    b < (s.tile u).bufs.length → b < 16 → c.owner = some s.curSlot.team → c.cfg = some w → w.getLsbD 27 = false →
    (n ≤ c.filled → n ≤ bits w 20 17 + 1 → exec (.cbwait p r) s = .next (s.ended id s.following)) ∧
    (c.filled < n → n ≤ bits w 20 17 + 1 → ∃ t, exec (.cbwait p r) s = .next t ∧ (t.slot u k).state = .wait (.buffer b) ∧ s.then_ t = th ∧
      s.OnlySlot t u k) ∧
    (bits w 20 17 + 1 < n → exec (.cbwait p r) s = .next (s.raise u k 0x04 (s.rd r) 0#64)) ∧
    (n ≤ c.filled → ∃ t, exec (.cbfree p r) s = .next t ∧ s.then_ t = { th with pc := s.following } ∧
      ((t.tile u).buf b).filled = c.filled - n ∧ ((t.tile u).buf b).free = c.free + n ∧ ((t.tile u).buf b).held = c.held ∧ s.SameMem t) ∧
    (c.filled < n → exec (.cbfree p r) s = .next (s.raise u k 0x04 (s.rd r) 0#64)) ∧
    (∃ v, exec (.cbstat d p) s = .next (s.wrote d v) ∧
      (c.filled < 256 → c.free < 256 → c.held < 256 → c.fill < 16 → c.take < 16 →
        bits v 7 0 = c.filled ∧ bits v 15 8 = c.free ∧ bits v 23 16 = c.held ∧ v.getLsbD 40 = true))

/-! ### System instructions, faults and the service thread (R191-R201, R256-R258) -/

/-- R16, R24, R191: each user special as `mfs` reads it, in OP two cycles after its issue; `rng` reads a free value, new at each read; numbers 0x0D-0x1F raise
ILLEGAL and 0x20-0x3F PRIV, with the word. -/
def Sys2Proof.Claim.readSpecials : Prop :=
  ∀ (s : State) (d : Reg) (i : Inst), s.userIssues →
    let u := s.cur.1
    let k := s.cur.2
    let sl := s.curSlot
    let th := sl.th
    let rd (n : BitVec 6) (v : Word) : Prop := exec (.mfs d n) s = .next (s.wrote d v)
    let stops (n : BitVec 6) (code : Nat) : Prop := ∃ w : BitVec 32, decode w = .ok (.mfs d n) ∧
      exec (.mfs d n) s = .next (s.raise u k code 0#64 (w.zeroExtend 64))
    rd 0x00#6 (th.tid.zeroExtend 64) ∧
    rd 0x01#6 (fromNat (sl.team % 4 * 2 ^ 16 + th.ctx % 4096)) ∧
    rd 0x02#6 (fromNat (th.kin % 2 ^ 20)) ∧
    rd 0x03#6 (fromNat (s.gen % 256 * 65536 + u / 96 % 256 * 256 + u % 96)) ∧
    rd 0x04#6 ((s.name (th.tid.toNat / 2 ^ 19)).zeroExtend 64) ∧
    rd 0x05#6 (fromNat (s.now + 2)) ∧
    rd 0x06#6 (fromNat ((s.wall9 + 2 * s.ninths) / 9)) ∧
    rd 0x07#6 th.st ∧
    rd 0x08#6 (th.trkB ++ th.trkA) ∧
    rd 0x09#6 (fromNat (sl.budget - 2)) ∧
    rd 0x0A#6 (th.seamin.zeroExtend 64) ∧
    (s.insts.look th.kin = some i → rd 0x0C#6 i.rec_.args) ∧
    (∃ v, exec (.mfs d 0x0B#6) s = .next ({ s with fresh := s.fresh + 1 }.wrote d v)) ∧
    (∀ n : BitVec 6, 0x0D ≤ n.toNat → n.toNat < 0x20 → stops n 0x01) ∧
    (∀ n : BitVec 6, 0x20 ≤ n.toNat → stops n 0x02)

/-- R192, R196, R381: the service specials at service level. -/
def Sys2Proof.Claim.readServiceSpecials : Prop :=
  ∀ (s : State) (d : Reg), s.serviceIssues →
    let u := s.cur.1
    let f := s.field (s.fieldOf u)
    let rd (n : BitVec 6) (v : Word) : Prop := exec (.mfs d n) s = .next (s.wrote d v)
    rd 0x20#6 (fromNat f.svctx) ∧
    rd 0x21#6 (fromNat (f.fbuf.length % 16 + (if f.dropped then 16 else 0))) ∧
    rd 0x22#6 (fromNat s.gen) ∧
    rd 0x23#6 (fromNat (s.fieldOf u)) ∧
    rd 0x24#6 (fromNat (f.mq.length % 2 ^ 16))

/-- R24, R191, R192, R196, R381: reads of the special registers, user and service. -/
def Obligations.ReadSpecials : Prop := Claim.readSpecials ∧ Claim.readServiceSpecials

/-- R22, R23: an `mts` to `st` changes the RW fields and keeps the RO ones, `trace` staying 0 where `debuggable` is 0; a
nonzero reserved bit or an `rm` of 5-7 raises ILLEGAL. -/
def Sys2Proof.Claim.writeStatus : Prop :=
  ∀ (s : State) (a : Reg), s.issuing = true →
    let u := s.cur.1
    let k := s.cur.2
    let v := s.rd a
    let th := s.curSlot.th
    let good : Prop := v.toNat / 2 ^ 48 = 0 ∧ v.toNat / 2 ^ 27 % 32 = 0 ∧ v.toNat % 8 ≤ 4
    let wrote (i : Instr) : Prop := ∃ t, exec i s = .next t ∧ s.OnlySlot t u k ∧
      { s.then_ t with st := th.st } = { th with pc := s.following } ∧
      (∀ n, n ≤ 9 ∨ n = 24 → (s.then_ t).st.getLsbD n = v.getLsbD n) ∧
      (∀ n, (10 ≤ n ∧ n ≤ 23) ∨ n = 25 ∨ (32 ≤ n ∧ n ≤ 47) → (s.then_ t).st.getLsbD n = th.st.getLsbD n) ∧
      (s.then_ t).st.getLsbD 26 = (v.getLsbD 26 && th.st.getLsbD 25) ∧
      (∀ n, (27 ≤ n ∧ n ≤ 31) ∨ 48 ≤ n → (s.then_ t).st.getLsbD n = false)
    (good → wrote (.stWrite a) ∧ wrote (.mts a 0x07#6)) ∧
    (¬ good → ∃ w : BitVec 32, exec (.stWrite a) s = .next (s.raise u k 0x01 0#64 (w.zeroExtend 64)) ∧
      exec (.mts a 0x07#6) s = .next (s.raise u k 0x01 0#64 (w.zeroExtend 64)))

/-- R192: a write of `fbuf` with bit 4 set clears DROPPED, with bit 4 clear keeps it; a write of `svctx` selects the context. -/
def Sys2Proof.Claim.writeServiceSpecials : Prop :=
  ∀ (s : State) (a : Reg), s.serviceIssues →
    let u := s.cur.1
    let v := s.rd a
    let g := s.fieldOf u
    let f := s.field g
    let on (i : Instr) (f' : Field) : Prop := ∃ t, exec i s = .next t ∧ s.then_ t = { s.curSlot.th with pc := s.following } ∧
      t.fields.look g = some f' ∧ (∀ h, h ≠ g → t.fields.look h = s.fields.look h) ∧ s.SameMem t
    (v.toNat < 32 → on (.fbufWrite a) { f with dropped := f.dropped && !v.getLsbD 4 } ∧
      on (.mts a 0x21#6) { f with dropped := f.dropped && !v.getLsbD 4 }) ∧
    (v.toNat < 4096 → on (.mts a 0x20#6) { f with svctx := v.toNat })

/-- R22, R23, R192: writes of the special registers. -/
def Obligations.WriteSpecials : Prop := Claim.writeStatus ∧ Claim.writeServiceSpecials

/-- R64, R195, R256-R258: taking a fault. A user thread's slot is BLOCKED with its registers and `pc` at the first word of its
run, the slot's fault sequence number rises by one, and the message with code, context, slot, number, `pc`, address and
extra word leaves on VC0 for the field's service tile; the service thread stops instead and the host is notified. -/
def Obligations.FaultEntry : Prop :=
  ∀ (s : State) (u k code : Nat) (addr extra : Word),
    let sl := s.slot u k
    let t := s.raise u k code addr extra
    k < (s.tile u).slots.length → code < 256 → k < 16 →
    (s.atService u k = false →
      (t.slot u k).state = .blocked ∧ (t.slot u k).th = sl.th ∧ (t.slot u k).ipc = sl.th.pc ∧ (t.slot u k).ext = [] ∧
      (t.slot u k).fault = some { code := code, pc := sl.th.pc, addr := addr, extra := extra } ∧
      (t.slot u k).fseq = sl.fseq + 1#8 ∧ s.SameMem t ∧
      ∃ p rest m, t.net = s.net ++ p :: rest ∧ p.vc = 0 ∧ p.src = u ∧ p.dst = (s.field (s.fieldOf u)).tile ∧
        p.body = .faultMsg m u k ∧ m.kind = 1 ∧ m.seq = sl.fseq + 1#8 ∧ m.slot = k ∧ m.tile = s.name u ∧
        bits m.w0 63 56 = code ∧ bits m.w0 51 40 = sl.th.ctx % 4096 ∧ bits m.w0 39 36 = k ∧ bits m.w0 31 0 = sl.th.tid.toNat ∧
        m.w1 = sl.th.pc ∧ m.w2 = addr ∧ m.w3 = extra) ∧
    (s.atService u k = true →
      (t.slot u k).state = .stopped .service ∧ (t.slot u k).th = sl.th ∧ t.net = s.net ∧
      ∃ h, t.hostOut = s.hostOut ++ [h] ∧ h.cls = 4 ∧ h.op = 3)

/-- R193, R258: `trap`, `brk` and `svc` take SVC or BRK with the code in bits 9:0 of the extra word and the form above it. -/
def Sys2Proof.Claim.callsTakeFaults : Prop :=
  ∀ (s : State) (c : BitVec 10), s.issuing = true →
    let u := s.cur.1
    let k := s.cur.2
    exec (.trap c) s = .next (s.raise u k 0x10 0#64 (fromNat (2 * 1024 + c.toNat))) ∧
    exec (.brk c) s = .next (s.raise u k 0x0F 0#64 (fromNat (3 * 1024 + c.toNat))) ∧
    exec (.svc c) s = .next (s.raise u k 0x10 0#64 (fromNat (4 * 1024 + c.toNat)))

/-- R64, R141, R218, R266, R355: what happens at a boundary in place of an instruction: ILLEGAL with the word, HBEAT for a READY
thread whose budget is zero and whose next instruction raises no fault of its own before it issues, BRK for one whose `pc` a
comparator matches. -/
def Sys2Proof.Claim.boundaryFaults : Prop :=
  ∀ (s : State) (u k j : Nat) (w : BitVec 32) (i : Inst) (c : Context) (next : Instr),
    let starts : Prop := (s.slot u k).state = .ready ∧ (s.slot u k).atBoundary = true ∧ s.barred u k = false
    (s.issuing = true → exec (.illegal w) s = .next (s.raise s.cur.1 s.cur.2 0x01 0#64 (w.zeroExtend 64))) ∧
    (starts → (s.slot u k).retry = false → (s.slot u k).budget = 0 → s.atService u k = false →
      s.insts.look (s.slot u k).th.kin = some i → s.fetch u (s.slot u k).th.ctx (s.slot u k).th.pc = .ok w → decode w = .ok next →
      w.toNat / 2 ^ 26 ≠ 0x39 → Instr.isXw next = false →
      exec (.hbeatExpiry u k) s = .next (s.raise u k 0x0B 0#64 (fromNat i.rec_.hk))) ∧
    (starts → (s.slot u k).brkSkip = false → s.ctxs.look (s.slot u k).th.ctx = some c →
      c.brk[j]? = some (s.slot u k).th.pc → (s.slot u k).th.pc ≠ 0#64 → (∀ l, l < j → c.brk[l]? ≠ some (s.slot u k).th.pc) →
      exec (.breakpointMatch u k) s = .next (s.raise u k 0x0F 0#64 (fromNat (5 * 1024 + j))))

/-- R64, R141, R193, R218, R258, R355: software traps, and the faults taken in place of an instruction. -/
def Obligations.FaultsTaken : Prop := Claim.callsTakeFaults ∧ Claim.boundaryFaults

/-- R26, R64, R194: a service-only instruction at user level raises PRIV with its word and has no other effect. -/
def Obligations.PrivilegeRule : Prop :=
  ∀ (s : State) (d a b : Reg) (i : Instr), s.userIssues →
    i ∈ [Instr.reply d a b, .replaya d a b, .xmap d a b, .xunmap d a, .xdrain d a b, .dinval d a, .msend d a, .mrecv d, .dstop d a,
      .dresume d a] → i.wellFormed = true →
    ∃ w : BitVec 32, w.toNat / 2 ^ 26 = 0x39 ∧ decode w = .ok i ∧
      exec i s = .next (s.raise s.cur.1 s.cur.2 0x02 0#64 (w.zeroExtend 64))

/-- R195-R201: the service forms at service level with no write outstanding: `reply` resumes, skips or completes the blocked
thread its handle names; the extent commands and messages go out and the slot waits for the answer; `mrecv` takes the oldest
fault message; `dstop` and `dresume` stop and resume a debuggable thread; `replaya` answers a granule's blocked thread and
reports how many it answered. -/
def Obligations.ServiceForms : Prop :=
  ∀ (s : State) (d a b : Reg) (m : Msg) (rest : List Msg), s.serviceIssues →
    let u := s.cur.1
    let k := s.cur.2
    let th := s.curSlot.th
    let g := s.fieldOf u
    let h := s.rd a
    let ctx := (s.field g).svctx
    let v := handleTarget h
    let j := handleSlot h
    let status (t : State) (n : Nat) : Prop := (t.slot u k).state = .ready ∧ (s.then_ t).pc = s.following ∧ s.SameMem t ∧
      (∀ r, r ≠ d → (s.then_ t).reg r = th.reg r) ∧ (d ≠ .zr → (s.then_ t).reg d = fromNat (n * 2 ^ 56))
    let sent (i : Instr) (op : SvcOp) (w : Word) : Prop := ∃ t p, exec i s = .next t ∧ (t.slot u k).state = .remote ∧
      s.then_ t = th ∧ t.net = s.net ++ [p] ∧ p.vc = 0 ∧ p.src = u ∧ p.body = .svcReq op ctx h w (.slot u k) ∧ s.AsideSame t u k
    th.NoHandles → s.Sound →
    sent (.xmap d a b) .xmap (s.rd b) ∧ sent (.xunmap d a) .xunmap 0#64 ∧ sent (.xdrain d a b) .xdrain (s.rd b) ∧
    sent (.dinval d a) .dinval 0#64 ∧
    (bits h 63 60 = 1 → s.nameOk (h.extractLsb' 0 24) = true → s.handleOld h = false → (v, j) ≠ (u, k) →
      (s.slot v j).state = .blocked → (s.slot v j).joined = none → (s.slot v j).released = false → (s.slot v j).msgSlot = none →
      (s.slot v j).fseq = h.extractLsb' 32 8 → (s.slot v j).kept = none → s.teamClosed v j = false → s.rd b = 0#64 →
      ∀ f, (s.slot v j).fault = some f → f.track = none → f.code ≠ 0x13 → f.lostContext = false → j < (s.tile v).slots.length →
      ∃ t, exec (.reply d a b) s = .next t ∧ status t 0 ∧ (t.slot v j).state = .ready ∧ (t.slot v j).th = (s.slot v j).th ∧
        (t.slot v j).fault = none) ∧
    (∀ x f, h ≠ 0#64 → s.rd b = 0#64 → s.granuleSlots g ctx h 0 = [x] → s.granuleSaved g ctx h 0 = [] → x ≠ (u, k) →
      x.2 < (s.tile x.1).slots.length → (s.slot x.1 x.2).fault = some f → f.track = none → f.code ≠ 0x13 →
      (s.slot x.1 x.2).released = false → s.teamClosed x.1 x.2 = false →
      ∃ t, exec (.replaya d a b) s = .next t ∧ (t.slot x.1 x.2).state = .ready ∧ (t.slot x.1 x.2).th = (s.slot x.1 x.2).th ∧
        (t.slot x.1 x.2).fault = none ∧ (s.then_ t).pc = s.following ∧ (d ≠ .zr → (s.then_ t).reg d = 1#64)) ∧
    (bits h 63 28 = 0 → bits h 27 24 = 0 → s.nameOk (h.extractLsb' 0 24) = true → nameGen (h.extractLsb' 0 24) = s.gen →
      ∃ t p, exec (.msend d a) s = .next t ∧ (t.slot u k).state = .wait .reply ∧ s.then_ t = th ∧ s.SameMem t ∧
        t.net = s.net ++ [p] ∧ p.vc = 0 ∧
        p.dst = (s.field (s.fieldOf (nameTile (h.extractLsb' 0 24)))).tile ∧
        ∃ q, p.body = .svcMsg q false ∧ q.w0 = th.regs.w0 ∧ q.w1 = th.regs.w1 ∧ q.w2 = th.regs.w2 ∧ q.w3 = th.regs.w3) ∧
    ((s.field g).fbuf = m :: rest → recvOk d = true →
      ∃ t, exec (.mrecv d) s = .next t ∧ (t.slot u k).state = .ready ∧ (s.then_ t).regs.w0 = m.w0 ∧ (s.then_ t).regs.w1 = m.w1 ∧
        (s.then_ t).regs.w2 = m.w2 ∧ (s.then_ t).regs.w3 = m.w3 ∧ (t.field g).fbuf = rest ∧ s.AsideSame t u k ∧
        (∀ r, r ≠ d → r ∉ [Reg.w 0#3, .w 1#3, .w 2#3, .w 3#3] → (s.then_ t).reg r = th.reg r)) ∧
    (s.nameOk (h.extractLsb' 0 24) = true → s.handleOld h = false → (v, j) ≠ (u, k) → s.debuggable (s.slot v j).th.ctx = true →
      s.teamClosed v j = false → j < (s.tile v).slots.length →
      ((s.slot v j).state = .ready → ∃ t, exec (.dstop d a) s = .next t ∧ (t.slot v j).stopReq = true ∧
        (t.slot v j).th = (s.slot v j).th ∧ (s.then_ t).pc = s.following) ∧
      ((s.slot v j).state = .stopped .debug → ∃ t, exec (.dresume d a) s = .next t ∧ (t.slot v j).state = .ready ∧
        (t.slot v j).th = (s.slot v j).th ∧ status t 0))

/-! ### Packets at their homes and at the slots that wait (R104-R107, R112, R122, R202, R214, R245-R250) -/

/-- R107, R112, R122, R132, R135, R202, R214, R245: a request that arrives at the home of its word, in a tile that is open, is
performed there and one answer goes back to the slot that waits: the bytes read, the old value of an atomic, the error of a
tracker that counts nothing, the number of a child placed there, a directory record, an acknowledgement. -/
def Obligations.RequestsAnswered : Prop :=
  ∀ (s : State) (n : Nat) (p : Packet) (ctx kin i j op g : Nat) (a : Word) (z : Size) (o : AtomOp) (wide second : Bool) (b c : Word)
    (ob : Object) (key : RecKey) (th : Thread) (h : Inst), s.Arrives n p → s.Sound →
    let u := p.dst
    let tag := s.tagView u ctx a ob.isUO
    let m := if wide then 8 else 4
    let mac := (s.tile u).mac (macroOf a)
    (s.AtHome u ctx a (sizeBytes z) ob → p.body = .readReq ctx a z →
      ((s.view u ctx a).poison = false → ∃ t, exec (.remoteReadRequest n) s = .next t ∧
        s.Answered t n p (.readData (fromNat (bytesAt a (sizeBytes z) (s.view u ctx a).data)))) ∧
      ((s.view u ctx a).poison = true → ∃ t, exec (.remoteReadRequest n) s = .next t ∧
        s.Answered t n p (.failed 0x0A (a &&& ~~~7#64) 0#64))) ∧
    (s.AtHome u ctx a m ob → s.object ctx (objOf a) = some ob → ob.isCode = false → p.body = .atomicReq ctx a (some o) wide b c →
      o ∉ [.fadd, .fmax, .fmin] → (s.tile u).LinesOk → s.NoWaiter u (objWordKey ctx a) → tag.poison = false →
      ∃ t, exec (.atomicRequest n) s = .next t ∧ s.Answered t n p (.atomicResult (fromNat (bytesAt a m tag.data))) ∧
        bytesAt a m (t.tagView u ctx a ob.isUO).data =
          (atomInt o (BitVec.ofNat (8 * m) (bytesAt a m tag.data)) (BitVec.ofNat (8 * m) b.toNat)).toNat) ∧
    (s.AtHome u ctx a 8 ob → s.object ctx (objOf a) = some ob → ob.isCode = false → p.body = .exitJ ctx a → (s.tile u).LinesOk →
      s.NoWaiter u (objWordKey ctx a) → tag.poison = false →
      ∃ t, exec (.exitJDecrement n) s = .next t ∧ s.Answered t n p (.writeAck none none) ∧
        (t.tagView u ctx a ob.isUO).data = tag.data - 1#64) ∧
    (a.toNat % sizeBytes z = 0 → p.body = .peerLoad ctx kin a z → (s.tile u).peerMac kin ctx (macroOf a) = .live →
      mac.state = .plain ∨ mac.state = .ready ∨ mac.state = .stationary → mac.due = false →
      s.mem.isPoison (spadKey u (macroOf a) (macroOff a)) = false →
      ∃ t, exec (.peerWindowLoad n) s = .next t ∧ t = { s with net := t.net, tiles := t.tiles, portAt := t.portAt } ∧ s.Answered t n p
        (.readData (fromNat (bytesAt a (sizeBytes z) (s.mem.word (spadKey u (macroOf a) (macroOff a))))))) ∧
    (p.body = .trackQuery i second → ((s.tile u).tracker i).count = 0 →
      ∃ t, exec (.trackerQuery n) s = .next t ∧ s.Answered t n p (.trackAnswer second ((s.tile u).tracker i).err)) ∧
    (p.body = .trackRelease i true kin → ((s.tile u).tracker i).count = 0 → i < (s.tile u).trackers.length →
      ∃ t, exec (.trackerRelease n) s = .next t ∧ s.Taken_ t n ∧ (t.tile u).tracker i = {}) ∧
    (p.body = .placeReq th → s.insts.look th.kin = some h → h.killed = false → (s.tile u).quiesced th.kin = false →
      s.openSlot u = some j → (s.tile u).slots.length = 16 → s.canSeat u th.kin = true →
      ((s.tile u).posOf th.kin).isSome = true → th.trace = false → 16 ≤ (s.tile u).nextSeq → (s.tile u).nextSeq ≤ 524287 →
      ∃ t, exec (.placementRequest n) s = .next t ∧ s.Answered t n p (.admission (some (tidOf u (s.tile u).nextSeq))) ∧
        (t.slot u j).state = .ready ∧ (t.slot u j).th.tid = tidOf u (s.tile u).nextSeq ∧ (t.slot u j).th.pc = th.pc ∧
        (t.slot u j).th.regs = th.regs ∧ t.insts.look th.kin = some { h with live := h.live + 1 }) ∧
    (p.body = .dirReq key → ∃ t e, exec (.directoryFillRequest n) s = .next t ∧ s.Answered t n p (.dirFill e) ∧ e.key = key ∧
      e.stamp = s.gen ∧ (s.object key.ctx key.obj = none → e.valid = false) ∧
      (key.kind = .home g → e.valid = true → e.homes.length = 16)) ∧
    (p.body = .dirInval key op → ∃ t, exec (.directoryInvalidate n) s = .next t ∧ s.Sends t n p 1 16 (.invalDone op) ∧
      ∀ e, e ∈ (t.tile u).odc → e.key ≠ key)

/-- R106, R107, R120, R122, R135, R181: a write that arrives at the home of its word is performed there, and its
acknowledgement lowers the tracker that counts it; a copy engine's reads and writes are answered word by word. -/
def Obligations.WritesPerformed : Prop :=
  ∀ (s : State) (n : Nat) (p : Packet) (ctx kin i pos ph : Nat) (a v w : Word) (z : Size) (o : AtomOp) (wide nt bad : Bool)
    (tr : Option Nat) (ob : Object) (r : Run) (base : Option (Ptr × Word)), s.Arrives n p → s.MemWf → s.Sound →
    let u := p.dst
    let k := p.slot
    let tag := s.tagView u ctx a ob.isUO
    let m := if wide then 8 else 4
    let mac := (s.tile u).mac (macroOf a)
    let key := spadKey u (macroOf a) (macroOff a)
    let ready (m : Nat) : Prop := s.AtHome u ctx a m ob ∧ s.object ctx (objOf a) = some ob ∧ ob.isCode = false ∧ ob.place ≠ 3 ∧
      (s.tile u).LinesOk ∧ s.NoWaiter u (objWordKey ctx a) ∧ s.heldBefore u p = none
    (ready (sizeBytes z) → p.body = .store ctx a z v nt tr →
      ∃ t, exec (.storeWrite n) s = .next t ∧ s.Answered t n p (.writeAck tr none) ∧
        bytesAt a (sizeBytes z) (t.view u ctx a).data = v.toNat % 2 ^ (8 * sizeBytes z)) ∧
    (ready 8 → p.body = .stf ctx a v tr →
      ∃ t, exec (.stfWrite n) s = .next t ∧ s.Answered t n p (.writeAck tr none) ∧
        (t.tagView u ctx a ob.isUO).data = v ∧ (t.tagView u ctx a ob.isUO).empty = false) ∧
    (ready m → p.body = .nrAtomic ctx a o wide v tr → o ∉ [.fadd, .fmax, .fmin] → tag.poison = false →
      ∃ t, exec (.nrAtomicWrite n) s = .next t ∧ s.Answered t n p (.writeAck tr none) ∧
        bytesAt a m (t.tagView u ctx a ob.isUO).data =
          (atomInt o (BitVec.ofNat (8 * m) (bytesAt a m tag.data)) (BitVec.ofNat (8 * m) v.toNat)).toNat) ∧
    (a.toNat % sizeBytes z = 0 → p.body = .peerStore ctx kin a z v → (s.tile u).peerMac kin ctx (macroOf a) = .live →
      mac.state = .plain ∨ mac.state = .ready → mac.due = false → s.NoWaiter u (spadWordKey a) →
      ∃ t, exec (.peerWindowStore n) s = .next t ∧ s.Answered t n p (.writeAck none none) ∧ s.SameBytesBut t key (sizeBytes z) ∧
        bytesAt a (sizeBytes z) (t.mem.word key) = v.toNat % 2 ^ (8 * sizeBytes z)) ∧
    (ready 8 → p.body = .copyReadReq pos ctx a i →
      ∃ t, exec (.copyReadRequest n) s = .next t ∧
        s.Sends t n p 4 k (.copyData i (s.view u ctx a).data (s.view u ctx a).poison 0)) ∧
    (ready 8 → p.body = .copyWrite pos ctx a 0xFF#8 v bad →
      ∃ t, exec (.copyWrite n) s = .next t ∧ s.Sends t n p 4 k (.copyAck 0) ∧
        (bad = false → (t.view u ctx a).data = v)) ∧
    (ready 8 → ph < 10 → p.body = .gridStore ctx a [v] ph →
      ∃ t, exec (.counterGridStore n) s = .next t ∧ s.Sends t n p 4 k (.copyAck ph) ∧ (t.view u ctx a).data = v) ∧
    ((s.tile u).cpe = some r → r.tag = k → k ≠ 17 → k ≠ 18 →
      (p.body = .copyAck 0 → ∃ t r', exec (.copyWriteAcknowledgement n) s = .next t ∧ s.Taken_ t n ∧ (t.tile u).cpe = some r' ∧
        r'.left = r.left - 1 ∧ r'.err = r.err ∧ (r.left = 1 → r.wait = .remote → r'.wait = .run)) ∧
      (p.body = .copyData i w bad 0 → i ∈ r.asked → ∃ t r', exec (.copyReadData n) s = .next t ∧ s.Taken_ t n ∧
        (t.tile u).cpe = some r' ∧ r'.got.look i = some (w, bad) ∧ r'.err = r.err)) ∧
    (p.body = .writeAck (some i) none → i < (s.tile u).trackers.length → ((s.tile u).tracker i).err = none →
      ∃ t, exec (.writeAcknowledgement n) s = .next t ∧ s.Taken_ t n ∧
        (t.tile u).tracker i = { (s.tile u).tracker i with count := ((s.tile u).tracker i).count - 1 }) ∧
    (p.body = .writeAck none none → s.Awaiting u k (.store base) → (s.slot u k).state = .wait .reply →
      ∃ t, exec (.writeAcknowledgement n) s = .next t ∧ (t.slot u k).state = .ready ∧
        (t.slot u k).th = { (s.slot u k).th.setBase base with pc := (s.slot u k).ipc + 4#64 })

/-- R104, R112, R117, R122, R132, R194, R198, R203: a reply that arrives at the slot that waits for it completes the form that
issued it: the destination gets the value and the thread is READY at the next instruction; a failed access blocks the thread
with the fault of its home. -/
def Obligations.RepliesArrive : Prop :=
  ∀ (s : State) (n : Nat) (p : Packet) (d : Reg) (z : Size) (sx second m : Bool) (v a x pc target w : Word) (code sum : Nat) (tid : BitVec 32)
    (e : OdcEntry), s.Arrives n p →
    let u := p.dst
    let k := p.slot
    let sl := s.slot u k
    let ends (t : State) (th : Thread) : Prop := (t.slot u k).state = .ready ∧ (t.slot u k).th = { th with pc := sl.ipc + 4#64 } ∧
      (t.slot u k).ipc = sl.ipc + 4#64 ∧ (∀ q, q ≠ u → t.tile q = s.tile q) ∧ (∀ j, j ≠ k → t.slot u j = s.slot u j) ∧ s.SameMem t
    (s.Awaiting u k (.load d z sx none false) → sl.state = .remote →
      (p.body = .readData v → ∃ t, exec (.readData n) s = .next t ∧ s.Taken_ t n ∧
        ends t (sl.th.setReg d (loadedWord z sx (v.toNat % 2 ^ (8 * sizeBytes z))))) ∧
      (p.body = .failed code a x → ∃ t, exec (.readData n) s = .next t ∧ (t.slot u k).state = .blocked ∧
        (t.slot u k).fault = some { code := code, pc := sl.th.pc, addr := a, extra := x } ∧ (t.slot u k).th.regs = sl.th.regs ∧
        (t.slot u k).fseq = sl.fseq + 1#8)) ∧
    (s.Awaiting u k (.atomic d) → p.body = .atomicResult v →
      ∃ t, exec (.atomicResult n) s = .next t ∧ s.Taken_ t n ∧ ends t (sl.th.setReg d v)) ∧
    (s.Awaiting u k (.query second) → p.body = .trackAnswer second none → sl.reqSeq = p.rseq + 1#4 →
      ∃ t, exec (.trackerAnswer n) s = .next t ∧ s.Taken_ t n ∧ (t.slot u k).state = .ready ∧ (t.slot u k).th.pc = sl.th.pc ∧
        (t.slot u k).th.regs = sl.th.regs ∧ (if second then (t.slot u k).th.drainB else (t.slot u k).th.drainA) = true) ∧
    (s.Awaiting u k (.spawn d target pc m) → sl.state = .wait .reply → p.body = .admission (some tid) →
      ∃ t, exec (.admissionAnswer n) s = .next t ∧ (t.slot u k).state = .ready ∧
        (t.slot u k).th = { sl.th.setReg d (tid.zeroExtend 64) with pc := sl.ipc + 4#64 }) ∧
    (k < 16 → k < (s.tile u).slots.length → sl.state = .wait .directory → p.body = .dirFill e →
      ∃ t, exec (.directoryFill n) s = .next t ∧ s.Taken_ t n ∧ (t.slot u k).state = .ready ∧ (t.slot u k).th = sl.th ∧
        ∃ r, r ∈ (t.tile u).odc ∧ r.key = e.key ∧ r.stamp = s.gen) ∧
    (k < 16 → k < (s.tile u).slots.length → sl.pend = .service d 1 sum → sl.state = .wait .reply ∨ sl.state = .remote →
      p.body = .svcAnswer w →
      ∃ t, exec (.serviceAnswer n) s = .next t ∧ s.Taken_ t n ∧ ends t (sl.th.setReg d (fromNat (sum + w.toNat))))

/-- R195-R202, R259: fault messages and messages of service threads enter the buffers of the destination's field in order of
arrival; a fault message that finds eight held is discarded and its slot marked; a `replaya` of region 0 with no such mark
answers zero. -/
def Obligations.MessagesArrive : Prop :=
  ∀ (s : State) (n f t' k : Nat) (p : Packet) (m : Msg) (ctx pg : Nat) (a w acc : Word) (who : Asker), s.Arrives n p →
    let u := p.dst
    (s.serviceField u = some f → f ∈ s.fields.map Prod.fst →
      (p.body = .faultMsg m t' k → (s.field f).fbuf.length < 8 → ∃ t, exec (.faultMessage n) s = .next t ∧ s.Taken_ t n ∧
        (t.field f).fbuf = (s.field f).fbuf ++ [m] ∧ (t.field f).mq = (s.field f).mq ∧ t.tiles = s.tiles) ∧
      (p.body = .faultMsg m t' k → ¬ (s.field f).fbuf.length < 8 → ∃ t q, exec (.faultMessage n) s = .next t ∧
        t.net = dropAt s.net n ++ [q] ∧ q.dst = t' ∧ q.body = .droppedMark t' k m.seq ∧
        (t.field f).fbuf = (s.field f).fbuf ∧ (t.field f).dropped = true) ∧
      (p.body = .svcMsg m false → p.slot < 16 → ∃ t, exec (.serviceMessage n) s = .next t ∧ s.Answered t n p (.svcAnswer 0#64) ∧
        (t.field f).mq = (s.field f).mq ++ [m] ∧ (t.field f).fbuf = (s.field f).fbuf)) ∧
    (p.body = .svcMsg m true → p.slot = 16 → ∃ t, exec (.serviceMessage n) s = .next t ∧ s.Taken_ t n ∧
      (t.tile u).monq = (s.tile u).monq ++ [m]) ∧
    (p.body = .droppedMark t' k m.seq → k < (s.tile t').slots.length → (s.slot t' k).state = .blocked → (s.slot t' k).fseq = m.seq →
      (s.slot t' k).fault ≠ none → (s.slot t' k).joined = none → (s.slot t' k).msgSlot = none → (s.slot t' k).kept = none →
      ∃ t, exec (.serviceAnswer n) s = .next t ∧ s.Taken_ t n ∧ (t.slot t' k).dropped = true ∧ (t.slot t' k).th = (s.slot t' k).th) ∧
    (p.body = .droppedReq w acc → (∀ j, (s.slot u j).dropped = false) → (s.tile u).saves = [] →
      ∃ t, exec (.droppedAnswerRequest n) s = .next t ∧ s.Answered t n p (.svcAnswer 0#64) ∧ t.tiles = s.tiles) ∧
    (let v := nameTile (MapWord.home w)
     p.body = .svcReq .xmap ctx a w who → s.xmapCheck ctx a w = none → s.trueHome ctx a 0 = none →
      (s.tile v).pickPage w = some pg → (s.tile v).extent ctx (objOf a) (granOf a) = none →
      ∃ t e, exec (.serviceRequest n) s = .next t ∧ t.homeMap.look (granKey ctx (objOf a) (granOf a)) = some (homeEntry v) ∧
        (t.tile v).extent ctx (objOf a) (granOf a) = some e ∧ e.page = pg ∧ e.state = .moving)

/-! ### Waits, arrivals and departures of threads (R19, R132, R142, R204-R217, R237, R249, R263, R379) -/

/-- R19, R116, R132, R142, R157, R163, R168, R207, R210, R216, R237: a wait ends when what it waits for is there: the thread is
READY at the instruction that waited, whose retry takes no effect from the first attempt; a barrier lets all members of the
team go on together; a free slot goes to the head of the context's arrival queue; spilled waiters and ring entries move up. -/
def Obligations.WaitsEnd : Prop :=
  ∀ (s : State) (t k i since j n : Nat) (w : Why) (d : Reg) (target pc : Word) (m : Bool) (q : AQueue) (f : Flit) (rest : List Flit)
    (h : Inst) (p : Packet),
    let x := s.tile t
    let sl := s.slot t k
    let again (u : State) : Prop := (u.slot t k).state = .ready ∧ (u.slot t k).th = sl.th ∧ (u.slot t k).ipc = sl.ipc ∧
      (u.slot t k).retry = true
    let same (u : State) : Prop := again u ∧ s.OnlySlot u t k
    x.shut = false →
    (sl.state = .wait w →
      (∃ e, w = .engine e ∧ (s.slotQ t k e).q.length < 2) ∨
      (∃ g, w = .mac g ∧ (x.mac g).state ≠ .loading ∧ (x.mac g).state ≠ .scrubbing ∧ (x.mac g).due = false) ∨
      (w = .handles ∧ sl.th.NoHandles) ∨ (w = .alone ∧ ∀ j, j < 16 → j ≠ k → s.member t sl.team j = false) →
      ∃ u, exec (.waitResume t k) s = .next u ∧ same u) ∧
    (sl.state = .wait .barrier → (∀ j, j < 16 → s.member t sl.team j = true → (s.slot t j).state = .wait .barrier) →
      ∃ u, exec (.waitResume t k) s = .next u ∧ ∀ j, j < 16 → s.member t sl.team j = true →
        (u.slot t j).state = .ready ∧ (u.slot t j).th = { (s.slot t j).th with pc := (s.slot t j).ipc + 4#64 }) ∧
    (sl.state = .wait .fill → ∃ u, exec (.mergingFill t k) s = .next u ∧ again u) ∧
    (sl.state = .wait (.park since) →
      (since + 256 ≤ s.now → ∃ u, exec (.parkRetry t k) s = .next u ∧ same u) ∧
      (s.now < since + 256 → exec (.parkRetry t k) s = .fault .notEnabled)) ∧
    (x.spilled ≠ [] → x.waiters.length < 256 → (∀ w, w ∈ x.spilled → w.foul = false) → ∃ u, exec (.waiterUnspill t) s = .next u ∧
      (u.tile t).waiters ++ (u.tile t).spilled = x.waiters ++ x.spilled ∧
      (u.tile t).waiters.length = min 256 (x.waiters.length + x.spilled.length)) ∧
    (sl.state = .wait (.spawn since) → sl.pend = .spawn d target pc m → since + 256 ≤ s.now → isPlacement target = false →
      nameTile (target.extractLsb' 0 24) ≠ t → ∃ u, exec (.spawnRetry t k) s = .next u ∧ (u.slot t k).th = sl.th ∧
        (u.slot t k).state = .wait (.childFlit (max s.now (sl.eligAt - 2)) (nameTile (target.extractLsb' 0 24)) (bits target 23 16))) ∧
    (s.wokenClaim t = none → s.grantSlot t = some j → j < x.slots.length → s.queueNext t = some i → x.queues.look i = some q →
      q.q = f :: rest → f.stop = false → f.back = none → f.kind = 0 → (x.posOf f.th.kin).isSome = true →
      ∃ u, exec (.slotGrant t) s = .next u ∧ (u.slot t j).state = .ready ∧ (u.slot t j).th = f.th ∧ (u.slot t j).ipc = f.th.pc) ∧
    (x.ring = f :: rest → f.th.foul = false → x.quiesced f.th.kin = false → x.queues.look f.th.ctx = some q → q.q.length < q.depth →
      ∃ u, exec (.ringToQueue t) s = .next u ∧ (u.tile t).ring = rest ∧
        (u.tile t).queues.look f.th.ctx = some { q with q := q.q ++ [f] }) ∧
    (s.Arrives n p → p.dst = t → p.body = .migrate f → f.kind = 0 → f.back = none → f.stop = false → f.th.trace = false →
      s.insts.look f.th.kin = some h → h.killed = false → x.quiesced f.th.kin = false → s.openSlot t = some j → j < x.slots.length →
      s.canSeat t f.th.kin = true →
      ∃ u, exec (.migrationFlit n) s = .next u ∧ s.Taken_ u n ∧ (u.slot t j).state = .ready ∧ (u.slot t j).th = f.th ∧
        (u.slot t j).ipc = f.th.pc ∧ (u.slot t j).prev = some f.frm)

/-- R28, R204-R206, R248-R250, R263, R350, R370, R379, R382: a departure leaves as a migration flit and frees the slot; the waits for the
router end after their bounds; a packet returned STALE is sent once more to the home its refreshed record names; packets held
by a dusk go again; CRC errors are counted where the flit is resent. -/
def Obligations.Departures : Prop :=
  ∀ (s : State) (t k n since kind dst gen u v site port ctx : Nat) (p : Packet) (a b : Word) (d : Reg) (y : Ptr) (x : Reg) (z : Size)
    (o : Sys2Proof.Order) (c : Scope) (m : Bool) (ob : Object) (r : Port),
    let sl := s.slot t k
    let waits (w : Why) : Prop := sl.state = .wait w
    (waits (.departure since kind dst gen) → sl.th.trace = false → since ≤ s.now → s.now < since + (if kind = 0 then 4096 else 65536) →
      s.flitCredit t = true → ∃ w q f, exec (.migrationDeparture t k) s = .next w ∧
      w.net = s.net ++ [q] ∧ q.vc = 3 ∧ q.src = t ∧ q.dst = dst ∧ q.gen = gen ∧ q.body = .migrate f ∧ f.kind = kind ∧ f.frm = s.name t ∧
      f.th = (if kind = 1 then { sl.th with pc := sl.ipc + 4#64 } else if kind = 0 then sl.th.setBounce (sl.bounceTo dst).1 else sl.th) ∧
      (w.slot t k).state = .free ∧
      (w.slot t k).fseq = sl.fseq) ∧
    (waits (.departure since 0 dst gen) → since + 4096 ≤ s.now → s.waiting t k = some (.ldx d y x z o c) →
      ∃ w q, exec (.loadDepartureTimeout t k) s = .next w ∧ w.net = s.net ++ [q] ∧ q.vc = 0 ∧ q.src = t ∧ q.dst = dst ∧ q.gen = gen ∧
        q.slot = k ∧ q.body = .readReq (s.memCtx t k) (sl.th.regs.get y + fromInt ((sl.th.reg x).toInt * sizeBytes z)) z ∧
        (w.slot t k).state = .remote ∧ (w.slot t k).th = sl.th) ∧
    (waits (.departure since kind dst gen) → kind ≠ 0 → since + 65536 ≤ s.now → s.atService t k = false →
      ∃ w g, exec (.qstallTimeout t k) s = .next w ∧ (w.slot t k).state = .blocked ∧ (w.slot t k).fault = some g ∧ g.code = 0x12 ∧
        g.pc = sl.th.pc ∧ (w.slot t k).th.regs = sl.th.regs) ∧
    (waits (.childFlit since dst gen) → sl.pend = .spawn d a b m → isPlacement a = false → ¬ sl.th.inline < 4 →
      sl.stopReq = false → s.teamClosed t k = false →
      (since + 4096 ≤ s.now → ∃ w, exec (.childFlitTimeout t k) s = .next w ∧ (w.slot t k).state = .wait (.spawn s.now) ∧
        (w.slot t k).th = sl.th) ∧
      (s.now < since + 4096 → exec (.childFlitTimeout t k) s = .fault .notEnabled)) ∧
    (s.net[n]? = some p → p.src < 16384 → (s.tile p.src).closed = false → p.ret = .stale → s.firstReturned p = true →
      p.body = .readReq ctx a z →
      s.object ctx (objOf a) = some ob → s.trueHome ctx a p.src = some u →
      (p.resent = false → ∃ w q, exec (.staleReturn n) s = .next w ∧ w.net = dropAt s.net n ++ [q] ∧ q.dst = u ∧ q.gen = s.gen ∧
        q.body = p.body ∧ q.src = p.src ∧ q.slot = p.slot ∧ q.resent = true) ∧
      (p.resent = true → ∃ w q, exec (.staleReturn n) s = .next w ∧ w.net = dropAt s.net n ++ [q] ∧ q.dst = p.src ∧
        q.slot = p.slot ∧ q.body = .failed 0x08 a ((nameOf p.gen p.dst).zeroExtend 64))) ∧
    (s.held[n]? = some p → p.gen ≠ s.gen → (s.tile p.dst).closed = false →
      (∀ q, q ∈ s.held.take n → q.src = p.src → q.dst = p.dst → q.vc ≠ p.vc) → ∃ w q, exec (.heldPacketResend n) s = .next w ∧
      w.held = dropAt s.held n ∧ w.net = s.net ++ [q] ∧ q.gen = s.gen ∧ q.dst = p.dst ∧ q.src = p.src ∧ q.body = p.body) ∧
    (s.net[n]? = some p → p.held = false → p.ret = .no → s.sitesOf p ≠ [] → ∃ w g, exec (.headerCrcError n) s = .next w ∧ w.net = s.net ∧ s.SameMem w ∧
      g ∈ s.sitesOf p ∧ (∀ e, s.tileAt g = some e → (w.tile e).errs.link = (s.tile e).errs.link + 1) ∧
      ∀ e, s.tileAt g ≠ some e → w.tile e = s.tile e) ∧
    (s.ports[port]? = some r → r.up = true → r.role ≠ 0 → s.tileAt (Config.portSite port) = some v →
      ∃ w, exec (.linkCrcResend port) s = .next w ∧ w.net = s.net ∧ w.ports = s.ports ∧ (w.tile v).errs.link = (s.tile v).errs.link + 1) ∧
    ((s.tile t).relock = true → ∃ w, exec (.clockRelock t) s = .next w ∧ (w.tile t).slots = (s.tile t).slots ∧
      (s.changing = false → (w.tile t).relock = false ∧ ∀ e, e ≠ t → w.tile e = s.tile e) ∧
      (s.changing = true → ∀ g e, g ∈ siteNeighbours (s.site t) → s.forwards g = true → g ≠ s.clockRoot →
        s.parentOf g = s.site t → s.tileAt g = some e → (w.tile e).relock = true)) ∧
    (u ∈ siteNeighbours site → s.clocked u 8448 = true → s.descends u site 8448 = false → s.forwards site = true →
      s.forwards (s.parentOf site) = false → site ≠ s.clockRoot →
      ∃ w g, exec (.clockParentSwitch site) s = .next w ∧ w.parents.look site = some g ∧ g ∈ siteNeighbours site ∧
        s.forwards g = true ∧ ∀ e, s.tileAt site = some e → (w.tile e).relock = true)

/-! ### Engines, macros and routes (R163-R190, R242-R244, R253, R254, R324) -/

/-- Commands start, run and end, buffers pass slots between engines, routes deliver, macros are scrubbed and teams retire. -/
def Sys2Proof.Claim.enginesRun : Prop :=
  ∀ (s : State) (t p m n num kin c' b g : Nat) (tm : Team) (c : Cmd) (rest : List Cmd) (r : Run) (w : Word) (rf : RouteFlit)
    (k : Packet) (v v' : Recv) (s' : State) (fl : Flags) (ue : Bool) (h : Inst),
    let x := s.tile t
    let bfe : Prop := x.bfe = some r ∧ s.runClosed t r = false ∧ x.teams.look r.pos = some tm
    let cpe : Prop := x.cpe = some r ∧ s.runClosed t r = false ∧ x.teams.look r.pos = some tm
    let ends (i : Instr) (e : Eng) : Prop := ∃ u tm', exec i s = .next u ∧ (u.tile t).run e = none ∧
      (u.tile t).teams.look r.pos = some tm' ∧ (tm'.engQ e).done = r.cmd.ticket ∧ (tm'.engQ e).q = (tm.engQ e).q
    (x.bfe = none → x.shut = false → x.teams = [(p, tm)] → p < 4 → tm.closed = false → tm.runB = none → tm.bfe.q = c :: rest →
      c.op = .unstn ∨ (c.op = .stn ∧ ∀ m, m ∈ c.group → ((x.mac m).state = .plain ∨ (x.mac m).state = .ready) ∧ (x.mac m).due = false) →
      ∃ u r' tm', exec (.commandStart t .bfe) s = .next u ∧ (u.tile t).bfe = some r' ∧ r'.cmd = c ∧ r'.pos = p ∧ r'.wait = .run ∧
        r'.due = s.now + 2 + c.group.length ∧ (u.tile t).teams.look p = some tm' ∧ tm'.bfe.q = rest ∧
        ∀ m, m ∈ c.group → m < x.macros.length → (x.mac m).due = false →
          (c.op = .stn → ((u.tile t).mac m).state = .stationary) ∧
          (c.op = .unstn → (x.mac m).state = .stationary → ((u.tile t).mac m).state = .plain)) ∧
    (bfe → r.cmd.op = .bfly → r.wait = .run → r.due ≤ s.now → r.blocks.length = 1 → r.prog = 0 → ends (.butterflyStageEnd t) .bfe) ∧
    (bfe → r.cmd.op = .stn ∨ r.cmd.op = .unstn ∨ r.cmd.op = .mfmt → r.wait = .run → r.due ≤ s.now → ends (.macroControlEnd t) .bfe) ∧
    (cpe → s.turn t (engRank .cpe) = true → r.cmd.op = .cpy → r.wait = .run → r.err = 0 → r.prog = r.job.rows → r.left = 0 → r.slot = none →
      ends (.copyRowEnd t) .cpe) ∧
    (x.nme = some r → s.turn t (engRank .nme) = true → s.runClosed t r = false → x.teams.look r.pos = some tm → r.cmd.op = .nrzero → r.wait = .run → r.blocks.length = 1 →
      r.prog + 1 = (nmJob (r.blocks.getD 0 []) r.cmd.st).count → ends (.nmeOperationEnd t) .nme) ∧
    (bfe → r.wait = .slot → b = (stageOf (r.blocks.getD r.prog []) r.cmd.st).cbn → b < x.bufs.length → (x.buf b).cfg = some w →
      (x.buf b).filled ≠ 0 → ∃ u r', exec (.bufferSlotTake t) s = .next u ∧ (u.tile t).bfe = some r' ∧ r'.wait = .run ∧
        r'.taken = r.taken ++ [(b, (x.buf b).take)] ∧ ((u.tile t).buf b).filled = (x.buf b).filled - 1 ∧
        ((u.tile t).buf b).held = (x.buf b).held + 1 ∧ ((u.tile t).buf b).free = (x.buf b).free) ∧
    (cpe → r.wait = .slot → b = r.job.cbn → b < x.bufs.length → (x.buf b).cfg = some w → (x.buf b).free ≠ 0 →
      x.slotState b .scrubbing = none → x.slotState b .stationary = none →
      ∃ u r', exec (.copySlotTake t) s = .next u ∧ (u.tile t).cpe = some r' ∧ r'.wait = .run ∧ r'.slot = some (x.buf b).fill ∧
        ((u.tile t).buf b).free = (x.buf b).free - 1 ∧ ((u.tile t).buf b).filled = (x.buf b).filled) ∧
    (s.Arrives n k → k.dst = t → x.quiesced (s.kinAt t rf.kin) = false → x.recvOf rf.num rf.kin k.src rf.inp = some v →
      v.dead = false → rf.all = false →
      (k.body = .route rf → rf.data ≠ [] →
        ({ s with net := dropAt s.net n } : State).rowIn t v rf = .ok s' v' fl ue →
        ∃ u, exec (.routeDataFlit n) s = .next u ∧ u.net = s'.net ∧ u.mem = s'.mem ∧
          (u.tile t).recvOf rf.num rf.kin k.src rf.inp = some (s'.rowLoaded t v' rf).2) ∧
      (k.body = .routeLast rf → rf.data = [] → (∀ f, rf.cbn = some f → x.fillLate f s.now = false) →
        ∃ u, exec (.routeLastFlit n) s = .next u ∧ s.Taken_ u n ∧ (u.tile t).recvOf rf.num rf.kin k.src rf.inp = none ∧
        (v.buf = some b → b < x.bufs.length → (x.buf b).cfg = some w → (x.buf b).ended = [] →
          v.slot = ((x.buf b).take + (x.buf b).filled) % CBuf.count w → ((u.tile t).buf b).filled = (x.buf b).filled + 1))) ∧
    (s.Arrives n k → k.dst = t → k.body = .routeGrant g num kin 0 → x.cpe = some r → r.cmd.op = .csend → r.job.route = num →
      r.cmd.kin = kin → ∃ u r', exec (.routeSlotGrant n) s = .next u ∧ s.Taken_ u n ∧
        (u.tile t).cpe = some r' ∧ k.src ∈ r'.granted ∧ r'.err = r.err) ∧
    (m < 256 → (x.mac m).state = .scrubbing → (x.mac m).since = none →
      (∀ j, j ≠ m → (x.mac j).state ≠ .scrubbing) → x.macros.length = 256 →
      ∃ u, exec (.scrubStart t m) s = .next u ∧ u.mem = s.mem ∧ (u.tile t).mac m = { x.mac m with since := some s.now }) ∧
    (s.MemWf → m < x.macros.length → (x.mac m).state = .scrubbing → (x.mac m).since = some c' →
      ∃ u, exec (.scrubEnd t m) s = .next u ∧ ((u.tile t).mac m).state = .plain ∧ ((u.tile t).mac m).fmt = 0#4 ∧
        (∀ a, spadKey t m 0 ≤ a → a < spadKey t m 0 + 16384 → u.mem.byte a = 0#8) ∧ s.SameBytesBut u (spadKey t m 0) 16384) ∧
    (x.teams.look p = some tm → tm.closed = false → tm.seam = none → s.instHere t tm.kin = false → x.commandsDone p tm = true →
      x.shut = false → s.insts.look tm.kin = some h → ∃ u, exec (.teamRetire t p) s = .next u ∧ (u.tile t).teams.look p = none ∧
        u.insts.look tm.kin = some { h with teams := h.teams - 1 } ∧
        ∀ m, m < x.macros.length → (x.mac m).owner = some p → ((u.tile t).mac m).owner = none ∧
          (m < 256 → (x.mac m).state ≠ .loading → ((u.tile t).mac m).state = .scrubbing))

/-- R46, R48-R50, R172: a `bfly` of dense weights without a shared scale in one macro writes each output with the window sum of
the exact products of its row and columns, rounded once into the format of Y: FP32 to nearest, any other format under orm and
osat with the element's SR position. -/
def Sys2Proof.Claim.butterflyResults : Prop :=
  ∀ (s : State) (t mx ex my ey : Nat) (tm : Team) (r : Run) (bl : List Word),
    let g := stageOf bl r.cmd.st
    let c := s.fmtAt t my
    let W (p q k : Nat) : Val := s.elem t g.first (p * (4 * g.b * g.b) + q * (2 * g.b) + k)
    let X (i k : Nat) : Val := s.elem t mx (ex + i * g.batch + k)
    s.Plain t → (s.tile t).bfe = some r → s.runClosed t r = false → (s.tile t).teams.look r.pos = some tm → r.cmd.op = .bfly →
    r.wait = .run → r.due ≤ s.now → r.blocks = [bl] → r.prog = 0 → r.taken = [] → s.Current t r.fmts →
    g.nsp = 0 → g.acc = false → g.zskip = false → g.cb = false → g.cm1 = 0 → g.wl ≤ g.sl → g.sl + 1 ≤ g.nl → g.first < 256 →
    g.stored ≤ fmtCap (s.fmtAt t g.first) → isAffine (s.fmtAt t g.first) = false →
    s.region t (stageX [bl] 0) g.size = [(mx, ex, g.size, 0)] → s.region t (stageY [bl] 0) g.size = [(my, ey, g.size, 0)] →
    1 ≤ c → c ≤ 12 → isBlock c = false → macroOf r.cmd.block ≠ my →
    (∀ i, i < g.stored → (s.elem t g.first i).isFinite = true) → (∀ i, i < g.size → (s.elem t mx (ex + i)).isFinite = true) →
    ∃ u, exec (.butterflyStageEnd t) s = .next u ∧ (u.tile t).bfe = none ∧
      ∀ i j k q, i < g.n / (2 * g.d) → j < g.d / g.b → k < g.batch → q < 2 * g.b →
        let at_ (z : Nat) : Nat := i * (2 * g.d) + j * g.b + (if z < g.b then z else g.d + (z - g.b))
        let e := ey + at_ q * g.batch + k
        ∃ y, windowSum ((List.range (2 * g.b)).map (fun z => (W (i * (g.d / g.b) + j) q z).rat * (X (at_ z) k).rat)) y ∧
          roundedTo c (if c = 1 then rne else elemRnd g.rm g.osat r.cmd.key my e) y (u.elemCode t my e)

/-- R44, R46, R47, R50, R179, R181: a row of a `cpy` or `cred` between scratchpad regions, each within one macro: equal formats move codes
and whole blocks' scales, RAW moves bytes, other formats receive each exact value rounded once, blocks by R46 or the exact
expansion of R47, and `cred` combines with the old elements. -/
def Sys2Proof.Claim.copiedRows : Prop :=
  ∀ (s : State) (t ms es md ed : Nat) (r : Run),
    let j := r.job
    let n := j.rl
    let c := s.fmtAt t ms
    let d := s.fmtAt t md
    let pos (e : Nat) : BitVec 32 := BitVec.ofNat 32 (md * 2 ^ 15 + (ed + e))
    let rnd (e : Nat) : Rnd := ⟨j.rm, j.sat, r.cmd.key, pos e⟩
    let single : Prop := isBlock d = false ∧ isAffine d = false
    s.Plain t → s.RowEnds t r → j.sk = 1 → j.dk = 1 → r.cmd.op = .cpy ∨ r.cmd.op = .cred → macroOf r.cmd.block ≠ md →
    s.spadRow t (rowAddr j.src j.srs r.prog) n r.raw = .ok [(ms, es, n, 0)] →
    s.spadRow t (rowAddr j.dst j.drs r.prog) n r.raw = .ok [(md, ed, n, 0)] →
    ∃ u, exec (.copyRowEnd t) s = .next u ∧
      (r.cmd.op = .cpy → r.raw = true → ∀ k, k < n → u.mem.byte (spadKey t md (ed + k)) = s.mem.byte (spadKey t ms (es + k))) ∧
      (r.cmd.op = .cpy → r.raw = false → c ≠ 0 → d ≠ 0 →
        (c = d → single ∨ isAffine d = true ∧ s.grpAt t ms = s.grpAt t md →
          ∀ k, k < n → u.elemCode t md (ed + k) = s.elemCode t ms (es + k)) ∧
        (c = d → isBlock d = true → ed % 8 = 0 → n % 8 = 0 → ∀ k, k < n → u.elemCode t md (ed + k) = s.elemCode t ms (es + k) ∧
          (es % 8 = 0 → u.scaleCode t md (ed + k) = s.scaleCode t ms (es + k))) ∧
        (c ≠ d → single → ∀ k, k < n → u.elemCode t md (ed + k) = (encodeElem d
          (if isBlock c = true ∧ (d = 4 ∨ d = 5) then ⟨0, true, r.cmd.key, pos k⟩ else rnd k) (s.elem t ms (es + k))).1) ∧
        (c ≠ d → isBlock d = true → ed % 8 = 0 → n % 8 = 0 → ∀ i, 8 * i < n →
          (expands c d = false ∨ es % 8 ≠ 0 → blockOf d (fun k => rnd (8 * i + k)) (fun k => s.elem t ms (es + 8 * i + k))
            (u.scaleCode t md (ed + 8 * i)) (fun k => u.elemCode t md (ed + 8 * i + k))) ∧
          (expands c d = true → es % 8 = 0 → u.scaleCode t md (ed + 8 * i) = s.scaleCode t ms (es + 8 * i) ∧
            ∀ k, k < 8 → (u.elem t md (ed + 8 * i + k)).rat = (s.elem t ms (es + 8 * i + k)).rat))) ∧
      (r.cmd.op = .cred → r.raw = false → c ≠ 0 → d ≠ 0 → isAffine d = false →
        (∀ k, k < n → (s.elem t ms (es + k)).isFinite = true ∧ (s.elem t md (ed + k)).isFinite = true) →
        let combined (k : Nat) (x : Val) : Prop :=
          let old := (s.elem t md (ed + k)).rat
          let new := (s.elem t ms (es + k)).rat
          x.isFinite = true ∧ (j.rop = 0 → if isIntFmt c = true ∧ isIntFmt d = true then x.rat = old + new else windowSum [old, new] x.rat) ∧
            (j.rop = 1 → x.rat = max old new) ∧ (j.rop = 2 → x.rat = min old new)
        (isBlock d = false → ∀ k, k < n → ∃ x, combined k x ∧ u.elemCode t md (ed + k) = (encodeElem d (rnd k) x).1) ∧
        (isBlock d = true → ed % 8 = 0 → n % 8 = 0 → ∀ i, 8 * i < n → ∃ x : Nat → Val, (∀ k, k < 8 → combined (8 * i + k) (x k)) ∧
          blockOf d (fun k => rnd (8 * i + k)) x (u.scaleCode t md (ed + 8 * i)) (fun k => u.elemCode t md (ed + 8 * i + k))))

/-- R179, R181: a row moved as bytes from an object writes the bytes of the words read; one of eight bytes into an object's word at
its home leaves there what its home reads. -/
def Sys2Proof.Claim.copiedBytes : Prop :=
  ∀ (s : State) (t m e : Nat) (r : Run) (ob : Object),
    let j := r.job
    let src := rowAddr j.src j.srs r.prog
    let dst := rowAddr j.dst j.drs r.prog
    let ctx := (s.runTeam t r).ctx
    s.Plain t → s.RowEnds t r → r.cmd.op = .cpy → r.raw = true →
    (j.sk = 0 → j.dk = 1 → macroOf r.cmd.block ≠ m → s.spadRow t dst j.rl true = .ok [(m, e, j.rl, 0)] → src.toNat + j.rl ≤ 2 ^ 64 →
      (∀ k, k < j.rl → (r.got.look ((src.toNat + k) / 8 * 8)).isSome = true) →
      ∃ u, exec (.copyRowEnd t) s = .next u ∧ ∀ k w p, k < j.rl → r.got.look ((src.toNat + k) / 8 * 8) = some (w, p) →
        u.mem.byte (spadKey t m (e + k)) = w.extractLsb' (8 * ((src.toNat + k) % 8)) 8) ∧
    (j.sk = 1 → j.dk = 0 → j.rl = 8 → dst.toNat % 8 = 0 → s.spadRow t src 8 true = .ok [(m, e, 8, 0)] →
      s.object ctx (objOf dst) = some ob → ob.peer = false → ob.place ≠ 3 → ob.isCode = false → s.trueHome ctx dst t = some t →
      s.gate t ctx dst r.pass = .go → (s.tile t).LinesOk → s.NoWaiter t (objWordKey ctx dst) → r.left = 0 →
      ∃ u, exec (.copyRowEnd t) s = .next u ∧ (u.view t ctx dst).poison = false ∧
        ∀ k, k < 8 → (u.view t ctx dst).data.extractLsb' (8 * k) 8 = s.mem.byte (spadKey t m (e + k)))

/-- R179, R254: the elements of a flit at a delivering tile whose transfer is open are moved into its region as those of a copied
row are. -/
def Sys2Proof.Claim.routedRows : Prop :=
  ∀ (s s' : State) (t n m e : Nat) (k : Packet) (rf : RouteFlit) (v v' : Recv) (fl : Flags) (ue : Bool),
    let c := s.fmtAt t m
    let taken : State := { s with net := dropAt s.net n }
    let raw := rf.data.any (fun q => q.fmt == 0)
    s.Plain t → s.Arrives n k → k.dst = t → (s.tile t).quiesced (s.kinAt t rf.kin) = false →
    (s.tile t).recvOf rf.num rf.kin k.src rf.inp = some v → v.dead = false → v.buf = none → rf.all = false →
    k.body = .route rf → rf.data ≠ [] → rf.off + rf.data.length ≤ rf.len → s.Current t v.fmts →
    taken.recvSegs t v rf raw = .ok [(m, e, rf.len, 0)] → taken.rowIn t v rf = .ok s' v' fl ue →
    ∃ u, exec (.routeDataFlit n) s = .next u ∧ ∀ i q, rf.data[i]? = some q →
      let p := e + rf.off + i
      (raw = true → q.fmt = 0 → u.mem.byte (spadKey t m p) = BitVec.ofNat 8 q.code) ∧
      (raw = false → isBlock c = false → isAffine c = false →
        (q.fmt = c → u.elemCode t m p = q.code % 2 ^ elemBits c) ∧
        (q.fmt ≠ c → ¬(isBlock q.fmt = true ∧ (c = 4 ∨ c = 5)) →
          u.elemCode t m p = (encodeElem c ⟨rf.rm, rf.sat, rf.key, BitVec.ofNat 32 (m * 2 ^ 15 + p)⟩ q.val).1))

/-- R185-R188: an operation of the near-memory engine over DRAM that its tile holds: `nrcopy` and `nbcopy` copy the words of a row or
of 64 bytes, `nrzero` clears a row; `nexpr` writes each element with the value that the program leaves, rounded once into the
destination's format; `ngemv` writes each output of a tile with the window sum rounded to FP32, and poisons all of a tile's
outputs when its checksum fails. -/
def Sys2Proof.Claim.nmeResults : Prop :=
  ∀ (s : State) (t : Nat) (r : Run) (w : List Word),
    let j := nmJob w r.cmd.st
    let ctx := (s.runTeam t r).ctx
    let i := r.prog
    let from_ (a : Word) (n : Nat) : Word := a + fromNat (n * i)
    s.Plain t → (s.tile t).nme = some r → s.turn t (engRank .nme) = true → r.wait = .run → r.blocks = [w] → r.err = 0 →
    s.NoLines t ctx r.cmd.op j →
    (∀ n kd, (r.cmd.op = .nrcopy ∧ n = 2048 ∨ r.cmd.op = .nbcopy ∧ n = 64) → j.a.toNat % n = 0 → j.dst.toNat % n = 0 →
      ∀ ks, s.InDram t ctx (from_ j.a n) n ks → s.InDram t ctx (from_ j.dst n) n kd →
      ∃ u, exec (.nmeOperationEnd t) s = .next u ∧ (∀ k, k < n → u.mem.byte (kd + k) = s.mem.byte (ks + k)) ∧
        ∀ b, b < 2 ^ 80 → b < kd ∨ kd + n ≤ b → u.mem.byte b = s.mem.byte b) ∧
    (∀ kd, r.cmd.op = .nrzero → j.dst.toNat % 2048 = 0 → s.InDram t ctx (from_ j.dst 2048) 2048 kd →
      ∃ u, exec (.nmeOperationEnd t) s = .next u ∧ (∀ k, k < 2048 → u.mem.byte (kd + k) = 0#8) ∧
        ∀ b, b < 2 ^ 80 → b < kd ∨ kd + 2048 ≤ b → u.mem.byte b = s.mem.byte b) ∧
    (∀ z kd ka kb kc v, r.cmd.op = .nexpr → i ≤ z → z < j.count →
      let bytes := s.progBytes t j.prog
      let ops := exprOps bytes
      let size (f : Nat) : Nat := elemBits f / 8
      let place (a : Word) (f k : Nat) : Prop := nmFmt f = true ∧ a.toNat % size f = 0 ∧ s.InDram t ctx (a + fromNat (size f * z)) (size f) k
      let operand (f k : Nat) : Nat :=
        if isIntFmt f then (roundTo fp32 rne (intVal (sext (elemBits f) (s.mem.num k (size f))))).1
        else (roundTo fp32 rne ((elemFmt f).value (s.mem.num k (size f)))).1
      let push (c : Nat) : Nat := if c = 1 then operand j.fa ka else if c = 2 then operand j.fb kb else if c = 3 then operand j.fc kc
        else s.mem.num (spadKey t (macroOf j.prog) (macroOff j.prog + 32 + 4 * (c - 4))) 4
      (offOf j.dst + size j.fd * z) / 8 = (offOf j.dst + size j.fd * i) / 8 → place j.dst j.fd kd →
      (1 ∈ ops → place j.a j.fa ka) → (2 ∈ ops → place j.b j.fb kb) → (3 ∈ ops → place j.c j.fc kc) → ExprRuns push ops [] [v] →
      ∃ u, exec (.nmeOperationEnd t) s = .next u ∧ u.mem.num kd (size j.fd) =
        (encodeElem j.fd ⟨j.rm, j.sat, r.cmd.key, BitVec.ofNat 32 (0x80000000 + z % 2 ^ 30)⟩ (fp32.value v)).1) ∧
    (∀ kx kw ky, r.cmd.op = .ngemv → j.b.toNat % 16384 = 0 → j.c.toNat % 4 = 0 →
      s.InDram t ctx j.a 128 kx → s.InDram t ctx (from_ j.b 16384) 16384 kw → s.InDram t ctx (from_ j.c 448) 448 ky →
      let byte (k : Nat) : Int := (s.mem.byte k).toInt
      let q (p c : Nat) : Int := byte (kw + 128 * p + c)
      let x (c : Nat) : Int := byte (kx + c)
      let dot (p : Nat) : Int := ((List.range 128).map (fun c => q p c * x c)).sum
      let sc (p : Nat) : Val := fp16.value (s.mem.num (kw + 14336 + 2 * p) 2)
      let old (p : Nat) : Val := fp32.value (s.mem.num (ky + 4 * p) 4)
      let term (p : Nat) : ℚ := (sc p).rat * ((dot p - byte (kw + 15232 + p) * ((List.range 128).map x).sum : Int) : ℚ)
      let good : Prop := ((List.range 112).map dot).sum % 2 ^ 32 =
        ((List.range 128).map (fun c => (s.mem.num (kw + 15680 + 4 * c) 4 : Int) * x c)).sum % 2 ^ 32
      (∀ p, p < 112 → (sc p).isFinite = true ∧ (j.acc = true → (old p).isFinite = true)) →
      ∃ u, exec (.nmeOperationEnd t) s = .next u ∧
        (∀ p, p < 112 → ∃ y, windowSum (term p :: (if j.acc then [(old p).rat] else [])) y ∧
          roundedTo 1 rne y (u.mem.num (ky + 4 * p) 4)) ∧
        (good → u.mem.poison = []) ∧ (¬good → ∀ p, p < 112 → u.mem.isPoison ((ky + 4 * p) / 8 * 8) = true))

/-- R163, R168-R176, R181-R184, R242-R244, R253, R254, R325: commands of a team run one at a time on their engine in queue
order; each ends by recording its ticket; a filled or free slot of a buffer is taken in ring order; rows of a route are
written at the delivering tile; a scrub leaves a macro plain and zero; a team with nothing left on the tile is retired. -/
def Obligations.EnginesRun : Prop :=
  Claim.enginesRun ∧ Claim.butterflyResults ∧ Claim.copiedRows ∧ Claim.copiedBytes ∧ Claim.routedRows ∧ Claim.nmeResults

/-! ### Launches, admission, seams and pre-emption (R298-R325, R332-R341) -/

/-- R301-R307, R312-R314, R324: the steps of a launch: an accepted LAUNCH gets an instance number and an answer; without
conflicts it is ready, released to the controllers of its fields, ordered at each of its tiles behind its class, admitted with
its threads in the lowest free slots, counted down as they end, and recorded complete; controllers and the root keep the
free-slot counts; a successor without waits becomes ready. -/
def Obligations.LaunchChain : Prop :=
  ∀ (s : State) (r : HostReq) (l : Launch) (i : Inst) (kin f t p j e : Nat) (rest : List Nat) (os : List AdmOrder) (js : List Nat)
    (sent : List (Nat × Nat)), s.insts.look kin = some i →
    let x := s.tile t
    let one : Prop := i.rec_.routes = [] ∧ ∀ k, k ∈ i.succ → k = 0
    let answer (u : State) (v : Nat) : Prop := ∃ m, u.hostOut = s.hostOut ++ [m] ∧ m.port = r.port ∧ m.cls = 1 ∧ m.tag = r.tag ∧
      m.status = fromNat v
    (s.hostUp r = true → r.head = none → r.data.length = 256 →
      (s.checkRecord r.ctx (bytesWords r.data 32) = .ok l → l.succ = [0#64, 0#64, 0#64, 0#64] → s.numbers 1 = [e] →
        s.insts.look e = none → (s.handles r.ctx ++ l.ops.map Prod.fst).eraseDups.length ≤ 4096 → s.launchCount r.ctx < 1024 →
        ∃ u i', exec (.launch r) s = .next u ∧ answer u (e * 256) ∧ u.insts.look e = some i' ∧ i'.ctx = r.ctx ∧ i'.rec_ = l ∧
          i'.state = .waiting ∧ i'.live = 0 ∧ i'.pred = none ∧ i'.succ = [0, 0, 0, 0]) ∧
      (s.checkRecord r.ctx (bytesWords r.data 32) = .error f → ∃ u, exec (.launch r) s = .next u ∧ answer u f ∧ u.insts = s.insts)) ∧
    (i.state = .waiting → i.deps = [] → s.makeReady i ≠ none →
      ∃ u, exec (.launchReady kin) s = .next u ∧ u.insts.look kin = some { i with state := .ready }) ∧
    (i.state = .ready → one → s.enabled = true → (∀ g, g ∈ s.insts → g.2.state = .ready → g.1 = kin) →
      ∃ u, exec (.launchRelease kin) s = .next u ∧ u.insts.look kin = some { i with state := .released, routed := true } ∧
        u.routers = s.routers ∧ ∀ g, g ∈ s.launchFields i.rec_ → (u.field g).launches = (s.field g).launches ++ [kin]) ∧
    ((s.field f).launches = kin :: rest → ∃ u, exec (.fieldLaunch f kin) s = .next u ∧ (u.field f).launches = rest ∧
      (u.field f).sent = (s.field f).sent ++ (i.rec_.tiles.filter (fun v => s.fieldOf v == f)).map (fun v => (v, kin))) ∧
    ((s.field (s.fieldOf t)).sent = (t, kin) :: sent → x.shut = false → i.killed = false →
      ∃ u, exec (.admissionOrder t kin) s = .next u ∧ (u.field (s.fieldOf t)).sent = sent ∧ (u.tile t).orders =
        x.orders.filter (fun q => q.prio ≥ i.rec_.prio) ++ { kin := kin, prio := i.rec_.prio } ::
          x.orders.filter (fun q => q.prio < i.rec_.prio)) ∧
    (x.orders = { kin := kin, prio := i.rec_.prio } :: os → s.admits t { kin := kin, prio := i.rec_.prio } = true →
      x.posOf kin = none → x.freePos = some p → (s.kernelSlots t).filter (fun k => (s.slot t k).state == .free) = j :: js →
      j < x.slots.length → i.rec_.stop = false → 1 ≤ i.rec_.thr → i.rec_.thr ≤ 15 →
      ∃ u tm, exec (.teamAdmission t) s = .next u ∧ (u.tile t).orders = os ∧ (u.tile t).teams.look p = some tm ∧ tm.kin = kin ∧
        tm.ctx = i.ctx ∧ tm.nmac = i.rec_.nmac ∧
        (∀ m, i.rec_.fmac ≤ m → m < i.rec_.fmac + i.rec_.nmac → m < x.macros.length → ((u.tile t).mac m).owner = some p) ∧
        (u.slot t j).state = .ready ∧ (u.slot t j).team = p ∧ (u.slot t j).ipc = i.rec_.entry &&& ~~~3#64 ∧
        (u.slot t j).th.pc = i.rec_.entry &&& ~~~3#64 ∧ (u.slot t j).th.regs = {} ∧ (u.slot t j).th.acc = 0#64 ∧ (u.slot t j).th.tid = tidOf t 0 ∧ (u.slot t j).budget = 2 ^ i.rec_.hk ∧
        u.insts.look kin = some { i with live := i.live + i.rec_.thr, started := true, teams := i.teams + 1, admitted := i.admitted + 1 }) ∧
    (s.falls = kin :: rest → ∃ u, exec .liveCountReport s = .next u ∧ u.falls = rest ∧
      u.insts.look kin = some { i with live := i.live - 1 }) ∧
    (i.state = .released → i.live = 0 → i.teams = 0 → s.instBusy kin = false → (s.ctxs.look i.ctx).bind (·.dying) = none →
      ∃ u, exec (.instanceComplete kin) s = .next u ∧ u.insts.look kin = none ∧
        (∀ k g, (k, g) ∈ u.routers → ∀ q, q ∈ g → q.kin ≠ kin) ∧ (i.rec_.notify = false → u.hostOut = s.hostOut) ∧
        (i.rec_.notify = true → ∃ m, u.hostOut = s.hostOut ++ [m] ∧ m.cls = 4 ∧ m.op = 1)) ∧
    (s.isTile t = true → x.reported ≠ s.freeSlots t → ∃ u, exec (.freeSlotUpdate t) s = .next u ∧
      (u.tile t).reported = s.freeSlots t ∧ (u.field (s.fieldOf t)).freeMap.look t = some (s.freeSlots t)) ∧
    (s.now % 1024 = 0 → ∃ u, exec .freeCountRefresh s = .next u ∧ u = { s with freeCounts := u.freeCounts, freeAt := u.freeAt } ∧
      ∀ f, f < 128 → u.freeCounts.look f = some (((s.fieldTiles f).map (s.mapSlots f)).sum)) ∧
    (i.state = .successor → i.succReady = false → i.deps = [] → i.rec_.routes = [] → s.makeReady i ≠ none →
      ∃ u, exec (.successorReady kin) s = .next u ∧ u.insts.look kin = some { i with succReady := true, routed := true })

/-- R309, R332, R338: the controller orders a victim's quiesce: its team closes, its threads stop where they stand (a READY one at its
boundary once its last form's occupancy is over, a waiting one with its instruction not begun), its waiters are marked, and the
arrivals that wait for it move to the log of the lowest free save area. -/
def Sys2Proof.Claim.preempts : Prop :=
  ∀ (s : State) (t p a : Nat) (tm : Team) (q : Want),
    let x := s.tile t
    let mine (f : Flit) : Bool := f.th.kin == tm.kin
    let waits := (x.queues.flatMap (fun e => e.2.q) ++ x.ring).filter mine
    x.victims = [] → x.acked = [] → x.shut = false → s.want t = some q → s.victimsFor t q = some [p] → x.teams.look p = some tm →
    x.freeSave = some a → waits.length ≤ 14848 →
    ∃ u v, exec (.preemptionDecision t) s = .next u ∧ (u.tile t).teams.look p = some { tm with closed := true } ∧
      (u.tile t).victims = [p] ∧ (u.tile t).saves.look a = some v ∧ v.team = tm ∧ v.pos = p ∧ v.images = false ∧ v.log = waits ∧
      (∀ e, e ∈ (u.tile t).queues → ∀ f, f ∈ e.2.q → f.th.kin ≠ tm.kin) ∧ (∀ f, f ∈ (u.tile t).ring → f.th.kin ≠ tm.kin) ∧
      (∀ w k, w ∈ (u.tile t).waiters ∨ w ∈ (u.tile t).spilled → w.slot = some k → s.member t p k = true → w.quiesced = true) ∧
      ∀ k, k < 16 → s.member t p k = true → (∀ v, x.vec = some v → v.slot ≠ k) →
        ((s.slot t k).state = .ready → (s.slot t k).released = false → (s.slot t k).atBoundary = true → (s.slot t k).retry = false →
          (s.slot t k).eligAt ≤ s.now → (u.slot t k).state = .stopped .quiesce ∧ (u.slot t k).th = (s.slot t k).th) ∧
        ((s.slot t k).stops = true → (u.slot t k).state = .stopped .quiesce ∧ (u.slot t k).th = (s.slot t k).th)

/-- R333, R335-R338: a quiesced team at rest is copied out: each of its threads has a record with its context, budget, pinning state and
saved state, each of its macros its image and record, each of its buffers its record; its slots, macros and buffers are free and the
position is empty. -/
def Sys2Proof.Claim.copiesOut : Prop :=
  ∀ (s : State) (t p a : Nat) (tm : Team) (v : Save),
    let x := s.tile t
    t < 16384 → s.MemWf → s.Sound → x.teams.look p = some tm → x.saves.find? (fun e => e.2.pos == p && !e.2.images) = some (a, v) →
    x.victims.contains p = true → s.quiet t p = true → x.shut = false →
    ∃ u v', exec (.quiesce t p) s = .next u ∧ (u.tile t).teams.look p = none ∧ p ∉ (u.tile t).victims ∧
      (u.tile t).acked = x.acked ++ [a] ∧ (u.tile t).saves.look a = some v' ∧ v'.images = true ∧ v'.team.kin = tm.kin ∧ v'.log = v.log ∧
      (∀ k, k < 16 → s.member t p k = true → (u.slot t k).state = .free ∧
        ∃ r, r ∈ v'.slots ∧ r.k = k ∧ r.slot.th = (s.slot t k).th ∧ r.slot.budget = (s.slot t k).budget ∧
          r.slot.prev = (s.slot t k).prev ∧ r.slot.window = (s.slot t k).window ∧ r.reply = (s.slot t k).kept ∧
          ((s.slot t k).state = .blocked → r.state = 4 ∧ r.slot.fault = (s.slot t k).fault) ∧
          ((s.slot t k).state = .parked → (∀ w, w ∈ x.waiters ++ x.spilled → w.slot = some k → w.woken = false) → r.state = 1) ∧
          ((s.slot t k).state = .parked → (∃ w, w ∈ x.waiters ++ x.spilled ∧ w.slot = some k) →
            (∀ w, w ∈ x.waiters ++ x.spilled → w.slot = some k → w.woken = true) → r.state = 3) ∧
          ((s.slot t k).state ≠ .blocked → (s.slot t k).state ≠ .parked → r.state = 0) ∧
          (r.slot.stopReq = true ↔ (s.slot t k).stopReq = true ∨ (s.slot t k).state = .stopped .debug)) ∧
      (∀ m, m < 256 → (x.mac m).owner = some p → v'.macros.getD m {} = x.mac m ∧ ((u.tile t).mac m).owner = none ∧
        ((u.tile t).mac m).state = .scrubbing ∧
        (∀ j, j < 16384 → u.mem.byte (imageKey t a m 0 + j) = s.mem.byte (spadKey t m 0 + j)) ∧
        ∀ j, j < 2048 → u.mem.isEmpty (imageKey t a m 0 + 8 * j) = s.mem.isEmpty (spadKey t m 0 + 8 * j) ∧
          u.mem.isPoison (imageKey t a m 0 + 8 * j) = s.mem.isPoison (spadKey t m 0 + 8 * j)) ∧
      ∀ b, (x.buf b).owner = some p → v'.bufs.getD b {} = x.buf b ∧ (u.tile t).buf b = {}

/-- R341: a saved team comes back: its team record at the lowest free position, each thread with its context in the next free slot in
its saved state, the macros with their bytes, tags, poison, formats and states, the buffers with their counts, and the arrivals of
its log behind those that wait, the rest of them in the spill ring. -/
def Sys2Proof.Claim.restores : Prop :=
  ∀ (s : State) (t a p : Nat) (v : Save) (i : Inst),
    let x := s.tile t
    let rs := v.slots.filter (fun r => r.state != 2)
    let ks := (s.kernelSlots t).filter (fun k => (s.slot t k).state == .free)
    let q0 : AQueue := (x.queues.look v.team.ctx).getD { depth := i.rec_.aq, pos := p }
    let room := q0.depth - q0.q.length
    t < 16384 → s.MemWf → s.Sound → x.saves.look a = some v → s.restorable t v = true → x.orders = [] →
    s.heldAhead t (v.team.prio + 1) = false → s.freeSlots t ≥ s.reserved t + rs.length → s.logFits t v = true → x.shut = false →
    x.freePos = some p → x.slots.length = 16 → x.macros.length = 256 → v.macros.length = 256 → x.bufs.length = 16 → v.bufs.length = 16 →
    s.insts.look v.team.kin = some i → (∀ r, r ∈ rs → r.reply = none ∧ r.slot.th.foul = false) →
    (∀ f, f ∈ v.log → f.th.ctx = v.team.ctx ∧ f.th.foul = false) →
    ∃ u, exec (.restore t a) s = .next u ∧ (u.tile t).teams.look p = some { v.team with closed := false } ∧
      (u.tile t).saves.look a = none ∧
      (∀ (n k : Nat) (r : SavedSlot), rs[n]? = some r → ks[n]? = some k →
        let sl := u.slot t k
        sl.th = r.slot.th ∧ sl.team = p ∧ sl.budget = r.slot.budget ∧ sl.prev = r.slot.prev ∧ sl.window = r.slot.window ∧
        (r.state = 0 ∨ r.state = 3 →
          sl.state = (if r.slot.stopReq = true ∧ r.slot.stepReq = none then .stopped .debug else .ready)) ∧
        (r.state = 4 → r.slot.state = .blocked → sl.state = .blocked ∧ sl.fault = r.slot.fault) ∧
        (r.state = 1 → sl.state = .parked ∧ ∀ w, w ∈ x.waiters ++ x.spilled → w.seq.toNat = r.widx → w.quiesced = true →
          (∀ (l : Nat) (o : SavedSlot), rs[l]? = some o → l ≠ n → o.state = 1 ∨ o.state = 3 → o.widx ≠ r.widx) →
          ∃ w', w' ∈ (u.tile t).waiters ++ (u.tile t).spilled ∧ w'.seq = w.seq ∧ w'.slot = some k)) ∧
      (∀ m, m < 256 → (v.macros.getD m {}).owner.isSome = true → (u.tile t).mac m = { v.macros.getD m {} with owner := some p } ∧
        (∀ j, j < 16384 → u.mem.byte (spadKey t m 0 + j) = s.mem.byte (imageKey t a m 0 + j)) ∧
        ∀ j, j < 2048 → u.mem.isEmpty (spadKey t m 0 + 8 * j) = s.mem.isEmpty (imageKey t a m 0 + 8 * j) ∧
          u.mem.isPoison (spadKey t m 0 + 8 * j) = s.mem.isPoison (imageKey t a m 0 + 8 * j)) ∧
      (∀ b, b < 16 → (v.bufs.getD b {}).owner.isSome = true → (u.tile t).buf b = { v.bufs.getD b {} with owner := some p }) ∧
      (u.tile t).queues.look v.team.ctx = some { q0 with q := q0.q ++ v.log.take room } ∧
      (u.tile t).ring = x.ring ++ v.log.drop room

/-- R292, R294, R338: the last acknowledgement of a quiesce is counted; an unmap that waits for no pin ends with the granule gone. -/
def Sys2Proof.Claim.waitsOver : Prop :=
  ∀ (s : State) (t a n : Nat) (as : List Nat) (o : XOp),
    let x := s.tile t
    (x.acked = a :: as → ∃ u, exec (.quiesceAcknowledge t) s = .next u ∧ s.SameMem u ∧ (u.tile t).acked = as ∧
      (u.tile t).slots = x.slots) ∧
    (x.xops.find? (fun o => o.id == n) = some o → o.step = 2 → o.op = .xunmap →
      (x.extent o.ctx (objOf o.a) (granOf o.a)).map (·.npin) = some 0 → s.objDying = [] →
      (∀ k, (s.ctxs.look k).bind (·.dying) = none) →
      ∃ u, exec (.extentDrainComplete t n) s = .next u ∧ (u.tile t).extent o.ctx (objOf o.a) (granOf o.a) = none)

/-- R243, R292, R294, R309, R317-R319, R332-R341: teams give way and come back, whole: the decision, the copy into a save area, its
acknowledgement, the restore, the steps of a team at seam; and an unmap. -/
def Obligations.Preemption : Prop :=
  Claim.preempts ∧ Claim.copiesOut ∧ Claim.restores ∧ Claim.seamSteps ∧ Claim.waitsOver

/-! ### Dawn, dusk, defects and power (R347-R397) -/

/-- R26, R28, R297, R350, R364-R367, R377-R394: the module's own upkeep: dawn and loss of power, power checks and modes, lost
lanes and peers, a dusk's window and generation advance, liveness sweeps and fencing, patrol reads, spared rows and banks,
re-read checksums and error counts. -/
def Obligations.ModuleUpkeep : Prop :=
  ∀ (s : State) (t w m port lane ch bank sub row key ctx kin : Nat) (p : Port) (d : DuskRec) (a : Word) (bad : Bool)
    (rest : List (Nat × Nat × Word)) (o : Object) (fw : List Byte),
    let x := s.tile t
    let noted (u : State) (op : Nat) : Prop := ∃ m, u.hostOut = s.hostOut ++ [m] ∧ m.cls = 4 ∧ m.op = op
    (s.step = 0 → ∃ u, exec .dawn s = .next u ∧ u.serial = s.serial ∧ (firmwareBody s.flash.fw1 = some fw → u.fw = fw ∧ 4 ≤ u.step) ∧
      (firmwareBody s.flash.fw1 = none → firmwareBody s.flash.fw2 = none → u.step = 1 ∧ u.enabled = false)) ∧
    (s.step ≠ 0 → ∃ u, exec .powerLoss s = .next u ∧ u.step = 0 ∧ u.enabled = false ∧ u.flash = s.flash ∧ u.serial = s.serial ∧
      u.tiles = [] ∧ u.net = [] ∧ u.mem = State.reset.mem) ∧
    (s.step ≠ 0 → 9000000 ≤ s.wall9 → s.wall9 % 9000000 < s.ninths → s.powerAt ≠ some s.now →
      ∃ u, exec (.powerCheck w) s = .next u ∧ u.mode = s.mode ∧
      let cap := if s.mode = 3 then 32000 else 40000
      (cap < w → u.bfeCap = max 25 (s.bfeCap - 5) ∧ u.dramCap = max 25 (s.dramCap - 5)) ∧
      (w ≤ cap → cap < w + 2000 → u.bfeCap = s.bfeCap ∧ u.dramCap = s.dramCap)) ∧
    (s.changing = true → (∀ e, e ∈ s.tiles → e.2.relock = false) →
      ∃ u, exec .modeChangeComplete s = .next u ∧ u.changing = false ∧ u.mode = s.mode ∧ noted u 8) ∧
    (s.ports[port]? = some p → p.up = true → p.role ≠ 0 → lane < 18 → p.bad.contains lane = false →
      ∃ u, exec (.laneFailure port lane) s = .next u ∧
        (p.bad.length < 3 → u.ports[port]? = some { p with bad := insertNat p.bad lane } ∧ noted u 5) ∧
        (3 ≤ p.bad.length → p.bad.length < 10 → u = { s with ports := u.ports } ∧
          u.ports[port]? = some { p with bad := insertNat p.bad lane }) ∧
        (10 ≤ p.bad.length → p.role = 1 → u.ports[port]? = some { p with bad := insertNat p.bad lane, up := false } ∧ noted u 6)) ∧
    (p ∈ s.ports → p.role = 2 → p.module = m → s.lostPeers.contains m = false →
      ∃ u, exec (.peerLoss m) s = .next u ∧ m ∈ u.lostPeers ∧
        ((∀ e, e ∈ s.objects → e.2.module = m → e.2.peer = false) → (∀ e, e ∈ s.tiles → e.2.xops = []) →
          (∀ q, q ∈ s.net → q.dst ≠ 16384 + m) → noted u 4) ∧
        (s.objects.look key = some o → o.peer = true → o.module = m → ∃ o', u.objects.look key = some o' ∧ o'.lost = true)) ∧
    (s.dusk = none → s.duskQueue.head? = some t → (∀ c, s.lastAdvance = some c → c + 1048576 ≤ s.now) → x.fenced = false →
      ∃ u, exec (.dusk t) s = .next u ∧ u.gen = s.gen ∧
        match (s.spareFor (s.site t) 8448).2 with
        | none => u.dusk = none ∧ u.duskQueue = s.duskQueue.filter (· != t) ∧ ∀ e, e ∈ u.retires → e.1 ≠ t
        | some q => u.dusk = some { tile := t, spare := q, opened := true, since := s.now } ∧ (u.tile t).closed = true ∧ (u.tile t).l1 = [] ∧
          (u.tile t).slices = []) ∧
    (s.dusk = some d → d.tile = t → s.enginesRest t = true → x.fenced = false → s.gen < 255 →
      ∃ u, exec (.dusk t) s = .next u ∧ u.dusk = none ∧ u.gen = (if s.gen = 254 then 0 else s.gen + 1) ∧ u.site t = d.spare ∧
        (u.tile t).closed = false ∧ s.site t ∈ u.bad) ∧
    (s.dusk = none → x.fenced = true → s.gen < 255 →
      match (s.spareFor (s.site t) 8448).2 with
      | none => (s.spares = [] → exec (.lossyDusk t) s = .fault .notEnabled) ∧
        (s.spares ≠ [] → ∃ u, exec (.lossyDusk t) s = .next u ∧ u.gen = s.gen ∧ (u.tile t).fenced = true)
      | some q => ∃ u, exec (.lossyDusk t) s = .next u ∧ u.gen = (if s.gen = 254 then 0 else s.gen + 1) ∧ u.site t = q ∧
        (u.tile t).fenced = false) ∧
    (s.step = 6 → s.now % 1048576 = 0 → s.sweep < s.now / 1048576 →
      exec .livenessSweep s = .next { s with sweep := s.sweep + 1 }) ∧
    (s.isTile t = true → x.fenced = false → s.sweep ≠ 0 → x.missed ≠ s.sweep → 65536 ≤ s.now % 1048576 →
      ∃ u, exec (.probeTimeout t) s = .next u ∧
        (x.missed ≠ 0 → x.missed + 1 = s.sweep → (u.tile t).fenced = true ∧ s.site t ∈ u.fencedSites ∧
          u.fencedCount = min 4095 (s.fencedCount + 1) ∧ (u.tile t).bfe = none) ∧
        (x.missed = 0 ∨ x.missed + 1 ≠ s.sweep → (u.tile t).missed = s.sweep ∧ (u.tile t).fenced = false ∧ u.net = s.net)) ∧
    (s.isTile t = true → x.fenced = false → t * 2 ^ 31 ≤ key → key < (t + 1) * 2 ^ 31 →
      (∃ u, exec (.patrolRead t key false) s = .next u ∧ u.mem = s.mem ∧ (u.tile t).errs.corrDram = x.errs.corrDram + 1) ∧
      (∃ u, exec (.patrolRead t key true) s = .next u ∧ u.mem.isPoison key = true ∧ u.mem.cells = s.mem.cells ∧
        (u.tile t).errs.uncDram = x.errs.uncDram + 1)) ∧
    (s.isTile t = true → x.shut = false → ch < 8 → bank < 16 →
      (sub < 32 → row < 256 → x.rowsUsed.lookD (subKey ch bank sub) 0 < 2 → s.rowFails t ch bank sub row = true →
        ∃ u, exec (.rowSparing t ch bank sub row) s = .next u ∧ u.mem = s.mem ∧ (u.tile t).spared.contains (rowNumber ch bank sub row) = true ∧
          (u.tile t).rowsUsed.look (subKey ch bank sub) = some (x.rowsUsed.lookD (subKey ch bank sub) 0 + 1)) ∧
      (s.bankFails t ch bank = true → s.duskQueue.contains t = false → x.banksUsed.lookD ch 0 = 0 →
        ∃ u, exec (.bankSparing t ch bank) s = .next u ∧ u.mem = s.mem ∧ (u.tile t).banksUsed.look ch = some 1)) ∧
    (x.shut = false → x.chkTiles = (ctx, kin, a) :: rest → bank = s.bankOf t ctx a →
      ∃ u, exec (.checksumReread t bank bad) s = .next u ∧ (u.tile t).chkTiles = rest ∧ (u.tile t).errs.checksum = x.errs.checksum + 1) ∧
    (s.step = 6 → s.isTile t = true → x.fenced = false → 32400000000000 ≤ s.wall9 → s.wall9 % 32400000000000 < s.ninths →
      x.errsAt ≠ some s.now →
      ∃ u, exec (.errcount t) s = .next u ∧ (u.tile t).errs = {} ∧ u.mem = s.mem)

/-! ### The host and peer modules (R283-R297, R342-R363, R369-R398) -/

/-- R346, R347: a MEM access of the host and an access of a peer module to a resident aligned word: a read answers its bytes, a
write is performed at the home of the word; each is answered once on the port it came from, with status 0. -/
def Obligations.OutsideAccess : Prop :=
  ∀ (s : State) (r : HostReq) (q : PeerReq) (h : Nat) (o : Object) (l : List Byte), s.MemWf → s.Sound →
    let resident (ctx : Nat) (a : Word) : Prop := a.toNat % 8 = 0 ∧ s.enabled = true ∧ (s.ctxs.look ctx).isSome = true ∧
      s.object ctx (objOf a) = some o ∧ offOf a + 8 ≤ o.size ∧ o.peer = false ∧ o.isCode = false ∧ o.place ≠ 3 ∧
      s.standing ctx a = .ready h ∧ (s.tile h).fenced = false ∧ (s.tile h).closed = false ∧ (s.tile h).LinesOk ∧ s.NoWaiter h (objWordKey ctx a)
    let answer (u : State) (cls tag st : Nat) : Prop := ∃ m, u.hostOut = s.hostOut ++ [m] ∧ m.cls = cls ∧ m.tag = tag ∧ m.status = fromNat st
    (s.hostUp r = true → r.head = none → r.len = 7 → resident r.ctx r.addr →
      (r.data = [] → (s.view h r.ctx r.addr).poison = false → ∃ u m, exec (.memRead r) s = .next u ∧ u.hostOut = s.hostOut ++ [m] ∧
        m.port = r.port ∧ m.cls = 2 ∧ m.tag = r.tag ∧ m.status = 0#64 ∧ m.data.take 8 = wordBytes (s.view h r.ctx r.addr).data) ∧
      (r.data.length = 8 → o.writable = true → ∃ u, exec (.memWrite r) s = .next u ∧ answer u 2 r.tag 0 ∧
        (u.view h r.ctx r.addr).data = bytesWord r.data)) ∧
    ((s.peerPorts q.m).isEmpty = false → s.lostPeers.contains q.m = false → resident q.ctx q.addr → q.op = .write l → l.length = 8 →
      o.writable = true → ∃ u, exec (.peerAccess q) s = .next u ∧ answer u 0 q.tag 0 ∧ (u.view h q.ctx q.addr).data = bytesWord l)

/-- R283, R285, R289, R297, R342, R365, R369, R373, R377, R394-R398: a MGMT command that reaches an enabled module with its own
payload length, no reserved bit set and nothing in its way is performed and answered DONE, or PENDING where it only begins;
OBJDESTROY is answered DONE, the object gone, when every tile has answered its invalidation. -/
def Obligations.Management : Prop :=
  ∀ (s : State) (r : HostReq) (n i : Nat) (c : Context) (g : Field) (d : DefectMap) (op : XOp),
    let w := dword r 0
    let v := w.toNat
    let ok (len : Nat) : Prop := s.hostUp r = true ∧ r.head = none ∧ s.step ≠ 0 ∧ s.enabled = true ∧ r.data.length = len ∧ r.len = len ∧ r.addr = 0#64
    let module : Prop := r.ctx = 0
    let root (u : State) : Prop := ∀ t, s.tileAt s.clockRoot = some t → (u.tile t).relock = true
    let answer (u : State) (op st : Nat) : Prop := ∃ m, u.hostOut = s.hostOut ++ [m] ∧ m.port = r.port ∧ m.cls = 3 ∧ m.op = op ∧
      m.tag = r.tag ∧ m.status.toNat % 256 = st
    let data (u : State) (op : Nat) (l : List Byte) : Prop := ∃ m, u.hostOut = s.hostOut ++ [m] ∧ m.port = r.port ∧ m.cls = 3 ∧
      m.op = op ∧ m.tag = r.tag ∧ m.status = 0#64 ∧ m.data = l
    (ok 0 → module → ∃ u m, exec (.status r) s = .next u ∧ u = { s with hostOut := s.hostOut ++ [m] } ∧ m.op = 0x01 ∧
      m.status.getLsbD 23 = true ∧ (m.status.getLsbD 24 = s.attested) ∧ bits m.status 22 20 = s.step % 8) ∧
    (ok 8 → module → v ≤ 3 → s.changing = false → ∃ u, exec (.modeset r) s = .next u ∧ u.mode = v ∧ u.oldMode = s.mode ∧
      ((v = 3 ↔ s.mode = 3) → answer u 0x02 0 ∧ u.changing = false ∧ u.tiles = s.tiles) ∧
      (¬ (v = 3 ↔ s.mode = 3) → answer u 0x02 4 ∧ u.changing = true ∧ root u)) ∧
    (ok 8 → module → bits w 63 13 = 0 → bits w 11 0 ≠ 0 → s.ctxs.look (bits w 11 0) = none → ∃ u, exec (.ctxcreate r) s = .next u ∧
      answer u 0x03 0 ∧ u.ctxs.look (bits w 11 0) = some { debuggable := w.getLsbD 12 }) ∧
    (ok 8 → module → bits w 63 12 = 0 → s.ctxs.look (bits w 11 0) = some c → c.dying = none →
      (∀ e, e ∈ s.insts → e.2.ctx ≠ bits w 11 0) → (∀ e, e ∈ s.objects → e.1 / 2 ^ 24 ≠ bits w 11 0) →
      ∃ u, exec (.ctxdestroy r) s = .next u ∧ answer u 0x04 0 ∧ u.ctxs.look (bits w 11 0) = none) ∧
    (ok 72 → bits w 63 24 = 0 → bits w 23 0 ≠ 0 → s.ctxs.look r.ctx = some c → descBad { desc := descOf r } = false →
      s.object r.ctx (bits w 23 0) = none → s.objectBad r.ctx { desc := descOf r } = false →
      (({ desc := descOf r } : Object).place ≠ 0 ∨ ({ desc := descOf r } : Object).maskAddr = 0#64) → ({ desc := descOf r } : Object).peer = false →
      s.slabUsed (dirTile r.ctx (bits w 23 0)) < 262144 → ∃ u, exec (.objcreate r) s = .next u ∧ answer u 0x05 0 ∧
        u.object r.ctx (bits w 23 0) = some { desc := descOf r }) ∧
    (ok 8 → bits w 63 24 = 0 → (s.object r.ctx (bits w 23 0)).isSome = true →
      (∀ e, e ∈ s.objDying → ¬ (e.1 = r.ctx ∧ e.2.1 = bits w 23 0)) →
      (∀ e, e ∈ s.insts → e.2.ctx = r.ctx → ∀ a, a ∈ e.2.rec_.ops → a.1 ≠ bits w 23 0) → 
      (s.objOps r.ctx (bits w 23 0) = true →
        ∃ u, exec (.objdestroy r) s = .next u ∧ u.objDying = s.objDying ++ [(r.ctx, bits w 23 0, r)]) ∧
      (s.objOps r.ctx (bits w 23 0) = false → s.granulesOf r.ctx (bits w 23 0) = [] →
        s.isTile (dirTile r.ctx (bits w 23 0)) = true → (s.tile (dirTile r.ctx (bits w 23 0))).fenced = false →
        ∃ u, exec (.objdestroy r) s = .next u ∧ u.objDying = s.objDying ++ [(r.ctx, bits w 23 0, r)] ∧ u.hostOut = s.hostOut ∧
          ∀ t, t ∈ s.tiles.keys → s.isTile t = true → (s.tile t).fenced = false → ∃ q op, q ∈ u.net ∧ q.dst = t ∧
            q.body = .dirInval ⟨r.ctx, bits w 23 0, .desc⟩ op)) ∧
    (s.hostUp r = true → s.objDying = [(r.ctx, n, r)] → n < 2 ^ 24 → (s.tile i).xops = [op] → op.step = 10 → op.acks = 0 → op.ctx = r.ctx → objOf op.a = n →
      (∀ e, e ∈ s.tiles → e.2.pendings = []) → (∀ k, (s.ctxs.look k).bind (·.dying) = none) →
      ∃ u, exec (.extentDrainComplete i op.id) s = .next u ∧ answer u 0x06 0 ∧ u.object r.ctx n = none ∧ u.objDying = []) ∧
    (ok 16 → ∃ u q, exec (.mgmtXmap r) s = .next u ∧ u.net = s.net ++ [q] ∧ q.vc = 0 ∧
      q.body = .svcReq .xmap r.ctx w (dword r 1) (.host r)) ∧
    (ok 40 → module → (∀ j, j < 16 → (r.data.getD (2 * j) 0#8).toNat ≤ 1) → (∀ j, j < 7 → r.data.getD (33 + j) 0#8 = 0#8) →
      ∃ u, exec (.portmap r) s = .next u ∧ answer u 0x08 0 ∧ u.flash = { s.flash with ports := r.data }) ∧
    (ok 8 → module → bits w 63 8 = 0 → (s.peerPorts (bits w 7 0)).isEmpty = false → ∃ u, exec (.peeradmit r) s = .next u ∧
      u.lostPeers = eraseNat s.lostPeers (bits w 7 0) ∧
      ((∀ e, e ∈ s.objects → e.2.module = bits w 7 0 → e.2.peer = false) → (∀ e, e ∈ s.tiles → e.2.xops = []) → answer u 0x09 0)) ∧
    (ok 8 → module → bits w 63 7 = 0 → s.fields.look (bits w 6 0) = some g → (s.slot g.tile 15).state = .stopped .service →
      15 < (s.tile g.tile).slots.length → ∃ u, exec (.svcrestart r) s = .next u ∧ answer u 0x0A 0 ∧
        (u.slot g.tile 15).state = .ready ∧ (u.slot g.tile 15).ipc = firmwareEntry ∧ (u.slot g.tile 15).th.regs = {}) ∧
    (ok 8 → module → bits w 63 24 = 0 → s.nameOk (w.extractLsb' 0 24) = true → s.spares.isEmpty = false →
      ∃ u, exec (.retire r) s = .next u ∧ answer u 0x0B 4 ∧ nameTile (w.extractLsb' 0 24) ∈ u.duskQueue ∧ u.gen = s.gen) ∧
    (ok 8 → module → v = 256 * i → i < 3 → s.pumpsOut = [] → ∃ u, exec (.partout r) s = .next u ∧ answer u 0x0C 0 ∧ u.pumpsOut = [i]) ∧
    (ok 8 → module → v = 256 * i → i < 3 → ∃ u, exec (.partin r) s = .next u ∧ answer u 0x0D 0 ∧ u.pumpsOut = eraseNat s.pumpsOut i) ∧
    (ok 16 → module → s.dmap = some d → (dword r 1).toNat + 1 ≤ 4096 → v + ((dword r 1).toNat + 1) ≤ 92852 →
      ∃ u, exec (.mapread r) s = .next u ∧ data u 0x10 ((d.bytes.drop v).take ((dword r 1).toNat + 1)) ∧ u.dmap = s.dmap) ∧
    (s.hostUp r = true → r.head = none → s.step ≠ 0 → r.data.length = 32 → r.len = 32 → r.addr = 0#64 → module → s.dmap = some d →
      (s.attested = false → s.survey = true → s.step = 6 → d.hash = r.data →
        ∃ u, exec (.mapaccept r) s = .next u ∧ answer u 0x11 0 ∧ u.enabled = true) ∧
      (s.attested = true ∨ d.hash ≠ r.data → ∃ u, exec (.mapaccept r) s = .next u ∧ answer u 0x11 3 ∧ u.enabled = s.enabled)) ∧
    (ok (16 + n) → module → w.getLsbD 63 = false →
      (chunkBad r false = false → ∃ u, exec (.mapload r) s = .next u ∧ answer u 0x12 0 ∧ u.flash = s.flash ∧ u.stageMap = stage s.stageMap r) ∧
      (chunkBad r true = false → ∃ u, exec (.fwload r) s = .next u ∧ answer u 0x13 0 ∧ u.flash = s.flash ∧ u.stageFw = stage s.stageFw r)) ∧
    (ok 2484 → module → ∃ u, exec (.tokenload r) s = .next u ∧
      if Config.verify 0 (r.data.take 64) (r.data.drop 64) = true then answer u 0x14 0 ∧
        (6 ≤ s.step → u.flash = { s.flash with token := r.data }) ∧
        (s.step < 6 → u.flash = s.flash ∧ u.laterToken = some r.data)
      else answer u 0x14 2 ∧ u.flash = s.flash) ∧
    (ok 40 → module → bits w 63 12 = 0 → (w ≠ 0#64 ∧ s.ctxs.look (bits w 11 0) = some c ∨ w = 0#64 ∧ c = { debuggable := false }) →
      ∃ u, exec (.attest r) s = .next u ∧ data u 0x15 (s.reportBody c (r.data.drop 8) ++ padBytes 2420 (Config.sign (s.reportBody c (r.data.drop 8)))))

/-- R354-R363: DBGSTOP and DBGRESUME as messages for the service thread of the slot's field; the other debug commands on a slot of a debuggable context, and the trace, sample and counter-grid facilities. -/
def Sys2Proof.Claim.debugging : Prop :=
  ∀ (s : State) (r : HostReq) (c : Context) (o : Object) (t k site : Nat) (th : Thread) (i : Issued) (g : Field),
    let w := dword r 0
    let ok (len : Nat) : Prop := s.hostUp r = true ∧ r.head = none ∧ s.step ≠ 0 ∧ s.enabled = true ∧ r.data.length = len ∧ r.len = len ∧ r.addr = 0#64
    let slot : Prop := r.ctx = 0 ∧ t = dbgTile r ∧ k = dbgSlot r ∧ bits w 63 28 = 0 ∧ s.handleOk (w &&& 0xFFFFFF#64) = true ∧
      s.debuggable (s.slot t k).th.ctx = true ∧ k < (s.tile t).slots.length
    let answer (u : State) (op st : Nat) (l : List Byte) : Prop := ∃ m, u.hostOut = s.hostOut ++ [m] ∧ m.port = r.port ∧ m.cls = 3 ∧
      m.op = op ∧ m.tag = r.tag ∧ m.status = fromNat st ∧ m.data = l
    let sl := s.slot t k
    let halted : Prop := sl.state = .stopped .debug
    let heard (u : State) (m : Msg) (op : Nat) (on : Bool) : Prop := u.dbgReqs = s.dbgReqs ++ [(r, on)] ∧ u.hostOut = s.hostOut ∧
      u.tiles = s.tiles ∧ u.field (s.fieldOf t) = { g with mq := g.mq ++ [m] } ∧ m.kind = 4 ∧ bits m.w0 63 56 = op ∧ m.w1 = w ∧
      m.w2 = BitVec.ofNat 64 r.tag
    (ok 8 → slot →
      (s.fields.look (s.fieldOf t) = some g →
        (∃ u m, exec (.dbgstop r) s = .next u ∧ heard u m 0x18 false) ∧ (∃ u m, exec (.dbgresume r) s = .next u ∧ heard u m 0x19 true)) ∧
      (halted → ∃ u, exec (.dbgread r) s = .next u ∧ answer u 0x1A 0 (contextBytes sl.th ++ [6#8]) ∧ u.tiles = s.tiles) ∧
      (halted → ∃ u, exec (.dbgstep r) s = .next u ∧ (u.slot t k).state = .ready ∧ (u.slot t k).stepReq = some r ∧ u.hostOut = s.hostOut)) ∧
    (ok 112 → slot → halted → dbgContext sl.th (r.data.drop 8) = some th → ∃ u, exec (.dbgwrite r) s = .next u ∧ answer u 0x1B 0 [] ∧
      (u.slot t k).th = th ∧ (u.slot t k).ipc = th.pc ∧ (u.slot t k).state = .stopped .debug) ∧
    (s.ctxs.look r.ctx = some c → c.debuggable = true →
      (ok 16 → bits w 63 2 = 0 → bits (dword r 1) 1 0 = 0 → ∃ u, exec (.dbgbrk r) s = .next u ∧ answer u 0x1D 0 [] ∧
        u.ctxs.look r.ctx = some { c with brk := modifyAt c.brk (bits w 1 0) (fun _ => dword r 1) }) ∧
      (ok 8 → w = 0#64 → ∃ u, exec (.traceset r) s = .next u ∧ answer u 0x1E 0 [] ∧ u.ctxs.look r.ctx = some { c with trace := 0#64 }) ∧
      (ok 8 → s.object r.ctx (objOf w) = some o → o.writable = true → o.peer = false → 96 * s.rows * 64 ≤ o.size → offOf w = 0 →
        ∃ u, exec (.traceset r) s = .next u ∧ answer u 0x1E 0 [] ∧ u.ctxs.look r.ctx = some { c with trace := w }) ∧
      (ok 8 → w = 0#64 ∨ 10 ≤ w.toNat ∧ w.toNat ≤ 24 → ∃ u, exec (.sampleset r) s = .next u ∧ answer u 0x1F 0 [] ∧
        u.ctxs.look r.ctx = some { c with sample := w.toNat })) ∧
    (ok 16 → s.object r.ctx (objOf w) = some o → o.writable = true → o.peer = false → 2162688 ≤ o.size → offOf w = 0 →
      (dword r 1 = 0#64 ∨ 10 ≤ (dword r 1).toNat ∧ (dword r 1).toNat ≤ 10000) → ∃ u, exec (.gridset r) s = .next u ∧ answer u 0x20 0 [] ∧
        u.gridObj = w ∧ u.gridCtx = r.ctx ∧ u.gridUs = if dword r 1 = 0#64 then 100 else (dword r 1).toNat) ∧
    (s.enabled = true → site < 8448 → s.usable site = true → s.gridObj ≠ 0#64 → 9 * (s.gridUs * 1000) ≤ s.wall9 →
      s.wall9 % (9 * (s.gridUs * 1000)) < s.ninths → (s.siteGrid site).at_ ≠ s.now →
      ∃ u, exec (.gridInterval site) s = .next u ∧ (u.siteGrid site).at_ = s.now ∧ (u.siteGrid site).seq = (s.siteGrid site).seq + 1#16 ∧
        (u.siteGrid site).resends = [0, 0, 0, 0] ∧ ∀ e, s.tileAt site = some e → (u.tile e).issuedN = 0) ∧
    ((s.tile t).issued = some i → s.ctxs.look i.ctx = some c → c.sample ≠ 0 → s.now % 2 ^ c.sample = 0 → (s.tile t).nextIssue = s.now + 1 →
      c.trace ≠ 0#64 → (s.tile t).shut = false → (s.tile t).trace.length < 64 → ∃ u, exec (.sample t) s = .next u ∧
        (u.tile t).issued = none ∧ (u.tile t).trace = (s.tile t).trace ++ [(i.ctx, s.sampleWords t i)])

/-- R201, R354: a `dstop` or `dresume` of a service thread answers the DBGSTOP or DBGRESUME that waits for it. -/
def Sys2Proof.Claim.debugAnswered : Prop :=
  ∀ (s : State) (d a : Reg) (r : HostReq), s.serviceIssues →
    let h := s.rd a
    let v := handleTarget h
    let j := handleSlot h
    let answer (u : State) (op : Nat) : Prop := u.dbgReqs = [] ∧ ∃ m, u.hostOut = s.hostOut ++ [m] ∧ m.port = r.port ∧ m.cls = 3 ∧
      m.op = op ∧ m.tag = r.tag ∧ m.status = 0#64
    s.curSlot.th.NoHandles → s.Sound → s.hostUp r = true → dbgTile r = v → dbgSlot r = j → s.nameOk (h.extractLsb' 0 24) = true →
    s.handleOld h = false → (v, j) ≠ s.cur → s.teamClosed v j = false → s.debuggable (s.slot v j).th.ctx = true →
    j < (s.tile v).slots.length →
    (s.dbgReqs = [(r, false)] → (s.slot v j).state = .ready → ∃ u, exec (.dstop d a) s = .next u ∧ (u.slot v j).stopReq = true ∧ answer u 0x18) ∧
    (s.dbgReqs = [(r, true)] → (s.slot v j).state = .stopped .debug →
      ∃ u, exec (.dresume d a) s = .next u ∧ (u.slot v j).state = .ready ∧ answer u 0x19)

/-- R201, R354-R363: debug commands and the service forms that answer them, breakpoints, trace, samples and the counter grid. -/
def Obligations.Debugging : Prop := Claim.debugging ∧ Claim.debugAnswered

/-! ### Encodings, issue, reset and the invariant of every step -/

/-- R55-R71: words written out field by field, each read as the form that the coding tables give it. -/
def Obligations.WordsDecode : Prop :=
  decode (0x01#6 ++ 3#4 ++ 1#4 ++ 2#4 ++ 0#14) = .ok (.add (.w 3#3) (.w 1#3) (.w 2#3) false) ∧
  decode (0x08#6 ++ 1#4 ++ 4#22) = .ok (.movi (.w 1#3) 4#22) ∧
  decode (0x10#6 ++ 1#4 ++ 15#4 ++ 1#3 ++ 0x7FFF#15) = .ok (.bne (.w 1#3) .zr 0x7FFF#15) ∧
  decode (0x18#6 ++ 8#4 ++ 2#4 ++ 3#2 ++ 0#1 ++ 1#2 ++ 1#2 ++ 2#2 ++ 0x1FF#9) = .ok (.ld .acc 2#3 .d .post .acq .wafer 0x1FF#9) ∧
  decode (0x1B#6 ++ 5#4 ++ 6#4 ++ 7#4 ++ 0#2 ++ 0#1 ++ 1#2 ++ 0#2 ++ 0#7) = .error .combination ∧
  decode (0x1B#6 ++ 5#4 ++ 6#4 ++ 7#4 ++ 2#2 ++ 1#1 ++ 2#2 ++ 0#2 ++ 0#7) = .ok (.stsx (.w 5#3) 6#3 (.w 7#3) .w .rel .tile) ∧
  decode (0x1D#6 ++ 15#4 ++ 1#4 ++ 2#4 ++ 0#4 ++ 1#1 ++ 2#2 ++ 1#2 ++ 1#1 ++ 0#4) = .ok (.aadd .zr 1#3 (.w 2#3) true .rel .stack true) ∧
  decode (0x23#6 ++ 0#4 ++ 6#4 ++ 0#4 ++ 0x103#9 ++ 2#2 ++ 1#2 ++ 0#1) = .ok (.seam 6#3 0x103#9 2#2 .stack) ∧
  decode (0x28#6 ++ 1#4 ++ 2#4 ++ 3#4 ++ 4#3 ++ 5#3 ++ 1#8) = .ok (.vsub 1#3 2#3 3#3 4#3 true false true) ∧
  decode (0x38#6 ++ 2#4 ++ 0#4 ++ 0#4 ++ 0#4 ++ 0#4 ++ 5#6) = .ok (.mfs (.w 2#3) 5#6) ∧
  decode (0x3F#6 ++ 0#1 ++ 0x2468#25) = .ok (.xwExtension 0x2468#25) ∧
  decode 0#32 = .error .major

/-- R54-R72: every encoded form, with every operand at every value its fields admit, is read back from its word. -/
def Obligations.DecodeOfEncode : Prop :=
  ∀ (i : Instr) (w : BitVec 32), i.wellFormed = true → encode i = some w → decode w = .ok i

/-- R57, R59, R64: a word that decodes stands for that form alone: it is the word of the form, whose unused fields are zero, and
the form is none of the reserved combinations. -/
def Obligations.EncodeOfDecode : Prop :=
  ∀ (w : BitVec 32) (i : Instr), decode w = .ok i → i.wellFormed = true ∧ encode i = some w

/-- R17, R54, R60-R64, R127: when the schedule names a slot that the arbiter picks, with no stop asked for, no breakpoint at
its `pc` and a budget, and the word at its place decodes to a form that its pending extension words allow, the step is that
form's meaning there, after the slot is charged its issue; an entry that names a step without a word is that step's meaning. -/
def Obligations.StepRunsDecoded : Prop :=
  ∀ (s : State) (t k : Nat) (w : BitVec 32) (i : Instr) (rest : List Sched),
    let s0 : State := { s with agenda := rest }
    let s1 : State := { s0 with cur := (t, k) }
    let sl := s.slot t k
    (s.agenda = .issue t k :: rest → s.arbiter t = some k → sl.stopReq = false → sl.stepReq = none → sl.th.foul = false →
      s.breakAt t k = none →
      s.fetch t sl.th.ctx sl.ipc = .ok w →
      (decode w = .ok i → sl.runOk i = true → (w.toNat / 2 ^ 26 = 0x39 → s.atService t k = true) →
        s.hbeatDue t k = false → step s = settled t k (exec i (s1.charge t k i)) ∧
          ∀ u, exec i (s1.charge t k i) = .next u → (u.slot t k).stops = false → step s = .next u) ∧
      (w.toNat / 2 ^ 26 = 0x39 → s.atService t k = false → s.hbeatDue t k = false →
        step s = .next ((s1.charge t k .trkw).raise t k 0x02 0#64 (w.zeroExtend 64)))) ∧
    (s.agenda = .event i :: rest → encode i = none → step s = exec i s0)

/-- R17, R64: a form with an encoding, once issued from a READY slot, always answers with a next state: it ends, waits, departs
or takes a fault, and never stops the machine; where no slot has issued it is not enabled. -/
def Obligations.IssueAnswers : Prop :=
  ∀ (s : State) (i : Instr), (encode i).isSome = true →
    (s.issuing = true → ∃ t, exec i s = .next t) ∧ (s.issuing = false → exec i s = .fault .notEnabled)

/-- R18, R302, R374, R375, R381: the module after dawn: generation 0, instance numbers from 1, nothing launched, mapped or under
way; every slot FREE but slot 15 of a service tile; every macro plain and unowned; memory reads zero (log 2, 3). -/
def Obligations.ResetValues : Prop :=
  State.reset.gen = 0 ∧ State.reset.nextKin = 1 ∧ State.reset.insts = [] ∧ State.reset.ctxs = [] ∧ State.reset.objects = [] ∧
  State.reset.homeMap = [] ∧ State.reset.net = [] ∧ State.reset.enabled = true ∧ State.reset.mode = 0 ∧
  (∀ t, (State.reset.tile t).ptr = 0 ∧ (State.reset.tile t).teams = [] ∧ (State.reset.tile t).extents = [] ∧
    (∀ m, m < 256 → (State.reset.tile t).mac m = {}) ∧
    (∀ k, k < 15 → (State.reset.slot t k).state = .free ∧ (State.reset.slot t k).th = {}) ∧
    (State.reset.slot t 15 = {} ∨ State.reset.slot t 15 = serviceSlot)) ∧
  ∀ a, State.reset.mem.byte a = 0#8 ∧ State.reset.mem.isPoison a = false ∧ State.reset.mem.isEmpty a = false

/-- R381, R394: the invariant holds after reset. -/
def Obligations.ResetInvariant : Prop := State.reset.Inv

/-- R381, R394: every step from a state with memory in its canonical form, a generation below 255 and one of the four power
modes leads to such a state. -/
def Obligations.StepKeepsInvariant : Prop := ∀ s t : State, s.Inv → step s = .next t → t.Inv

/-- R104, R111, R119-R125, R136, R235-R239: what an access at its own tile leaves alone, where the caches need not write another line
back. A load changes no word of any object. A full/empty access, a wait or an atomic without a release, whose line the L1 does
not hold, changes no other word, and no byte of its word beside those it names. DRAM and scratchpads, the other slots and the
other tiles are as they were in every case. -/
def Obligations.MemoryFrames : Prop :=
  ∀ (s t : State) (d : Reg) (b : Ptr) (x : Reg) (z : Size) (m : Mode) (o : Sys2Proof.Order) (c : Scope) (f : BitVec 9) (op : AtomOp)
    (nr wide : Bool) (ob : Object) (i : Instr) (a : Word) (n : Nat),
    let u := s.cur.1
    let ctx := s.memCtx u s.cur.2
    let base := s.curSlot.th.regs.get b
    let off := extInt s.curSlot.ext f
    let sameWord (ctx' : Nat) (a' : Word) : Prop := (t.view u ctx' a').data = (s.view u ctx' a').data ∧
      (t.view u ctx' a').poison = (s.view u ctx' a').poison
    s.curSlot.ext.length ≤ 2 → s.Sound → (s.tile u).LinesOk → s.AtHome u ctx a n ob → exec i s = .next t →
    (i = .ld d b z m o c f ∧ a = (memPlace s.curSlot.th b m (sizeBytes z) off).1 ∨
      i = .ldx d b x z o c ∧ a = base + fromInt ((s.rd x).toInt * sizeBytes z) ∨
      i = .ldr d b z o c f ∧ a = base + fromInt (off * sizeBytes z) → n = sizeBytes z →
      (s.l1Has u ctx a = true ∧ (s.tile u).L1Room ctx a) ∨ ((s.tile u).NotInL1 ctx a ∧ (s.tile u).SliceRoom ctx a) →
      s.AsideSame t u s.cur.2 ∧ ∀ ctx' a', sameWord ctx' a') ∧
    (i = .ldf d b o c f ∧ a = base + fromInt (off * 8) ∧ n = 8 ∨
      i = .stf d b o c f ∧ a = base + fromInt (off * 8) ∧ n = 8 ∧ orderRel o = false ∨
      i ∈ [Instr.join b x, .waitwEq b x, .waitwNe b x, .waitwGe b x] ∧ a = base ∧ n = 8 ∨
      i = atomInstr op d b x nr o c wide ∧ a = base ∧ orderRel o = false ∧
        n = (if op ∈ [.fadd, .fmax, .fmin] then 4 else if wide then 8 else 4) ∨
      i = .acas d b x o c wide ∧ a = base ∧ orderRel o = false ∧ n = (if wide then 8 else 4) →
      (s.tile u).NotInL1 ctx a → (s.tile u).SliceRoom ctx a → s.NoWaiter u (objWordKey ctx a) →
      s.AsideSame t u s.cur.2 ∧ (t.tile u).l1 = (s.tile u).l1 ∧
      (∀ ctx' a', (ctx', objOf a', offOf a' / 8) ≠ (ctx, objOf a, offOf a / 8) → sameWord ctx' a') ∧
      ∀ j, j < 8 → (j < a.toNat % 8 ∨ a.toNat % 8 + n ≤ j) →
        (t.view u ctx a).data.extractLsb' (8 * j) 8 = (s.view u ctx a).data.extractLsb' (8 * j) 8)
end

