-- ==== Sys2Proof/Laws/Memory.lean ====
section
/-! SUPPORT. Memory: every operation keeps the canonical form, and a read answers the last write (log 3). -/

namespace Sys2Proof.Machine

/-! ### One byte -/

theorem readCell_insert (cs : List Host.Cell) (a : Nat) (v : Byte) (b : Nat) :
    readCell (insertCell cs a v) b = if b = a then v else readCell cs b := by
  induction cs with
  | nil => by_cases h : a = b <;> simp [insertCell, readCell, h, Ne.symm, eq_comm]
  | cons e cs ih =>
    obtain ⟨c, u⟩ := e
    simp only [insertCell]
    split
    · by_cases h : b = a
      · simp [readCell, h]
      · simp [readCell, h, Ne.symm h]
    · split
      · rename_i _ hc
        subst hc
        by_cases h : b = a
        · simp [readCell, h]
        · simp [readCell, h, Ne.symm h]
      · simp only [readCell, ih]
        by_cases h : c = b
        · have : b ≠ a := by omega
          simp [h, this]
        · simp [h]

/-- The head of a canonical list lies below the rest. -/
def headsAbove (a : Nat) : List Host.Cell → Prop
  | [] => True
  | (b, _) :: _ => a < b

theorem cellsWf_cons (a : Nat) (v : Byte) (cs : List Host.Cell) :
    cellsWf ((a, v) :: cs) = true ↔ v ≠ Mem.unlisted ∧ headsAbove a cs ∧ cellsWf cs = true := by
  cases cs with
  | nil => simp [cellsWf, headsAbove]
  | cons e cs => obtain ⟨b, u⟩ := e; simp [cellsWf, headsAbove, and_assoc]

theorem readCell_below (cs : List Host.Cell) (a : Nat) (hw : cellsWf cs = true) (h : headsAbove a cs) :
    readCell cs a = Mem.unlisted := by
  induction cs generalizing a with
  | nil => rfl
  | cons e cs ih =>
    obtain ⟨b, u⟩ := e
    rw [cellsWf_cons] at hw
    simp only [headsAbove] at h
    have hb : b ≠ a := by omega
    simp only [readCell, if_neg hb]
    apply ih a hw.2.2
    cases cs with
    | nil => trivial
    | cons f cs => obtain ⟨c, w⟩ := f; have := hw.2.1; simp only [headsAbove] at this ⊢; omega

theorem readCell_erase (cs : List Host.Cell) (a b : Nat) (hw : cellsWf cs = true) :
    readCell (eraseCell cs a) b = if b = a then Mem.unlisted else readCell cs b := by
  induction cs with
  | nil => simp [eraseCell, readCell]
  | cons e cs ih =>
    obtain ⟨c, u⟩ := e
    rw [cellsWf_cons] at hw
    simp only [eraseCell]
    split
    · rename_i hc
      subst hc
      by_cases h : b = c
      · subst h; simpa using readCell_below cs b hw.2.2 hw.2.1
      · simp [readCell, h, Ne.symm h]
    · simp only [readCell, ih hw.2.2]
      by_cases h : c = b
      · have : b ≠ a := by omega
        simp [h, this]
      · simp [h]

theorem insertCell_above (cs : List Host.Cell) (a c : Nat) (v : Byte) (h : headsAbove c cs) (hc : c < a) :
    headsAbove c (insertCell cs a v) := by
  cases cs with
  | nil => exact hc
  | cons e cs => obtain ⟨b, u⟩ := e; simp only [insertCell]; split <;> (try split) <;> simp_all [headsAbove]

theorem insertCell_wf (cs : List Host.Cell) (a : Nat) (v : Byte) (hv : v ≠ Mem.unlisted) (hw : cellsWf cs = true) :
    cellsWf (insertCell cs a v) = true := by
  induction cs with
  | nil => simpa [insertCell, cellsWf] using hv
  | cons e cs ih =>
    obtain ⟨b, u⟩ := e
    have hw' := hw
    rw [cellsWf_cons] at hw
    simp only [insertCell]
    split
    · rw [cellsWf_cons]; exact ⟨hv, by simpa [headsAbove], hw'⟩
    · split
      · rename_i _ h; subst h; rw [cellsWf_cons]; exact ⟨hv, hw.2.1, hw.2.2⟩
      · rw [cellsWf_cons]; exact ⟨hw.1, insertCell_above cs a b v hw.2.1 (by omega), ih hw.2.2⟩

theorem headsAbove_trans (cs : List Host.Cell) {a b : Nat} (h : a < b) (hb : headsAbove b cs) : headsAbove a cs := by
  cases cs with
  | nil => trivial
  | cons e cs => obtain ⟨c, u⟩ := e; simp only [headsAbove] at *; omega

theorem eraseCell_above (cs : List Host.Cell) (a c : Nat) (hw : cellsWf cs = true) (h : headsAbove c cs) :
    headsAbove c (eraseCell cs a) := by
  cases cs with
  | nil => trivial
  | cons e cs =>
    obtain ⟨b, u⟩ := e
    rw [cellsWf_cons] at hw
    simp only [eraseCell]
    split
    · exact headsAbove_trans cs (by simpa [headsAbove] using h) hw.2.1
    · exact h

theorem eraseCell_wf (cs : List Host.Cell) (a : Nat) (hw : cellsWf cs = true) : cellsWf (eraseCell cs a) = true := by
  induction cs with
  | nil => rfl
  | cons e cs ih =>
    obtain ⟨b, u⟩ := e
    rw [cellsWf_cons] at hw
    simp only [eraseCell]
    split
    · exact hw.2.2
    · rw [cellsWf_cons]; exact ⟨hw.1, eraseCell_above cs a b hw.2.2 hw.2.1, ih hw.2.2⟩

theorem writeCell_wf (cs : List Host.Cell) (a : Nat) (v : Byte) (hw : cellsWf cs = true) :
    cellsWf (writeCell cs a v) = true := by
  unfold writeCell; split
  · exact eraseCell_wf cs a hw
  · exact insertCell_wf cs a v ‹_› hw

theorem readCell_write (cs : List Host.Cell) (a : Nat) (v : Byte) (b : Nat) (hw : cellsWf cs = true) :
    readCell (writeCell cs a v) b = if b = a then v else readCell cs b := by
  unfold writeCell; split
  · rename_i h; subst h; exact readCell_erase cs a b hw
  · exact readCell_insert cs a v b

/-! ### Ascending lists -/

def natAbove (a : Nat) : List Nat → Prop
  | [] => True
  | b :: _ => a < b

theorem natsWf_cons (a : Nat) (l : List Nat) : natsWf (a :: l) = true ↔ natAbove a l ∧ natsWf l = true := by
  cases l <;> simp [natsWf, natAbove]

theorem natAbove_trans (l : List Nat) {a b : Nat} (h : a < b) (hb : natAbove b l) : natAbove a l := by
  cases l with
  | nil => trivial
  | cons c l => simp only [natAbove] at *; omega

theorem insertNat_wf (l : List Nat) (a : Nat) (hw : natsWf l = true) : natsWf (insertNat l a) = true := by
  induction l with
  | nil => rfl
  | cons b l ih =>
    have hw' := hw
    rw [natsWf_cons] at hw
    simp only [insertNat]
    split
    · rw [natsWf_cons]; exact ⟨by simpa [natAbove], hw'⟩
    · split
      · exact hw'
      · rw [natsWf_cons]
        refine ⟨?_, ih hw.2⟩
        cases l with
        | nil => simp only [insertNat, natAbove]; omega
        | cons c l =>
          have := hw.1
          simp only [insertNat]
          simp only [natAbove] at this
          split
          · simp only [natAbove]; omega
          · split <;> simpa [natAbove] using this

theorem eraseNat_wf (l : List Nat) (a : Nat) (hw : natsWf l = true) : natsWf (eraseNat l a) = true := by
  induction l with
  | nil => rfl
  | cons b l ih =>
    rw [natsWf_cons] at hw
    simp only [eraseNat]
    split
    · exact hw.2
    · rw [natsWf_cons]
      refine ⟨?_, ih hw.2⟩
      cases l with
      | nil => trivial
      | cons c l =>
        have := hw.1
        have h2 := hw.2
        rw [natsWf_cons] at h2
        simp only [eraseNat]
        simp only [natAbove] at this
        split
        · exact natAbove_trans l this h2.1
        · simpa [natAbove] using this

theorem setNat_wf (l : List Nat) (a : Nat) (on : Bool) (hw : natsWf l = true) : natsWf (setNat l a on) = true := by
  unfold setNat; split
  · exact insertNat_wf l a hw
  · exact eraseNat_wf l a hw

theorem mem_insertNat (l : List Nat) (a b : Nat) : b ∈ insertNat l a ↔ b = a ∨ b ∈ l := by
  induction l with
  | nil => simp [insertNat]
  | cons c l ih =>
    simp only [insertNat]
    split
    · simp
    · split
      · rename_i h; subst h; simp
      · simp only [List.mem_cons, ih]; tauto

theorem below_not_mem (l : List Nat) (a : Nat) (hw : natsWf l = true) (h : natAbove a l) : a ∉ l := by
  induction l generalizing a with
  | nil => simp
  | cons c l ih =>
    rw [natsWf_cons] at hw
    simp only [natAbove] at h
    simp only [List.mem_cons, not_or]
    exact ⟨by omega, ih a hw.2 (natAbove_trans l h hw.1)⟩

theorem mem_eraseNat (l : List Nat) (a b : Nat) (hw : natsWf l = true) : b ∈ eraseNat l a ↔ b ≠ a ∧ b ∈ l := by
  induction l with
  | nil => simp [eraseNat]
  | cons c l ih =>
    rw [natsWf_cons] at hw
    simp only [eraseNat]
    split
    · rename_i h
      subst h
      have := below_not_mem l a hw.2 hw.1
      constructor
      · intro hb; exact ⟨fun e => this (e ▸ hb), List.mem_cons_of_mem _ hb⟩
      · rintro ⟨hn, hb⟩; exact (List.mem_cons.1 hb).resolve_left hn
    · simp only [List.mem_cons, ih hw.2]
      constructor
      · rintro (rfl | ⟨h1, h2⟩)
        · exact ⟨fun e => by omega, Or.inl rfl⟩
        · exact ⟨h1, Or.inr h2⟩
      · rintro ⟨h1, rfl | h2⟩
        · exact Or.inl rfl
        · exact Or.inr ⟨h1, h2⟩

/-! ### Lists of words -/

theorem wordsWf_iff (l : List Nat) : wordsWf l = true ↔ natsWf l = true ∧ ∀ a, a ∈ l → a % 8 = 0 := by simp [wordsWf]

theorem wordKey_mod (a : Nat) : wordKey a % 8 = 0 := by simp [wordKey]

theorem wordKey_of_mod {a : Nat} (h : a % 8 = 0) : wordKey a = a := by unfold wordKey; omega

theorem eraseNat_wordsWf (l : List Nat) (a : Nat) (h : wordsWf l = true) : wordsWf (eraseNat l a) = true := by
  rw [wordsWf_iff] at *
  exact ⟨eraseNat_wf l a h.1, fun b hb => h.2 b ((mem_eraseNat l a b h.1).1 hb).2⟩

theorem setNat_wordsWf (l : List Nat) (a : Nat) (on : Bool) (h : wordsWf l = true) : wordsWf (setNat l (wordKey a) on) = true := by
  cases on with
  | false => exact eraseNat_wordsWf l _ h
  | true =>
    rw [wordsWf_iff] at *
    refine ⟨insertNat_wf l _ h.1, fun b hb => ?_⟩
    rcases (mem_insertNat l _ b).1 hb with rfl | hb
    · exact wordKey_mod a
    · exact h.2 b hb

/-! ### Memory -/

theorem Mem.wf_iff (m : Mem) : m.wf = true ↔
    cellsWf m.cells = true ∧ wordsWf m.empty = true ∧ wordsWf m.poison = true ∧ wordsWf m.weak = true ∧ wordsWf m.soft = true := by
  simp [Mem.wf, and_assoc]

theorem setByte_wf (m : Mem) (a : Nat) (v : Byte) (h : m.wf = true) : (m.setByte a v).wf = true := by
  rw [Mem.wf_iff] at *; exact ⟨writeCell_wf _ _ _ h.1, h.2⟩

theorem setPoison_wf (m : Mem) (a : Nat) (on : Bool) (h : m.wf = true) : (m.setPoison a on).wf = true := by
  rw [Mem.wf_iff] at *; exact ⟨h.1, h.2.1, setNat_wordsWf _ _ _ h.2.2.1, eraseNat_wordsWf _ _ h.2.2.2.1,
    eraseNat_wordsWf _ _ h.2.2.2.2⟩

theorem setEmpty_wf (m : Mem) (a : Nat) (on : Bool) (h : m.wf = true) : (m.setEmpty a on).wf = true := by
  rw [Mem.wf_iff] at *; exact ⟨h.1, setNat_wordsWf _ _ _ h.2.1, h.2.2⟩

theorem foldl_wf {α : Type} (l : List α) (f : Mem → α → Mem) (hf : ∀ m x, m.wf = true → (f m x).wf = true) (m : Mem)
    (h : m.wf = true) : (l.foldl f m).wf = true := by
  induction l generalizing m with
  | nil => exact h
  | cons x l ih => exact ih _ (hf m x h)

theorem merge_wf (m : Mem) (a : Nat) (mask : BitVec 8) (v : Word) (h : m.wf = true) : (m.merge a mask v).wf = true := by
  refine foldl_wf _ _ ?_ m h
  intro m x h
  split
  · exact setByte_wf _ _ _ h
  · exact h

theorem write_wf (m : Mem) (a : Nat) (mask : BitVec 8) (v : Word) (h : m.wf = true) : (m.write a mask v).wf = true := by
  unfold Mem.write
  dsimp only
  split
  · exact setPoison_wf _ _ _ (merge_wf m a mask v h)
  · exact merge_wf m a mask v h

theorem headsAbove_filter (cs : List Host.Cell) (p : Host.Cell → Bool) (a : Nat) (hw : cellsWf cs = true)
    (h : headsAbove a cs) : headsAbove a (cs.filter p) := by
  induction cs with
  | nil => trivial
  | cons e cs ih =>
    obtain ⟨b, u⟩ := e
    rw [cellsWf_cons] at hw
    rw [List.filter_cons]
    split
    · exact h
    · exact ih hw.2.2 (headsAbove_trans cs (by simpa [headsAbove] using h) hw.2.1)

theorem cellsWf_filter (cs : List Host.Cell) (p : Host.Cell → Bool) (hw : cellsWf cs = true) :
    cellsWf (cs.filter p) = true := by
  induction cs with
  | nil => rfl
  | cons e cs ih =>
    obtain ⟨b, u⟩ := e
    rw [cellsWf_cons] at hw
    rw [List.filter_cons]
    split
    · rw [cellsWf_cons]; exact ⟨hw.1, headsAbove_filter cs p b hw.2.2 hw.2.1, ih hw.2.2⟩
    · exact ih hw.2.2

theorem natAbove_filter (l : List Nat) (p : Nat → Bool) (a : Nat) (hw : natsWf l = true) (h : natAbove a l) :
    natAbove a (l.filter p) := by
  induction l with
  | nil => trivial
  | cons b l ih =>
    rw [natsWf_cons] at hw
    rw [List.filter_cons]
    split
    · exact h
    · exact ih hw.2 (natAbove_trans l (by simpa [natAbove] using h) hw.1)

theorem natsWf_filter (l : List Nat) (p : Nat → Bool) (hw : natsWf l = true) : natsWf (l.filter p) = true := by
  induction l with
  | nil => rfl
  | cons b l ih =>
    rw [natsWf_cons] at hw
    rw [List.filter_cons]
    split
    · rw [natsWf_cons]; exact ⟨natAbove_filter l p b hw.2 hw.1, ih hw.2⟩
    · exact ih hw.2

theorem wordsWf_filter (l : List Nat) (p : Nat → Bool) (h : wordsWf l = true) : wordsWf (l.filter p) = true := by
  rw [wordsWf_iff] at *
  exact ⟨natsWf_filter l p h.1, fun a ha => h.2 a (List.mem_filter.1 ha).1⟩

theorem clear_wf (m : Mem) (a n : Nat) (h : m.wf = true) : (m.clear a n).wf = true := by
  rw [Mem.wf_iff] at *
  exact ⟨cellsWf_filter _ _ h.1, wordsWf_filter _ _ h.2.1, wordsWf_filter _ _ h.2.2.1, wordsWf_filter _ _ h.2.2.2.1,
    wordsWf_filter _ _ h.2.2.2.2⟩

theorem meet_wf (m : Mem) (a n : Nat) (h : m.wf = true) : (m.meet a n).wf = true := by
  refine foldl_wf _ _ (fun m c h => setPoison_wf m c true h) _ ?_
  rw [Mem.wf_iff] at *
  exact ⟨h.1, h.2.1, h.2.2.1, h.2.2.2.1, wordsWf_filter _ _ h.2.2.2.2⟩

theorem move_wf (m : Mem) (src dst n : Nat) (h : m.wf = true) : (m.move src dst n).wf = true := by
  refine foldl_wf _ _ (fun m x h => setPoison_wf _ _ _ h) _ ?_
  refine foldl_wf _ _ (fun m x h => setEmpty_wf _ _ _ h) _ ?_
  exact foldl_wf _ _ (fun m x h => setByte_wf _ _ _ h) _ (clear_wf _ dst n (meet_wf m src n h))

theorem reset_mem_wf : State.reset.mem.wf = true := by decide

/-! ### Reads after writes -/

theorem byte_setByte (m : Mem) (a b : Nat) (v : Byte) (h : m.wf = true) :
    (m.setByte a v).byte b = if b = a then v else m.byte b :=
  readCell_write _ _ _ _ (m.wf_iff.1 h).1

@[simp] theorem byte_setPoison (m : Mem) (a b : Nat) (on : Bool) : (m.setPoison a on).byte b = m.byte b := rfl
@[simp] theorem byte_setEmpty (m : Mem) (a b : Nat) (on : Bool) : (m.setEmpty a on).byte b = m.byte b := rfl
@[simp] theorem isEmpty_setByte (m : Mem) (a b : Nat) (v : Byte) : (m.setByte a v).isEmpty b = m.isEmpty b := rfl
@[simp] theorem isPoison_setByte (m : Mem) (a b : Nat) (v : Byte) : (m.setByte a v).isPoison b = m.isPoison b := rfl
@[simp] theorem isPoison_setEmpty (m : Mem) (a b : Nat) (on : Bool) : (m.setEmpty a on).isPoison b = m.isPoison b := rfl
@[simp] theorem isEmpty_setPoison (m : Mem) (a b : Nat) (on : Bool) : (m.setPoison a on).isEmpty b = m.isEmpty b := rfl

theorem merge_byte_aux (l : List Nat) (m : Mem) (k : Nat) (mask : BitVec 8) (v : Word) (b : Nat) (hl : l.Nodup)
    (h : m.wf = true) :
    (l.foldl (fun m i => if mask.getLsbD i then m.setByte (k + i) (v.extractLsb' (8 * i) 8) else m) m).byte b =
      if k ≤ b ∧ (b - k) ∈ l ∧ mask.getLsbD (b - k) = true then v.extractLsb' (8 * (b - k)) 8 else m.byte b := by
  induction l generalizing m with
  | nil => simp
  | cons i l ih =>
    rw [List.nodup_cons] at hl
    simp only [List.foldl_cons]
    by_cases hm : mask.getLsbD i = true
    · rw [if_pos hm, ih _ hl.2 (setByte_wf _ _ _ h), byte_setByte _ _ _ _ h]
      by_cases hb : b = k + i
      · subst hb
        simp [hl.1, hm]
      · have : b - k = i → ¬ k ≤ b := by omega
        by_cases hk : k ≤ b
        · have : b - k ≠ i := by omega
          simp [hb, this]
        · simp [hb, hk]
    · rw [if_neg hm, ih _ hl.2 h]
      by_cases hb : b - k = i
      · subst hb; simp [hl.1, hm]
      · simp [hb]

/-- A byte after a masked write of the word at key `a`. -/
theorem byte_merge (m : Mem) (a : Nat) (mask : BitVec 8) (v : Word) (b : Nat) (h : m.wf = true) :
    (m.merge a mask v).byte b =
      if wordKey a ≤ b ∧ b < wordKey a + 8 ∧ mask.getLsbD (b - wordKey a) = true then v.extractLsb' (8 * (b - wordKey a)) 8
      else m.byte b := by
  have := merge_byte_aux (List.range 8) m (wordKey a) mask v b List.nodup_range h
  simp only [List.mem_range] at this
  unfold Mem.merge
  rw [this]
  by_cases hk : wordKey a ≤ b
  · have : b - wordKey a < 8 ↔ b < wordKey a + 8 := by omega
    simp [hk, this]
  · simp [hk]

theorem byte_write (m : Mem) (a : Nat) (mask : BitVec 8) (v : Word) (b : Nat) (h : m.wf = true) :
    (m.write a mask v).byte b =
      if wordKey a ≤ b ∧ b < wordKey a + 8 ∧ mask.getLsbD (b - wordKey a) = true then v.extractLsb' (8 * (b - wordKey a)) 8
      else m.byte b := by
  rw [← byte_merge m a mask v b h]
  unfold Mem.write; dsimp only; split <;> rfl

end Sys2Proof.Machine
end

