-- ==== Sys2Proof/Laws/State.lean ====
section
/-! SUPPORT. What each update of the state leaves in each field, so that no later proof unfolds a record update. -/

namespace Sys2Proof.Machine

@[simp] theorem setTile_now (s : State) (t : Nat) (x : Tile) : (s.setTile t x).now = s.now := rfl
@[simp] theorem setTile_wall9 (s : State) (t : Nat) (x : Tile) : (s.setTile t x).wall9 = s.wall9 := rfl
@[simp] theorem setTile_gen (s : State) (t : Nat) (x : Tile) : (s.setTile t x).gen = s.gen := rfl
@[simp] theorem setTile_rows (s : State) (t : Nat) (x : Tile) : (s.setTile t x).rows = s.rows := rfl
@[simp] theorem setTile_siteOf (s : State) (t : Nat) (x : Tile) : (s.setTile t x).siteOf = s.siteOf := rfl
@[simp] theorem setTile_bad (s : State) (t : Nat) (x : Tile) : (s.setTile t x).bad = s.bad := rfl
@[simp] theorem setTile_noClock (s : State) (t : Nat) (x : Tile) : (s.setTile t x).noClock = s.noClock := rfl
@[simp] theorem setTile_fencedSites (s : State) (t : Nat) (x : Tile) : (s.setTile t x).fencedSites = s.fencedSites := rfl
@[simp] theorem setTile_tabOut (s : State) (t : Nat) (x : Tile) : (s.setTile t x).tabOut = s.tabOut := rfl
@[simp] theorem setTile_parents (s : State) (t : Nat) (x : Tile) : (s.setTile t x).parents = s.parents := rfl
@[simp] theorem setTile_clockRoot (s : State) (t : Nat) (x : Tile) : (s.setTile t x).clockRoot = s.clockRoot := rfl
@[simp] theorem setTile_step (s : State) (t : Nat) (x : Tile) : (s.setTile t x).step = s.step := rfl
@[simp] theorem setTile_enabled (s : State) (t : Nat) (x : Tile) : (s.setTile t x).enabled = s.enabled := rfl
@[simp] theorem setTile_attested (s : State) (t : Nat) (x : Tile) : (s.setTile t x).attested = s.attested := rfl
@[simp] theorem setTile_survey (s : State) (t : Nat) (x : Tile) : (s.setTile t x).survey = s.survey := rfl
@[simp] theorem setTile_dmap (s : State) (t : Nat) (x : Tile) : (s.setTile t x).dmap = s.dmap := rfl
@[simp] theorem setTile_fw (s : State) (t : Nat) (x : Tile) : (s.setTile t x).fw = s.fw := rfl
@[simp] theorem setTile_mode (s : State) (t : Nat) (x : Tile) : (s.setTile t x).mode = s.mode := rfl
@[simp] theorem setTile_oldMode (s : State) (t : Nat) (x : Tile) : (s.setTile t x).oldMode = s.oldMode := rfl
@[simp] theorem setTile_changing (s : State) (t : Nat) (x : Tile) : (s.setTile t x).changing = s.changing := rfl
@[simp] theorem setTile_bfeCap (s : State) (t : Nat) (x : Tile) : (s.setTile t x).bfeCap = s.bfeCap := rfl
@[simp] theorem setTile_dramCap (s : State) (t : Nat) (x : Tile) : (s.setTile t x).dramCap = s.dramCap := rfl
@[simp] theorem setTile_powerAt (s : State) (t : Nat) (x : Tile) : (s.setTile t x).powerAt = s.powerAt := rfl
@[simp] theorem setTile_pumpsOut (s : State) (t : Nat) (x : Tile) : (s.setTile t x).pumpsOut = s.pumpsOut := rfl
@[simp] theorem setTile_stagesOut (s : State) (t : Nat) (x : Tile) : (s.setTile t x).stagesOut = s.stagesOut := rfl
@[simp] theorem setTile_unrec (s : State) (t : Nat) (x : Tile) : (s.setTile t x).unrec = s.unrec := rfl
@[simp] theorem setTile_fencedCount (s : State) (t : Nat) (x : Tile) : (s.setTile t x).fencedCount = s.fencedCount := rfl
@[simp] theorem setTile_serial (s : State) (t : Nat) (x : Tile) : (s.setTile t x).serial = s.serial := rfl
@[simp] theorem setTile_flash (s : State) (t : Nat) (x : Tile) : (s.setTile t x).flash = s.flash := rfl
@[simp] theorem setTile_mapHalf (s : State) (t : Nat) (x : Tile) : (s.setTile t x).mapHalf = s.mapHalf := rfl
@[simp] theorem setTile_laterMap (s : State) (t : Nat) (x : Tile) : (s.setTile t x).laterMap = s.laterMap := rfl
@[simp] theorem setTile_laterToken (s : State) (t : Nat) (x : Tile) : (s.setTile t x).laterToken = s.laterToken := rfl
@[simp] theorem setTile_ports (s : State) (t : Nat) (x : Tile) : (s.setTile t x).ports = s.ports := rfl
@[simp] theorem setTile_myModule (s : State) (t : Nat) (x : Tile) : (s.setTile t x).myModule = s.myModule := rfl
@[simp] theorem setTile_stageMap (s : State) (t : Nat) (x : Tile) : (s.setTile t x).stageMap = s.stageMap := rfl
@[simp] theorem setTile_stageFw (s : State) (t : Nat) (x : Tile) : (s.setTile t x).stageFw = s.stageFw := rfl
@[simp] theorem setTile_lostPeers (s : State) (t : Nat) (x : Tile) : (s.setTile t x).lostPeers = s.lostPeers := rfl
@[simp] theorem setTile_freshExtents (s : State) (t : Nat) (x : Tile) : (s.setTile t x).freshExtents = s.freshExtents := rfl
@[simp] theorem setTile_fields (s : State) (t : Nat) (x : Tile) : (s.setTile t x).fields = s.fields := rfl
@[simp] theorem setTile_mem (s : State) (t : Nat) (x : Tile) : (s.setTile t x).mem = s.mem := rfl
@[simp] theorem setTile_net (s : State) (t : Nat) (x : Tile) : (s.setTile t x).net = s.net := rfl
@[simp] theorem setTile_ctxs (s : State) (t : Nat) (x : Tile) : (s.setTile t x).ctxs = s.ctxs := rfl
@[simp] theorem setTile_objects (s : State) (t : Nat) (x : Tile) : (s.setTile t x).objects = s.objects := rfl
@[simp] theorem setTile_homeMap (s : State) (t : Nat) (x : Tile) : (s.setTile t x).homeMap = s.homeMap := rfl
@[simp] theorem setTile_insts (s : State) (t : Nat) (x : Tile) : (s.setTile t x).insts = s.insts := rfl
@[simp] theorem setTile_nextKin (s : State) (t : Nat) (x : Tile) : (s.setTile t x).nextKin = s.nextKin := rfl
@[simp] theorem setTile_nextOrder (s : State) (t : Nat) (x : Tile) : (s.setTile t x).nextOrder = s.nextOrder := rfl
@[simp] theorem setTile_freeCounts (s : State) (t : Nat) (x : Tile) : (s.setTile t x).freeCounts = s.freeCounts := rfl
@[simp] theorem setTile_freeAt (s : State) (t : Nat) (x : Tile) : (s.setTile t x).freeAt = s.freeAt := rfl
@[simp] theorem setTile_falls (s : State) (t : Nat) (x : Tile) : (s.setTile t x).falls = s.falls := rfl
@[simp] theorem setTile_routers (s : State) (t : Nat) (x : Tile) : (s.setTile t x).routers = s.routers := rfl
@[simp] theorem setTile_hostOut (s : State) (t : Nat) (x : Tile) : (s.setTile t x).hostOut = s.hostOut := rfl
@[simp] theorem setTile_hostHeld (s : State) (t : Nat) (x : Tile) : (s.setTile t x).hostHeld = s.hostHeld := rfl
@[simp] theorem setTile_peerHeld (s : State) (t : Nat) (x : Tile) : (s.setTile t x).peerHeld = s.peerHeld := rfl
@[simp] theorem setTile_objDying (s : State) (t : Nat) (x : Tile) : (s.setTile t x).objDying = s.objDying := rfl
@[simp] theorem setTile_gridObj (s : State) (t : Nat) (x : Tile) : (s.setTile t x).gridObj = s.gridObj := rfl
@[simp] theorem setTile_gridCtx (s : State) (t : Nat) (x : Tile) : (s.setTile t x).gridCtx = s.gridCtx := rfl
@[simp] theorem setTile_gridUs (s : State) (t : Nat) (x : Tile) : (s.setTile t x).gridUs = s.gridUs := rfl
@[simp] theorem setTile_grids (s : State) (t : Nat) (x : Tile) : (s.setTile t x).grids = s.grids := rfl
@[simp] theorem setTile_sweep (s : State) (t : Nat) (x : Tile) : (s.setTile t x).sweep = s.sweep := rfl
@[simp] theorem setTile_lastAdvance (s : State) (t : Nat) (x : Tile) : (s.setTile t x).lastAdvance = s.lastAdvance := rfl
@[simp] theorem setTile_dusk (s : State) (t : Nat) (x : Tile) : (s.setTile t x).dusk = s.dusk := rfl
@[simp] theorem setTile_duskQueue (s : State) (t : Nat) (x : Tile) : (s.setTile t x).duskQueue = s.duskQueue := rfl
@[simp] theorem setTile_retires (s : State) (t : Nat) (x : Tile) : (s.setTile t x).retires = s.retires := rfl
@[simp] theorem setTile_held (s : State) (t : Nat) (x : Tile) : (s.setTile t x).held = s.held := rfl
@[simp] theorem setTile_dbgReqs (s : State) (t : Nat) (x : Tile) : (s.setTile t x).dbgReqs = s.dbgReqs := rfl
@[simp] theorem setTile_portAt (s : State) (t : Nat) (x : Tile) : (s.setTile t x).portAt = s.portAt := rfl
@[simp] theorem setTile_agenda (s : State) (t : Nat) (x : Tile) : (s.setTile t x).agenda = s.agenda := rfl
@[simp] theorem setTile_cur (s : State) (t : Nat) (x : Tile) : (s.setTile t x).cur = s.cur := rfl
@[simp] theorem setTile_fresh (s : State) (t : Nat) (x : Tile) : (s.setTile t x).fresh = s.fresh := rfl
@[simp] theorem modTile_now (s : State) (t : Nat) (f : Tile → Tile) : (s.modTile t f).now = s.now := rfl
@[simp] theorem modTile_wall9 (s : State) (t : Nat) (f : Tile → Tile) : (s.modTile t f).wall9 = s.wall9 := rfl
@[simp] theorem modTile_gen (s : State) (t : Nat) (f : Tile → Tile) : (s.modTile t f).gen = s.gen := rfl
@[simp] theorem modTile_rows (s : State) (t : Nat) (f : Tile → Tile) : (s.modTile t f).rows = s.rows := rfl
@[simp] theorem modTile_siteOf (s : State) (t : Nat) (f : Tile → Tile) : (s.modTile t f).siteOf = s.siteOf := rfl
@[simp] theorem modTile_bad (s : State) (t : Nat) (f : Tile → Tile) : (s.modTile t f).bad = s.bad := rfl
@[simp] theorem modTile_noClock (s : State) (t : Nat) (f : Tile → Tile) : (s.modTile t f).noClock = s.noClock := rfl
@[simp] theorem modTile_fencedSites (s : State) (t : Nat) (f : Tile → Tile) : (s.modTile t f).fencedSites = s.fencedSites := rfl
@[simp] theorem modTile_tabOut (s : State) (t : Nat) (f : Tile → Tile) : (s.modTile t f).tabOut = s.tabOut := rfl
@[simp] theorem modTile_parents (s : State) (t : Nat) (f : Tile → Tile) : (s.modTile t f).parents = s.parents := rfl
@[simp] theorem modTile_clockRoot (s : State) (t : Nat) (f : Tile → Tile) : (s.modTile t f).clockRoot = s.clockRoot := rfl
@[simp] theorem modTile_step (s : State) (t : Nat) (f : Tile → Tile) : (s.modTile t f).step = s.step := rfl
@[simp] theorem modTile_enabled (s : State) (t : Nat) (f : Tile → Tile) : (s.modTile t f).enabled = s.enabled := rfl
@[simp] theorem modTile_attested (s : State) (t : Nat) (f : Tile → Tile) : (s.modTile t f).attested = s.attested := rfl
@[simp] theorem modTile_survey (s : State) (t : Nat) (f : Tile → Tile) : (s.modTile t f).survey = s.survey := rfl
@[simp] theorem modTile_dmap (s : State) (t : Nat) (f : Tile → Tile) : (s.modTile t f).dmap = s.dmap := rfl
@[simp] theorem modTile_fw (s : State) (t : Nat) (f : Tile → Tile) : (s.modTile t f).fw = s.fw := rfl
@[simp] theorem modTile_mode (s : State) (t : Nat) (f : Tile → Tile) : (s.modTile t f).mode = s.mode := rfl
@[simp] theorem modTile_oldMode (s : State) (t : Nat) (f : Tile → Tile) : (s.modTile t f).oldMode = s.oldMode := rfl
@[simp] theorem modTile_changing (s : State) (t : Nat) (f : Tile → Tile) : (s.modTile t f).changing = s.changing := rfl
@[simp] theorem modTile_bfeCap (s : State) (t : Nat) (f : Tile → Tile) : (s.modTile t f).bfeCap = s.bfeCap := rfl
@[simp] theorem modTile_dramCap (s : State) (t : Nat) (f : Tile → Tile) : (s.modTile t f).dramCap = s.dramCap := rfl
@[simp] theorem modTile_powerAt (s : State) (t : Nat) (f : Tile → Tile) : (s.modTile t f).powerAt = s.powerAt := rfl
@[simp] theorem modTile_pumpsOut (s : State) (t : Nat) (f : Tile → Tile) : (s.modTile t f).pumpsOut = s.pumpsOut := rfl
@[simp] theorem modTile_stagesOut (s : State) (t : Nat) (f : Tile → Tile) : (s.modTile t f).stagesOut = s.stagesOut := rfl
@[simp] theorem modTile_unrec (s : State) (t : Nat) (f : Tile → Tile) : (s.modTile t f).unrec = s.unrec := rfl
@[simp] theorem modTile_fencedCount (s : State) (t : Nat) (f : Tile → Tile) : (s.modTile t f).fencedCount = s.fencedCount := rfl
@[simp] theorem modTile_serial (s : State) (t : Nat) (f : Tile → Tile) : (s.modTile t f).serial = s.serial := rfl
@[simp] theorem modTile_flash (s : State) (t : Nat) (f : Tile → Tile) : (s.modTile t f).flash = s.flash := rfl
@[simp] theorem modTile_mapHalf (s : State) (t : Nat) (f : Tile → Tile) : (s.modTile t f).mapHalf = s.mapHalf := rfl
@[simp] theorem modTile_laterMap (s : State) (t : Nat) (f : Tile → Tile) : (s.modTile t f).laterMap = s.laterMap := rfl
@[simp] theorem modTile_laterToken (s : State) (t : Nat) (f : Tile → Tile) : (s.modTile t f).laterToken = s.laterToken := rfl
@[simp] theorem modTile_ports (s : State) (t : Nat) (f : Tile → Tile) : (s.modTile t f).ports = s.ports := rfl
@[simp] theorem modTile_myModule (s : State) (t : Nat) (f : Tile → Tile) : (s.modTile t f).myModule = s.myModule := rfl
@[simp] theorem modTile_stageMap (s : State) (t : Nat) (f : Tile → Tile) : (s.modTile t f).stageMap = s.stageMap := rfl
@[simp] theorem modTile_stageFw (s : State) (t : Nat) (f : Tile → Tile) : (s.modTile t f).stageFw = s.stageFw := rfl
@[simp] theorem modTile_lostPeers (s : State) (t : Nat) (f : Tile → Tile) : (s.modTile t f).lostPeers = s.lostPeers := rfl
@[simp] theorem modTile_freshExtents (s : State) (t : Nat) (f : Tile → Tile) : (s.modTile t f).freshExtents = s.freshExtents := rfl
@[simp] theorem modTile_fields (s : State) (t : Nat) (f : Tile → Tile) : (s.modTile t f).fields = s.fields := rfl
@[simp] theorem modTile_mem (s : State) (t : Nat) (f : Tile → Tile) : (s.modTile t f).mem = s.mem := rfl
@[simp] theorem modTile_net (s : State) (t : Nat) (f : Tile → Tile) : (s.modTile t f).net = s.net := rfl
@[simp] theorem modTile_ctxs (s : State) (t : Nat) (f : Tile → Tile) : (s.modTile t f).ctxs = s.ctxs := rfl
@[simp] theorem modTile_objects (s : State) (t : Nat) (f : Tile → Tile) : (s.modTile t f).objects = s.objects := rfl
@[simp] theorem modTile_homeMap (s : State) (t : Nat) (f : Tile → Tile) : (s.modTile t f).homeMap = s.homeMap := rfl
@[simp] theorem modTile_insts (s : State) (t : Nat) (f : Tile → Tile) : (s.modTile t f).insts = s.insts := rfl
@[simp] theorem modTile_nextKin (s : State) (t : Nat) (f : Tile → Tile) : (s.modTile t f).nextKin = s.nextKin := rfl
@[simp] theorem modTile_nextOrder (s : State) (t : Nat) (f : Tile → Tile) : (s.modTile t f).nextOrder = s.nextOrder := rfl
@[simp] theorem modTile_freeCounts (s : State) (t : Nat) (f : Tile → Tile) : (s.modTile t f).freeCounts = s.freeCounts := rfl
@[simp] theorem modTile_freeAt (s : State) (t : Nat) (f : Tile → Tile) : (s.modTile t f).freeAt = s.freeAt := rfl
@[simp] theorem modTile_falls (s : State) (t : Nat) (f : Tile → Tile) : (s.modTile t f).falls = s.falls := rfl
@[simp] theorem modTile_routers (s : State) (t : Nat) (f : Tile → Tile) : (s.modTile t f).routers = s.routers := rfl
@[simp] theorem modTile_hostOut (s : State) (t : Nat) (f : Tile → Tile) : (s.modTile t f).hostOut = s.hostOut := rfl
@[simp] theorem modTile_hostHeld (s : State) (t : Nat) (f : Tile → Tile) : (s.modTile t f).hostHeld = s.hostHeld := rfl
@[simp] theorem modTile_peerHeld (s : State) (t : Nat) (f : Tile → Tile) : (s.modTile t f).peerHeld = s.peerHeld := rfl
@[simp] theorem modTile_objDying (s : State) (t : Nat) (f : Tile → Tile) : (s.modTile t f).objDying = s.objDying := rfl
@[simp] theorem modTile_gridObj (s : State) (t : Nat) (f : Tile → Tile) : (s.modTile t f).gridObj = s.gridObj := rfl
@[simp] theorem modTile_gridCtx (s : State) (t : Nat) (f : Tile → Tile) : (s.modTile t f).gridCtx = s.gridCtx := rfl
@[simp] theorem modTile_gridUs (s : State) (t : Nat) (f : Tile → Tile) : (s.modTile t f).gridUs = s.gridUs := rfl
@[simp] theorem modTile_grids (s : State) (t : Nat) (f : Tile → Tile) : (s.modTile t f).grids = s.grids := rfl
@[simp] theorem modTile_sweep (s : State) (t : Nat) (f : Tile → Tile) : (s.modTile t f).sweep = s.sweep := rfl
@[simp] theorem modTile_lastAdvance (s : State) (t : Nat) (f : Tile → Tile) : (s.modTile t f).lastAdvance = s.lastAdvance := rfl
@[simp] theorem modTile_dusk (s : State) (t : Nat) (f : Tile → Tile) : (s.modTile t f).dusk = s.dusk := rfl
@[simp] theorem modTile_duskQueue (s : State) (t : Nat) (f : Tile → Tile) : (s.modTile t f).duskQueue = s.duskQueue := rfl
@[simp] theorem modTile_retires (s : State) (t : Nat) (f : Tile → Tile) : (s.modTile t f).retires = s.retires := rfl
@[simp] theorem modTile_held (s : State) (t : Nat) (f : Tile → Tile) : (s.modTile t f).held = s.held := rfl
@[simp] theorem modTile_dbgReqs (s : State) (t : Nat) (f : Tile → Tile) : (s.modTile t f).dbgReqs = s.dbgReqs := rfl
@[simp] theorem modTile_portAt (s : State) (t : Nat) (f : Tile → Tile) : (s.modTile t f).portAt = s.portAt := rfl
@[simp] theorem modTile_agenda (s : State) (t : Nat) (f : Tile → Tile) : (s.modTile t f).agenda = s.agenda := rfl
@[simp] theorem modTile_cur (s : State) (t : Nat) (f : Tile → Tile) : (s.modTile t f).cur = s.cur := rfl
@[simp] theorem modTile_fresh (s : State) (t : Nat) (f : Tile → Tile) : (s.modTile t f).fresh = s.fresh := rfl
@[simp] theorem modSlot_now (s : State) (t k : Nat) (f : Slot → Slot) : (s.modSlot t k f).now = s.now := rfl
@[simp] theorem modSlot_wall9 (s : State) (t k : Nat) (f : Slot → Slot) : (s.modSlot t k f).wall9 = s.wall9 := rfl
@[simp] theorem modSlot_gen (s : State) (t k : Nat) (f : Slot → Slot) : (s.modSlot t k f).gen = s.gen := rfl
@[simp] theorem modSlot_rows (s : State) (t k : Nat) (f : Slot → Slot) : (s.modSlot t k f).rows = s.rows := rfl
@[simp] theorem modSlot_siteOf (s : State) (t k : Nat) (f : Slot → Slot) : (s.modSlot t k f).siteOf = s.siteOf := rfl
@[simp] theorem modSlot_bad (s : State) (t k : Nat) (f : Slot → Slot) : (s.modSlot t k f).bad = s.bad := rfl
@[simp] theorem modSlot_noClock (s : State) (t k : Nat) (f : Slot → Slot) : (s.modSlot t k f).noClock = s.noClock := rfl
@[simp] theorem modSlot_fencedSites (s : State) (t k : Nat) (f : Slot → Slot) : (s.modSlot t k f).fencedSites = s.fencedSites := rfl
@[simp] theorem modSlot_tabOut (s : State) (t k : Nat) (f : Slot → Slot) : (s.modSlot t k f).tabOut = s.tabOut := rfl
@[simp] theorem modSlot_parents (s : State) (t k : Nat) (f : Slot → Slot) : (s.modSlot t k f).parents = s.parents := rfl
@[simp] theorem modSlot_clockRoot (s : State) (t k : Nat) (f : Slot → Slot) : (s.modSlot t k f).clockRoot = s.clockRoot := rfl
@[simp] theorem modSlot_step (s : State) (t k : Nat) (f : Slot → Slot) : (s.modSlot t k f).step = s.step := rfl
@[simp] theorem modSlot_enabled (s : State) (t k : Nat) (f : Slot → Slot) : (s.modSlot t k f).enabled = s.enabled := rfl
@[simp] theorem modSlot_attested (s : State) (t k : Nat) (f : Slot → Slot) : (s.modSlot t k f).attested = s.attested := rfl
@[simp] theorem modSlot_survey (s : State) (t k : Nat) (f : Slot → Slot) : (s.modSlot t k f).survey = s.survey := rfl
@[simp] theorem modSlot_dmap (s : State) (t k : Nat) (f : Slot → Slot) : (s.modSlot t k f).dmap = s.dmap := rfl
@[simp] theorem modSlot_fw (s : State) (t k : Nat) (f : Slot → Slot) : (s.modSlot t k f).fw = s.fw := rfl
@[simp] theorem modSlot_mode (s : State) (t k : Nat) (f : Slot → Slot) : (s.modSlot t k f).mode = s.mode := rfl
@[simp] theorem modSlot_oldMode (s : State) (t k : Nat) (f : Slot → Slot) : (s.modSlot t k f).oldMode = s.oldMode := rfl
@[simp] theorem modSlot_changing (s : State) (t k : Nat) (f : Slot → Slot) : (s.modSlot t k f).changing = s.changing := rfl
@[simp] theorem modSlot_bfeCap (s : State) (t k : Nat) (f : Slot → Slot) : (s.modSlot t k f).bfeCap = s.bfeCap := rfl
@[simp] theorem modSlot_dramCap (s : State) (t k : Nat) (f : Slot → Slot) : (s.modSlot t k f).dramCap = s.dramCap := rfl
@[simp] theorem modSlot_powerAt (s : State) (t k : Nat) (f : Slot → Slot) : (s.modSlot t k f).powerAt = s.powerAt := rfl
@[simp] theorem modSlot_pumpsOut (s : State) (t k : Nat) (f : Slot → Slot) : (s.modSlot t k f).pumpsOut = s.pumpsOut := rfl
@[simp] theorem modSlot_stagesOut (s : State) (t k : Nat) (f : Slot → Slot) : (s.modSlot t k f).stagesOut = s.stagesOut := rfl
@[simp] theorem modSlot_unrec (s : State) (t k : Nat) (f : Slot → Slot) : (s.modSlot t k f).unrec = s.unrec := rfl
@[simp] theorem modSlot_fencedCount (s : State) (t k : Nat) (f : Slot → Slot) : (s.modSlot t k f).fencedCount = s.fencedCount := rfl
@[simp] theorem modSlot_serial (s : State) (t k : Nat) (f : Slot → Slot) : (s.modSlot t k f).serial = s.serial := rfl
@[simp] theorem modSlot_flash (s : State) (t k : Nat) (f : Slot → Slot) : (s.modSlot t k f).flash = s.flash := rfl
@[simp] theorem modSlot_mapHalf (s : State) (t k : Nat) (f : Slot → Slot) : (s.modSlot t k f).mapHalf = s.mapHalf := rfl
@[simp] theorem modSlot_laterMap (s : State) (t k : Nat) (f : Slot → Slot) : (s.modSlot t k f).laterMap = s.laterMap := rfl
@[simp] theorem modSlot_laterToken (s : State) (t k : Nat) (f : Slot → Slot) : (s.modSlot t k f).laterToken = s.laterToken := rfl
@[simp] theorem modSlot_ports (s : State) (t k : Nat) (f : Slot → Slot) : (s.modSlot t k f).ports = s.ports := rfl
@[simp] theorem modSlot_myModule (s : State) (t k : Nat) (f : Slot → Slot) : (s.modSlot t k f).myModule = s.myModule := rfl
@[simp] theorem modSlot_stageMap (s : State) (t k : Nat) (f : Slot → Slot) : (s.modSlot t k f).stageMap = s.stageMap := rfl
@[simp] theorem modSlot_stageFw (s : State) (t k : Nat) (f : Slot → Slot) : (s.modSlot t k f).stageFw = s.stageFw := rfl
@[simp] theorem modSlot_lostPeers (s : State) (t k : Nat) (f : Slot → Slot) : (s.modSlot t k f).lostPeers = s.lostPeers := rfl
@[simp] theorem modSlot_freshExtents (s : State) (t k : Nat) (f : Slot → Slot) : (s.modSlot t k f).freshExtents = s.freshExtents := rfl
@[simp] theorem modSlot_fields (s : State) (t k : Nat) (f : Slot → Slot) : (s.modSlot t k f).fields = s.fields := rfl
@[simp] theorem modSlot_mem (s : State) (t k : Nat) (f : Slot → Slot) : (s.modSlot t k f).mem = s.mem := rfl
@[simp] theorem modSlot_net (s : State) (t k : Nat) (f : Slot → Slot) : (s.modSlot t k f).net = s.net := rfl
@[simp] theorem modSlot_ctxs (s : State) (t k : Nat) (f : Slot → Slot) : (s.modSlot t k f).ctxs = s.ctxs := rfl
@[simp] theorem modSlot_objects (s : State) (t k : Nat) (f : Slot → Slot) : (s.modSlot t k f).objects = s.objects := rfl
@[simp] theorem modSlot_homeMap (s : State) (t k : Nat) (f : Slot → Slot) : (s.modSlot t k f).homeMap = s.homeMap := rfl
@[simp] theorem modSlot_insts (s : State) (t k : Nat) (f : Slot → Slot) : (s.modSlot t k f).insts = s.insts := rfl
@[simp] theorem modSlot_nextKin (s : State) (t k : Nat) (f : Slot → Slot) : (s.modSlot t k f).nextKin = s.nextKin := rfl
@[simp] theorem modSlot_nextOrder (s : State) (t k : Nat) (f : Slot → Slot) : (s.modSlot t k f).nextOrder = s.nextOrder := rfl
@[simp] theorem modSlot_freeCounts (s : State) (t k : Nat) (f : Slot → Slot) : (s.modSlot t k f).freeCounts = s.freeCounts := rfl
@[simp] theorem modSlot_freeAt (s : State) (t k : Nat) (f : Slot → Slot) : (s.modSlot t k f).freeAt = s.freeAt := rfl
@[simp] theorem modSlot_falls (s : State) (t k : Nat) (f : Slot → Slot) : (s.modSlot t k f).falls = s.falls := rfl
@[simp] theorem modSlot_routers (s : State) (t k : Nat) (f : Slot → Slot) : (s.modSlot t k f).routers = s.routers := rfl
@[simp] theorem modSlot_hostOut (s : State) (t k : Nat) (f : Slot → Slot) : (s.modSlot t k f).hostOut = s.hostOut := rfl
@[simp] theorem modSlot_hostHeld (s : State) (t k : Nat) (f : Slot → Slot) : (s.modSlot t k f).hostHeld = s.hostHeld := rfl
@[simp] theorem modSlot_peerHeld (s : State) (t k : Nat) (f : Slot → Slot) : (s.modSlot t k f).peerHeld = s.peerHeld := rfl
@[simp] theorem modSlot_objDying (s : State) (t k : Nat) (f : Slot → Slot) : (s.modSlot t k f).objDying = s.objDying := rfl
@[simp] theorem modSlot_gridObj (s : State) (t k : Nat) (f : Slot → Slot) : (s.modSlot t k f).gridObj = s.gridObj := rfl
@[simp] theorem modSlot_gridCtx (s : State) (t k : Nat) (f : Slot → Slot) : (s.modSlot t k f).gridCtx = s.gridCtx := rfl
@[simp] theorem modSlot_gridUs (s : State) (t k : Nat) (f : Slot → Slot) : (s.modSlot t k f).gridUs = s.gridUs := rfl
@[simp] theorem modSlot_grids (s : State) (t k : Nat) (f : Slot → Slot) : (s.modSlot t k f).grids = s.grids := rfl
@[simp] theorem modSlot_sweep (s : State) (t k : Nat) (f : Slot → Slot) : (s.modSlot t k f).sweep = s.sweep := rfl
@[simp] theorem modSlot_lastAdvance (s : State) (t k : Nat) (f : Slot → Slot) : (s.modSlot t k f).lastAdvance = s.lastAdvance := rfl
@[simp] theorem modSlot_dusk (s : State) (t k : Nat) (f : Slot → Slot) : (s.modSlot t k f).dusk = s.dusk := rfl
@[simp] theorem modSlot_duskQueue (s : State) (t k : Nat) (f : Slot → Slot) : (s.modSlot t k f).duskQueue = s.duskQueue := rfl
@[simp] theorem modSlot_retires (s : State) (t k : Nat) (f : Slot → Slot) : (s.modSlot t k f).retires = s.retires := rfl
@[simp] theorem modSlot_held (s : State) (t k : Nat) (f : Slot → Slot) : (s.modSlot t k f).held = s.held := rfl
@[simp] theorem modSlot_dbgReqs (s : State) (t k : Nat) (f : Slot → Slot) : (s.modSlot t k f).dbgReqs = s.dbgReqs := rfl
@[simp] theorem modSlot_portAt (s : State) (t k : Nat) (f : Slot → Slot) : (s.modSlot t k f).portAt = s.portAt := rfl
@[simp] theorem modSlot_agenda (s : State) (t k : Nat) (f : Slot → Slot) : (s.modSlot t k f).agenda = s.agenda := rfl
@[simp] theorem modSlot_cur (s : State) (t k : Nat) (f : Slot → Slot) : (s.modSlot t k f).cur = s.cur := rfl
@[simp] theorem modSlot_fresh (s : State) (t k : Nat) (f : Slot → Slot) : (s.modSlot t k f).fresh = s.fresh := rfl
@[simp] theorem modTeam_now (s : State) (t p : Nat) (f : Team → Team) : (s.modTeam t p f).now = s.now := rfl
@[simp] theorem modTeam_wall9 (s : State) (t p : Nat) (f : Team → Team) : (s.modTeam t p f).wall9 = s.wall9 := rfl
@[simp] theorem modTeam_gen (s : State) (t p : Nat) (f : Team → Team) : (s.modTeam t p f).gen = s.gen := rfl
@[simp] theorem modTeam_rows (s : State) (t p : Nat) (f : Team → Team) : (s.modTeam t p f).rows = s.rows := rfl
@[simp] theorem modTeam_siteOf (s : State) (t p : Nat) (f : Team → Team) : (s.modTeam t p f).siteOf = s.siteOf := rfl
@[simp] theorem modTeam_bad (s : State) (t p : Nat) (f : Team → Team) : (s.modTeam t p f).bad = s.bad := rfl
@[simp] theorem modTeam_noClock (s : State) (t p : Nat) (f : Team → Team) : (s.modTeam t p f).noClock = s.noClock := rfl
@[simp] theorem modTeam_fencedSites (s : State) (t p : Nat) (f : Team → Team) : (s.modTeam t p f).fencedSites = s.fencedSites := rfl
@[simp] theorem modTeam_tabOut (s : State) (t p : Nat) (f : Team → Team) : (s.modTeam t p f).tabOut = s.tabOut := rfl
@[simp] theorem modTeam_parents (s : State) (t p : Nat) (f : Team → Team) : (s.modTeam t p f).parents = s.parents := rfl
@[simp] theorem modTeam_clockRoot (s : State) (t p : Nat) (f : Team → Team) : (s.modTeam t p f).clockRoot = s.clockRoot := rfl
@[simp] theorem modTeam_step (s : State) (t p : Nat) (f : Team → Team) : (s.modTeam t p f).step = s.step := rfl
@[simp] theorem modTeam_enabled (s : State) (t p : Nat) (f : Team → Team) : (s.modTeam t p f).enabled = s.enabled := rfl
@[simp] theorem modTeam_attested (s : State) (t p : Nat) (f : Team → Team) : (s.modTeam t p f).attested = s.attested := rfl
@[simp] theorem modTeam_survey (s : State) (t p : Nat) (f : Team → Team) : (s.modTeam t p f).survey = s.survey := rfl
@[simp] theorem modTeam_dmap (s : State) (t p : Nat) (f : Team → Team) : (s.modTeam t p f).dmap = s.dmap := rfl
@[simp] theorem modTeam_fw (s : State) (t p : Nat) (f : Team → Team) : (s.modTeam t p f).fw = s.fw := rfl
@[simp] theorem modTeam_mode (s : State) (t p : Nat) (f : Team → Team) : (s.modTeam t p f).mode = s.mode := rfl
@[simp] theorem modTeam_oldMode (s : State) (t p : Nat) (f : Team → Team) : (s.modTeam t p f).oldMode = s.oldMode := rfl
@[simp] theorem modTeam_changing (s : State) (t p : Nat) (f : Team → Team) : (s.modTeam t p f).changing = s.changing := rfl
@[simp] theorem modTeam_bfeCap (s : State) (t p : Nat) (f : Team → Team) : (s.modTeam t p f).bfeCap = s.bfeCap := rfl
@[simp] theorem modTeam_dramCap (s : State) (t p : Nat) (f : Team → Team) : (s.modTeam t p f).dramCap = s.dramCap := rfl
@[simp] theorem modTeam_powerAt (s : State) (t p : Nat) (f : Team → Team) : (s.modTeam t p f).powerAt = s.powerAt := rfl
@[simp] theorem modTeam_pumpsOut (s : State) (t p : Nat) (f : Team → Team) : (s.modTeam t p f).pumpsOut = s.pumpsOut := rfl
@[simp] theorem modTeam_stagesOut (s : State) (t p : Nat) (f : Team → Team) : (s.modTeam t p f).stagesOut = s.stagesOut := rfl
@[simp] theorem modTeam_unrec (s : State) (t p : Nat) (f : Team → Team) : (s.modTeam t p f).unrec = s.unrec := rfl
@[simp] theorem modTeam_fencedCount (s : State) (t p : Nat) (f : Team → Team) : (s.modTeam t p f).fencedCount = s.fencedCount := rfl
@[simp] theorem modTeam_serial (s : State) (t p : Nat) (f : Team → Team) : (s.modTeam t p f).serial = s.serial := rfl
@[simp] theorem modTeam_flash (s : State) (t p : Nat) (f : Team → Team) : (s.modTeam t p f).flash = s.flash := rfl
@[simp] theorem modTeam_mapHalf (s : State) (t p : Nat) (f : Team → Team) : (s.modTeam t p f).mapHalf = s.mapHalf := rfl
@[simp] theorem modTeam_laterMap (s : State) (t p : Nat) (f : Team → Team) : (s.modTeam t p f).laterMap = s.laterMap := rfl
@[simp] theorem modTeam_laterToken (s : State) (t p : Nat) (f : Team → Team) : (s.modTeam t p f).laterToken = s.laterToken := rfl
@[simp] theorem modTeam_ports (s : State) (t p : Nat) (f : Team → Team) : (s.modTeam t p f).ports = s.ports := rfl
@[simp] theorem modTeam_myModule (s : State) (t p : Nat) (f : Team → Team) : (s.modTeam t p f).myModule = s.myModule := rfl
@[simp] theorem modTeam_stageMap (s : State) (t p : Nat) (f : Team → Team) : (s.modTeam t p f).stageMap = s.stageMap := rfl
@[simp] theorem modTeam_stageFw (s : State) (t p : Nat) (f : Team → Team) : (s.modTeam t p f).stageFw = s.stageFw := rfl
@[simp] theorem modTeam_lostPeers (s : State) (t p : Nat) (f : Team → Team) : (s.modTeam t p f).lostPeers = s.lostPeers := rfl
@[simp] theorem modTeam_freshExtents (s : State) (t p : Nat) (f : Team → Team) : (s.modTeam t p f).freshExtents = s.freshExtents := rfl
@[simp] theorem modTeam_fields (s : State) (t p : Nat) (f : Team → Team) : (s.modTeam t p f).fields = s.fields := rfl
@[simp] theorem modTeam_mem (s : State) (t p : Nat) (f : Team → Team) : (s.modTeam t p f).mem = s.mem := rfl
@[simp] theorem modTeam_net (s : State) (t p : Nat) (f : Team → Team) : (s.modTeam t p f).net = s.net := rfl
@[simp] theorem modTeam_ctxs (s : State) (t p : Nat) (f : Team → Team) : (s.modTeam t p f).ctxs = s.ctxs := rfl
@[simp] theorem modTeam_objects (s : State) (t p : Nat) (f : Team → Team) : (s.modTeam t p f).objects = s.objects := rfl
@[simp] theorem modTeam_homeMap (s : State) (t p : Nat) (f : Team → Team) : (s.modTeam t p f).homeMap = s.homeMap := rfl
@[simp] theorem modTeam_insts (s : State) (t p : Nat) (f : Team → Team) : (s.modTeam t p f).insts = s.insts := rfl
@[simp] theorem modTeam_nextKin (s : State) (t p : Nat) (f : Team → Team) : (s.modTeam t p f).nextKin = s.nextKin := rfl
@[simp] theorem modTeam_nextOrder (s : State) (t p : Nat) (f : Team → Team) : (s.modTeam t p f).nextOrder = s.nextOrder := rfl
@[simp] theorem modTeam_freeCounts (s : State) (t p : Nat) (f : Team → Team) : (s.modTeam t p f).freeCounts = s.freeCounts := rfl
@[simp] theorem modTeam_freeAt (s : State) (t p : Nat) (f : Team → Team) : (s.modTeam t p f).freeAt = s.freeAt := rfl
@[simp] theorem modTeam_falls (s : State) (t p : Nat) (f : Team → Team) : (s.modTeam t p f).falls = s.falls := rfl
@[simp] theorem modTeam_routers (s : State) (t p : Nat) (f : Team → Team) : (s.modTeam t p f).routers = s.routers := rfl
@[simp] theorem modTeam_hostOut (s : State) (t p : Nat) (f : Team → Team) : (s.modTeam t p f).hostOut = s.hostOut := rfl
@[simp] theorem modTeam_hostHeld (s : State) (t p : Nat) (f : Team → Team) : (s.modTeam t p f).hostHeld = s.hostHeld := rfl
@[simp] theorem modTeam_peerHeld (s : State) (t p : Nat) (f : Team → Team) : (s.modTeam t p f).peerHeld = s.peerHeld := rfl
@[simp] theorem modTeam_objDying (s : State) (t p : Nat) (f : Team → Team) : (s.modTeam t p f).objDying = s.objDying := rfl
@[simp] theorem modTeam_gridObj (s : State) (t p : Nat) (f : Team → Team) : (s.modTeam t p f).gridObj = s.gridObj := rfl
@[simp] theorem modTeam_gridCtx (s : State) (t p : Nat) (f : Team → Team) : (s.modTeam t p f).gridCtx = s.gridCtx := rfl
@[simp] theorem modTeam_gridUs (s : State) (t p : Nat) (f : Team → Team) : (s.modTeam t p f).gridUs = s.gridUs := rfl
@[simp] theorem modTeam_grids (s : State) (t p : Nat) (f : Team → Team) : (s.modTeam t p f).grids = s.grids := rfl
@[simp] theorem modTeam_sweep (s : State) (t p : Nat) (f : Team → Team) : (s.modTeam t p f).sweep = s.sweep := rfl
@[simp] theorem modTeam_lastAdvance (s : State) (t p : Nat) (f : Team → Team) : (s.modTeam t p f).lastAdvance = s.lastAdvance := rfl
@[simp] theorem modTeam_dusk (s : State) (t p : Nat) (f : Team → Team) : (s.modTeam t p f).dusk = s.dusk := rfl
@[simp] theorem modTeam_duskQueue (s : State) (t p : Nat) (f : Team → Team) : (s.modTeam t p f).duskQueue = s.duskQueue := rfl
@[simp] theorem modTeam_retires (s : State) (t p : Nat) (f : Team → Team) : (s.modTeam t p f).retires = s.retires := rfl
@[simp] theorem modTeam_held (s : State) (t p : Nat) (f : Team → Team) : (s.modTeam t p f).held = s.held := rfl
@[simp] theorem modTeam_dbgReqs (s : State) (t p : Nat) (f : Team → Team) : (s.modTeam t p f).dbgReqs = s.dbgReqs := rfl
@[simp] theorem modTeam_portAt (s : State) (t p : Nat) (f : Team → Team) : (s.modTeam t p f).portAt = s.portAt := rfl
@[simp] theorem modTeam_agenda (s : State) (t p : Nat) (f : Team → Team) : (s.modTeam t p f).agenda = s.agenda := rfl
@[simp] theorem modTeam_cur (s : State) (t p : Nat) (f : Team → Team) : (s.modTeam t p f).cur = s.cur := rfl
@[simp] theorem modTeam_fresh (s : State) (t p : Nat) (f : Team → Team) : (s.modTeam t p f).fresh = s.fresh := rfl
@[simp] theorem modCur_now (s : State) (f : Slot → Slot) : (s.modCur f).now = s.now := rfl
@[simp] theorem modCur_wall9 (s : State) (f : Slot → Slot) : (s.modCur f).wall9 = s.wall9 := rfl
@[simp] theorem modCur_gen (s : State) (f : Slot → Slot) : (s.modCur f).gen = s.gen := rfl
@[simp] theorem modCur_rows (s : State) (f : Slot → Slot) : (s.modCur f).rows = s.rows := rfl
@[simp] theorem modCur_siteOf (s : State) (f : Slot → Slot) : (s.modCur f).siteOf = s.siteOf := rfl
@[simp] theorem modCur_bad (s : State) (f : Slot → Slot) : (s.modCur f).bad = s.bad := rfl
@[simp] theorem modCur_noClock (s : State) (f : Slot → Slot) : (s.modCur f).noClock = s.noClock := rfl
@[simp] theorem modCur_fencedSites (s : State) (f : Slot → Slot) : (s.modCur f).fencedSites = s.fencedSites := rfl
@[simp] theorem modCur_tabOut (s : State) (f : Slot → Slot) : (s.modCur f).tabOut = s.tabOut := rfl
@[simp] theorem modCur_parents (s : State) (f : Slot → Slot) : (s.modCur f).parents = s.parents := rfl
@[simp] theorem modCur_clockRoot (s : State) (f : Slot → Slot) : (s.modCur f).clockRoot = s.clockRoot := rfl
@[simp] theorem modCur_step (s : State) (f : Slot → Slot) : (s.modCur f).step = s.step := rfl
@[simp] theorem modCur_enabled (s : State) (f : Slot → Slot) : (s.modCur f).enabled = s.enabled := rfl
@[simp] theorem modCur_attested (s : State) (f : Slot → Slot) : (s.modCur f).attested = s.attested := rfl
@[simp] theorem modCur_survey (s : State) (f : Slot → Slot) : (s.modCur f).survey = s.survey := rfl
@[simp] theorem modCur_dmap (s : State) (f : Slot → Slot) : (s.modCur f).dmap = s.dmap := rfl
@[simp] theorem modCur_fw (s : State) (f : Slot → Slot) : (s.modCur f).fw = s.fw := rfl
@[simp] theorem modCur_mode (s : State) (f : Slot → Slot) : (s.modCur f).mode = s.mode := rfl
@[simp] theorem modCur_oldMode (s : State) (f : Slot → Slot) : (s.modCur f).oldMode = s.oldMode := rfl
@[simp] theorem modCur_changing (s : State) (f : Slot → Slot) : (s.modCur f).changing = s.changing := rfl
@[simp] theorem modCur_bfeCap (s : State) (f : Slot → Slot) : (s.modCur f).bfeCap = s.bfeCap := rfl
@[simp] theorem modCur_dramCap (s : State) (f : Slot → Slot) : (s.modCur f).dramCap = s.dramCap := rfl
@[simp] theorem modCur_powerAt (s : State) (f : Slot → Slot) : (s.modCur f).powerAt = s.powerAt := rfl
@[simp] theorem modCur_pumpsOut (s : State) (f : Slot → Slot) : (s.modCur f).pumpsOut = s.pumpsOut := rfl
@[simp] theorem modCur_stagesOut (s : State) (f : Slot → Slot) : (s.modCur f).stagesOut = s.stagesOut := rfl
@[simp] theorem modCur_unrec (s : State) (f : Slot → Slot) : (s.modCur f).unrec = s.unrec := rfl
@[simp] theorem modCur_fencedCount (s : State) (f : Slot → Slot) : (s.modCur f).fencedCount = s.fencedCount := rfl
@[simp] theorem modCur_serial (s : State) (f : Slot → Slot) : (s.modCur f).serial = s.serial := rfl
@[simp] theorem modCur_flash (s : State) (f : Slot → Slot) : (s.modCur f).flash = s.flash := rfl
@[simp] theorem modCur_mapHalf (s : State) (f : Slot → Slot) : (s.modCur f).mapHalf = s.mapHalf := rfl
@[simp] theorem modCur_laterMap (s : State) (f : Slot → Slot) : (s.modCur f).laterMap = s.laterMap := rfl
@[simp] theorem modCur_laterToken (s : State) (f : Slot → Slot) : (s.modCur f).laterToken = s.laterToken := rfl
@[simp] theorem modCur_ports (s : State) (f : Slot → Slot) : (s.modCur f).ports = s.ports := rfl
@[simp] theorem modCur_myModule (s : State) (f : Slot → Slot) : (s.modCur f).myModule = s.myModule := rfl
@[simp] theorem modCur_stageMap (s : State) (f : Slot → Slot) : (s.modCur f).stageMap = s.stageMap := rfl
@[simp] theorem modCur_stageFw (s : State) (f : Slot → Slot) : (s.modCur f).stageFw = s.stageFw := rfl
@[simp] theorem modCur_lostPeers (s : State) (f : Slot → Slot) : (s.modCur f).lostPeers = s.lostPeers := rfl
@[simp] theorem modCur_freshExtents (s : State) (f : Slot → Slot) : (s.modCur f).freshExtents = s.freshExtents := rfl
@[simp] theorem modCur_fields (s : State) (f : Slot → Slot) : (s.modCur f).fields = s.fields := rfl
@[simp] theorem modCur_mem (s : State) (f : Slot → Slot) : (s.modCur f).mem = s.mem := rfl
@[simp] theorem modCur_net (s : State) (f : Slot → Slot) : (s.modCur f).net = s.net := rfl
@[simp] theorem modCur_ctxs (s : State) (f : Slot → Slot) : (s.modCur f).ctxs = s.ctxs := rfl
@[simp] theorem modCur_objects (s : State) (f : Slot → Slot) : (s.modCur f).objects = s.objects := rfl
@[simp] theorem modCur_homeMap (s : State) (f : Slot → Slot) : (s.modCur f).homeMap = s.homeMap := rfl
@[simp] theorem modCur_insts (s : State) (f : Slot → Slot) : (s.modCur f).insts = s.insts := rfl
@[simp] theorem modCur_nextKin (s : State) (f : Slot → Slot) : (s.modCur f).nextKin = s.nextKin := rfl
@[simp] theorem modCur_nextOrder (s : State) (f : Slot → Slot) : (s.modCur f).nextOrder = s.nextOrder := rfl
@[simp] theorem modCur_freeCounts (s : State) (f : Slot → Slot) : (s.modCur f).freeCounts = s.freeCounts := rfl
@[simp] theorem modCur_freeAt (s : State) (f : Slot → Slot) : (s.modCur f).freeAt = s.freeAt := rfl
@[simp] theorem modCur_falls (s : State) (f : Slot → Slot) : (s.modCur f).falls = s.falls := rfl
@[simp] theorem modCur_routers (s : State) (f : Slot → Slot) : (s.modCur f).routers = s.routers := rfl
@[simp] theorem modCur_hostOut (s : State) (f : Slot → Slot) : (s.modCur f).hostOut = s.hostOut := rfl
@[simp] theorem modCur_hostHeld (s : State) (f : Slot → Slot) : (s.modCur f).hostHeld = s.hostHeld := rfl
@[simp] theorem modCur_peerHeld (s : State) (f : Slot → Slot) : (s.modCur f).peerHeld = s.peerHeld := rfl
@[simp] theorem modCur_objDying (s : State) (f : Slot → Slot) : (s.modCur f).objDying = s.objDying := rfl
@[simp] theorem modCur_gridObj (s : State) (f : Slot → Slot) : (s.modCur f).gridObj = s.gridObj := rfl
@[simp] theorem modCur_gridCtx (s : State) (f : Slot → Slot) : (s.modCur f).gridCtx = s.gridCtx := rfl
@[simp] theorem modCur_gridUs (s : State) (f : Slot → Slot) : (s.modCur f).gridUs = s.gridUs := rfl
@[simp] theorem modCur_grids (s : State) (f : Slot → Slot) : (s.modCur f).grids = s.grids := rfl
@[simp] theorem modCur_sweep (s : State) (f : Slot → Slot) : (s.modCur f).sweep = s.sweep := rfl
@[simp] theorem modCur_lastAdvance (s : State) (f : Slot → Slot) : (s.modCur f).lastAdvance = s.lastAdvance := rfl
@[simp] theorem modCur_dusk (s : State) (f : Slot → Slot) : (s.modCur f).dusk = s.dusk := rfl
@[simp] theorem modCur_duskQueue (s : State) (f : Slot → Slot) : (s.modCur f).duskQueue = s.duskQueue := rfl
@[simp] theorem modCur_retires (s : State) (f : Slot → Slot) : (s.modCur f).retires = s.retires := rfl
@[simp] theorem modCur_held (s : State) (f : Slot → Slot) : (s.modCur f).held = s.held := rfl
@[simp] theorem modCur_dbgReqs (s : State) (f : Slot → Slot) : (s.modCur f).dbgReqs = s.dbgReqs := rfl
@[simp] theorem modCur_portAt (s : State) (f : Slot → Slot) : (s.modCur f).portAt = s.portAt := rfl
@[simp] theorem modCur_agenda (s : State) (f : Slot → Slot) : (s.modCur f).agenda = s.agenda := rfl
@[simp] theorem modCur_cur (s : State) (f : Slot → Slot) : (s.modCur f).cur = s.cur := rfl
@[simp] theorem modCur_fresh (s : State) (f : Slot → Slot) : (s.modCur f).fresh = s.fresh := rfl
@[simp] theorem modMem_now (s : State) (f : Mem → Mem) : (s.modMem f).now = s.now := rfl
@[simp] theorem modMem_wall9 (s : State) (f : Mem → Mem) : (s.modMem f).wall9 = s.wall9 := rfl
@[simp] theorem modMem_gen (s : State) (f : Mem → Mem) : (s.modMem f).gen = s.gen := rfl
@[simp] theorem modMem_rows (s : State) (f : Mem → Mem) : (s.modMem f).rows = s.rows := rfl
@[simp] theorem modMem_siteOf (s : State) (f : Mem → Mem) : (s.modMem f).siteOf = s.siteOf := rfl
@[simp] theorem modMem_bad (s : State) (f : Mem → Mem) : (s.modMem f).bad = s.bad := rfl
@[simp] theorem modMem_noClock (s : State) (f : Mem → Mem) : (s.modMem f).noClock = s.noClock := rfl
@[simp] theorem modMem_fencedSites (s : State) (f : Mem → Mem) : (s.modMem f).fencedSites = s.fencedSites := rfl
@[simp] theorem modMem_tabOut (s : State) (f : Mem → Mem) : (s.modMem f).tabOut = s.tabOut := rfl
@[simp] theorem modMem_parents (s : State) (f : Mem → Mem) : (s.modMem f).parents = s.parents := rfl
@[simp] theorem modMem_clockRoot (s : State) (f : Mem → Mem) : (s.modMem f).clockRoot = s.clockRoot := rfl
@[simp] theorem modMem_step (s : State) (f : Mem → Mem) : (s.modMem f).step = s.step := rfl
@[simp] theorem modMem_enabled (s : State) (f : Mem → Mem) : (s.modMem f).enabled = s.enabled := rfl
@[simp] theorem modMem_attested (s : State) (f : Mem → Mem) : (s.modMem f).attested = s.attested := rfl
@[simp] theorem modMem_survey (s : State) (f : Mem → Mem) : (s.modMem f).survey = s.survey := rfl
@[simp] theorem modMem_dmap (s : State) (f : Mem → Mem) : (s.modMem f).dmap = s.dmap := rfl
@[simp] theorem modMem_fw (s : State) (f : Mem → Mem) : (s.modMem f).fw = s.fw := rfl
@[simp] theorem modMem_mode (s : State) (f : Mem → Mem) : (s.modMem f).mode = s.mode := rfl
@[simp] theorem modMem_oldMode (s : State) (f : Mem → Mem) : (s.modMem f).oldMode = s.oldMode := rfl
@[simp] theorem modMem_changing (s : State) (f : Mem → Mem) : (s.modMem f).changing = s.changing := rfl
@[simp] theorem modMem_bfeCap (s : State) (f : Mem → Mem) : (s.modMem f).bfeCap = s.bfeCap := rfl
@[simp] theorem modMem_dramCap (s : State) (f : Mem → Mem) : (s.modMem f).dramCap = s.dramCap := rfl
@[simp] theorem modMem_powerAt (s : State) (f : Mem → Mem) : (s.modMem f).powerAt = s.powerAt := rfl
@[simp] theorem modMem_pumpsOut (s : State) (f : Mem → Mem) : (s.modMem f).pumpsOut = s.pumpsOut := rfl
@[simp] theorem modMem_stagesOut (s : State) (f : Mem → Mem) : (s.modMem f).stagesOut = s.stagesOut := rfl
@[simp] theorem modMem_unrec (s : State) (f : Mem → Mem) : (s.modMem f).unrec = s.unrec := rfl
@[simp] theorem modMem_fencedCount (s : State) (f : Mem → Mem) : (s.modMem f).fencedCount = s.fencedCount := rfl
@[simp] theorem modMem_serial (s : State) (f : Mem → Mem) : (s.modMem f).serial = s.serial := rfl
@[simp] theorem modMem_flash (s : State) (f : Mem → Mem) : (s.modMem f).flash = s.flash := rfl
@[simp] theorem modMem_mapHalf (s : State) (f : Mem → Mem) : (s.modMem f).mapHalf = s.mapHalf := rfl
@[simp] theorem modMem_laterMap (s : State) (f : Mem → Mem) : (s.modMem f).laterMap = s.laterMap := rfl
@[simp] theorem modMem_laterToken (s : State) (f : Mem → Mem) : (s.modMem f).laterToken = s.laterToken := rfl
@[simp] theorem modMem_ports (s : State) (f : Mem → Mem) : (s.modMem f).ports = s.ports := rfl
@[simp] theorem modMem_myModule (s : State) (f : Mem → Mem) : (s.modMem f).myModule = s.myModule := rfl
@[simp] theorem modMem_stageMap (s : State) (f : Mem → Mem) : (s.modMem f).stageMap = s.stageMap := rfl
@[simp] theorem modMem_stageFw (s : State) (f : Mem → Mem) : (s.modMem f).stageFw = s.stageFw := rfl
@[simp] theorem modMem_lostPeers (s : State) (f : Mem → Mem) : (s.modMem f).lostPeers = s.lostPeers := rfl
@[simp] theorem modMem_tiles (s : State) (f : Mem → Mem) : (s.modMem f).tiles = s.tiles := rfl
@[simp] theorem modMem_freshExtents (s : State) (f : Mem → Mem) : (s.modMem f).freshExtents = s.freshExtents := rfl
@[simp] theorem modMem_fields (s : State) (f : Mem → Mem) : (s.modMem f).fields = s.fields := rfl
@[simp] theorem modMem_net (s : State) (f : Mem → Mem) : (s.modMem f).net = s.net := rfl
@[simp] theorem modMem_ctxs (s : State) (f : Mem → Mem) : (s.modMem f).ctxs = s.ctxs := rfl
@[simp] theorem modMem_objects (s : State) (f : Mem → Mem) : (s.modMem f).objects = s.objects := rfl
@[simp] theorem modMem_homeMap (s : State) (f : Mem → Mem) : (s.modMem f).homeMap = s.homeMap := rfl
@[simp] theorem modMem_insts (s : State) (f : Mem → Mem) : (s.modMem f).insts = s.insts := rfl
@[simp] theorem modMem_nextKin (s : State) (f : Mem → Mem) : (s.modMem f).nextKin = s.nextKin := rfl
@[simp] theorem modMem_nextOrder (s : State) (f : Mem → Mem) : (s.modMem f).nextOrder = s.nextOrder := rfl
@[simp] theorem modMem_freeCounts (s : State) (f : Mem → Mem) : (s.modMem f).freeCounts = s.freeCounts := rfl
@[simp] theorem modMem_freeAt (s : State) (f : Mem → Mem) : (s.modMem f).freeAt = s.freeAt := rfl
@[simp] theorem modMem_falls (s : State) (f : Mem → Mem) : (s.modMem f).falls = s.falls := rfl
@[simp] theorem modMem_routers (s : State) (f : Mem → Mem) : (s.modMem f).routers = s.routers := rfl
@[simp] theorem modMem_hostOut (s : State) (f : Mem → Mem) : (s.modMem f).hostOut = s.hostOut := rfl
@[simp] theorem modMem_hostHeld (s : State) (f : Mem → Mem) : (s.modMem f).hostHeld = s.hostHeld := rfl
@[simp] theorem modMem_peerHeld (s : State) (f : Mem → Mem) : (s.modMem f).peerHeld = s.peerHeld := rfl
@[simp] theorem modMem_objDying (s : State) (f : Mem → Mem) : (s.modMem f).objDying = s.objDying := rfl
@[simp] theorem modMem_gridObj (s : State) (f : Mem → Mem) : (s.modMem f).gridObj = s.gridObj := rfl
@[simp] theorem modMem_gridCtx (s : State) (f : Mem → Mem) : (s.modMem f).gridCtx = s.gridCtx := rfl
@[simp] theorem modMem_gridUs (s : State) (f : Mem → Mem) : (s.modMem f).gridUs = s.gridUs := rfl
@[simp] theorem modMem_grids (s : State) (f : Mem → Mem) : (s.modMem f).grids = s.grids := rfl
@[simp] theorem modMem_sweep (s : State) (f : Mem → Mem) : (s.modMem f).sweep = s.sweep := rfl
@[simp] theorem modMem_lastAdvance (s : State) (f : Mem → Mem) : (s.modMem f).lastAdvance = s.lastAdvance := rfl
@[simp] theorem modMem_dusk (s : State) (f : Mem → Mem) : (s.modMem f).dusk = s.dusk := rfl
@[simp] theorem modMem_duskQueue (s : State) (f : Mem → Mem) : (s.modMem f).duskQueue = s.duskQueue := rfl
@[simp] theorem modMem_retires (s : State) (f : Mem → Mem) : (s.modMem f).retires = s.retires := rfl
@[simp] theorem modMem_held (s : State) (f : Mem → Mem) : (s.modMem f).held = s.held := rfl
@[simp] theorem modMem_dbgReqs (s : State) (f : Mem → Mem) : (s.modMem f).dbgReqs = s.dbgReqs := rfl
@[simp] theorem modMem_portAt (s : State) (f : Mem → Mem) : (s.modMem f).portAt = s.portAt := rfl
@[simp] theorem modMem_agenda (s : State) (f : Mem → Mem) : (s.modMem f).agenda = s.agenda := rfl
@[simp] theorem modMem_cur (s : State) (f : Mem → Mem) : (s.modMem f).cur = s.cur := rfl
@[simp] theorem modMem_fresh (s : State) (f : Mem → Mem) : (s.modMem f).fresh = s.fresh := rfl
@[simp] theorem modField_now (s : State) (k : Nat) (g : Field → Field) : (s.modField k g).now = s.now := rfl
@[simp] theorem modField_wall9 (s : State) (k : Nat) (g : Field → Field) : (s.modField k g).wall9 = s.wall9 := rfl
@[simp] theorem modField_gen (s : State) (k : Nat) (g : Field → Field) : (s.modField k g).gen = s.gen := rfl
@[simp] theorem modField_rows (s : State) (k : Nat) (g : Field → Field) : (s.modField k g).rows = s.rows := rfl
@[simp] theorem modField_siteOf (s : State) (k : Nat) (g : Field → Field) : (s.modField k g).siteOf = s.siteOf := rfl
@[simp] theorem modField_bad (s : State) (k : Nat) (g : Field → Field) : (s.modField k g).bad = s.bad := rfl
@[simp] theorem modField_noClock (s : State) (k : Nat) (g : Field → Field) : (s.modField k g).noClock = s.noClock := rfl
@[simp] theorem modField_fencedSites (s : State) (k : Nat) (g : Field → Field) : (s.modField k g).fencedSites = s.fencedSites := rfl
@[simp] theorem modField_tabOut (s : State) (k : Nat) (g : Field → Field) : (s.modField k g).tabOut = s.tabOut := rfl
@[simp] theorem modField_parents (s : State) (k : Nat) (g : Field → Field) : (s.modField k g).parents = s.parents := rfl
@[simp] theorem modField_clockRoot (s : State) (k : Nat) (g : Field → Field) : (s.modField k g).clockRoot = s.clockRoot := rfl
@[simp] theorem modField_step (s : State) (k : Nat) (g : Field → Field) : (s.modField k g).step = s.step := rfl
@[simp] theorem modField_enabled (s : State) (k : Nat) (g : Field → Field) : (s.modField k g).enabled = s.enabled := rfl
@[simp] theorem modField_attested (s : State) (k : Nat) (g : Field → Field) : (s.modField k g).attested = s.attested := rfl
@[simp] theorem modField_survey (s : State) (k : Nat) (g : Field → Field) : (s.modField k g).survey = s.survey := rfl
@[simp] theorem modField_dmap (s : State) (k : Nat) (g : Field → Field) : (s.modField k g).dmap = s.dmap := rfl
@[simp] theorem modField_fw (s : State) (k : Nat) (g : Field → Field) : (s.modField k g).fw = s.fw := rfl
@[simp] theorem modField_mode (s : State) (k : Nat) (g : Field → Field) : (s.modField k g).mode = s.mode := rfl
@[simp] theorem modField_oldMode (s : State) (k : Nat) (g : Field → Field) : (s.modField k g).oldMode = s.oldMode := rfl
@[simp] theorem modField_changing (s : State) (k : Nat) (g : Field → Field) : (s.modField k g).changing = s.changing := rfl
@[simp] theorem modField_bfeCap (s : State) (k : Nat) (g : Field → Field) : (s.modField k g).bfeCap = s.bfeCap := rfl
@[simp] theorem modField_dramCap (s : State) (k : Nat) (g : Field → Field) : (s.modField k g).dramCap = s.dramCap := rfl
@[simp] theorem modField_powerAt (s : State) (k : Nat) (g : Field → Field) : (s.modField k g).powerAt = s.powerAt := rfl
@[simp] theorem modField_pumpsOut (s : State) (k : Nat) (g : Field → Field) : (s.modField k g).pumpsOut = s.pumpsOut := rfl
@[simp] theorem modField_stagesOut (s : State) (k : Nat) (g : Field → Field) : (s.modField k g).stagesOut = s.stagesOut := rfl
@[simp] theorem modField_unrec (s : State) (k : Nat) (g : Field → Field) : (s.modField k g).unrec = s.unrec := rfl
@[simp] theorem modField_fencedCount (s : State) (k : Nat) (g : Field → Field) : (s.modField k g).fencedCount = s.fencedCount := rfl
@[simp] theorem modField_serial (s : State) (k : Nat) (g : Field → Field) : (s.modField k g).serial = s.serial := rfl
@[simp] theorem modField_flash (s : State) (k : Nat) (g : Field → Field) : (s.modField k g).flash = s.flash := rfl
@[simp] theorem modField_mapHalf (s : State) (k : Nat) (g : Field → Field) : (s.modField k g).mapHalf = s.mapHalf := rfl
@[simp] theorem modField_laterMap (s : State) (k : Nat) (g : Field → Field) : (s.modField k g).laterMap = s.laterMap := rfl
@[simp] theorem modField_laterToken (s : State) (k : Nat) (g : Field → Field) : (s.modField k g).laterToken = s.laterToken := rfl
@[simp] theorem modField_ports (s : State) (k : Nat) (g : Field → Field) : (s.modField k g).ports = s.ports := rfl
@[simp] theorem modField_myModule (s : State) (k : Nat) (g : Field → Field) : (s.modField k g).myModule = s.myModule := rfl
@[simp] theorem modField_stageMap (s : State) (k : Nat) (g : Field → Field) : (s.modField k g).stageMap = s.stageMap := rfl
@[simp] theorem modField_stageFw (s : State) (k : Nat) (g : Field → Field) : (s.modField k g).stageFw = s.stageFw := rfl
@[simp] theorem modField_lostPeers (s : State) (k : Nat) (g : Field → Field) : (s.modField k g).lostPeers = s.lostPeers := rfl
@[simp] theorem modField_tiles (s : State) (k : Nat) (g : Field → Field) : (s.modField k g).tiles = s.tiles := rfl
@[simp] theorem modField_freshExtents (s : State) (k : Nat) (g : Field → Field) : (s.modField k g).freshExtents = s.freshExtents := rfl
@[simp] theorem modField_mem (s : State) (k : Nat) (g : Field → Field) : (s.modField k g).mem = s.mem := rfl
@[simp] theorem modField_net (s : State) (k : Nat) (g : Field → Field) : (s.modField k g).net = s.net := rfl
@[simp] theorem modField_ctxs (s : State) (k : Nat) (g : Field → Field) : (s.modField k g).ctxs = s.ctxs := rfl
@[simp] theorem modField_objects (s : State) (k : Nat) (g : Field → Field) : (s.modField k g).objects = s.objects := rfl
@[simp] theorem modField_homeMap (s : State) (k : Nat) (g : Field → Field) : (s.modField k g).homeMap = s.homeMap := rfl
@[simp] theorem modField_insts (s : State) (k : Nat) (g : Field → Field) : (s.modField k g).insts = s.insts := rfl
@[simp] theorem modField_nextKin (s : State) (k : Nat) (g : Field → Field) : (s.modField k g).nextKin = s.nextKin := rfl
@[simp] theorem modField_nextOrder (s : State) (k : Nat) (g : Field → Field) : (s.modField k g).nextOrder = s.nextOrder := rfl
@[simp] theorem modField_freeCounts (s : State) (k : Nat) (g : Field → Field) : (s.modField k g).freeCounts = s.freeCounts := rfl
@[simp] theorem modField_freeAt (s : State) (k : Nat) (g : Field → Field) : (s.modField k g).freeAt = s.freeAt := rfl
@[simp] theorem modField_falls (s : State) (k : Nat) (g : Field → Field) : (s.modField k g).falls = s.falls := rfl
@[simp] theorem modField_routers (s : State) (k : Nat) (g : Field → Field) : (s.modField k g).routers = s.routers := rfl
@[simp] theorem modField_hostOut (s : State) (k : Nat) (g : Field → Field) : (s.modField k g).hostOut = s.hostOut := rfl
@[simp] theorem modField_hostHeld (s : State) (k : Nat) (g : Field → Field) : (s.modField k g).hostHeld = s.hostHeld := rfl
@[simp] theorem modField_peerHeld (s : State) (k : Nat) (g : Field → Field) : (s.modField k g).peerHeld = s.peerHeld := rfl
@[simp] theorem modField_objDying (s : State) (k : Nat) (g : Field → Field) : (s.modField k g).objDying = s.objDying := rfl
@[simp] theorem modField_gridObj (s : State) (k : Nat) (g : Field → Field) : (s.modField k g).gridObj = s.gridObj := rfl
@[simp] theorem modField_gridCtx (s : State) (k : Nat) (g : Field → Field) : (s.modField k g).gridCtx = s.gridCtx := rfl
@[simp] theorem modField_gridUs (s : State) (k : Nat) (g : Field → Field) : (s.modField k g).gridUs = s.gridUs := rfl
@[simp] theorem modField_grids (s : State) (k : Nat) (g : Field → Field) : (s.modField k g).grids = s.grids := rfl
@[simp] theorem modField_sweep (s : State) (k : Nat) (g : Field → Field) : (s.modField k g).sweep = s.sweep := rfl
@[simp] theorem modField_lastAdvance (s : State) (k : Nat) (g : Field → Field) : (s.modField k g).lastAdvance = s.lastAdvance := rfl
@[simp] theorem modField_dusk (s : State) (k : Nat) (g : Field → Field) : (s.modField k g).dusk = s.dusk := rfl
@[simp] theorem modField_duskQueue (s : State) (k : Nat) (g : Field → Field) : (s.modField k g).duskQueue = s.duskQueue := rfl
@[simp] theorem modField_retires (s : State) (k : Nat) (g : Field → Field) : (s.modField k g).retires = s.retires := rfl
@[simp] theorem modField_held (s : State) (k : Nat) (g : Field → Field) : (s.modField k g).held = s.held := rfl
@[simp] theorem modField_dbgReqs (s : State) (k : Nat) (g : Field → Field) : (s.modField k g).dbgReqs = s.dbgReqs := rfl
@[simp] theorem modField_portAt (s : State) (k : Nat) (g : Field → Field) : (s.modField k g).portAt = s.portAt := rfl
@[simp] theorem modField_agenda (s : State) (k : Nat) (g : Field → Field) : (s.modField k g).agenda = s.agenda := rfl
@[simp] theorem modField_cur (s : State) (k : Nat) (g : Field → Field) : (s.modField k g).cur = s.cur := rfl
@[simp] theorem modField_fresh (s : State) (k : Nat) (g : Field → Field) : (s.modField k g).fresh = s.fresh := rfl
@[simp] theorem toHost_now (s : State) (m : HostMsg) : (s.toHost m).now = s.now := rfl
@[simp] theorem toHost_wall9 (s : State) (m : HostMsg) : (s.toHost m).wall9 = s.wall9 := rfl
@[simp] theorem toHost_gen (s : State) (m : HostMsg) : (s.toHost m).gen = s.gen := rfl
@[simp] theorem toHost_rows (s : State) (m : HostMsg) : (s.toHost m).rows = s.rows := rfl
@[simp] theorem toHost_siteOf (s : State) (m : HostMsg) : (s.toHost m).siteOf = s.siteOf := rfl
@[simp] theorem toHost_bad (s : State) (m : HostMsg) : (s.toHost m).bad = s.bad := rfl
@[simp] theorem toHost_noClock (s : State) (m : HostMsg) : (s.toHost m).noClock = s.noClock := rfl
@[simp] theorem toHost_fencedSites (s : State) (m : HostMsg) : (s.toHost m).fencedSites = s.fencedSites := rfl
@[simp] theorem toHost_tabOut (s : State) (m : HostMsg) : (s.toHost m).tabOut = s.tabOut := rfl
@[simp] theorem toHost_parents (s : State) (m : HostMsg) : (s.toHost m).parents = s.parents := rfl
@[simp] theorem toHost_clockRoot (s : State) (m : HostMsg) : (s.toHost m).clockRoot = s.clockRoot := rfl
@[simp] theorem toHost_step (s : State) (m : HostMsg) : (s.toHost m).step = s.step := rfl
@[simp] theorem toHost_enabled (s : State) (m : HostMsg) : (s.toHost m).enabled = s.enabled := rfl
@[simp] theorem toHost_attested (s : State) (m : HostMsg) : (s.toHost m).attested = s.attested := rfl
@[simp] theorem toHost_survey (s : State) (m : HostMsg) : (s.toHost m).survey = s.survey := rfl
@[simp] theorem toHost_dmap (s : State) (m : HostMsg) : (s.toHost m).dmap = s.dmap := rfl
@[simp] theorem toHost_fw (s : State) (m : HostMsg) : (s.toHost m).fw = s.fw := rfl
@[simp] theorem toHost_mode (s : State) (m : HostMsg) : (s.toHost m).mode = s.mode := rfl
@[simp] theorem toHost_oldMode (s : State) (m : HostMsg) : (s.toHost m).oldMode = s.oldMode := rfl
@[simp] theorem toHost_changing (s : State) (m : HostMsg) : (s.toHost m).changing = s.changing := rfl
@[simp] theorem toHost_bfeCap (s : State) (m : HostMsg) : (s.toHost m).bfeCap = s.bfeCap := rfl
@[simp] theorem toHost_dramCap (s : State) (m : HostMsg) : (s.toHost m).dramCap = s.dramCap := rfl
@[simp] theorem toHost_powerAt (s : State) (m : HostMsg) : (s.toHost m).powerAt = s.powerAt := rfl
@[simp] theorem toHost_pumpsOut (s : State) (m : HostMsg) : (s.toHost m).pumpsOut = s.pumpsOut := rfl
@[simp] theorem toHost_stagesOut (s : State) (m : HostMsg) : (s.toHost m).stagesOut = s.stagesOut := rfl
@[simp] theorem toHost_unrec (s : State) (m : HostMsg) : (s.toHost m).unrec = s.unrec := rfl
@[simp] theorem toHost_fencedCount (s : State) (m : HostMsg) : (s.toHost m).fencedCount = s.fencedCount := rfl
@[simp] theorem toHost_serial (s : State) (m : HostMsg) : (s.toHost m).serial = s.serial := rfl
@[simp] theorem toHost_flash (s : State) (m : HostMsg) : (s.toHost m).flash = s.flash := rfl
@[simp] theorem toHost_mapHalf (s : State) (m : HostMsg) : (s.toHost m).mapHalf = s.mapHalf := rfl
@[simp] theorem toHost_laterMap (s : State) (m : HostMsg) : (s.toHost m).laterMap = s.laterMap := rfl
@[simp] theorem toHost_laterToken (s : State) (m : HostMsg) : (s.toHost m).laterToken = s.laterToken := rfl
@[simp] theorem toHost_ports (s : State) (m : HostMsg) : (s.toHost m).ports = s.ports := rfl
@[simp] theorem toHost_myModule (s : State) (m : HostMsg) : (s.toHost m).myModule = s.myModule := rfl
@[simp] theorem toHost_stageMap (s : State) (m : HostMsg) : (s.toHost m).stageMap = s.stageMap := rfl
@[simp] theorem toHost_stageFw (s : State) (m : HostMsg) : (s.toHost m).stageFw = s.stageFw := rfl
@[simp] theorem toHost_lostPeers (s : State) (m : HostMsg) : (s.toHost m).lostPeers = s.lostPeers := rfl
@[simp] theorem toHost_tiles (s : State) (m : HostMsg) : (s.toHost m).tiles = s.tiles := rfl
@[simp] theorem toHost_freshExtents (s : State) (m : HostMsg) : (s.toHost m).freshExtents = s.freshExtents := rfl
@[simp] theorem toHost_fields (s : State) (m : HostMsg) : (s.toHost m).fields = s.fields := rfl
@[simp] theorem toHost_mem (s : State) (m : HostMsg) : (s.toHost m).mem = s.mem := rfl
@[simp] theorem toHost_net (s : State) (m : HostMsg) : (s.toHost m).net = s.net := rfl
@[simp] theorem toHost_ctxs (s : State) (m : HostMsg) : (s.toHost m).ctxs = s.ctxs := rfl
@[simp] theorem toHost_objects (s : State) (m : HostMsg) : (s.toHost m).objects = s.objects := rfl
@[simp] theorem toHost_homeMap (s : State) (m : HostMsg) : (s.toHost m).homeMap = s.homeMap := rfl
@[simp] theorem toHost_insts (s : State) (m : HostMsg) : (s.toHost m).insts = s.insts := rfl
@[simp] theorem toHost_nextKin (s : State) (m : HostMsg) : (s.toHost m).nextKin = s.nextKin := rfl
@[simp] theorem toHost_nextOrder (s : State) (m : HostMsg) : (s.toHost m).nextOrder = s.nextOrder := rfl
@[simp] theorem toHost_freeCounts (s : State) (m : HostMsg) : (s.toHost m).freeCounts = s.freeCounts := rfl
@[simp] theorem toHost_freeAt (s : State) (m : HostMsg) : (s.toHost m).freeAt = s.freeAt := rfl
@[simp] theorem toHost_falls (s : State) (m : HostMsg) : (s.toHost m).falls = s.falls := rfl
@[simp] theorem toHost_routers (s : State) (m : HostMsg) : (s.toHost m).routers = s.routers := rfl
@[simp] theorem toHost_hostHeld (s : State) (m : HostMsg) : (s.toHost m).hostHeld = s.hostHeld := rfl
@[simp] theorem toHost_peerHeld (s : State) (m : HostMsg) : (s.toHost m).peerHeld = s.peerHeld := rfl
@[simp] theorem toHost_objDying (s : State) (m : HostMsg) : (s.toHost m).objDying = s.objDying := rfl
@[simp] theorem toHost_gridObj (s : State) (m : HostMsg) : (s.toHost m).gridObj = s.gridObj := rfl
@[simp] theorem toHost_gridCtx (s : State) (m : HostMsg) : (s.toHost m).gridCtx = s.gridCtx := rfl
@[simp] theorem toHost_gridUs (s : State) (m : HostMsg) : (s.toHost m).gridUs = s.gridUs := rfl
@[simp] theorem toHost_grids (s : State) (m : HostMsg) : (s.toHost m).grids = s.grids := rfl
@[simp] theorem toHost_sweep (s : State) (m : HostMsg) : (s.toHost m).sweep = s.sweep := rfl
@[simp] theorem toHost_lastAdvance (s : State) (m : HostMsg) : (s.toHost m).lastAdvance = s.lastAdvance := rfl
@[simp] theorem toHost_dusk (s : State) (m : HostMsg) : (s.toHost m).dusk = s.dusk := rfl
@[simp] theorem toHost_duskQueue (s : State) (m : HostMsg) : (s.toHost m).duskQueue = s.duskQueue := rfl
@[simp] theorem toHost_retires (s : State) (m : HostMsg) : (s.toHost m).retires = s.retires := rfl
@[simp] theorem toHost_held (s : State) (m : HostMsg) : (s.toHost m).held = s.held := rfl
@[simp] theorem toHost_dbgReqs (s : State) (m : HostMsg) : (s.toHost m).dbgReqs = s.dbgReqs := rfl
@[simp] theorem toHost_portAt (s : State) (m : HostMsg) : (s.toHost m).portAt = s.portAt := rfl
@[simp] theorem toHost_agenda (s : State) (m : HostMsg) : (s.toHost m).agenda = s.agenda := rfl
@[simp] theorem toHost_cur (s : State) (m : HostMsg) : (s.toHost m).cur = s.cur := rfl
@[simp] theorem toHost_fresh (s : State) (m : HostMsg) : (s.toHost m).fresh = s.fresh := rfl
@[simp] theorem setTile_tiles (s : State) (t : Nat) (x : Tile) : (s.setTile t x).tiles = s.tiles.put t x := rfl
@[simp] theorem modMem_mem (s : State) (f : Mem → Mem) : (s.modMem f).mem = f s.mem := rfl
@[simp] theorem modField_fields (s : State) (k : Nat) (g : Field → Field) :
    (s.modField k g).fields = s.fields.put k (g (s.field k)) := rfl
/-- What a message adds to those sent: itself, while its port lets it leave (R350). -/
theorem toHost_hostOut (s : State) (m : HostMsg) : (s.toHost m).hostOut = s.hostOut ++ (if s.sends m then [m] else []) := rfl
theorem toHost_sends (s : State) (m : HostMsg) (h : s.sends m = true) : (s.toHost m).hostOut = s.hostOut ++ [m] := by
  simp [toHost_hostOut, h]
/-- A request that came through a port in service is answered. -/
theorem sends_hostUp (s : State) (r : HostReq) (m : HostMsg) (h : s.hostUp r = true) (hp : m.port = r.port) (hc : m.cls ≠ 0) :
    s.sends m = true := by
  unfold State.hostUp at h
  unfold State.sends
  rw [hp]
  split at h <;> simp_all

/-! ### Tiles and slots -/

theorem look_put_same {α : Type} (m : Map α) (k : Nat) (v : α) : (m.put k v).look k = some v := by
  induction m with
  | nil => simp [Map.put, Map.look]
  | cons e m ih =>
    obtain ⟨j, u⟩ := e
    simp only [Map.put]
    split
    · simp [Map.look]
    · split
      · simp [Map.look]
      · have : j ≠ k := fun h => by omega
        simp [Map.look, this, ih]

theorem look_put_other {α : Type} (m : Map α) (k : Nat) (v : α) {i : Nat} (h : i ≠ k) : (m.put k v).look i = m.look i := by
  induction m with
  | nil => simp [Map.put, Map.look, Ne.symm h]
  | cons e m ih =>
    obtain ⟨j, u⟩ := e
    simp only [Map.put]
    split
    · simp [Map.look, Ne.symm h]
    · split
      · rename_i _ hk
        subst hk
        simp [Map.look, Ne.symm h]
      · simp only [Map.look, ih]

@[simp] theorem tile_setTile_same (s : State) (t : Nat) (x : Tile) : (s.setTile t x).tile t = x := by
  simp [State.tile, Map.lookD, look_put_same]

theorem tile_setTile_other (s : State) (t : Nat) (x : Tile) {u : Nat} (h : u ≠ t) : (s.setTile t x).tile u = s.tile u := by
  simp [State.tile, Map.lookD, look_put_other _ _ _ h]

@[simp] theorem tile_modTile_same (s : State) (t : Nat) (f : Tile → Tile) : (s.modTile t f).tile t = f (s.tile t) := by
  simp [State.modTile]

theorem tile_modTile_other (s : State) (t : Nat) (f : Tile → Tile) {u : Nat} (h : u ≠ t) :
    (s.modTile t f).tile u = s.tile u := tile_setTile_other s t _ h

theorem look_del_other {α : Type} (m : Map α) (k : Nat) {i : Nat} (h : i ≠ k) : (m.del k).look i = m.look i := by
  induction m with
  | nil => rfl
  | cons e m ih =>
    obtain ⟨j, u⟩ := e
    simp only [Map.del] at ih
    by_cases hj : j = k
    · subst hj
      simp [Map.del, Map.look, Ne.symm h, ih]
    · simp [Map.del, Map.look, hj, ih]

/-- Whether a tile is listed changes no tile. -/
@[simp] theorem tile_unlist (s : State) (t u : Nat) : (s.unlist t).tile u = s.tile u := by
  unfold State.unlist
  simp only
  split
  · rename_i h
    by_cases hu : u = t
    · rw [hu, h]
    · simp [State.tile, Map.lookD, look_del_other _ _ hu]
  · rfl

/-- It changes nothing else either. -/
theorem unlist_eq (s : State) (t : Nat) : s.unlist t = { s with tiles := (s.unlist t).tiles } := by
  unfold State.unlist
  simp only
  split <;> rfl

theorem modifyAt_length {α : Type} (l : List α) (i : Nat) (f : α → α) : (modifyAt l i f).length = l.length := by
  induction l generalizing i with
  | nil => rfl
  | cons x xs ih => cases i <;> simp [modifyAt, ih]

theorem modifyAt_getD_same {α : Type} (l : List α) (i : Nat) (f : α → α) (d : α) (h : i < l.length) :
    (modifyAt l i f).getD i d = f (l.getD i d) := by
  induction l generalizing i with
  | nil => simp at h
  | cons x xs ih =>
    cases i with
    | zero => simp [modifyAt]
    | succ n => simpa [modifyAt] using ih n (by simpa using h)

theorem modifyAt_getD_other {α : Type} (l : List α) (i : Nat) (f : α → α) (d : α) {j : Nat} (h : j ≠ i) :
    (modifyAt l i f).getD j d = l.getD j d := by
  induction l generalizing i j with
  | nil => rfl
  | cons x xs ih =>
    cases i with
    | zero => cases j with
      | zero => exact absurd rfl h
      | succ m => simp [modifyAt]
    | succ n => cases j with
      | zero => simp [modifyAt]
      | succ m => simpa [modifyAt] using ih n (by omega)

theorem modifyAt_id {α : Type} (l : List α) (i : Nat) : modifyAt l i id = l := by
  induction l generalizing i with
  | nil => rfl
  | cons x xs ih => cases i <;> simp [modifyAt, ih]

theorem modifyAt_beyond {α : Type} (l : List α) (i : Nat) (f : α → α) (h : l.length ≤ i) : modifyAt l i f = l := by
  induction l generalizing i with
  | nil => rfl
  | cons x xs ih =>
    cases i with
    | zero => simp at h
    | succ n => simpa [modifyAt] using ih n (by simpa using h)

theorem slot_modSlot_same (s : State) (t k : Nat) (f : Slot → Slot) (h : k < (s.tile t).slots.length) :
    (s.modSlot t k f).slot t k = f (s.slot t k) := by
  rw [State.slot, State.modSlot, tile_modTile_same]; exact modifyAt_getD_same _ _ _ _ h

theorem slot_modSlot_slot (s : State) (t k : Nat) (f : Slot → Slot) {j : Nat} (h : j ≠ k) :
    (s.modSlot t k f).slot t j = s.slot t j := by
  rw [State.slot, State.modSlot, tile_modTile_same]; exact modifyAt_getD_other _ _ _ _ h

theorem slot_modSlot_tile (s : State) (t k : Nat) (f : Slot → Slot) {u j : Nat} (h : u ≠ t) :
    (s.modSlot t k f).slot u j = s.slot u j := by
  simp [State.slot, State.modSlot, tile_modTile_other _ _ _ h]

/-! ### Threads -/

@[simp] theorem setReg_zr (th : Thread) (v : Word) : th.setReg .zr v = th := rfl
@[simp] theorem reg_zr (th : Thread) : th.reg .zr = 0#64 := rfl

theorem setReg_frame (th : Thread) (d : Reg) (v : Word) :
    { th.setReg d v with regs := th.regs, acc := th.acc } = th := by
  cases d <;> rfl

theorem regs_get_set (r : Regs) (n m : Ptr) (v : Word) : (r.set n v).get m = if m = n then v else r.get m := by
  fin_cases n <;> fin_cases m <;> rfl

theorem reg_setReg (th : Thread) (d r : Reg) (v : Word) (h : d ≠ .zr) :
    (th.setReg d v).reg r = if r = d then v else th.reg r := by
  cases d with
  | w n => cases r with
    | w m => simp [Thread.setReg, Thread.reg, regs_get_set]
    | acc => simp [Thread.setReg, Thread.reg]
    | zr => simp [Thread.setReg, Thread.reg]
  | acc => cases r <;> simp [Thread.setReg, Thread.reg]
  | zr => exact absurd rfl h

@[simp] theorem finish_pc (sl : Slot) : sl.finish.th.pc = sl.ipc + 4#64 := rfl
@[simp] theorem finish_regs (sl : Slot) : sl.finish.th.regs = sl.th.regs := rfl
@[simp] theorem finish_acc (sl : Slot) : sl.finish.th.acc = sl.th.acc := rfl
@[simp] theorem finish_st (sl : Slot) : sl.finish.th.st = sl.th.st := rfl
@[simp] theorem finish_state (sl : Slot) : sl.finish.state = sl.state := rfl
@[simp] theorem goto_pc (sl : Slot) (pc : Word) : (sl.goto pc).th.pc = pc := rfl
@[simp] theorem goto_regs (sl : Slot) (pc : Word) : (sl.goto pc).th.regs = sl.th.regs := rfl
@[simp] theorem goto_st (sl : Slot) (pc : Word) : (sl.goto pc).th.st = sl.th.st := rfl

/-! ### Outcomes of the shared operations -/

theorem onThread_next (s : State) (f : Slot → Thread) (h : s.issuing = true) :
    onThread s f = .next (s.modCur (fun sl => { sl with th := f sl }.finish)) := by simp [onThread, h]

theorem onFlow_next (s : State) (f : Slot → Thread × Word) (h : s.issuing = true) :
    onFlow s f = .next (s.modCur (fun sl => { sl with th := (f sl).1 }.goto (f sl).2)) := by simp [onFlow, h]

theorem onIssue_next (s : State) (f : Nat → Nat → Slot → State → State) (h : s.issuing = true) :
    onIssue s f = .next (f s.cur.1 s.cur.2 s.curSlot s) := by simp [onIssue, h]

theorem raiseCur_next (s : State) (c : Nat) (a x : Word) (h : s.issuing = true) :
    raiseCur s c a x = .next (s.raise s.cur.1 s.cur.2 c a x) := by simp [raiseCur, h]

theorem onEvent_next (s t : State) : onEvent s true t = .next t := rfl

/-- What an answer `next` of each shared operation says. -/
theorem onThread_inv {s t : State} {f : Slot → Thread} (h : onThread s f = .next t) :
    s.issuing = true ∧ t = s.modCur (fun sl => { sl with th := f sl }.finish) := by
  unfold onThread at h; split at h
  · exact ⟨‹_›, by injection h with h; exact h.symm⟩
  · cases h

theorem onFlow_inv {s t : State} {f : Slot → Thread × Word} (h : onFlow s f = .next t) :
    s.issuing = true ∧ t = s.modCur (fun sl => { sl with th := (f sl).1 }.goto (f sl).2) := by
  unfold onFlow at h; split at h
  · exact ⟨‹_›, by injection h with h; exact h.symm⟩
  · cases h

theorem onIssue_inv {s t : State} {f : Nat → Nat → Slot → State → State} (h : onIssue s f = .next t) :
    s.issuing = true ∧ t = f s.cur.1 s.cur.2 s.curSlot s := by
  unfold onIssue at h; split at h
  · exact ⟨‹_›, by injection h with h; exact h.symm⟩
  · cases h

theorem raiseCur_inv {s t : State} {c : Nat} {a x : Word} (h : raiseCur s c a x = .next t) :
    s.issuing = true ∧ t = s.raise s.cur.1 s.cur.2 c a x := by
  unfold raiseCur at h; split at h
  · exact ⟨‹_›, by injection h with h; exact h.symm⟩
  · cases h

theorem onEvent_inv {s t u : State} {ok : Bool} (h : onEvent s ok t = .next u) : ok = true ∧ u = t := by
  unfold onEvent at h; split at h
  · exact ⟨‹_›, by injection h with h; exact h.symm⟩
  · cases h

theorem issuing_slot {s : State} (h : s.issuing = true) :
    s.cur.2 < 16 ∧ s.curSlot.state = .ready ∧ s.cur.2 < (s.tile s.cur.1).slots.length := by
  simpa [State.issuing, and_assoc] using h

theorem curSlot_modCur {s : State} (h : s.issuing = true) (f : Slot → Slot) : (s.modCur f).curSlot = f s.curSlot :=
  slot_modSlot_same s _ _ f (issuing_slot h).2.2

/-! ### Sending -/

theorem send_mem (s : State) (p : Packet) : (s.send p).mem = s.mem := by
  unfold State.send; dsimp only; split <;> rfl

theorem send_net (s : State) (p : Packet) :
    ∃ n o r g q, (s.send p).net = s.net ++ [{ p with seq := n, ord := o, ret := r, sgen := g, rseq := q }] := by
  unfold State.send; dsimp only; split <;> exact ⟨_, _, _, _, _, rfl⟩

/-- What sending does to the tiles: at most the sender's own numbers rise. -/
theorem send_tile (s : State) (p : Packet) (u : Nat) : (s.send p).tile u = s.tile u ∨ u = p.src ∧
    ∃ m n f, (∀ sl : Slot, ∃ q, f sl = { sl with reqSeq := q }) ∧
      (s.send p).tile u = { (s.tile u).modSlot p.slot f with seqTo := m, ordN := n } := by
  have h : ∀ (c : Bool) (x : Tile) (y : State), { (if c = true then s.setTile p.src x else s) with net := y.net }.tile u =
      if c = true ∧ u = p.src then x else s.tile u := by
    intro c x y
    by_cases hc : c = true
    · by_cases hu : u = p.src
      · subst hu; simp only [hc, and_self, if_true]; exact tile_setTile_same s p.src x
      · simp only [hc, hu, and_false, if_true, if_false]; exact tile_setTile_other _ _ _ hu
    · rw [if_neg hc, if_neg (fun h => hc h.1)]; rfl
  unfold State.send; dsimp only
  erw [h _ _ { s with net := _ }]
  split
  · rename_i hc
    refine Or.inr ⟨hc.2, ?_⟩
    rw [hc.2]
    by_cases hs : ((p.vc == 0 || p.vc == 2) && decide (p.slot < 16)) = true
    · exact ⟨_, _, fun sl => { sl with reqSeq := sl.reqSeq + 1#4 }, fun sl => ⟨_, rfl⟩, by rw [if_pos hs]⟩
    · have e : (s.tile p.src).modSlot p.slot id = s.tile p.src := by simp [Tile.modSlot, modifyAt_id]
      exact ⟨_, _, id, fun sl => ⟨sl.reqSeq, rfl⟩, by rw [if_neg hs, e]⟩
  · exact Or.inl rfl

/-- R112: a slot keeps all but its request number. -/
theorem slot_send (s : State) (p : Packet) (u j : Nat) : ∃ q, (s.send p).slot u j = { s.slot u j with reqSeq := q } := by
  rcases send_tile s p u with h | ⟨-, m, n, f, hf, h⟩
  · exact ⟨(s.slot u j).reqSeq, by simp [State.slot, h]⟩
  · have h2 : (s.send p).slot u j = (modifyAt (s.tile u).slots p.slot f).getD j {} := by rw [State.slot, h]; rfl
    by_cases hj : j = p.slot
    · subst hj
      by_cases hl : p.slot < (s.tile u).slots.length
      · obtain ⟨q, hq⟩ := hf ((s.tile u).slots.getD p.slot {})
        exact ⟨q, by rw [h2, modifyAt_getD_same _ _ _ _ hl, hq]; rfl⟩
      · exact ⟨(s.slot u p.slot).reqSeq, by rw [h2, modifyAt_beyond _ _ _ (by omega)]; rfl⟩
    · exact ⟨(s.slot u j).reqSeq, by rw [h2, modifyAt_getD_other _ _ _ _ hj]; rfl⟩

end Sys2Proof.Machine
end

