-- ==== Sys2Proof/Laws/Scalar.lean ====
section
/-! SUPPORT. What the shared operations of the scalar instructions do, said once (R78-R100). -/

namespace Sys2Proof.Machine

theorem modifyAt_congr {α : Type} (l : List α) (i : Nat) (f g : α → α) (d : α) (h : i < l.length → f (l.getD i d) = g (l.getD i d)) :
    modifyAt l i f = modifyAt l i g := by
  induction l generalizing i with
  | nil => rfl
  | cons x xs ih =>
    cases i with
    | zero => simpa [modifyAt] using h (by simp)
    | succ n => simpa [modifyAt] using ih n (fun hn => by simpa using h (by simpa using hn))

/-- Two updates of the issuing slot agree when they agree on its content. -/
theorem modCur_congr (s : State) (f g : Slot → Slot) (h : f s.curSlot = g s.curSlot) : s.modCur f = s.modCur g := by
  have e : modifyAt (s.tile s.cur.1).slots s.cur.2 f = modifyAt (s.tile s.cur.1).slots s.cur.2 g :=
    modifyAt_congr _ _ f g {} (fun _ => h)
  exact congrArg (fun l => s.setTile s.cur.1 { s.tile s.cur.1 with slots := l }) e

/-- A thread-only instruction that writes one register. -/
theorem onThread_wrote (s : State) (d : Reg) (F : Slot → Word) (h : s.issuing = true) :
    onThread s (fun sl => sl.th.setReg d (F sl)) = .next (s.wrote d (F s.curSlot)) := by
  rw [onThread_next s _ h]
  exact congrArg _ (modCur_congr s _ _ rfl)

theorem onThread_wroteFlags (s : State) (d : Reg) (F : Slot → Word) (G : Slot → Flags) (h : s.issuing = true) :
    onThread s (fun sl => (sl.th.setReg d (F sl)).orFlags (G sl)) = .next (s.wroteFlags d (F s.curSlot) (G s.curSlot)) := by
  rw [onThread_next s _ h]
  exact congrArg _ (modCur_congr s _ _ rfl)

/-- A control-flow instruction. -/
theorem onFlow_ended (s : State) (F : Slot → Thread × Word) (g : Thread → Thread) (pc : Word) (h : s.issuing = true)
    (hf : F s.curSlot = (g s.curSlot.th, pc)) : onFlow s F = .next (s.ended g pc) := by
  rw [onFlow_next s _ h]
  refine congrArg _ (modCur_congr s _ _ ?_)
  simp [hf]

theorem op2_wrote (s : State) (d a b : Reg) (f : Word → Word → Word) (h : s.issuing = true) :
    op2 s d a b f = .next (s.wrote d (f (s.rd a) (s.rd b))) := onThread_wrote s d _ h

theorem op2w_wrote (s : State) (d a b : Reg) (w : Bool) (f : Word → Word → Word) (g : BitVec 32 → BitVec 32 → BitVec 32)
    (h : s.issuing = true) :
    op2w s d a b w f g = .next (s.wrote d (if w then (g (lo32 (s.rd a)) (lo32 (s.rd b))).signExtend 64 else f (s.rd a) (s.rd b))) :=
  op2_wrote s d a b _ h

theorem op1_wrote (s : State) (d a : Reg) (f : Word → Word) (h : s.issuing = true) :
    op1 s d a f = .next (s.wrote d (f (s.rd a))) := onThread_wrote s d _ h

theorem opImm_wrote (s : State) (d a : Reg) (f : List (BitVec 25) → Word → Word) (h : s.issuing = true) :
    opImm s d a f = .next (s.wrote d (f s.curSlot.ext (s.rd a))) := onThread_wrote s d _ h

/-- A write of one register changes no other slot, no other tile and nothing else of the module. -/
theorem ended_onlySlot (s : State) (f : Thread → Thread) (pc : Word) : s.OnlySlot (s.ended f pc) s.cur.1 s.cur.2 := by
  refine ⟨rfl, fun v hv => tile_modTile_other s _ _ hv, ?_, fun j hj => slot_modSlot_slot s _ _ _ hj⟩
  unfold State.ended State.modCur State.modSlot
  rw [tile_modTile_same]
  rfl

end Sys2Proof.Machine
end

