-- ==== Sys2Proof/Tests/Slice0.lean ====
section
/-! SUPPORT. Tests: decoded words, ill-formed terms, and witnesses with one step each, on small states. Expected values come from
the manual's tables and rules, by hand. -/

namespace Sys2Proof.Tests

set_option Elab.async false

open Sys2Proof Sys2Proof.Machine

/-- What holds of the state an outcome leads to. -/
def after (o : Out) (p : State → Bool) : Bool := match o with | .next s => p s | _ => false

def stops (o : Out) : Bool := match o with | .fault .notEnabled => true | _ => false

/-- Addresses: object `n`, code at 2; data at 1. -/
def ad (obj off : Nat) : Word := BitVec.ofNat 64 (obj * 2 ^ 40 + off)
def pc0 : Word := ad 2 16
/-- A writable data object of 64 KiB on tile 0 (R284): valid bit 7, attribute RO, placement 1. -/
def dataObj : Object := { desc := (65535#512 <<< 64) ||| 0xAA#512 }
/-- The same on tile 1. -/
def farObj : Object := { desc := (65535#512 <<< 64) ||| 0xAA#512 ||| (1#512 <<< 352) }
def codeObj : Object := { desc := (4095#512 <<< 64) ||| 0x9E#512, replicated := true }
def rec0 : Launch :=
  { entry := pc0, srkey := 0#32, args := 0#64, x0 := 0, y0 := 0, w := 1, h := 1, tiles := [0], fmac := 0, nmac := 4, fcb := 0, ncb := 1,
    thr := 1, prio := 1, hk := 16, aq := 2, trace := false, stop := false, mig := false, notify := true, routes := [],
    succ := [0#64, 0#64, 0#64, 0#64], htag := 7#64, ops := [] }
def inst0 : Inst := { ctx := 1, rec_ := rec0, state := .released, deps := [], live := 1, teams := 1, admitted := 1 }
def th0 : Thread :=
  { pc := pc0, regs := { w0 := ad 1 0, w1 := 7#64, w2 := 3#64, w3 := 4#64, w4 := ad 3 0 }, tid := tidOf 0 16, kin := 1, ctx := 1 }
def slot0 : Slot := { state := .ready, th := th0, ipc := pc0, budget := 65536 }
def team0 : Team := { kin := 1, ctx := 1, nmac := 4, ncb := 1 }
def mac0 : Macro := { owner := some 0 }
def buf0 : CBuf := { owner := some 0, cfg := none }
def recs : List OdcEntry := [{ key := ⟨1, 1, .desc⟩, stamp := 0 }, { key := ⟨1, 2, .desc⟩, stamp := 0 }, { key := ⟨1, 3, .desc⟩, stamp := 0 }]
def tile0 : Tile :=
  { Tile.fresh with slots := slot0 :: List.replicate 15 {}, teams := [(0, team0)], odc := recs,
                    macros := List.replicate 4 mac0 ++ List.replicate 252 {}, bufs := buf0 :: List.replicate 15 {},
                    queues := [(1, { depth := 2, pos := 0 })], extents := [(5, { ctx := 1, obj := 1, gran := 0, page := 5 })] }
def tile1 : Tile := { Tile.fresh with extents := [(6, { ctx := 1, obj := 3, gran := 0, page := 6 })] }
/-- Tile 0 with one thread READY in slot 0, its team, an object on tile 0 and one on tile 1; the service tile of its field, 10, is 200. -/
def base : State :=
  { State.reset with siteOf := [], fields := [(10, { tile := 200 })], tiles := [(0, tile0), (1, tile1)],
                     ctxs := [(1, { debuggable := true })], insts := [(1, inst0)],
                     objects := [(objKey 1 1, dataObj), (objKey 1 2, codeObj), (objKey 1 3, farObj)] }
def onTile (f : Tile → Tile) : State := { base with tiles := [(0, f tile0), (1, tile1)] }
def onSlot (f : Slot → Slot) : State := onTile (fun x => { x with slots := f slot0 :: List.replicate 15 {} })
def onTh (f : Thread → Thread) : State := onSlot (fun sl => { sl with th := f sl.th })
def sl0 (s : State) : Slot := s.slot 0 0
def th (s : State) : Thread := (sl0 s).th
/-- The destination register after an instruction. -/
def val (s : State) (i : Instr) (r : Reg) : Option Word := match exec i s with | .next t => some ((th t).reg r) | _ => none
def pcOf (s : State) (i : Instr) : Option Word := match exec i s with | .next t => some (th t).pc | _ => none
def code (s : State) (i : Instr) : Option Nat := match exec i s with | .next t => (sl0 t).fault.map (·.code) | _ => none
def w12 (x y : Word) : State := onTh (fun th => { th with regs := { th.regs with w1 := x, w2 := y } })
abbrev w5 : Reg := .w 5
/-- The words of an object's first line. -/
def line0 (obj : Nat) (w : LWord) : Line := { ctx := 1, obj := obj, ln := 0, uo := false, words := w :: List.replicate 7 {} }
def inL1 (w : LWord) : State := onTile (fun x => { x with l1 := [line0 1 w] })
def inSlice (w : LWord) : State := onTile (fun x => { x with slices := [line0 1 w] })

/-- The hypotheses of an access at the own tile, as one test. -/
def home? (s : State) (a : Word) (n : Nat) (o : Object) : Bool :=
  decide (a.toNat % n = 0) && decide (s.homeOf 0 1 a = .tile o 0 0) && decide (offOf a + n ≤ o.size) && decide (s.gate 0 1 a = .go)
theorem home?_iff {s : State} {a : Word} {n : Nat} {o : Object} (h : home? s a n o = true) : s.AtHome 0 1 a n o := by
  simp only [home?, Bool.and_eq_true, decide_eq_true_eq] at h
  exact ⟨h.1.1.1, .inr ⟨0, h.1.1.2⟩, h.1.2, h.2⟩
def quiet? (s : State) (key : Nat) : Bool :=
  (s.tile 0).l1.all (·.words.length == 8) && (s.tile 0).slices.all (·.words.length == 8) &&
  (s.tile 0).waiters.all (·.key != key) && (s.tile 0).spilled.all (·.key != key) &&
  handleValid (th s).trkA == false && handleValid (th s).trkB == false
theorem quiet?_iff {s : State} {key : Nat} (h : quiet? s key = true) :
    (s.tile 0).LinesOk ∧ (s.tile 0).NoWaiter key ∧ (th s).NoHandles := by
  simp only [quiet?, Bool.and_eq_true, beq_iff_eq, List.all_eq_true, bne_iff_ne, ne_eq] at h
  obtain ⟨⟨⟨⟨⟨a, b⟩, c⟩, d⟩, e⟩, f⟩ := h
  exact ⟨fun l hl => hl.elim (a l) (b l), fun w hw => hw.elim (c w) (d w), e, f⟩

/-! ### Decoding (R54-R72): words laid out field by field -/

/-- R65: `sub.w w3, w1, w2`. -/
theorem test_decode_integer : (decode (0x01#6 ++ 3#4 ++ 1#4 ++ 2#4 ++ 0#7 ++ 1#1 ++ 1#6)).toOption = some (.sub (.w 3) (.w 1) (.w 2) true) := by decide +kernel

/-- R65: `addi acc, zr, -1`. -/
theorem test_decode_immediate : (decode (0x02#6 ++ 8#4 ++ 15#4 ++ 0x3FFFF#18)).toOption = some (.addi .acc .zr 0x3FFFF) := by decide +kernel

/-- R65: `msb w1, w2`. -/
theorem test_decode_accumulator : (decode (0x0A#6 ++ 0#4 ++ 1#4 ++ 2#4 ++ 1#14)).toOption = some (.msb (.w 1) (.w 2)) := by decide +kernel

/-- R65: `fdiv.d w0, w1, w2`. -/
theorem test_decode_float : (decode (0x0B#6 ++ 0#4 ++ 1#4 ++ 2#4 ++ 0#7 ++ 1#1 ++ 3#6)).toOption = some (.fdiv (.w 0) (.w 1) (.w 2) true) := by decide +kernel

/-- R68: `bltu w1, w2, -1`. -/
theorem test_decode_branch : (decode (0x10#6 ++ 1#4 ++ 2#4 ++ 4#3 ++ 0x7FFF#15)).toOption = some (.bltu (.w 1) (.w 2) 0x7FFF) := by decide +kernel

/-- R69: `st.h.rel.wafer w5, [w6+2]!`. -/
theorem test_decode_store : (decode (0x19#6 ++ 5#4 ++ 6#4 ++ 1#2 ++ 0#1 ++ 2#2 ++ 2#2 ++ 2#2 ++ 1#9)).toOption = some (.st (.w 5) 6 .h .pre .rel .wafer 1) := by decide +kernel

/-- R69: `aswp.d.acq w1, [w2], w3`. -/
theorem test_decode_atomic : (decode (0x1D#6 ++ 1#4 ++ 2#4 ++ 3#4 ++ 8#4 ++ 0#1 ++ 1#2 ++ 0#2 ++ 1#1 ++ 0#4)).toOption = some (.aswp (.w 1) 2 (.w 3) false .acq .tile true) := by decide +kernel

/-- R69: `fence.ar.host`. -/
theorem test_decode_fence : (decode (0x1F#6 ++ 0#12 ++ 0#4 ++ 0#1 ++ 3#2 ++ 3#2 ++ 0#5)).toOption = some (.fenceAr .host) := by decide +kernel

/-- R70: `hop w3`, `waitw.ge w1, w2`, `bar`. -/
theorem test_decode_thread : (decode (0x21#6 ++ 0#4 ++ 3#4 ++ 0#4 ++ 3#14)).toOption = some (.hop (.w 3)) ∧ (decode (0x22#6 ++ 0#4 ++ 1#4 ++ 2#4 ++ 3#14)).toOption = some (.waitwGe 1 (.w 2)) ∧ (decode (0x24#6 ++ 0#26)).toOption = some .bar := by decide +kernel

/-- R70: mask `w0`, `w1` and `acc`, successor 0. -/
theorem test_decode_seam_example : (decode 0x8C182060#32).toOption = some (.seam 6 0x103 0 .tile) := by decide +kernel

/-- R71: `vaxpy` and `vrsum`. -/
theorem test_decode_vector : (decode (0x29#6 ++ 1#4 ++ 2#4 ++ 3#4 ++ 4#3 ++ 0#3 ++ 4#8)).toOption = some (.vaxpy 1 2 3 4 false false false) ∧ (decode (0x2A#6 ++ 15#4 ++ 2#4 ++ 15#4 ++ 4#3 ++ 2#3 ++ 0#8)).toOption = some (.vrsum 2 4 true) := by decide +kernel

/-- R72: `mts seamin`, `trap 5`. -/
theorem test_decode_system : (decode (0x38#6 ++ 0#4 ++ 2#4 ++ 0#4 ++ 1#4 ++ 0#4 ++ 7#6)).toOption = some (.mts (.w 2) 7) ∧ (decode (0x38#6 ++ 0#12 ++ 2#4 ++ 5#10)).toOption = some (.trap 5) := by decide +kernel

/-- R60. -/
theorem test_decode_extension : (decode 0xFC002468#32).toOption = some (.xwExtension 0x2468) := by decide +kernel

/-- R56, R57, R59, R63: register code 9, a nonzero unused field, a store with acquire, major 0. -/
theorem test_decode_refusals : (decode (0x01#6 ++ 9#4 ++ 1#4 ++ 2#4 ++ 0#14)).toOption = none ∧ (decode (0x24#6 ++ 1#26)).toOption = none ∧ (decode (0x19#6 ++ 5#4 ++ 6#4 ++ 1#2 ++ 0#1 ++ 0#2 ++ 1#2 ++ 0#2 ++ 1#9)).toOption = none ∧ (decode 0#32).toOption = none := by decide +kernel

/-! ### Ill-formed terms, one for each check -/

theorem test_ill_cvt : Instr.wellFormed (.cvt (.w 0) (.w 1) .f32 .f32) = false := by decide +kernel

theorem test_ill_field : Instr.wellFormed (.bext (.w 0) (.w 1) 63 1) = false ∧ Instr.wellFormed (.bext (.w 0) (.w 1) 63 0) = true := by decide +kernel

theorem test_ill_load : Instr.wellFormed (.ld (.w 1) 1 .d .post .plain .tile 0) = false ∧ Instr.wellFormed (.ld (.w 1) 2 .d .offset .rel .tile 0) = false ∧ Instr.wellFormed (.lds (.w 1) 2 .d .offset .plain .stack 0) = false := by decide +kernel

theorem test_ill_store : Instr.wellFormed (.st (.w 1) 2 .d .offset .acq .tile 0) = false ∧ Instr.wellFormed (.sts (.w 1) 2 .d .offset .plain .host 0) = false := by decide +kernel

theorem test_ill_atomic : Instr.wellFormed (.aadd (.w 1) 2 (.w 3) true .plain .tile true) = false ∧ Instr.wellFormed (.aadd .zr 2 (.w 3) true .acq .tile true) = false := by decide +kernel

theorem test_ill_vector : Instr.wellFormed (.vadd 1 1 2 3 true false false) = false ∧ Instr.wellFormed (.vabs 1 1 3 false true) = false ∧ Instr.wellFormed (.vrdot 1 1 3 true false) = false := by decide +kernel

theorem test_ill_mrecv : Instr.wellFormed (.mrecv (.w 3)) = false ∧ Instr.wellFormed (.mrecv (.w 4)) = true := by decide +kernel

/-! ### Scalar and control -/

/-- R82, by hand. -/
theorem test_integer : (base.issuing = true) ∧
    (val (w12 0x7FFFFFFF#64 1#64) (.add w5 (.w 1) (.w 2) true) w5 == some 0xFFFFFFFF80000000#64 &&
val (w12 (-7) 3) (.sub w5 (.w 1) (.w 2) false) w5 == some (-10) && val (w12 1 66) (.sll w5 (.w 1) (.w 2) false) w5 == some 4 &&
val (w12 0x180000000#64 31) (.srl w5 (.w 1) (.w 2) true) w5 == some 1 && val (w12 0x80000000#64 31) (.sra w5 (.w 1) (.w 2) true) w5 == some (-1) &&
val (w12 (-7) 3) (.slt w5 (.w 1) (.w 2)) w5 == some 1 && val (w12 (-7) 3) (.sltu w5 (.w 1) (.w 2)) w5 == some 0 &&
val (w12 (-7) 3) (.min w5 (.w 1) (.w 2)) w5 == some (-7) && val (w12 (-7) 3) (.max w5 (.w 1) (.w 2)) w5 == some 3 &&
val (w12 (-7) 3) (.minu w5 (.w 1) (.w 2)) w5 == some 3 && val (w12 (-7) 3) (.maxu w5 (.w 1) (.w 2)) w5 == some (-7) &&
val (w12 (-7) 3) (.mul w5 (.w 1) (.w 2) false) w5 == some (-21) && val (w12 (-7) 3) (.mulh w5 (.w 1) (.w 2)) w5 == some (-1) &&
val (w12 (-7) 3) (.mulhu w5 (.w 1) (.w 2)) w5 == some 2 && val (w12 6 3) (.and w5 (.w 1) (.w 2)) w5 == some 2 &&
val (w12 6 3) (.or w5 (.w 1) (.w 2)) w5 == some 7 && val (w12 6 3) (.xor w5 (.w 1) (.w 2)) w5 == some 5) = true := by decide +kernel

/-- R83, by hand. -/
theorem test_division : (val (w12 (-7) 2) (.div w5 (.w 1) (.w 2) false) w5 == some (-3) && val (w12 (-7) 2) (.rem w5 (.w 1) (.w 2) false) w5 == some (-1) &&
val (w12 0x8000000000000000#64 (-1)) (.div w5 (.w 1) (.w 2) false) w5 == some 0x8000000000000000#64 &&
val (w12 0x80000000#64 0xFFFFFFFF#64) (.rem w5 (.w 1) (.w 2) true) w5 == some 0 &&
val (w12 9 0) (.divu w5 (.w 1) (.w 2) true) w5 == some (-1) && val (w12 9 0) (.remu w5 (.w 1) (.w 2) false) w5 == some 9) = true := by decide +kernel

/-- R60, R84-R87: no pending XW word, and one with payload 1. -/
theorem test_immediate : (base.issuing = true ∧ base.curSlot.ext.length ≤ 2) ∧
    (val base (.addi w5 (.w 1) 0x3FFFF) w5 == some 6 && val base (.andi w5 (.w 1) 0x20005) w5 == some 5 &&
val base (.ori w5 .zr 0x20000) w5 == some 0x20000 && val base (.xori w5 (.w 1) 1) w5 == some 6 && val base (.slti w5 (.w 1) 8) w5 == some 1 &&
val base (.slli w5 (.w 1) 60) w5 == some 0x7000000000000000 && val base (.srli w5 (.w 1) 1) w5 == some 3 &&
val (w12 (-7) 0) (.srai w5 (.w 1) 1) w5 == some (-4) && val base (.movi w5 0x3FFFFF) w5 == some (-1) &&
val base (.movhi (.w 1) 2) (.w 1) == some 0x200000007 &&
val (onSlot fun sl => { sl with ext := [1] }) (.addi w5 .zr 3) w5 == some 0x40003 &&
val (onSlot fun sl => { sl with ext := [1, 2] }) (.movi w5 3) w5 == some 0x800000800003) = true := by decide +kernel

/-- R88, by hand. -/
theorem test_bitfield : (base.issuing = true ∧ (60#6).toNat + (3#6).toNat + 1 ≤ 64) ∧
    (val (w12 (-7) 0) (.bext w5 (.w 1) 60 3) w5 == some 15 && val (w12 (-7) 0) (.bexts w5 (.w 1) 60 3) w5 == some (-1) &&
val base (.bins (.w 1) (.w 2) 60 3) (.w 1) == some 0x3000000000000007 && val base (.clz w5 (.w 1)) w5 == some 61 &&
val base (.ctz w5 .zr) w5 == some 64 && val base (.popc w5 (.w 1)) w5 == some 3 && val base (.bswap w5 (.w 1)) w5 == some 0x0700000000000000) = true := by decide +kernel

/-- R89. -/
theorem test_accumulate : (base.issuing = true) ∧
    (val base (.mac (.w 1) (.w 2)) .acc == some 21 && val base (.msb (.w 1) (.w 2)) .acc == some (-21)) = true := by decide +kernel

/-- R91: 1 + 2, 1 - 2, 1 * 2 and fused forms over 3 and `acc` 0. -/
theorem test_float_sums : (let s := onTh fun th => { th with regs := { th.regs with w1 := 0x3FF0000000000000, w2 := 0x4000000000000000, w5 := 0x4008000000000000 } }
s.issuing = true ∧ (fpVal true (s.rd (.w 1))).isFinite = true ∧ (fpVal true (s.rd (.w 2))).isFinite = true ∧ (fpVal true (s.rd w5)).isFinite = true ∧ (fpVal true (s.rd .acc)).isFinite = true) ∧
    (let s := onTh fun th => { th with regs := { th.regs with w1 := 0x3FF0000000000000, w2 := 0x4000000000000000, w5 := 0x4008000000000000 } }
let f (i : Reg → Reg → Reg → Bool → Instr) := val s (i w5 (.w 1) (.w 2) true) w5
f .fadd == some 0x4008000000000000 && f .fsub == some 0xBFF0000000000000 && f .fmul == some 0x4000000000000000 &&
f .fma == some 0x4014000000000000 && f .fms == some 0xBFF0000000000000 && f .fnma == some 0x3FF0000000000000 &&
f .fnms == some 0xC014000000000000 && val s (.fmacD (.w 1) (.w 2)) .acc == some 0x4000000000000000) = true := by decide +kernel

/-- R31: a signalling NaN gives the canonical one and NV. -/
theorem test_float_nan : (let s := w12 0x7FA00000 0
(fpVal false (s.rd (.w 1))).isNan = true ∧ (fpVal false (s.rd (.w 1))).isSig = true ∧ (fpVal false (s.rd w5)).isNan = false ∧ (fpVal false (s.rd .acc)).isNan = false) ∧
    (let s := w12 0x7FA00000 0
val s (.fadd w5 (.w 1) (.w 2) false) w5 == some 0x7FC00000 && val s (.fmacS (.w 1) (.w 2)) .acc == some 0x7FC00000 &&
after (exec (.fmul w5 (.w 1) (.w 2) false) s) (fun t => (th t).st == 0x100) && val s (.fsqrt w5 (.w 1) false) w5 == some 0x7FC00000) = true := by decide +kernel

/-- R91: 7/2, 1/0, 0/0, a root of 4 and of -4. -/
theorem test_float_quotients : (let v x := fpVal false x
(v 0x40E00000).isFinite = true ∧ (v 0x40000000).rat ≠ 0 ∧ (v 0).rat = 0 ∧ (v 0).isFinite = true ∧ 0 ≤ (v 0x40800000).rat ∧ (v 0xC0800000).rat < 0) ∧
    (val (w12 0x40E00000 0x40000000) (.fdiv w5 (.w 1) (.w 2) false) w5 == some 0x40600000 &&
val (w12 0x3F800000 0) (.fdiv w5 (.w 1) (.w 2) false) w5 == some 0x7F800000 &&
after (exec (.fdiv w5 (.w 1) (.w 2) false) (w12 0 0)) (fun t => (th t).st == 0x100 && (th t).reg w5 == 0x7FC00000) &&
val (w12 0x40800000 0) (.fsqrt w5 (.w 1) false) w5 == some 0x40000000 && val (w12 0xC0800000 0) (.fsqrt w5 (.w 1) false) w5 == some 0x7FC00000) = true := by decide +kernel

/-- R41: the greatest E4M3 value, 448. -/
theorem test_rounding : (e4m3 ∈ [fp64, fp32, bf16, fp16, e4m3, e5m2, e2m3, e3m2, e2m1] ∧ 0x7E < 2 ^ e4m3.width ∧ (e4m3.value 0x7E).isFinite = true ∧ (e4m3.value 0x7E).rat = 448) ∧
    (roundTo e4m3 ⟨3, false, 0, 0⟩ (e4m3.value 0x7E) == (0x7E, Flags.none)) = true := by decide +kernel

/-- R93, R94: -0 and +0, 1 and infinity, the classes. -/
theorem test_float_compare : (let v x := fpVal false x
(v 0x3F800000).isNan = false ∧ (v 0x7F800000).isNan = false ∧ (v 0xFF800000) = .inf true ∧ (v 0x7F800000) = .inf false ∧ (v 0x7FA00000) = .nan true ∧ (v 0x7FC00000) = .nan false ∧ (v 0x80000000).isFinite = true ∧ (v 0x80000000).rat = 0 ∧ (v 1).rat ≠ 0 ∧ (v 1).isFinite = true ∧ |(v 1).rat| < leastNormal false ∧ leastNormal false ≤ |(v 0xBF800000).rat| ∧ (v 0xBF800000).isFinite = true) ∧
    (let c x := val (w12 x 0) (.fclass w5 (.w 1) false) w5
val (w12 0x3F800000 0x7F800000) (.fmin w5 (.w 1) (.w 2) false) w5 == some 0x3F800000 && val (w12 0x3F800000 0x7F800000) (.flt w5 (.w 1) (.w 2) false) w5 == some 1 &&
val (w12 0x80000000 0) (.feq w5 (.w 1) (.w 2) false) w5 == some 1 && val (w12 0x7FA00000 0) (.fmax w5 (.w 1) (.w 2) false) w5 == some 0x7FC00000 &&
val (w12 0x7FC00000 0) (.fle w5 (.w 1) (.w 2) false) w5 == some 0 && val (w12 0xBF800000 0) (.fabs w5 (.w 1) false) w5 == some 0x3F800000 &&
val (w12 0xBF800000 0) (.fneg w5 (.w 1) false) w5 == some 0x3F800000 &&
c 0xFF800000 == some 1 && c 0xBF800000 == some 2 && c 0x80000001 == some 4 && c 0x80000000 == some 8 && c 0 == some 16 && c 1 == some 32 && c 0x3F800000 == some 64 && c 0x7F800000 == some 128 && c 0x7FA00000 == some 256 && c 0x7FC00000 == some 512) = true := by decide +kernel

theorem wit_below : (fpVal false 0x3F800000#64).Below (fpVal false 0x7F800000#64) ∧ (fpVal false 0x80000000#64).Same (fpVal false 0#64) := by
  have h1 : fpVal false 0x3F800000#64 = .fin false 0x800000 (-23) := by decide +kernel
  have h2 : fpVal false 0x7F800000#64 = .inf false := by decide +kernel
  have h3 : fpVal false 0x80000000#64 = .fin true 0 (-149) := by decide +kernel
  have h4 : fpVal false 0#64 = .fin false 0 (-149) := by decide +kernel
  rw [h1, h2, h3, h4]; simp [Val.Below, Val.Same, Val.rat]

/-- R96: -1 to an unsigned word, 2^40 to `.s32`, a NaN, 2.5 toward zero, 3 to FP16. -/
theorem test_conversions : ((cvtKind .f16 = .inl fp16) ∧ (cvtKind .s32 = .inr (32, true)) ∧ (cvtSource .f32 0x7FC00000).isNan = true ∧ (cvtSource .f32 0x40200000).rat = 5 / 2 ∧ (cvtSource .s64 (-1)).isFinite = true ∧ (cvtSource .s64 (-1)).rat = (-1 : Int) ∧ (onTh fun th => { th with st := 1 }).curSlot.th.rm = 1) ∧
    (let c (x : Word) t u := match exec (.cvt w5 (.w 1) t u) (onTh fun th => { th with st := 1, regs := { th.regs with w1 := x } }) with | .next t => ((th t).reg w5, (th t).st) | _ => (0, 0)
c (-1) .n32 .s64 == (0, 0x101) && c 0x10000000000 .s32 .s64 == (0x7FFFFFFF, 0x101) && c 0x7FC00000 .s32 .f32 == (0, 0x101) &&
c 0x40200000 .s32 .f32 == (2, 0x11) && c 3 .f16 .s64 == (0x4200, 1)) = true := by decide +kernel

/-- R97, R98, R100: from pc 16. -/
theorem test_branches : (base.issuing = true ∧ base.curSlot.ext.length ≤ 2) ∧
    (pcOf base (.beq (.w 1) (.w 2) 3) == some (ad 2 20) && pcOf base (.bne (.w 1) (.w 2) 3) == some (ad 2 28) && pcOf base (.blt (.w 1) (.w 2) 3) == some (ad 2 20) &&
pcOf base (.bge (.w 1) (.w 2) 0x7FFF) == some (ad 2 12) && pcOf (w12 (-1) 1) (.bltu (.w 1) (.w 2) 3) == some (ad 2 20) && pcOf (w12 (-1) 1) (.bgeu (.w 1) (.w 2) 3) == some (ad 2 28) &&
pcOf base (.bz .zr 1) == some (ad 2 20) && pcOf base (.bnz .zr 2) == some (ad 2 20) && pcOf (w12 (-1) 1) (.bltz (.w 1) 2) == some (ad 2 24) &&
pcOf base (.bgez .zr 2) == some (ad 2 24) && pcOf base (.bgtz .zr 2) == some (ad 2 20) && pcOf base (.blez .zr 2) == some (ad 2 24) &&
pcOf base (.jmp 0x3FFFFFF) == some (ad 2 12) && val base (.jal 2) (.w 7) == some (ad 2 20) && pcOf base (.dbnz (.w 2) 2) == some (ad 2 24) && pcOf (w12 0 1) (.dbnz (.w 2) 2) == some (ad 2 20)) = true := by decide +kernel

/-- R99: an aligned target and one that is not. -/
theorem test_register_jumps : ((base.rd (.w 4)).toNat % 4 = 0 ∧ (base.rd (.w 1)).toNat % 4 ≠ 0) ∧
    (pcOf base (.jr (.w 4)) == some (ad 3 0) && val base (.jalr w5 (.w 4)) w5 == some (ad 2 20) && code base (.jr (.w 1)) == some 3) = true := by decide +kernel

/-- R60-R62: one pending word, two, and a modifier. -/
theorem test_xw : (base.issuing = true ∧ base.curSlot.ext.length < 2 ∧ base.curSlot.ipc = base.curSlot.th.pc + fromNat (4 * base.curSlot.ext.length) ∧ (onSlot fun sl => { sl with ext := [1, 2] }).curSlot.ext = [1, 2] ∧ (onSlot fun sl => { sl with ipc := sl.ipc + 4, nt := true }).curSlot.ipc ≠ pc0) ∧
    (after (exec (.xwExtension 9) base) (fun t => (sl0 t).ext == [9] && (sl0 t).ipc == ad 2 20 && (th t).pc == pc0) &&
after (exec (.xwModifier true false) base) (fun t => (sl0 t).nt && (sl0 t).ipc == ad 2 20) &&
code (onSlot fun sl => { sl with ext := [1, 2] }) (.xwExtension 9) == some 1 && code (onSlot fun sl => { sl with ipc := sl.ipc + 4, nt := true }) (.xwModifier true true) == some 1) = true := by decide +kernel

/-- R78. -/
theorem test_scalar_frame : (scalarDest (.add w5 (.w 1) (.w 2) false) = some w5 ∧ scalarDest (.jal 2) = some (.w 7)) ∧
    (after (exec (.add w5 (.w 1) (.w 2) false) base) (fun t => (th t).regs == { (th base).regs with w5 := 10 } && t.mem == base.mem)) = true := by decide +kernel

/-! ### Memory -/

/-- R111: `ld.h`, `ld.d` with post-increment, `ldx.b`, `ldr.w` over the bytes 11-88. -/
theorem test_load : (let s := inL1 { data := 0x8877665544332211 }
s.issuing = true ∧ home? s (ad 1 2) 2 dataObj = true ∧ (s.view 0 1 (ad 1 2)).poison = false ∧ s.l1Has 0 1 (ad 1 2) = true ∧ memPlace (th s) 0 .offset 2 1 = (ad 1 2, th s)) ∧
    (let s := inL1 { data := 0x8877665544332211 }
val s (.ld w5 0 .h .offset .plain .tile 1) w5 == some 0x4433 && val s (.ld w5 0 .d .post .plain .tile 1) (.w 0) == some (ad 1 8) &&
val s (.ldx w5 0 (.w 2) .b .plain .tile) w5 == some 0x44 && val s (.ldr w5 0 .w .plain .tile 1) w5 == some 0x88776655 &&
val (onTile fun x => { x with l1 := [line0 1 { data := 0x80 }], slots := [{ slot0 with sx := true }] }) (.ld w5 0 .b .offset .plain .tile 0) w5 == some (-128)) = true := by decide +kernel

/-- R111: `st.w` at offset 4, pre-increment; `stx.b` at offset 3. -/
theorem test_store : (let s := inL1 { data := 0x8877665544332211 }
s.mem.wf = true ∧ home? s (ad 1 4) 4 dataObj = true ∧ quiet? s (objWordKey 1 (ad 1 4)) = true ∧ dataObj.isCode = false ∧ dataObj.writable = true ∧ dataObj.place ≠ 3 ∧ memPlace (th s) 0 .pre 4 1 = (ad 1 4, { th s with regs := { (th s).regs with w0 := ad 1 4 } })) ∧
    (let s := inL1 { data := 0x8877665544332211 }
after (exec (.st (.w 1) 0 .w .pre .plain .tile 1) s) (fun t => (t.view 0 1 (ad 1 0)).data == 0x0000000744332211 && (th t).regs.w0 == ad 1 4) &&
after (exec (.stx (.w 1) 0 (.w 2) .b .plain .tile) s) (fun t => (t.view 0 1 (ad 1 0)).data == 0x8877665507332211)) = true := by decide +kernel

theorem wit_room : ((inL1 {}).tile 0).L1Room 1 (ad 1 4) := by unfold Tile.L1Room; decide +kernel

/-- A line in the slice alone: room there, and the L1 without it; `ldf`, a fetching `aadd.w`, `join` and `ld` complete. -/
theorem wit_frames : (base.tile 0).NotInL1 1 (ad 1 0) ∧ (base.tile 0).SliceRoom 1 (ad 1 0) ∧ base.mem.weak = [] ∧
    home? base (ad 1 0) 4 dataObj = true ∧ (inL1 {}).l1Has 0 1 (ad 1 4) = true ∧
    after (exec (.aadd w5 0 (.w 1) false .plain .tile false) base) (fun t => t.mem == base.mem && (sl0 t).state == .ready) = true := by
  unfold Tile.NotInL1 Tile.SliceRoom; decide +kernel

/-- R103, R203: ALIGN, NOOBJ, BOUNDS and PERM. -/
theorem test_access_faults : (let s := onTh fun th => { th with regs := { th.regs with w5 := ad 1 65536, w6 := ad 2 0 } }
(7#64).toNat % 8 ≠ 0 ∧ objOf 4 = 0 ∧ s.homeOf 0 1 (ad 1 65536) = .tile dataObj 0 0 ∧ dataObj.size < offOf (ad 1 65536) + 8 ∧ s.homeOf 0 1 (ad 2 0) = .here codeObj ∧ codeObj.isCode = true ∧ offOf (ad 2 0) + 8 ≤ codeObj.size) ∧
    (let s := onTh fun th => { th with regs := { th.regs with w5 := ad 1 65536, w6 := ad 2 0 } }
code s (.ld w5 1 .d .offset .plain .tile 0) == some 3 && code s (.st w5 3 .w .offset .plain .tile 0) == some 5 && code s (.ld w5 5 .d .offset .plain .tile 0) == some 4 &&
code s (.st w5 6 .d .offset .plain .tile 0) == some 6) = true := by decide +kernel

/-- R113. -/
theorem test_poisoned_load : (let s := onTile fun x => { x with l1 := [line0 1 { poison := true }], slots := [{ slot0 with nt := true }] }
s.issuing = true ∧ s.curSlot.nt = true ∧ home? s (ad 1 4) 4 dataObj = true ∧ (s.view 0 1 (ad 1 4)).poison = true ∧ s.atService 0 0 = false) ∧
    (let s := onTile fun x => { x with l1 := [line0 1 { poison := true }], slots := [{ slot0 with nt := true }] }
after (exec (.ld w5 0 .w .offset .plain .tile 1) s) (fun t => (sl0 t).fault == some { code := 0x0A, pc := pc0, addr := ad 1 0, extra := 0 })) = true := by decide +kernel

/-- R104, R105, R112: a load moves the thread; a pinned one and `ldr` ask. -/
theorem test_loads_elsewhere : (base.homeOf 0 1 (ad 3 0) = .tile farObj 1 0 ∧ offOf (ad 3 0) + 8 ≤ farObj.size ∧ (th base).pinned = false ∧ base.curSlot.prev = none ∧ (onTh fun th => { th with st := 0x10000 }).curSlot.th.pinned = true ∧ base.atService 0 0 = false ∧ quiet? base 0 = true ∧ farObj.isSO = false ∧ farObj.writable = true ∧ ((base.tile 0).tracker 0).open_ = false ∧ 0 < (base.tile 0).trackers.length) ∧
    (after (exec (.ld w5 4 .d .offset .plain .tile 0) base) (fun t => (sl0 t).state == .wait (.departure t.now 0 1 0)) &&
after (exec (.ldx w5 4 .zr .d .plain .tile) (onTh fun th => { th with st := 0x10000 })) (fun t => (sl0 t).state == .remote && t.net.map (·.body) == [.readReq 1 (ad 3 0) .d]) &&
after (exec (.ldr w5 4 .d .plain .tile 0) base) (fun t => (sl0 t).state == .remote) &&
after (exec (.st (.w 1) 4 .d .offset .plain .tile 0) base) (fun t => t.net.map (·.body) == [.store 1 (ad 3 0) .d 7 false (some 0)] && ((t.tile 0).tracker 0).count == 1)) = true := by decide +kernel

/-- R115, R116: 7 to the first word of macro 0, and a store to a stationary macro. -/
theorem test_scratchpad : (bits 0#64 63 22 = 0 ∧ 0 < base.rows * 96 ∧ (base.tile 0).fenced = false ∧ base.atService 0 0 = false ∧ ((base.tile 0).mac (macroOf 0)).owner = some base.curSlot.team ∧ ((base.tile 0).mac (macroOf 0)).due = false ∧ ((base.tile 0).mac (macroOf 0)).state = .plain ∧ base.mem.isPoison (spadKey 0 0 0) = false ∧ base.mem.isEmpty (spadKey 0 0 0) = false ∧ quiet? base (spadWordKey 0) = true) ∧
    (let st := onTile fun x => { x with macros := List.replicate 4 { mac0 with state := .stationary } }
after (exec (.sts (.w 1) 6 .d .offset .plain .tile 0) base) (fun t => t.mem.word (spadKey 0 0 0) == 7) && code st (.stsx (.w 1) 6 .zr .d .plain .tile) == some 0x11 &&
val st (.lds (.w 1) 6 .d .offset .plain .tile 0) (.w 1) == some 0 && val base (.ldsx (.w 1) 6 .zr .h .plain .tile) (.w 1) == some 0) = true := by decide +kernel

/-- R119, R120, R136: `ldf` of a full word, of an empty one, `stf`, and both in a macro. -/
theorem test_full_empty : (home? base (ad 1 0) 8 dataObj = true ∧ (base.tagView 0 1 (ad 1 0) dataObj.isUO).empty = false ∧ (base.tagView 0 1 (ad 1 0) false).poison = false ∧ ((inSlice { empty := true }).tagView 0 1 (ad 1 0) dataObj.isUO).empty = true ∧ home? (inSlice { empty := true }) (ad 1 0) 8 dataObj = true ∧ ((inSlice {}).tile 0).waiters.length < 256 ∧ (base.tile 0).spilled = [] ∧ quiet? base (objWordKey 1 (ad 1 0)) = true) ∧
    (after (exec (.ldf w5 0 .plain .tile 0) (inSlice { data := 5 })) (fun t => (th t).regs.w5 == 5 && (t.tagView 0 1 (ad 1 0) false).empty) &&
after (exec (.ldf w5 0 .plain .tile 0) (inSlice { empty := true })) (fun t => (sl0 t).state == .parked && (t.tile 0).waiters.length == 1) &&
after (exec (.stf (.w 1) 0 .plain .tile 0) (inSlice { empty := true })) (fun t => (t.tagView 0 1 (ad 1 0) false).data == 7 && !(t.tagView 0 1 (ad 1 0) false).empty) &&
after (exec (.ldfs w5 6 .plain .tile 0) base) (fun t => t.mem.isEmpty (spadKey 0 0 0)) && after (exec (.stfs (.w 1) 6 .plain .tile 0) base) (fun t => t.mem.word (spadKey 0 0 0) == 7)) = true := by decide +kernel

/-- R121, R122, R124: over the old value 5 and the operand 7; signed and unsigned order at -1; `acas` both ways. -/
theorem test_atomics : (let s := inSlice { data := 5 }
home? s (ad 1 0) 4 dataObj = true ∧ quiet? s (objWordKey 1 (ad 1 0)) = true ∧ ((s.afterRelease 0 [1] true .wafer).tagView 0 1 (ad 1 0) dataObj.isUO).poison = false ∧ AtomOp.minu ∉ [AtomOp.fadd, .fmax, .fmin]) ∧
    (let s := inSlice { data := 5 }
let r (s : State) (i : Instr) : Option (Word × Word) := match exec i s with | .next t => some ((th t).regs.w5, (t.tagView 0 1 (ad 1 0) false).data) | _ => none
let f (i : Reg → Ptr → Reg → Bool → Sys2Proof.Order → Scope → Bool → Instr) (s : State) := r s (i w5 0 (.w 1) false .plain .tile false)
let m := inSlice { data := 0xFFFFFFFF }
f .aadd s == some (5, 12) && f .aand s == some (5, 5) && f .aor s == some (5, 7) && f .axor s == some (5, 2) && f .aswp s == some (5, 7) &&
f .amin m == some (0xFFFFFFFF, 0xFFFFFFFF) && f .amax m == some (0xFFFFFFFF, 7) && f .aminu m == some (0xFFFFFFFF, 7) && f .amaxu m == some (0xFFFFFFFF, 0xFFFFFFFF) &&
r s (.aadd .zr 0 (.w 1) true .rel .wafer false) == some (0, 12) && r s (.acas w5 0 (.w 1) .plain .tile false) == some (5, 5) &&
r (inSlice {}) (.acas w5 0 (.w 1) .plain .tile true) == some (0, 7)) = true := by decide +kernel

/-- R123: 1 + 2; the greater and the lesser of 1 and 2. -/
theorem test_float_atomics : (((inSlice { data := 0x3F800000 }).tagView 0 1 (ad 1 0) false).poison = false ∧ (fp32.value 0x3F800000).isFinite = true ∧ (fp32.value 0x40000000).isFinite = true) ∧
    (let s := onTile fun x => { x with slices := [line0 1 { data := 0x3F800000 }], slots := [{ slot0 with th := { th0 with regs := { th0.regs with w1 := 0x40000000 } } }] }
let r (i : Instr) : Option Word := match exec i s with | .next t => some (t.tagView 0 1 (ad 1 0) false).data | _ => none
r (.afadd w5 0 (.w 1) false .plain .tile) == some 0x40400000 && r (.afmax w5 0 (.w 1) false .plain .tile) == some 0x40000000 && r (.afmin w5 0 (.w 1) false .plain .tile) == some 0x3F800000) = true := by decide +kernel

/-- R108, R126: a dirty line written back, and `trkw` with a write counted. -/
theorem test_fences : (let s := onTile fun x => { x with trackers := [{ open_ := true, count := 1 }], slots := [{ slot0 with th := { th0 with trkA := handle 0 0 } }] }
quiet? base 0 = true ∧ handleValid (th s).trkA = true ∧ handleTile (th s).trkA = 0 ∧ s.handleLost (th s).trkA = false ∧ 0 < ((s.tile 0).tracker (handleIdx (th s).trkA)).count) ∧
    (let s := onTile fun x => { x with trackers := [{ open_ := true, count := 1 }], slots := [{ slot0 with th := { th0 with trkA := handle 0 0 } }] }
let d := inL1 { data := 5, dirty := 0xFF }
after (exec (.fenceRel .stack) d) (fun t => ((t.tile 0).l1.all fun l => !l.isDirty) && t.mem != d.mem) && after (exec .trkw base) (fun t => (th t).pc == ad 2 20) &&
after (exec .trkw s) (fun t => (sl0 t).state == .wait .handles) && after (exec (.fenceAcq .tile) base) (fun t => (th t).pc == ad 2 20) &&
after (exec (.fenceAr .host) d) (fun t => (th t).pc == ad 2 20) && after (exec (.fenceAll .wafer) d) (fun t => (th t).pc == ad 2 20)) = true := by decide +kernel

/-! ### Threads -/

def spawnAt : State := onTh fun th => { th with regs := { th.regs with w1 := 0, w2 := pc0 }, kin := 1 }

/-- R130-R132: a child in slot 1 with number 16 and the caller's w0-w3. -/
theorem test_spawn : (spawnAt.issuing = true ∧ spawnAt.atService 0 0 = false ∧ bits 0#64 23 16 ≠ 0xFF ∧ nameTile ((0#64).extractLsb' 0 24) = 0 ∧ spawnAt.nameOk ((0#64).extractLsb' 0 24) = true ∧ pc0.toNat % 4 = 0 ∧ spawnAt.object 1 (objOf pc0) = some codeObj ∧ codeObj.isCode = true ∧ offOf pc0 < codeObj.size ∧ quiet? spawnAt 0 = true ∧ spawnAt.insts.look 1 = some inst0 ∧ inst0.killed = false ∧ (spawnAt.tile 0).quiesced 1 = false ∧ (spawnAt.tile 0).slots.length = 16 ∧ 16 ≤ (spawnAt.tile 0).nextSeq ∧ (spawnAt.tile 0).nextSeq ≤ 524287 ∧ (spawnAt.tile 0).posOf 1 = some 0 ∧ spawnAt.openSlot 0 = some 1 ∧ spawnAt.canSeat 0 1 = true) ∧
    (after (exec (.spawn w5 (.w 1) (.w 2)) spawnAt) (fun t => (t.slot 0 1).state == .ready && (t.slot 0 1).th.regs.w2 == pc0 && (th t).regs.w5 == 16 && (t.insts.look 1).map (·.live) == some 2) &&
after (exec (.spawnM w5 (.w 1) (.w 2)) spawnAt) (fun t => (t.slot 0 1).th.migratable && !(th t).migratable)) = true := by decide +kernel

def frame0 : Frame := { th := { th0 with pc := ad 2 64, tid := 20 }, child := tidOf 0 16, depth := 0 }

def inlineAt : State := onTile fun x => { x with slots := [{ slot0 with th := { th0 with st := 0x400 } }], frames := [frame0] }

def joinAt : State := onTile fun x => { x with slices := [line0 1 { data := 2 }] }

/-- R133-R135: an ordinary thread, an inline child, a join word of 2. -/
theorem test_exit : ((th base).inline = 0 ∧ base.curSlot.released = false ∧ (th inlineAt).inline ≠ 0 ∧ birthTile (th inlineAt).tid = 0 ∧ (inlineAt.tile 0).frames.find? (fun g => g.child == (th inlineAt).tid) = some frame0 ∧ home? joinAt (ad 1 0) 8 dataObj = true ∧ quiet? joinAt (objWordKey 1 (ad 1 0)) = true ∧ (joinAt.tagView 0 1 (ad 1 0) dataObj.isUO).poison = false) ∧
    (after (exec .exit base) (fun t => (sl0 t).state == .free && t.falls == [1]) && after (exec .exit inlineAt) (fun t => (sl0 t).ipc == ad 2 64 && t.falls == []) &&
after (exec (.exitJ 0) joinAt) (fun t => (t.tagView 0 1 (ad 1 0) false).data == 1 && (sl0 t).state == .free)) = true := by decide +kernel

/-- R138-R141: `pin` gives pinned with 64 pinned loads; `unpin` clears bits 23:13. -/
theorem test_pin : (base.insts.look 1 = some inst0 ∧ base.curSlot.retry = false ∧ ((base.charge 0 0 .pin).slot 0 0).eligAt = 8) ∧
    (after (exec .pin base) (fun t => (th t).st == 0x810000) && after (exec .unpin (onTh fun th => { th with st := 0xFFE3F1 })) (fun t => (th t).st == 0x3F1) &&
after (exec .hbeat (onSlot fun sl => { sl with budget := 5 })) (fun t => (sl0 t).budget == 65536)) = true := by decide +kernel

def flit0 : Flit := { kind := 0, th := { th0 with pc := ad 2 128, tid := 99 }, frm := 1 }

def queuedAt : State := onTile fun x => { x with queues := [(1, { depth := 2, pos := 0, q := [flit0] })] }

def hopAt (v : Word) : State := w12 v 0

/-- R139: to tile 0 itself, to tile 1, to a tile beyond the field; R140: `yield` to a waiting thread. -/
theorem test_hop : ((hopAt 0).nameOk 0 = true ∧ (hopAt 1).nameOk 1 = true ∧ nameTile 1 ≠ 0 ∧ (hopAt 0).nameOk 0x60 = false ∧ base.curSlot.resent = false ∧ (base.tile 0).queues.look 1 = some { depth := 2, pos := 0 } ∧ (queuedAt.tile 0).queues.look 1 = some { depth := 2, pos := 0, q := [flit0] } ∧ queuedAt.canSeat 0 1 = true ∧ (queuedAt.tile 0).posOf 1 = some 0 ∧ ((onTile fun x => { x with queues := [] }).tile 0).queues.look 1 = none) ∧
    (pcOf (hopAt 0) (.hop (.w 1)) == some (ad 2 20) && after (exec (.hop (.w 1)) (hopAt 1)) (fun t => (sl0 t).state == .wait (.departure 0 1 1 0)) &&
code (hopAt 0x60) (.hop (.w 1)) == some 4 && after (exec .yield queuedAt) (fun t => (th t).pc == ad 2 128 && ((t.tile 0).queues.look 1).map (·.q.length) == some 1) &&
pcOf (onTile fun x => { x with queues := [] }) .yield == some (ad 2 20)) = true := by decide +kernel

/-- R136, R137: a word of 2 against 7. -/
theorem test_waits : (home? joinAt (ad 1 0) 8 dataObj = true ∧ (joinAt.tile 0).waiters.length < 256 ∧ (joinAt.tile 0).spilled = [] ∧ (joinAt.tagView 0 1 (ad 1 0) dataObj.isUO).data = 2) ∧
    (let parks (i : Instr) := after (exec i joinAt) fun t => (sl0 t).state == .parked && (t.tile 0).waiters.length == 1
pcOf joinAt (.join 0 (.w 1)) == some (ad 2 20) && parks (.join 0 .zr) && parks (.waitwEq 0 (.w 1)) && pcOf joinAt (.waitwNe 0 (.w 1)) == some (ad 2 20) && parks (.waitwGe 0 (.w 1)) && pcOf joinAt (.waitwGe 0 .zr) == some (ad 2 20)) = true := by decide +kernel

def twoAt : State := onTile fun x => { x with slots := [slot0, { slot0 with th := { th0 with tid := 17 } }] ++ List.replicate 14 {} }

/-- R142: alone, and beside a thread of the team. -/
theorem test_barrier : (((List.range 16).all fun j => j == 0 || !base.member 0 0 j) = true ∧ twoAt.member 0 0 1 = true ∧ (twoAt.slot 0 1).state ≠ .wait .barrier) ∧
    (pcOf base .bar == some (ad 2 20) && after (exec .bar twoAt) (fun t => (sl0 t).state == .wait .barrier)) = true := by decide +kernel

def seamTeam : Team := { team0 with succ := [2, 0, 0, 0] }

def inst2 : Inst := { ctx := 1, rec_ := rec0, state := .successor, deps := [], succReady := true, read := true }

def seamAt : State :=
  { onTile fun x => { x with teams := [(0, seamTeam)] } with insts := [(1, inst0), (2, inst2)], mem := { State.reset.mem with cells := [(spadKey 0 0 0, 1)] } }

/-- R143, R319: the mask hands macro 0 on; registers w1 and `acc` go along. -/
theorem test_seam : ((seamAt.tile 0).teams.look 0 = some seamTeam ∧ ((seamAt.tile 0).mac (macroOf 0)).owner = some 0 ∧ seamTeam.succ.getD 0 0 = 2 ∧ seamAt.insts.look 2 = some inst2 ∧ ((seamAt.tile 0).seamShape 0 seamTeam (seamAt.seamMask 0 0)).1 ≤ 4 ∧ ((seamAt.tile 0).seamShape 0 seamTeam (seamAt.seamMask 0 0)).2 ≤ 1 ∧ ((List.range 256).all fun n => !(seamAt.seamMask 0 0).getLsbD n || ((seamAt.tile 0).mac n).owner == some 0) = true ∧ ((List.range 4).all fun n => !(seamAt.spadRead 0 (0 + fromNat (8 * n))).2) = true) ∧
    (after (exec (.seam 6 0x102 0 .tile) seamAt) (fun t => (sl0 t).state == .free && ((t.tile 0).teams.look 0).map (fun m => (m.kin, m.seam, m.seamRegs.w1, m.seamRegs.w2)) == some (2, some (4, 1, 4, 1), 7, 0))) = true := by decide +kernel

/-! ### Vector unit and engines -/

def vecAt (n : Word) : State := onTile fun x =>
  { x with macros := List.replicate 4 { mac0 with fmt := 1 } ++ List.replicate 252 {},
           slots := [{ slot0 with th := { th0 with regs := { th0.regs with w1 := 0x8000, w2 := 0, w3 := 0x4000, w4 := n } } }] }

/-- R157, R158: `vadd` of two elements, of none and of too many. -/
theorem test_vector_start : (vecForm (.vadd 1 2 3 4 false false false) = some ⟨.add, some (1, false), some (2, false), some (3, false), 4⟩ ∧ ((vecAt 2).tile 0).vec = none ∧ (vecAt 2).issuing = true ∧ (th (vecAt 2)).vprog = 0 ∧ ((vecAt 2).vecCheck 0 0 ⟨.add, some (1, false), some (2, false), some (3, false), 4⟩ 2).toOption.isSome = true ∧ ((vecAt 2).tile 0).vecAhead 0 0 = false ∧ (vecAt 2).vecHalts 0 0 = false) ∧
    (let i : Instr := .vadd 1 2 3 4 false false false
after (exec i (vecAt 2)) (fun t => ((t.tile 0).vec.map fun v => (v.n, v.at_)) == some (2, 0) && (sl0 t).state == .ready) && pcOf (vecAt 0) i == some (ad 2 20) && code (vecAt 4194241) i == some 4 &&
val { vecAt 0 with tiles := (vecAt 0).tiles } (.vrsum 2 4 false) .acc == some 0) = true := by decide +kernel

def f32s (key : Nat) (l : List (Nat × Byte)) : List (Nat × Byte) := l.map fun c => (key + c.1, c.2)

def addForm : VecForm := ⟨.add, some (1, false), some (2, false), some (3, false), 4⟩

def passAt : State :=
  { onTile fun x =>
      { x with macros := List.replicate 4 { mac0 with fmt := 1 } ++ List.replicate 252 {},
               vec := some { slot := 0, form := addForm, n := 2, len := 64, at_ := 0, begun := true, fmts := [(0, 1, 0), (1, 1, 0), (2, 1, 0)], due := 0, rm := 0, sat := false },
               slots := [{ slot0 with th := { th0 with regs := { th0.regs with w1 := 0x8000, w2 := 0, w3 := 0x4000, w4 := 2 } } }] }
    with mem := { State.reset.mem with cells := f32s (spadKey 0 0 0) [(2, 0x80), (3, 0x3F), (7, 0x40)] ++ f32s (spadKey 0 1 0) [(3, 0x40), (6, 0x80), (7, 0x3F)] } }

/-- R41, R152: 1 + 2 and 2 + 1 in FP32. -/
theorem test_vector_pass : ((passAt.tile 0).shut = false ∧ passAt.mem.wf = true ∧ passAt.mem.poison = [] ∧ passAt.fmtAt 0 0 = 1 ∧ passAt.fmtAt 0 1 = 1 ∧ passAt.fmtAt 0 2 = 1 ∧ (passAt.tile 0).spadGate 0 true = .go ∧ (passAt.tile 0).spadGate 1 true = .go ∧ (passAt.tile 0).spadGate 2 true = .go ∧ (passAt.elem 0 0 0).isFinite = true ∧ (passAt.elem 0 1 1).isFinite = true ∧ (passAt.elem 0 0 0).rat = 1 ∧ passAt.vecHalts 0 0 = false) ∧
    ((match passAt.vecCheck 0 0 addForm 2 with | .ok o => passAt.formatsOf 0 o == [(0, 1, 0), (1, 1, 0), (2, 1, 0)] && o.a == [(0, 0, 2, 0)] && o.b == [(1, 0, 2, 0)] && o.d == [(2, 0, 2, 0)] | _ => false) &&
after (exec (.vectorPassEnd 0) passAt) (fun t => t.elemCode 0 2 0 == 0x40400000 && t.elemCode 0 2 1 == 0x40400000 && (t.tile 0).vec.isNone && (sl0 t).ipc == ad 2 20)) = true := by decide +kernel

/-- No line is cached: no cached word holds an error. -/
theorem sound_of {s : State} (h : s.mem.weak = [] ∧ s.mem.soft = [] ∧ (s.tiles.all fun e => e.2.l1 == [] && e.2.slices == []) = true) :
    s.Sound := by
  refine ⟨h.1, h.2.1, fun u l hl => ?_⟩
  have key : ∀ (d : Tile) (m : Map Tile), d.l1 = [] → d.slices = [] → (m.all fun e => e.2.l1 == [] && e.2.slices == []) = true →
      (m.lookD u d).l1 = [] ∧ (m.lookD u d).slices = [] := by
    intro d m h1 h2
    induction m with
    | nil => intro _; exact ⟨h1, h2⟩
    | cons e m ih =>
      intro hm
      simp only [List.all_cons, Bool.and_eq_true, beq_iff_eq] at hm
      by_cases he : e.1 = u
      · simpa [Map.lookD, Map.look, he] using hm.1
      · simpa [Map.lookD, Map.look, he] using ih (by simpa using hm.2)
  have := key { Tile.fresh with extents := s.freshExtents } s.tiles rfl rfl h.2.2
  rcases hl with hl | hl
  · rw [show (s.tile u).l1 = [] from this.1] at hl; cases hl
  · rw [show (s.tile u).slices = [] from this.2] at hl; cases hl

/-- A pass of two positions of a form over macros 0, 1 and 2 in given formats: a is 1, 2; b is 2, 1; d is 0, 0; `acc` is 2. -/
def formRun (f : VecForm) (fa fb fd : BitVec 4) (fs : List (Nat × Nat × Nat)) : VecRun :=
  { slot := 0, form := f, n := 2, len := 64, at_ := 0, begun := true, fmts := fs, due := 0, rm := 0, sat := false, ints := fa == 12 && fb != 15 && fd == 15 }

def formAt (f : VecForm) (fa fb fd : BitVec 4) : State :=
  let s : State := { passAt with tiles := [(0, { passAt.tile 0 with
      macros := [{ mac0 with fmt := fa }, { mac0 with fmt := fb }, { mac0 with fmt := fd }] ++ List.replicate 253 {},
      slots := [{ slot0 with th := { th0 with acc := 0x40000000, regs := { th0.regs with w1 := 0x8000, w2 := 0, w3 := 0x4000, w4 := 2 } } }] }), (1, tile1)] }
  let fs := match s.vecCheck 0 0 f 2 with | .ok o => s.formatsOf 0 o | _ => []
  { s with tiles := [(0, { s.tile 0 with vec := some (formRun f fa fb fd fs) }), (1, tile1)] }

def form3 (op : VecOp) : VecForm := ⟨op, some (1, false), some (2, false), some (3, false), 4⟩
def form2 (op : VecOp) : VecForm := ⟨op, some (1, false), some (2, false), none, 4⟩
def formR (op : VecOp) : VecForm := ⟨op, none, some (2, false), (if op = .rdot then some (3, false) else none), 4⟩

/-- R152, R153: over a = 1, 2 and b = 2, 1, into FP32 and BF16. -/
theorem test_vector_forms : (let gives (f : VecForm) (fd : BitVec 4) (x y : Nat) : Bool := after (exec (.vectorPassEnd 0) (formAt f 1 1 fd)) (fun t => t.elemCode 0 2 0 == x && t.elemCode 0 2 1 == y && (t.tile 0).vec.isNone);
gives (form3 .sub) 1 0xBF800000 0x3F800000 && gives (form3 .mul) 1 0x40000000 0x40000000 && gives (form3 .min) 1 0x3F800000 0x3F800000 &&
gives (form3 .max) 1 0x40000000 0x40000000 && gives (form2 .neg) 1 0xBF800000 0xC0000000 && gives (form3 .cmplt) 1 0x3F800000 0 && gives (form3 .cmpeq) 1 0 0 &&
gives (form3 .fma) 1 0x40000000 0x40000000 && gives (form3 .fnma) 1 0xC0000000 0xC0000000 && gives (form2 .scal) 1 0x40000000 0x40800000 &&
gives (form3 .axpy) 1 0x40800000 0x40A00000 && gives (form3 .sel) 1 0x40000000 0x3F800000 && gives (form2 .rcp) 1 0x3F800000 0x3F000000 &&
gives (form2 .exp2) 1 0x40000000 0x40800000 && gives (form2 .log2) 1 0 0x3F800000 && gives (form2 .cvt) 2 0x3F80 0x4000 && gives (form2 .copy) 1 0x3F800000 0x40000000) = true := by decide +kernel

/-- R155: 1 + 2, 1 * 2 + 2 * 1, and the greater of 1 and 2. -/
theorem test_vector_reductions : (let r (op : VecOp) (v : Word) : Bool := after (exec (.vectorPassEnd 0) (formAt (formR op) 1 1 0)) (fun t => (th t).acc == v);
r .rsum 0x40400000 && r .rdot 0x40800000 && r .rmax 0x40000000 && r .rsumsq 0x40A00000) = true := by decide +kernel

def opsOf (s : State) (f : VecForm) : VecOps := match s.vecCheck 0 0 f 2 with | .ok o => o | _ => {}

/-- R156-R161: the hypotheses of the statements of a pass, of a form with a destination and of a reduction. -/
theorem wit_pass (f : VecForm) (fd : BitVec 4) (v : VecRun) (hs : (formAt f 1 1 fd).Sound)
    (h : (let s := formAt f 1 1 fd
      decide ((s.tile 0).shut = false ∧ (s.tile 0).vec = some v ∧ v.begun = true ∧ v.due ≤ s.now ∧ s.mem.wf = true ∧ s.mem.poison = [] ∧
        v.slot < (s.tile 0).slots.length ∧ v.fmts = s.formatsOf 0 (opsOf s f) ∧ (v.at_ < v.n ∧ 0 < v.len) ∧ (s.tile 0).waiters = [] ∧
        (s.tile 0).spilled = [] ∧ s.vecHalts 0 v.slot = false) && (match s.vecCheck 0 v.slot v.form v.n with | .ok o => o == opsOf s f | _ => false)) = true) :
    (formAt f 1 1 fd).PassEnds 0 v (opsOf (formAt f 1 1 fd) f) := by
  simp only [Bool.and_eq_true, decide_eq_true_eq] at h
  obtain ⟨⟨h1, h2, h3, h4, h5, h6, h7, h8, h9, h10, h11, h12⟩, h13⟩ := h
  refine ⟨h1, h2, h3, h4, h5, h6, hs, h7, ?_, h8, h9, fun w => by rw [h10, h11]; simp, h12⟩
  split at h13
  · rename_i o ho; rw [ho]; congr 1; simpa using h13
  · cases h13

theorem wit_pass_add : (formAt (form3 .add) 1 1 1).WritesPass 0 (formRun (form3 .add) 1 1 1 [(0, 1, 0), (1, 1, 0), (2, 1, 0)])
    (opsOf (formAt (form3 .add) 1 1 1) (form3 .add)) 2 0 :=
  { wit_pass _ 1 _ (sound_of (by decide +kernel)) (by decide +kernel) with
    dest := by decide +kernel, room := by decide +kernel, open_ := by decide +kernel }

theorem wit_pass_dot : (formAt (formR .rdot) 1 1 0).PassEnds 0 (formRun (formR .rdot) 1 1 0 [(0, 1, 0), (1, 1, 0)])
    (opsOf (formAt (formR .rdot) 1 1 0) (formR .rdot)) ∧
    (let o := opsOf (formAt (formR .rdot) 1 1 0) (formR .rdot)
     o.d = [] ∧ o.a = [(0, 0, 2, 0)] ∧ o.b = [(1, 0, 2, 0)] ∧ ((formAt (formR .rdot) 1 1 0).elem 0 0 1).isFinite = true ∧
       ((formAt (formR .rdot) 1 1 0).elem 0 1 1).isFinite = true) :=
  ⟨wit_pass _ 0 _ (sound_of (by decide +kernel)) (by decide +kernel), by decide +kernel⟩

def cmdAt (a b : Word) : State := onTh fun th => { th with regs := { th.regs with w1 := a, w2 := b } }

/-- R163-R165: a block at 64, one misaligned, `stn`, `mfmt` and `cbcfg`. -/
theorem test_engine_issue : ((cmdAt 64 0).queueOf 0 0 .cpe = some {} ∧ ((base.tile 0).mac (macroOf 64)).owner = some 0 ∧ ((base.tile 0).mac 3).owner = some 0 ∧ (base.tile 0).bufferOf 3 16 = none ∧ ((base.tile 0).buf 0).owner = some 0 ∧ blockForm (.cpy w5 1) = some (.cpy, w5, 1)) ∧
    (let q (s : State) (e : Eng) : Option (List Cmd) := (s.queueOf 0 0 e).map (·.q)
after (exec (.cpy w5 1) (cmdAt 64 0)) (fun t => (th t).regs.w5 == 1 && q t .cpe == some [{ op := .cpy, ticket := 1, block := 64, kin := 1, key := rec0.srkey }]) && code (cmdAt 8 0) (.bfly w5 1) == some 3 &&
after (exec (.stn w5 1 (.w 2)) (cmdAt 2 2)) (fun t => q t .bfe == some [{ op := .stn, ticket := 1, block := 0, a := 2, b := 2, kin := 1, key := rec0.srkey }]) &&
after (exec (.mfmt w5 1 (.w 2)) (cmdAt 3 1)) (fun t => q t .bfe == some [{ op := .mfmt, ticket := 1, block := 0, a := 3, b := 1, kin := 1, key := rec0.srkey }]) &&
after (exec (.cbcfg w5 1 (.w 2)) (cmdAt 64 0)) (fun t => q t .cpe == some [{ op := .cbcfg, ticket := 1, block := 64, a := 0, kin := 1, key := rec0.srkey }])) = true := by decide +kernel

def lineAt (q : EngQ) (n : Word) : State := { onTile fun x => { x with teams := [(0, { team0 with bfe := q })], slots := [{ slot0 with th := { th0 with regs := { th0.regs with w1 := n } } }] } with nextKin := 2 }

/-- R168: timeline 3 of 5, flags and an error. -/
theorem test_timeline : ((lineAt { issued := 5, done := 3 } 3).queueOf 0 0 .bfe = some { issued := 5, done := 3 }) ∧
    (let q : EngQ := { issued := 5, done := 3, flags := 4 }
val (lineAt q 0) (.tlread w5 .bfe) w5 == some 3 && pcOf (lineAt q 0) (.tlwait 1 .bfe) == some (ad 2 20) && code (lineAt q 6) (.tlwait 1 .bfe) == some 4 &&
after (exec (.tlwait 1 .bfe) (lineAt q 4)) (fun t => (sl0 t).state == .wait (.timeline .bfe)) && after (exec (.tlwait 1 .bfe) (lineAt q 3)) (fun t => (th t).st == 0x40) &&
code (lineAt { q with err := some (2, 9, 0) } 3) (.tlwait 1 .bfe) == some 0x13) = true := by decide +kernel

def bufAt (n : Word) : State := onTile fun x =>
  { x with bufs := { owner := some 0, cfg := some (3#64 <<< 17), filled := 2, free := 2 } :: List.replicate 15 {}, slots := [{ slot0 with th := { th0 with regs := { th0.regs with w1 := 0, w2 := n } } }] }

/-- R183: two of four slots filled. -/
theorem test_buffers : (((bufAt 2).tile 0).bufs.length = 16 ∧ (3#64 <<< 17).getLsbD 27 = false ∧ bits (3#64 <<< 17) 20 17 = 3) ∧
    (pcOf (bufAt 2) (.cbwait 1 (.w 2)) == some (ad 2 20) && after (exec (.cbwait 1 (.w 2)) (bufAt 3)) (fun t => (sl0 t).state == .wait (.buffer 0)) && code (bufAt 5) (.cbwait 1 (.w 2)) == some 4 &&
after (exec (.cbfree 1 (.w 2)) (bufAt 2)) (fun t => ((t.tile 0).buf 0).free == 4 && ((t.tile 0).buf 0).filled == 0) && code (bufAt 3) (.cbfree 1 (.w 2)) == some 4 &&
(val (bufAt 2) (.cbstat w5 1) w5).map (fun v => bits v 7 0) == some 2) = true := by decide +kernel

/-! ### System -/

def svcSlot (a b : Word) : Slot := { slot0 with th := { th0 with regs := { th0.regs with w1 := a, w2 := b }, tid := 0, kin := 0, ctx := 0 } }

def blocked0 : Slot := { slot0 with state := .blocked, fseq := 5, fault := some { code := 4, pc := pc0, addr := ad 1 9, extra := 0 } }

def msg0 : Msg := { kind := 1, seq := 5, slot := 0, tile := 0, w0 := 11, w1 := 12, w2 := 13, w3 := 14 }

/-- The service thread in slot 15 of tile 0, beside one kernel's slot. -/
def svcAt (k : Slot) (a b : Word) : State :=
  { onTile fun x => { x with slots := k :: List.replicate 14 {} ++ [svcSlot a b] } with fields := [(10, { tile := 0, svctx := 1, fbuf := [msg0], dropped := true })], cur := (0, 15) }

/-- R24, R191: of the base state. -/
theorem test_specials : (base.issuing = true ∧ base.atService 0 0 = false ∧ base.insts.look 1 = some inst0) ∧
    (val base (.mfs w5 0) w5 == some 16 && val base (.mfs w5 1) w5 == some 1 && val base (.mfs w5 2) w5 == some 1 && val base (.mfs w5 9) w5 == some 65534 && val base (.mfs w5 5) w5 == some 2 && code base (.mfs w5 0x0D) == some 1 && code base (.mfs w5 0x20) == some 2 && (val base (.mfs w5 0x0B) w5).isSome) = true := by decide +kernel

/-- R192. -/
theorem test_service_specials : ((svcAt slot0 0 0).issuing = true ∧ (svcAt slot0 0 0).atService 0 15 = true) ∧
    (let r (n : BitVec 6) := match exec (.mfs w5 n) (svcAt slot0 0 0) with | .next t => some (t.slot 0 15).th.regs.w5 | _ => none
r 0x20 == some 1 && r 0x21 == some 17 && r 0x22 == some 0 && r 0x23 == some 10 && r 0x24 == some 0 &&
after (exec (.mts (.w 1) 0x21) (svcAt slot0 16 0)) (fun t => !(t.field 10).dropped) && after (exec (.fbufWrite (.w 1)) (svcAt slot0 0 0)) (fun t => (t.field 10).dropped) && after (exec (.mts (.w 1) 0x20) (svcAt slot0 7 0)) (fun t => (t.field 10).svctx == 7)) = true := by decide +kernel

/-- R22, R23: the RW fields alone; a reserved `rm`. -/
theorem test_status_write : ((0x30007F5#64).toNat / 2 ^ 48 = 0 ∧ (0x3#64).toNat % 8 ≤ 4) ∧
    (after (exec (.mts (.w 1) 7) (w12 0x1000FFF1 0)) (fun t => (sl0 t).fault.map (·.code) == some 1) && after (exec (.mts (.w 1) 7) (w12 0x100FFF3 0)) (fun t => (th t).st == 0x10003F3) && code (w12 5 0) (.stWrite (.w 1)) == some 1 && after (exec (.stWrite (.w 1)) (w12 4 0)) (fun t => (th t).st == 4)) = true := by decide +kernel

def addWord : BitVec 32 := 0x01#6 ++ 3#4 ++ 1#4 ++ 2#4 ++ 0#14

def word0 (w : BitVec 32) : List (Nat × Byte) := (List.range 4).map fun i => (codeKey 1 2 16 + i, w.extractLsb' (8 * i) 8)

/-- A thread whose budget is gone, at `add w3, w1, w2`. -/
def spentAt : State := { onSlot (fun sl => { sl with budget := 0 }) with mem := { base.mem with cells := (word0 addWord).filter (fun c => c.2 != 0) } }

/-- R64, R193, R256-R258: `trap 5`, `brk 1`, `svc 2`, ILLEGAL, heartbeat, a comparator. -/
theorem test_faults : (0 < (base.tile 0).slots.length ∧ base.atService 0 0 = false ∧ (svcAt slot0 0 0).atService 0 15 = true ∧ spentAt.atService 0 0 = false ∧ spentAt.barred 0 0 = false ∧ (spentAt.slot 0 0).atBoundary = true ∧ spentAt.fetch 0 1 pc0 = .ok addWord ∧ Instr.isXw (.add (.w 3) (.w 1) (.w 2) false) = false) ∧
    (let f (i : Instr) : Option (Nat × Word) := match exec i base with | .next t => (sl0 t).fault.map (fun g => (g.code, g.extra)) | _ => none
f (.trap 5) == some (0x10, 0x805) && f (.brk 1) == some (0xF, 0xC01) && f (.svc 2) == some (0x10, 0x1002) && f (.illegal 9) == some (1, 9) &&
after (exec (.trap 5) base) (fun t => t.net.map (fun p => (p.vc, p.dst)) == [(0, 200)] && (sl0 t).fseq == 1 && (sl0 t).state == .blocked) &&
after (exec (.hbeatExpiry 0 0) spentAt) (fun t => (sl0 t).fault.map (·.code) == some 0xB) &&
after (exec (.breakpointMatch 0 0) { base with ctxs := [(1, { debuggable := true, brk := [0, pc0, 0, 0] })] }) (fun t => (sl0 t).fault.map (·.extra) == some 0x1401) &&
after (exec (.trap 5) (svcAt slot0 0 0)) (fun t => (t.slot 0 15).state == .stopped .service && t.hostOut.length == 1)) = true := by decide +kernel

/-- R26, R64: `xunmap` at user level. -/
theorem test_privilege : ((Instr.xunmap w5 (.w 1)).wellFormed = true ∧ Instr.xunmap w5 (.w 1) ∈ [Instr.reply w5 (.w 1) (.w 1), .replaya w5 (.w 1) (.w 1), .xmap w5 (.w 1) (.w 1), .xunmap w5 (.w 1)]) ∧
    (code base (.xunmap w5 (.w 1)) == some 2) = true := by decide +kernel

def blockedAt : State := svcAt blocked0 0x1000000500000000 0

/-- R195-R201: `reply` to the handle of slot 0's fault, an extent command, a message. -/
theorem test_service_forms : (quiet? (onTh id) 0 = true ∧ bits 0x1000000500000000 63 60 = 1 ∧ blockedAt.nameOk 0 = true ∧ blockedAt.handleOld 0x1000000500000000 = false ∧ handleTarget 0x1000000500000000 = 0 ∧ handleSlot 0x1000000500000000 = 0 ∧ (blockedAt.slot 0 0).fseq = (0x1000000500000000#64).extractLsb' 32 8 ∧ bits 1#64 63 28 = 0 ∧ (blockedAt.field 10).fbuf = [msg0] ∧ recvOk (.w 4) = true ∧ (blockedAt.slot 0 0).joined = none) ∧
    (after (exec (.reply w5 (.w 1) (.w 2)) blockedAt) (fun t => (sl0 t).state == .ready && (sl0 t).fault == none && (t.slot 0 15).th.regs.w5 == 0) &&
after (exec (.xunmap w5 (.w 1)) (svcAt slot0 (ad 1 0) 0)) (fun t => t.net.map (·.body) == [.svcReq .xunmap 1 (ad 1 0) 0 (.slot 0 15)]) &&
after (exec (.msend w5 (.w 1)) (svcAt slot0 1 0)) (fun t => t.net.map (·.dst) == [0]) && after (exec (.mrecv (.w 4)) blockedAt) (fun t => (t.slot 0 15).th.regs.w3 == 14 && (t.field 10).fbuf == [])) = true := by decide +kernel

/-- R201: `dstop` and `dresume` of slot 0; `replaya` of a granule. -/
theorem test_debug_forms : (blockedAt.debuggable 1 = true ∧ (svcAt { slot0 with state := .stopped .debug } 0 0).handleOld 0 = false ∧ blockedAt.granuleSlots 10 1 (ad 1 9) 0 = [(0, 0)] ∧ blockedAt.granuleSaved 10 1 (ad 1 9) 0 = [] ∧ (blockedAt.slot 0 0).released = false ∧ (blockedAt.slot 0 0).msgSlot = none ∧ (0, 0) ≠ (0, 15)) ∧
    (after (exec (.dstop w5 (.w 1)) (svcAt slot0 0 0)) (fun t => (sl0 t).stopReq) && after (exec (.dresume w5 (.w 1)) (svcAt { slot0 with state := .stopped .debug } 0 0)) (fun t => (sl0 t).state == .ready) &&
after (exec (.replaya w5 (.w 1) (.w 2)) (svcAt blocked0 (ad 1 9) 0)) (fun t => (sl0 t).state == .ready && (t.slot 0 15).th.regs.w5 == 1)) = true := by decide +kernel

/-! ### Packets -/

def pkt (b : Body) : Packet := { vc := 0, src := 1, dst := 0, gen := 0, slot := 0, body := b }

/-- No thread issues in this cycle (R228). -/
def rest (s : State) : State :=
  { s with tiles := s.tiles.map fun e => (e.1, { e.2 with slots := e.2.slots.map fun sl => { sl with eligAt := sl.eligAt + 1 } }) }

def at_ (s : State) (b : Body) : State := { rest s with net := [pkt b] }

def arrives? (s : State) (p : Packet) : Bool :=
  decide (s.net[0]? = some p) && decide (p.ret = .no) && s.canArrive 0 p && decide (p.dst < 16384) && !(s.tile p.dst).closed && !(s.tile p.dst).fenced

theorem arrives?_iff {s : State} {p : Packet} (h : arrives? s p = true) : s.Arrives 0 p := by
  simp only [arrives?, Bool.and_eq_true, decide_eq_true_eq, Bool.not_eq_true'] at h
  exact ⟨h.1.1.1.1.1, h.1.1.1.1.2, h.1.1.1.2, h.1.1.2, h.1.2, h.2⟩

def sent (t : State) (b : Body) : Bool := t.net.map (fun p => (p.vc, p.src, p.dst, p.slot)) == [(1, 0, 1, 0)] && t.net.map (·.body) == [b]

def five : State := inSlice { data := 5 }

/-- R112, R122, R135: a read, an atomic and a join decrement of the word 5. -/
theorem test_requests : (arrives? (at_ five (.readReq 1 (ad 1 0) .d)) (pkt (.readReq 1 (ad 1 0) .d)) = true ∧ home? (at_ five (.readReq 1 (ad 1 0) .d)) (ad 1 0) 8 dataObj = true ∧ five.object 1 (objOf (ad 1 0)) = some dataObj ∧ quiet? five (objWordKey 1 (ad 1 0)) = true ∧ AtomOp.add ∉ [AtomOp.fadd, .fmax, .fmin]) ∧
    (after (exec (.remoteReadRequest 0) (at_ five (.readReq 1 (ad 1 0) .d))) (fun t => sent t (.readData 5)) &&
after (exec (.remoteReadRequest 0) (at_ (inSlice { poison := true }) (.readReq 1 (ad 1 4) .w))) (fun t => sent t (.failed 0x0A (ad 1 0) 0)) &&
after (exec (.atomicRequest 0) (at_ five (.atomicReq 1 (ad 1 0) (some .add) true 7 0))) (fun t => sent t (.atomicResult 5) && (t.tagView 0 1 (ad 1 0) false).data == 12) &&
after (exec (.exitJDecrement 0) (at_ five (.exitJ 1 (ad 1 0)))) (fun t => sent t (.writeAck none none) && (t.tagView 0 1 (ad 1 0) false).data == 4)) = true := by decide +kernel

def trackAt (n : Nat) : State := onTile fun x => { x with trackers := [{ open_ := true, count := n }] }

def childTh : Thread := { th0 with tid := 0, pc := pc0 }

/-- R117, R132, R203, R214, R245: a peer window load, trackers, a placement, the directory. -/
theorem test_requests_tile : ((base.tile 0).peerMac 1 1 (macroOf 0) = .live ∧ ((base.tile 0).mac 0).state = .plain ∧ ((trackAt 0).tile 0).tracker 0 = { open_ := true } ∧ base.openSlot 0 = some 1 ∧ base.canSeat 0 1 = true ∧ ((base.tile 0).posOf 1).isSome = true ∧ arrives? (at_ base (.trackQuery 0 true)) (pkt (.trackQuery 0 true)) = true) ∧
    (after (exec (.peerWindowLoad 0) (at_ base (.peerLoad 1 1 0 .w))) (fun t => sent t (.readData 0)) && after (exec (.trackerQuery 0) (at_ (trackAt 0) (.trackQuery 0 true))) (fun t => sent t (.trackAnswer true none)) &&
after (exec (.trackerRelease 0) (at_ (trackAt 0) (.trackRelease 0 true 0))) (fun t => t.net == [] && (t.tile 0).tracker 0 == {}) &&
after (exec (.placementRequest 0) (at_ base (.placeReq childTh))) (fun t => sent t (.admission (some 16)) && (t.slot 0 1).th.tid == 16) &&
after (exec (.directoryFillRequest 0) (at_ base (.dirReq ⟨1, 9, .desc⟩))) (fun t => t.net.map (·.vc) == [1]) &&
after (exec (.directoryInvalidate 0) (at_ base (.dirInval ⟨1, 3, .desc⟩ 4))) (fun t => t.net.map (·.body) == [.invalDone 4] && (t.tile 0).odc.length == 2)) = true := by decide +kernel

/-- R106, R107, R120: a store, `stf`, an `.nr` atomic, a peer store, copy-engine words. -/
theorem test_writes : (home? (at_ five (.stf 1 (ad 1 0) 9 (some 3))) (ad 1 0) 8 dataObj = true ∧ dataObj.place ≠ 3 ∧ five.mem.wf = true ∧ quiet? base (spadWordKey 0) = true) ∧
    (after (exec (.storeWrite 0) (at_ five (.store 1 (ad 1 4) .w 9 false (some 3)))) (fun t => sent t (.writeAck (some 3) none) && (t.view 0 1 (ad 1 0)).data == 0x900000005) &&
after (exec (.stfWrite 0) (at_ (inSlice { empty := true }) (.stf 1 (ad 1 0) 9 none))) (fun t => (t.tagView 0 1 (ad 1 0) false).data == 9 && !(t.tagView 0 1 (ad 1 0) false).empty) &&
after (exec (.nrAtomicWrite 0) (at_ five (.nrAtomic 1 (ad 1 0) .xor true 1 none))) (fun t => (t.tagView 0 1 (ad 1 0) false).data == 4) &&
after (exec (.peerWindowStore 0) (at_ base (.peerStore 1 1 8 .b 0x1FF))) (fun t => sent t (.writeAck none none) && t.mem.word (spadKey 0 0 8) == 0xFF) &&
after (exec (.copyReadRequest 0) (at_ five (.copyReadReq 0 1 (ad 1 0) 3))) (fun t => t.net.map (·.body) == [.copyData 3 5 false 0]) &&
after (exec (.copyWrite 0) (at_ five (.copyWrite 0 1 (ad 1 0) 0xFF 8 false))) (fun t => t.net.map (·.body) == [.copyAck 0] && (t.view 0 1 (ad 1 0)).data == 8) &&
after (exec (.counterGridStore 0) (at_ five (.gridStore 1 (ad 1 0) [6] 2))) (fun t => t.net.map (·.body) == [.copyAck 2] && (t.view 0 1 (ad 1 0)).data == 6)) = true := by decide +kernel

def cpyRun : Run := { pos := 0, cmd := { op := .cpy, ticket := 1, block := 0 }, wait := .remote, left := 1, asked := [3] }

def cpyAt : State := onTile fun x => { x with cpe := some cpyRun }

/-- R106, R107, R181: a tracker, a remote store, words of the copy engine. -/
theorem test_acknowledgements : (cpyRun.tag ≠ 17 ∧ cpyRun.tag ≠ 18 ∧ ((trackAt 2).tile 0).tracker 0 = { open_ := true, count := 2 } ∧ arrives? (at_ (trackAt 2) (.writeAck (some 0) none)) (pkt (.writeAck (some 0) none)) = true) ∧
    (let c (b : Body) : State := { rest cpyAt with net := [{ pkt b with slot := cpyRun.tag }] }
after (exec (.writeAcknowledgement 0) (at_ (trackAt 2) (.writeAck (some 0) none))) (fun t => ((t.tile 0).tracker 0).count == 1) &&
after (exec (.writeAcknowledgement 0) (at_ (onSlot fun sl => { sl with state := .wait .reply, pend := .store none }) (.writeAck none none))) (fun t => (th t).pc == ad 2 20 && (sl0 t).state == .ready) &&
after (exec (.copyWriteAcknowledgement 0) (c (.copyAck 0))) (fun t => ((t.tile 0).cpe.map fun r => (r.left, r.wait)) == some (0, .run)) &&
after (exec (.copyReadData 0) (c (.copyData 3 8 false 0))) (fun t => ((t.tile 0).cpe.map fun r => r.got) == some [(3, (8, false))])) = true := by decide +kernel

def waitsFor (st : SlotState) (w : Pend) (b : Body) : State := at_ (onSlot fun sl => { sl with state := st, pend := w }) b

/-- R104, R112, R122, R132, R194, R203: each reply at slot 0. -/
theorem test_replies : (arrives? (waitsFor .remote (.load w5 .h true none false) (.readData 0xFFFF)) (pkt (.readData 0xFFFF)) = true ∧ base.atService 0 0 = false ∧ 0 < (base.tile 0).slots.length) ∧
    (let r (st : SlotState) (w : Pend) (i : Instr) (b : Body) (v : Word) : Bool := after (exec i (waitsFor st w b)) fun t => (th t).regs.w5 == v && (th t).pc == ad 2 20 && (sl0 t).state == .ready && t.net == []
r .remote (.load w5 .h true none false) (.readData 0) (.readData 0xFFFF) (-1) && r (.wait .reply) (.atomic w5) (.atomicResult 0) (.atomicResult 4) 4 &&
r (.wait .reply) (.spawn w5 0 0 false) (.admissionAnswer 0) (.admission (some 33)) 33 && r (.wait .reply) (.service w5 1 3) (.serviceAnswer 0) (.svcAnswer 4) 7 &&
after (exec (.readData 0) (waitsFor .remote (.load w5 .h true none false) (.failed 8 9 10))) (fun t => (sl0 t).fault == some { code := 8, pc := pc0, addr := 9, extra := 10 }) &&
after (exec (.trackerAnswer 0) (at_ (onSlot fun sl => { sl with state := .wait .handles, pend := .query true, reqSeq := 1 }) (.trackAnswer true none))) (fun t => (th t).drainB && (sl0 t).state == .ready) &&
after (exec (.directoryFill 0) (waitsFor (.wait .directory) .none (.dirFill { key := ⟨1, 7, .desc⟩, stamp := 0 }))) (fun t => (sl0 t).state == .ready && (t.tile 0).odc.length == 4)) = true := by decide +kernel

def full8 : State := { svcAt slot0 0 0 with fields := [(10, { tile := 0, fbuf := List.replicate 8 msg0 })] }

/-- R195-R202, R259: fault and service messages at the service tile, the buffer full, a dropped mark, `replaya` of region 0. -/
theorem test_messages : ((svcAt slot0 0 0).serviceField 0 = some 10 ∧ 10 ∈ (svcAt slot0 0 0).fields.map Prod.fst ∧ ¬ (full8.field 10).fbuf.length < 8 ∧ blocked0.fseq = msg0.seq) ∧
    (after (exec (.faultMessage 0) (at_ (svcAt slot0 0 0) (.faultMsg msg0 1 2))) (fun t => (t.field 10).fbuf == [msg0, msg0]) &&
after (exec (.faultMessage 0) (at_ full8 (.faultMsg msg0 1 2))) (fun t => (t.field 10).dropped && t.net.map (·.body) == [.droppedMark 1 2 5]) &&
after (exec (.serviceMessage 0) (at_ (svcAt slot0 0 0) (.svcMsg msg0 false))) (fun t => sent t (.svcAnswer 0) && (t.field 10).mq == [msg0]) &&
after (exec (.serviceMessage 0) { rest base with net := [{ pkt (.svcMsg msg0 true) with slot := 16 }] }) (fun t => (t.tile 0).monq == [msg0]) &&
after (exec (.serviceAnswer 0) (at_ (onSlot fun _ => blocked0) (.droppedMark 0 0 5))) (fun t => (sl0 t).dropped) &&
after (exec (.droppedAnswerRequest 0) (at_ base (.droppedReq 0 0))) (fun t => sent t (.svcAnswer 0))) = true := by decide +kernel

def bareObj : Object := { desc := (65535#512 <<< 64) ||| 0xB2#512 }

def mapAt : State := { base with objects := (objKey 1 4, bareObj) :: base.objects }

/-- R199, R292: `xmap` of a granule of a mapped-placement object to page 9 of tile 1. -/
theorem test_extent_request : (bareObj.place = 2 ∧ mapAt.xmapCheck 1 (ad 4 0) 0x180090000 = none ∧ mapAt.trueHome 1 (ad 4 0) 0 = none ∧ (mapAt.tile 1).pickPage 0x180090000 = some 9 ∧ nameTile (MapWord.home 0x180090000) = 1 ∧ (mapAt.tile 1).extent 1 4 0 = none) ∧
    (after (exec (.serviceRequest 0) (at_ mapAt (.svcReq .xmap 1 (ad 4 0) 0x180090000 .nobody))) (fun t => ((t.tile 1).extent 1 4 0).map (fun e => (e.page, e.state)) == some (9, .moving))) = true := by decide +kernel

/-! ### Waits and departures -/

def waitAt (w : Why) : State := onSlot fun sl => { sl with state := .wait w }

def waiter0 : Waiter := { key := 1, ctx := 1, addr := 0, form := .join, b := 0, seq := 0, slot := none, next := 0 }

def barAt : State := onTile fun x => { x with slots := [{ slot0 with state := .wait .barrier }, { slot0 with state := .wait .barrier }] ++ List.replicate 14 {} }

def spawnWait (since : Nat) : State := onSlot fun sl => { sl with state := .wait (.spawn since), pend := .spawn w5 1 pc0 false }

def later (s : State) (n : Nat) : State := { s with now := n }

/-- R19, R132, R142, R216, R237: each condition met, and a park too young to retry. -/
theorem test_waits_end : ((base.tile 0).shut = false ∧ ((waitAt (.engine .bfe)).slotQ 0 0 .bfe).q.length < 2 ∧ ((waitAt (.mac 0)).tile 0).mac 0 = mac0 ∧ quiet? (waitAt .handles) 0 = true ∧ ((List.range 16).all fun j => !barAt.member 0 0 j || (barAt.slot 0 j).state == .wait .barrier) = true ∧ isPlacement 1 = false ∧ nameTile ((1#64).extractLsb' 0 24) ≠ 0) ∧
    (let again (s : State) (i : Instr) : Bool := after (exec i s) fun t => (sl0 t).state == .ready && (th t).pc == pc0 && (sl0 t).retry
again (waitAt (.engine .bfe)) (.waitResume 0 0) && again (waitAt (.mac 0)) (.waitResume 0 0) && again (waitAt .handles) (.waitResume 0 0) && again (waitAt .alone) (.waitResume 0 0) &&
after (exec (.waitResume 0 0) barAt) (fun t => (th t).pc == ad 2 20 && (t.slot 0 1).th.pc == ad 2 20) && again (waitAt .fill) (.mergingFill 0 0) && again (later (waitAt (.park 0)) 256) (.parkRetry 0 0) &&
stops (exec (.parkRetry 0 0) (later (waitAt (.park 0)) 255)) &&
after (exec (.spawnRetry 0 0) (later (spawnWait 0) 256)) (fun t => (sl0 t).state == .wait (.childFlit 256 1 0))) = true := by decide +kernel

def freeAt : State := onTile fun x => { x with slots := List.replicate 16 {}, queues := [(1, { depth := 2, pos := 0, q := [flit0] })] }

def ringAt : State := onTile fun x => { x with ring := [flit0] }

def migAt : State := { rest base with net := [{ vc := 3, src := 1, dst := 0, gen := 0, body := .migrate flit0 }] }

/-- R207, R210, R216: a grant to the queue's head, the ring's head into the queue, a flit into slot 1, a waiter out of the spill area. -/
theorem test_arrivals : (freeAt.wokenClaim 0 = none ∧ freeAt.grantSlot 0 = some 0 ∧ freeAt.queueNext 0 = some 1 ∧ ((freeAt.tile 0).posOf 1).isSome = true ∧ (ringAt.tile 0).quiesced 1 = false ∧ migAt.openSlot 0 = some 1 ∧ migAt.canSeat 0 1 = true ∧ arrives? migAt { vc := 3, src := 1, dst := 0, gen := 0, body := .migrate flit0 } = true ∧ flit0.th.trace = false) ∧
    (after (exec (.slotGrant 0) freeAt) (fun t => (th t).pc == ad 2 128 && (sl0 t).state == .ready) && after (exec (.ringToQueue 0) ringAt) (fun t => (t.tile 0).ring == [] && ((t.tile 0).queues.look 1).map (·.q) == some [flit0]) &&
after (exec (.migrationFlit 0) migAt) (fun t => t.net == [] && (t.slot 0 1).th.pc == ad 2 128 && (t.slot 0 1).prev == some 1) &&
after (exec (.waiterUnspill 0) (onTile fun x => { x with spilled := [waiter0] })) (fun t => (t.tile 0).waiters == [waiter0] && (t.tile 0).spilled == [])) = true := by decide +kernel

def ldxWord : BitVec 32 := 0x1A#6 ++ 5#4 ++ 4#4 ++ 2#4 ++ 0#3 ++ 0#2 ++ 0#2 ++ 0#7

/-- R104, R132, R204: a thread leaves, a load gives up and asks, a hop is QSTALL, a child's flit gives up. -/
theorem test_departures : ((waitAt (.departure 0 0 1 0)).atService 0 0 = false ∧ (later { waitAt (.departure 0 0 1 0) with mem := { base.mem with cells := [] } } 4096).now = 4096 ∧ (th base).trace = false) ∧
    (after (exec (.migrationDeparture 0 0) (waitAt (.departure 0 1 1 0))) (fun t => t.net.map (fun p => (p.vc, p.dst)) == [(3, 1)] && (sl0 t).state == .free) &&
after (exec (.qstallTimeout 0 0) (later (waitAt (.departure 0 1 1 0)) 65536)) (fun t => (sl0 t).fault.map (·.code) == some 0x12) &&
after (exec (.childFlitTimeout 0 0) (later (onSlot fun sl => { sl with state := .wait (.childFlit 0 1 0), pend := .spawn w5 1 pc0 false, th := { sl.th with st := 0x1000 } }) 4096)) (fun t => (sl0 t).state == .wait (.spawn 4096)) &&
stops (exec (.childFlitTimeout 0 0) (onSlot fun sl => { sl with state := .wait (.childFlit 0 1 0), pend := .spawn w5 1 pc0 false, th := { sl.th with st := 0x1000 } }))) = true := by decide +kernel

def staleP : Packet := { vc := 0, src := 0, dst := 1, gen := 0, slot := 0, body := .readReq 1 (ad 3 0) .d, ret := .stale }

def ldxAt : State :=
  let s := later (waitAt (.departure 0 0 1 0)) 4096
  { s with mem := { s.mem with cells := (word0 ldxWord).filter (fun c => c.2 != 0) } }

/-- R104: `ldx.d w5, [w4, w2*8]` at w2 = 3 asks tile 1. -/
theorem test_load_gives_up : (ldxAt.waiting 0 0 = some (.ldx w5 4 (.w 2) .b .plain .tile) ∧ ldxAt.mem.wf = true) ∧
    (after (exec (.loadDepartureTimeout 0 0) ldxAt) (fun t => t.net.map (·.body) == [.readReq 1 (ad 3 3) .b] && (sl0 t).state == .remote)) = true := by decide +kernel

/-- R107, R249, R263, R379: a STALE packet once and again, a held one, CRC errors, a relock. -/
theorem test_returns : (base.object 1 (objOf (ad 3 0)) = some farObj ∧ base.trueHome 1 (ad 3 0) 0 = some 1 ∧ (base.tile 0).closed = false ∧ ({ base with net := [staleP] } : State).firstReturned staleP = true ∧ ({ staleP with ret := .no } : Packet).held = false) ∧
    (after (exec (.staleReturn 0) { base with net := [staleP] }) (fun t => t.net.map (fun p => (p.dst, p.resent, p.ret)) == [(1, true, .no)]) &&
after (exec (.staleReturn 0) { base with net := [{ staleP with resent := true }] }) (fun t => t.net.map (fun p => (p.dst, p.body)) == [(0, .failed 8 (ad 3 0) 1)]) &&
after (exec (.heldPacketResend 0) { base with gen := 1, held := [staleP] }) (fun t => t.held == [] && t.net.map (·.gen) == [1]) &&
after (exec (.clockRelock 0) (onTile fun x => { x with relock := true })) (fun t => !(t.tile 0).relock)) = true := by decide +kernel

def portAt : State := { base with ports := [{ role := 1 }], siteOf := [(0, Config.portSite 0)] }

/-- R350: the port's edge site is free (log 9); the witness places tile 0 there. -/
theorem wit_linkCrc : portAt.ports[0]? = some { role := 1 } ∧ portAt.tileAt (Config.portSite 0) = some 0 := by
  refine ⟨rfl, ?_⟩
  simp [portAt, State.tileAt]

def orphan : Nat := 10 * 96 + 50

def switchAt : State := { base with noClock := [(base.parentOf orphan, 0)] }

/-- R28, R382: a site whose parent has failed takes another neighbour. -/
theorem test_clock_parent : (switchAt.clocked (orphan - 96) 8448 = true ∧ orphan - 96 ∈ siteNeighbours orphan ∧ switchAt.forwards orphan = true ∧ switchAt.forwards (switchAt.parentOf orphan) = false ∧ orphan ≠ switchAt.clockRoot ∧ switchAt.descends (orphan - 96) orphan 8448 = false) ∧
    (after (exec (.clockParentSwitch orphan) switchAt) (fun t => (t.parents.look orphan).isSome && (t.parents.look orphan) != some (orphan - 1))) = true := by decide +kernel

/-! ### Engines -/

def stnCmd : Cmd := { op := .stn, ticket := 1, block := 0, a := 2, b := 2 }

def withEng (q : EngQ) (b c n : Option Run) : State := onTile fun x => { x with teams := [(0, { team0 with bfe := q })], bfe := b, cpe := c, nme := n }

def run0 (op : CmdOp) (blocks : List (List Word)) : Run := { pos := 0, cmd := { op := op, ticket := 1, block := 64 }, blocks := blocks }

def unstnStart : State := { onTile fun x => { x with teams := [(0, { team0 with bfe := { q := [{ stnCmd with op := .unstn, b := 1 }], issued := 1 } })], macros := List.replicate 4 { mac0 with state := .stationary } ++ List.replicate 252 {} } with nextKin := 2 }

/-- R163, R176: `stn` of two macros and `unstn` of one start. -/
theorem test_engine_start : ((withEng { q := [stnCmd], issued := 1 } none none none).runClosed 0 (run0 .bfly []) = false) ∧
    (after (exec (.commandStart 0 .bfe) (withEng { q := [stnCmd], issued := 1 } none none none)) (fun t => ((t.tile 0).bfe.map fun r => (r.cmd, r.due)) == some (stnCmd, 4) && ((t.tile 0).mac 2).state == .stationary && ((t.tile 0).mac 1).state == .plain) &&
after (exec (.commandStart 0 .bfe) unstnStart) (fun t => ((t.tile 0).bfe.map (·.due)) == some 3 && ((t.tile 0).mac 2).state == .plain && ((t.tile 0).mac 3).state == .stationary)) = true := by decide +kernel

def done1 (i : Instr) (s : State) (e : Eng) : Bool := after (exec i s) fun t => ((t.tile 0).run e).isNone && ((t.tile 0).teams.look 0).map (fun m => (m.engQ e).done) == some 1

def unstnAt : State := onTile fun x => { x with bfe := some { run0 .unstn [] with cmd := { op := .unstn, ticket := 1, block := 0, a := 2, b := 1 } }, macros := List.replicate 4 { mac0 with state := .stationary } ++ List.replicate 252 {} }

/-- R168, R176, R184: the last stage, `unstn`, the last row, the last element. -/
theorem test_engine_ends : ((run0 .cpy []).job.rows = 1 ∧ (nmJob ([0, 1].getD 0 0 :: [1]) 0).count = 1) ∧
    (done1 (.butterflyStageEnd 0) (withEng {} (some (run0 .bfly [List.replicate 8 0])) none none) .bfe &&
done1 (.macroControlEnd 0) unstnAt .bfe &&
done1 (.copyRowEnd 0) (rest (withEng {} none (some { run0 .cpy [] with prog := 1 }) none)) .cpe &&
done1 (.nmeOperationEnd 0) (rest (withEng {} none none (some (run0 .nrzero [[0, 1, ad 1 0, 0, 0, 0, 0, 0]])))) .nme) = true := by decide +kernel

/-- Macros 1, 2 and 3 in given formats, and bytes of memory; an engine runs a command whose block is in macro 0. -/
def engAt (f1 f2 f3 : BitVec 4) (cells : List (Nat × Byte)) (b c n : Option Run) : State :=
  { rest (onTile fun x =>
      { x with macros := [mac0, { mac0 with fmt := f1 }, { mac0 with fmt := f2 }, { mac0 with fmt := f3 }] ++ List.replicate 252 {},
               bfe := b, cpe := c, nme := n })
    with mem := { State.reset.mem with cells := cells } }

/-- X = (1, 2) in FP32 in macro 1; W = (1 2; 1 -1) in BF16 in macro 3; Y in FP32 in macro 2. -/
def bflyBlock : List Word := [0, 1, 0x4000, 0x8000, 3, 0, 0, 0]
def bflyRun : Run := { run0 .bfly [bflyBlock] with fmts := [(1, 1, 0), (2, 1, 0), (3, 2, 0)] }
def bflyAt : State := engAt 1 1 2
  (f32s (spadKey 0 1 0) [(2, 0x80), (3, 0x3F), (7, 0x40)] ++ f32s (spadKey 0 3 0) [(0, 0x80), (1, 0x3F), (3, 0x40), (4, 0x80), (5, 0x3F), (6, 0x80), (7, 0xBF)])
  (some bflyRun) none none

/-- R172: y = (1 * 1 + 2 * 2, 1 * 1 - 1 * 2). -/
theorem test_butterfly : (let g := stageOf bflyBlock 0
bflyAt.runClosed 0 bflyRun = false ∧ g.nsp = 0 ∧ g.acc = false ∧ g.zskip = false ∧ g.cb = false ∧ g.cm1 = 0 ∧ g.wl ≤ g.sl ∧ g.sl + 1 ≤ g.nl ∧ g.first = 3 ∧ g.stored = 4 ∧ g.size = 2 ∧
  bflyAt.region 0 (stageX [bflyBlock] 0) 2 = [(1, 0, 2, 0)] ∧ bflyAt.region 0 (stageY [bflyBlock] 0) 2 = [(2, 0, 2, 0)] ∧ bflyAt.mem.wf = true ∧
  (bflyRun.fmts.all fun f => f.2.1 == bflyAt.fmtAt 0 f.1 && f.2.2 == bflyAt.grpAt 0 f.1) = true ∧ macroOf bflyRun.cmd.block ≠ 2 ∧
  ((List.range 4).all fun i => (bflyAt.elem 0 3 i).isFinite) = true ∧ ((List.range 2).all fun i => (bflyAt.elem 0 1 i).isFinite) = true) ∧
    (after (exec (.butterflyStageEnd 0) bflyAt) (fun t => t.elemCode 0 2 0 == 0x40A00000 && t.elemCode 0 2 1 == 0xBF800000)) = true := by decide +kernel

/-- A row of two elements from macro 1 to macro 2. -/
def rowRun (op : CmdOp) (ctl : Word) (raw : Bool) (fs : List (Nat × Nat × Nat)) : Run :=
  { run0 op [[0x500 ||| ctl, if raw then 8 else 2, 0x4000, 0x8000, 0, 0, 0, 0]] with begun := true, raw := raw, fmts := fs }

/-- 1 and 2 in FP32 in macro 1; 1 and 0 in FP32, or four bytes of it in BF16, in macro 2. -/
def rowAt (f2 : BitVec 4) (r : Run) : State := engAt 1 f2 0 (f32s (spadKey 0 1 0) [(2, 0x80), (3, 0x3F), (7, 0x40)] ++ f32s (spadKey 0 2 0) [(2, 0x80), (3, 0x3F)]) none (some r) none

/-- R179: codes of one format, FP32 into BF16, bytes, and `cred` of (1, 2) onto (1, 0). -/
theorem test_rows : (let r := rowRun .cpy 0 false [(1, 1, 0), (2, 2, 0)]
let s := rowAt 2 r
s.turn 0 (engRank .cpe) = true ∧ r.prog < r.job.rows ∧ r.job.ck = false ∧ r.job.sk = 1 ∧ r.job.dk = 1 ∧ r.job.rl = 2 ∧
  (match s.spadRow 0 (rowAddr r.job.src r.job.srs r.prog) 2 false with | .ok gs => gs == [(1, 0, 2, 0)] | _ => false) = true ∧
  (match s.spadRow 0 (rowAddr r.job.dst r.job.drs r.prog) 2 false with | .ok gs => gs == [(2, 0, 2, 0)] | _ => false) = true ∧
  (r.fmts.all fun f => f.2.1 == s.fmtAt 0 f.1 && f.2.2 == s.grpAt 0 f.1) = true ∧ s.mem.wf = true ∧ (s.elem 0 1 1).isFinite = true) ∧
    (let row (f2 : BitVec 4) (r : Run) (x y : Nat) : Bool := after (exec (.copyRowEnd 0) (rowAt f2 r)) (fun t => t.elemCode 0 2 0 == x && t.elemCode 0 2 1 == y);
row 1 (rowRun .cpy 0 false [(1, 1, 0), (2, 1, 0)]) 0x3F800000 0x40000000 && row 2 (rowRun .cpy 0 false [(1, 1, 0), (2, 2, 0)]) 0x3F80 0x4000 &&
row 1 (rowRun .cpy 0 true []) 0x3F800000 0x40000000 && row 1 (rowRun .cred 0 false [(1, 1, 0), (2, 1, 0)]) 0x40000000 0x40000000 &&
row 1 (rowRun .cred 0x400000 false [(1, 1, 0), (2, 1, 0)]) 0x3F800000 0x40000000) = true := by decide +kernel

/-- Eight bytes from object 1 to macro 2, and from macro 1 to object 1. -/
def bytesIn : Run := { run0 .cpy [[0x400, 8, ad 1 0, 0x8000, 0, 0, 0, 0]] with begun := true, raw := true, got := [(2 ^ 40, (0x0807060504030201, false))] }
def bytesOut : Run := { run0 .cpy [[0x100, 8, 0x4000, ad 1 8, 0, 0, 0, 0]] with begun := true, raw := true }

theorem test_row_bytes : (bytesIn.job.sk = 0 ∧ bytesIn.job.dk = 1 ∧ bytesIn.job.rl = 8 ∧ (rowAddr bytesIn.job.src bytesIn.job.srs 0).toNat = 2 ^ 40 ∧
  (match (rowAt 1 bytesIn).spadRow 0 (rowAddr bytesIn.job.dst bytesIn.job.drs 0) 8 true with | .ok gs => gs == [(2, 0, 8, 0)] | _ => false) = true ∧
  bytesOut.job.sk = 1 ∧ bytesOut.job.dk = 0 ∧ (match (rowAt 1 bytesOut).spadRow 0 (rowAddr bytesOut.job.src bytesOut.job.srs 0) 8 true with | .ok gs => gs == [(1, 0, 8, 0)] | _ => false) = true ∧
  (rowAt 1 bytesOut).object ((rowAt 1 bytesOut).runTeam 0 bytesOut).ctx 1 = some dataObj ∧ (rowAt 1 bytesOut).trueHome 1 (ad 1 8) 0 = some 0 ∧ (rowAt 1 bytesOut).gate 0 1 (ad 1 8) false = .go ∧
  (rowAt 1 bytesOut).waitersAt 0 (objWordKey 1 (ad 1 8)) = [] ∧ ((rowAt 1 bytesOut).tile 0).l1 = [] ∧ ((rowAt 1 bytesOut).tile 0).slices = []) ∧
    (after (exec (.copyRowEnd 0) (rowAt 1 bytesIn)) (fun t => t.mem.word (spadKey 0 2 0) == 0x0807060504030201) &&
after (exec (.copyRowEnd 0) (rowAt 1 bytesOut)) (fun t => (t.view 0 1 (ad 1 8)).data == 0x400000003F800000)) = true := by decide +kernel

/-- Page 5 of tile 0 holds object 1: a row at 2048, x at 16384, y at 32768; the program of `nexpr` is in macro 0. -/
def nmAt (op : CmdOp) (w : List Word) (cells : List (Nat × Byte)) : State := engAt 0 0 0 cells none none (some (run0 op [w]))

def dram (off : Nat) : Nat := dramKey 0 5 off

/-- 1.0 at offset 2052, program A K0 MUL with K0 = 2. -/
def exprAt : State := nmAt .nexpr [0x1001, 1, ad 1 4096, ad 1 2052, 0, 0, 0x100, 0]
  (f32s (dram 2048) [(6, 0x80), (7, 0x3F)] ++ f32s (spadKey 0 0 0x100) [(0, 1), (1, 4), (2, 10), (35, 0x40)])

def blockCopyAt : State := nmAt .nbcopy [0, 1, ad 1 4096, ad 1 2048, 0, 0, 0, 0] (f32s (dram 2048) [(6, 0x80), (63, 9)])

/-- R186, R187: 64 bytes copied, and an element 1.0 * 2. -/
theorem test_near_memory : (blockCopyAt.turn 0 (engRank .nme) = true ∧ blockCopyAt.mem.wf = true ∧ exprAt.mem.wf = true ∧ (exprAt.runTeam 0 (run0 .nexpr [])).ctx = 1 ∧
  exprOps (exprAt.progBytes 0 0x100) = [1, 4, 10] ∧ (nmJob [0x1001, 1, ad 1 4096, ad 1 2052, 0, 0, 0x100, 0] 0).fd = 1 ∧ (nmJob [0x1001, 1, ad 1 4096, ad 1 2052, 0, 0, 0x100, 0] 0).fa = 1) ∧
    (after (exec (.nmeOperationEnd 0) blockCopyAt) (fun t => t.mem.byte (dram 4102) == 0x80 && t.mem.byte (dram 4159) == 9 && t.mem.byte (dram 2111) == 9) &&
after (exec (.nmeOperationEnd 0) exprAt) (fun t => t.mem.byte (dram 4099) == 0x40 && t.mem.byte (dram 4098) == 0)) = true := by decide +kernel

/-- R185: the operands' places, and the program run by the rule of R187. -/
theorem wit_near_memory : exprAt.InDram 0 1 (ad 1 2052) 4 (dram 2052) ∧ exprAt.InDram 0 1 (ad 1 4096) 4 (dram 4096) ∧ exprAt.Sound ∧
    exprAt.NoLines 0 1 .nexpr (nmJob [0x1001, 1, ad 1 4096, ad 1 2052, 0, 0, 0x100, 0] 0) ∧
    ExprRuns (fun c => if c = 1 then 0x3F800000 else 0x40000000) [1, 4, 10] [] [0x40000000] := by
  have ext : (exprAt.tile 0).extent 1 1 0 = some { ctx := 1, obj := 1, gran := 0, page := 5 } := by decide +kernel
  refine ⟨⟨_, dataObj, ext, by decide +kernel, by decide +kernel, by decide +kernel, by decide +kernel, by decide +kernel⟩,
    ⟨_, dataObj, ext, by decide +kernel, by decide +kernel, by decide +kernel, by decide +kernel, by decide +kernel⟩, sound_of (by decide +kernel), ?_, ?_⟩
  · intro q l _ _ hl
    rw [show (exprAt.tile 0).l1 = [] by decide +kernel, show (exprAt.tile 0).slices = [] by decide +kernel] at hl
    simp at hl
  · have h1 : fp32.value 0x3F800000 = .fin false 8388608 (-23) := by decide +kernel
    have h2 : fp32.value 0x40000000 = .fin false 8388608 (-22) := by decide +kernel
    refine .push 1 _ _ _ (by decide) (by decide) (.push 4 _ _ _ (by decide) (by decide) (.two 10 0x3F800000 0x40000000 0x40000000 2 _ _ _
      (by rw [h1]; rfl) (by rw [h2]; rfl) (.inr (.inr ⟨rfl, ?_⟩)) (by norm_num) ⟨.fin false 2 0, rfl, by norm_num [Val.rat], by decide +kernel⟩ (.done _)))
    rw [h1, h2]
    norm_num [Val.rat]

/-- Weights of zeros but for q = 2 at row 0, column 0, of scale 1; x = 3 there; the checksum holds. -/
def gemvAt : State := nmAt .ngemv [0x100B, 1, 0, ad 1 16384, ad 1 0, ad 1 32768, 0, 0] (f32s (dram 0) [(0, 2), (14337, 0x3C), (15680, 2), (16384, 3)])

/-- R188. -/
theorem wit_gemv : (nmJob [0x100B, 1, 0, ad 1 16384, ad 1 0, ad 1 32768, 0, 0] 0).b = ad 1 0 ∧ gemvAt.mem.wf = true ∧ gemvAt.mem.poison = [] ∧
    ((List.range 112).all fun p => (fp16.value (gemvAt.mem.num (dram (14336 + 2 * p)) 2)).isFinite) = true ∧
    (gemvAt.tile 0).extent 1 1 0 = some { ctx := 1, obj := 1, gran := 0, page := 5 } := by decide +kernel

def cfg0 : Word := 3#64 <<< 17

def slotsAt (b c : Option Run) : State := onTile fun x => { x with bufs := { owner := some 0, cfg := some cfg0, filled := 2, free := 2 } :: List.replicate 15 {}, bfe := b, cpe := c }

/-- R183: a filled slot for the butterfly engine, a free one for the copy engine. -/
theorem test_buffer_slots : ((stageOf [] 0).cbn = 0 ∧ (run0 .cpy []).job.cbn = 0) ∧
    (after (exec (.bufferSlotTake 0) (slotsAt (some { run0 .bfly [List.replicate 8 0] with wait := .slot }) none)) (fun t => ((t.tile 0).buf 0).filled == 1 && ((t.tile 0).buf 0).held == 1) &&
after (exec (.copySlotTake 0) (slotsAt none (some { run0 .cpy [] with wait := .slot }))) (fun t => ((t.tile 0).buf 0).free == 1)) = true := by decide +kernel

def recv0 : Recv := { num := 1, kin := 1, pos := 0, src := 1, buf := none }

def routeAt (b : Body) (buf : Option Nat) : State := at_ (onTile fun x => { x with recvs := [{ recv0 with buf := buf, slot := if buf.isSome then 1 else 0 }], macros := List.replicate 4 { mac0 with fmt := 1 } ++ List.replicate 252 {}, bufs := { owner := some 0, cfg := some cfg0, filled := 1, free := 1 } :: List.replicate 15 {} }) b

def el0 : SrcEl := { fmt := 1, code := 0x3F800000, idx := 0 }

def rowFlit : RouteFlit := { num := 1, kin := 1, dst := 0, cbn := none, row := 0, len := 1, off := 0, rm := 0, sat := false, key := 0, all := false, inp := 4, data := [el0] }

def rowBody : Body := .route rowFlit

/-- R253, R254: a row of one element into macro 0, the last flit, a grant. -/
theorem test_routes : (arrives? (routeAt rowBody none) (pkt rowBody) = true ∧ ((routeAt rowBody none).tile 0).recvOf 1 1 1 4 = some recv0 ∧ ((routeAt rowBody none).tile 0).quiesced ((routeAt rowBody none).kinAt 0 1) = false) ∧
    ((match ({ routeAt rowBody none with net := [] } : State).rowIn 0 recv0 rowFlit with | .ok _ v _ _ => (v.num, v.kin, v.src) == (1, 1, 1) | _ => false) &&
after (exec (.routeDataFlit 0) (routeAt rowBody none)) (fun t => t.elemCode 0 0 0 == 0x3F800000) &&
after (exec (.routeLastFlit 0) (routeAt (.routeLast { rowFlit with data := [], off := 1 }) (some 0))) (fun t => (t.tile 0).recvs == [] && ((t.tile 0).buf 0).filled == 2) &&
after (exec (.routeSlotGrant 0) { rest (withEng {} none (some { run0 .csend [[0, 1 <<< 44]] with cmd := { op := .csend, ticket := 1, block := 64, kin := 1 } }) none) with net := [pkt (.routeGrant 0 1 1 0)] }) (fun t => ((t.tile 0).cpe.map (·.granted)) == some [1])) = true := by decide +kernel

def scrubAt (since : Option Nat) : State := { onTile fun x => { x with macros := { mac0 with state := .scrubbing, fmt := 1, since := since } :: List.replicate 255 {} } with mem := { base.mem with cells := [(spadKey 0 0 5, 1), (spadKey 0 1 0, 2)] } }

/-- R243, R244: a scrub takes macro 0, and ends with it zero. -/
theorem test_scrub : ((scrubAt none).mem.wf = true ∧ ((scrubAt none).tile 0).macros.length = 256 ∧ ((List.range 256).all fun j => j == 0 || ((scrubAt none).tile 0).mac j == {}) = true) ∧
    (after (exec (.scrubStart 0 0) (later (scrubAt none) 9)) (fun t => ((t.tile 0).mac 0).since == some 9) &&
after (exec (.scrubEnd 0 0) (later (scrubAt (some 0)) 1024)) (fun t => ((t.tile 0).mac 0).state == .plain && t.mem.cells == [(spadKey 0 1 0, 2)])) = true := by decide +kernel

def idleAt : State := onTile fun x => { x with slots := List.replicate 16 {} }

/-- R324: a team with nothing left on the tile. -/
theorem test_retire : (idleAt.instHere 0 1 = false ∧ (idleAt.tile 0).commandsDone 0 team0 = true ∧ team0.seam = none ∧ idleAt.insts.look 1 = some inst0) ∧
    (after (exec (.teamRetire 0 0) idleAt) (fun t => (t.tile 0).teams == [] && ((t.tile 0).mac 0).state == .scrubbing && (t.insts.look 1).map (·.teams) == some 0)) = true := by decide +kernel

/-! ### Launches and pre-emption -/

def recordWords : List Word := [pc0, 0, 0, 0x01010000, 0, 0x40001, 0x240, 0]

def launchReq (l : List Word) : HostReq := { ctx := 1, tag := 5, port := 0, addr := 0, len := 256, data := (l ++ List.replicate (32 - l.length) 0).flatMap wordBytes }

def hostAt : State := { base with ports := [{ role := 1 }] }

def instOf (st : InstState) (live : Nat) : Inst := { inst0 with state := st, live := live, teams := 0, admitted := 0 }

def orderAt (st : InstState) : State := { onTile fun x => { x with slots := List.replicate 16 {}, teams := [], macros := List.replicate 256 {}, bufs := List.replicate 16 {}, queues := [] } with insts := [(1, instOf st 0)] }

def fullRec : List Word := [pc0, 0, 0, 0x01010000, 0, 0x00040001, 0x240 + 64, 0]

/-- R301, R302: a record of one tile with one thread is accepted as instance 1 of an empty module, a record of zeros is not. -/
theorem test_launch : (({ hostAt with insts := [] } : State).hostUp (launchReq fullRec) = true ∧ (launchReq fullRec).data.length = 256 ∧ ({ hostAt with insts := [] } : State).numbers 1 = [1]) ∧
    (let s : State := { hostAt with insts := [] }
after (exec (.launch (launchReq fullRec)) s) (fun t => t.hostOut.map (·.status) == [256] && (t.insts.look 1).map (·.state) == some .waiting) &&
after (exec (.launch (launchReq [])) s) (fun t => t.hostOut.map (·.status) == [2] && t.insts == [])) = true := by decide +kernel

/-- R304-R307, R312-R314: ready, released, sent, ordered, admitted, counted down, complete. -/
theorem test_launch_chain : ((orderAt .released).instBusy 1 = false ∧ ({ orderAt .released with fields := [(10, { tile := 200, launches := [1] })] } : State).insts.look 1 = some (instOf .released 0) ∧ base.enabled = true) ∧
    (after (exec (.launchReady 1) (orderAt .waiting)) (fun t => (t.insts.look 1).map (·.state) == some .ready) &&
after (exec (.launchRelease 1) (orderAt .ready)) (fun t => (t.insts.look 1).map (·.state) == some .released && (t.field 10).launches == [1]) &&
after (exec (.fieldLaunch 10 1) { orderAt .released with fields := [(10, { tile := 200, launches := [1] })] }) (fun t => (t.field 10).sent == [(0, 1)]) &&
after (exec (.admissionOrder 0 1) { orderAt .released with fields := [(10, { tile := 200, sent := [(0, 1)] })] }) (fun t => (t.tile 0).orders == [{ kin := 1, prio := 1 }]) &&
after (exec .liveCountReport { base with falls := [1] }) (fun t => t.falls == [] && (t.insts.look 1).map (·.live) == some 0) &&
after (exec (.instanceComplete 1) (orderAt .released)) (fun t => t.insts == [] && t.hostOut.map (·.cls) == [4]) &&
after (exec (.freeSlotUpdate 0) base) (fun t => (t.tile 0).reported == base.freeSlots 0) && after (exec .freeCountRefresh base) (fun t => (t.freeCounts.look 127).isSome) &&
after (exec (.successorReady 1) { orderAt .successor with insts := [(1, { instOf .successor 0 with succReady := false })] }) (fun t => (t.insts.look 1).map (·.succReady) == some true)) = true := by decide +kernel

def admitAt : State := let s := orderAt .released; { s with tiles := s.tiles.map (fun e => (e.1, if e.1 = 0 then { e.2 with orders := [{ kin := 1, prio := 1 }] } else e.2)) }

/-- R306, R307: four macros and one thread in slot 0. -/
theorem test_admission : (admitAt.admits 0 { kin := 1, prio := 1 } = true ∧ (admitAt.tile 0).posOf 1 = none ∧ (admitAt.tile 0).freePos = some 0 ∧ ((admitAt.kernelSlots 0).filter (fun k => (admitAt.slot 0 k).state == .free)).head? = some 0) ∧
    (after (exec (.teamAdmission 0) admitAt) (fun t => (sl0 t).state == .ready && (th t).pc == pc0 && ((t.tile 0).mac 3).owner == some 0 && ((t.tile 0).mac 4).owner == none && (t.insts.look 1).map (·.live) == some 1)) = true := by decide +kernel

def wantAt : State := { onTile fun x => { x with teams := [(0, { team0 with prio := 0 })], orders := [{ kin := 2, prio := 2 }] } with insts := [(1, inst0), (2, { instOf .released 0 with rec_ := { rec0 with prio := 2 } })] }

def save0 : Save := { team := { team0 with closed := true }, pos := 0, slots := [], macros := List.replicate 4 mac0, bufs := [buf0] }

def quietAt : State := onTile fun x => { x with teams := [(0, { team0 with closed := true })], slots := [{ slot0 with state := .stopped .quiesce }] ++ List.replicate 15 {}, victims := [0], saves := [(0, save0)] }

def savedAt : State := onTile fun x => { x with teams := [], slots := List.replicate 16 {}, macros := List.replicate 256 {}, bufs := List.replicate 16 {}, saves := [(0, { save0 with images := true })] }

def save1 : Save :=
  { save0 with images := true, slots := [{ k := 2, slot := { slot0 with th := { th0 with acc := 9 } }, state := 0 }],
               macros := List.replicate 4 { mac0 with fmt := 1 } ++ List.replicate 252 {}, bufs := buf0 :: List.replicate 15 {}, log := [flit0] }

def backAt : State :=
  { onTile fun x => { x with teams := [], slots := List.replicate 16 {}, macros := List.replicate 256 {}, bufs := List.replicate 16 {}, saves := [(0, save1)] }
    with mem := { State.reset.mem with cells := [(imageKey 0 0 3 5, 8)] } }

/-- R333-R341: what the copy into a save area and the restore meet; the thread, the bytes and the arrival come back. -/
theorem test_save_areas : ((quietAt.tile 0).saves.find? (fun e => e.2.pos == 0 && !e.2.images) = some (0, save0) ∧ (quietAt.tile 0).victims.contains 0 = true ∧
  (quietAt.tile 0).shut = false ∧ quietAt.mem.wf = true ∧ backAt.mem.wf = true ∧ backAt.restorable 0 save1 = true ∧ (backAt.tile 0).orders = [] ∧ backAt.heldAhead 0 (save1.team.prio + 1) = false ∧
  backAt.freeSlots 0 ≥ backAt.reserved 0 + 1 ∧ backAt.logFits 0 save1 = true ∧ (backAt.tile 0).shut = false ∧ (backAt.tile 0).freePos = some 0 ∧ save1.macros.length = 256 ∧ save1.bufs.length = 16 ∧
  save1.slots.map (fun r => (r.reply, r.slot.th.foul, r.state)) = [(none, false, 0)] ∧ flit0.th.ctx = 1 ∧ flit0.th.foul = false ∧ backAt.insts.look 1 = some inst0 ∧
  (wantAt.tile 0).victims = [] ∧ (wantAt.tile 0).acked = [] ∧ (wantAt.tile 0).shut = false) ∧
    (after (exec (.restore 0 0) backAt) (fun t => (th t).acc == 9 && (sl0 t).state == .ready && t.mem.byte (spadKey 0 3 5) == 8 && ((t.tile 0).mac 3).fmt == 1 &&
  ((t.tile 0).queues.look 1).map (fun q => q.q) == some [flit0]) &&
after (exec (.quiesce 0 0) { quietAt with mem := { quietAt.mem with cells := [(spadKey 0 3 5, 8)] } }) (fun t => t.mem.byte (imageKey 0 0 3 5) == 8 &&
  ((t.tile 0).saves.look 0).map (fun v => v.slots.map (fun r => (r.k, r.state))) == some [(0, 0)])) = true := by decide +kernel

/-- R254: the region of an open transfer. -/
theorem wit_route_region : (match ({ routeAt rowBody none with net := [] } : State).recvSegs 0 recv0 rowFlit false with | .ok gs => gs == [(0, 0, 1, 0)] | _ => false) = true ∧
    recv0.dead = false ∧ rowFlit.off + rowFlit.data.length ≤ rowFlit.len ∧ (routeAt rowBody none).mem.poison = [] := by decide +kernel

/-- R309, R332, R338, R341: a team of class 0 gives way to an order of class 2, is copied out, and returns. -/
theorem test_preemption : ((wantAt.want 0).isSome = true ∧ (wantAt.want 0).bind (wantAt.victimsFor 0) = some [0] ∧ (wantAt.tile 0).freeSave = some 0 ∧ quietAt.quiet 0 0 = true ∧ savedAt.restorable 0 { save0 with images := true } = true ∧ savedAt.heldAhead 0 2 = false ∧ (savedAt.tile 0).freePos = some 0) ∧
    (after (exec (.preemptionDecision 0) wantAt) (fun t => (t.tile 0).victims == [0] && (sl0 t).state == .stopped .quiesce) &&
after (exec (.quiesce 0 0) quietAt) (fun t => (t.tile 0).acked == [0] && (t.tile 0).teams == [] && (sl0 t).state == .free && ((t.tile 0).saves.look 0).map (·.images) == some true) &&
after (exec (.quiesceAcknowledge 0) (onTile fun x => { x with acked := [0] })) (fun t => (t.tile 0).acked == []) &&
after (exec (.restore 0 0) savedAt) (fun t => (t.tile 0).saves == [] && ((t.tile 0).teams.look 0).map (·.closed) == some false)) = true := by decide +kernel

def seamStep (n : Nat) : State := { onTile fun x => { x with slots := List.replicate 16 {}, teams := [(0, { team0 with kin := 2, seam := some (n, 1, 4, 1), seamRegs := { w1 := 7 } })] } with insts := [(1, inst0), (2, inst2)] }

/-- R317-R319: macros 1-3 are scrubbed, the rest claimed, the successor's thread starts with w1 = 7. -/
theorem test_seam_steps : (((seamStep 4).tile 0).shut = false ∧ (seamStep 4).stranded 0 0 { team0 with kin := 2, seam := some (4, 1, 4, 1), seamRegs := { w1 := 7 } } 1 = false ∧ ((seamStep 6).tile 0).macrosFree 4 0 = true ∧ ((seamStep 6).tile 0).bufsFree 1 0 = true ∧ (seamStep 7).freeSlots 0 ≥ (seamStep 7).thrOn 0 2 ∧ 1 ≤ (seamStep 7).thrOn 0 2) ∧
    (after (exec (.seamSequence 0 0) (seamStep 4)) (fun t => ((t.tile 0).mac 1).state == .scrubbing && ((t.tile 0).mac 0).state == .plain && ((t.tile 0).teams.look 0).map (·.seam) == some (some (6, 1, 4, 1))) &&
after (exec (.seamSequence 0 0) (seamStep 6)) (fun t => ((t.tile 0).teams.look 0).map (·.seam) == some (some (7, 1, 4, 1))) &&
after (exec (.seamSequence 0 0) (seamStep 7)) (fun t => (th t).regs.w1 == 7 && (th t).pc == pc0 && ((t.tile 0).teams.look 0).map (·.seam) == some none)) = true := by decide +kernel

def xop0 : XOp := { id := 3, op := .xunmap, ctx := 1, a := ad 1 0, w := 0, who := .nobody, step := 2 }

/-- R292, R294: the granule goes. -/
theorem test_unmap : (((onTile fun x => { x with xops := [xop0] }).tile 0).extent 1 1 0 = some { ctx := 1, obj := 1, gran := 0, page := 5 }) ∧
    (after (exec (.extentDrainComplete 0 3) (onTile fun x => { x with xops := [xop0], extents := [(5, { ctx := 1, obj := 1, gran := 0, page := 5, state := .draining })] })) (fun t => (t.tile 0).extent 1 1 0 == none)) = true := by decide +kernel

/-! ### The module -/

def darkAt : State := { State.reset with step := 0, enabled := false, flash := { State.reset.flash with fw1 := [], fw2 := [] } }

def msAt : State := { base with wall9 := 9000000, now := 1000000 }

/-- R364-R366, R393, R394: dawn without firmware stops at step 1; power lost; checks of 40,001 and 32,500 W in mode 0; a mode change ends. -/
theorem test_power : (firmwareBody darkAt.flash.fw1 = none ∧ firmwareBody darkAt.flash.fw2 = none ∧ base.step ≠ 0 ∧ base.enabled = true ∧ msAt.wall9 % 9000000 < msAt.ninths ∧ 9000000 ≤ msAt.wall9 ∧ msAt.powerAt ≠ some msAt.now ∧ base.mode = 0) ∧
    (after (exec .dawn darkAt) (fun t => t.step == 1 && !t.enabled) && after (exec .powerLoss base) (fun t => t.step == 0 && !t.enabled && t.tiles == []) &&
after (exec (.powerCheck 40001) { msAt with bfeCap := 75, dramCap := 80 }) (fun t => t.bfeCap == 70 && t.dramCap == 75) && after (exec (.powerCheck 39000) { msAt with bfeCap := 50, dramCap := 60 }) (fun t => t.bfeCap == 50) &&
after (exec .modeChangeComplete { base with changing := true }) (fun t => !t.changing && t.hostOut.map (·.op) == [8])) = true := by decide +kernel

def peerObj : Object := { desc := dataObj.desc }

def linkAt : State := { base with ports := [{ role := 1 }, { role := 2, module := 7 }] }

/-- R297, R350: a lane of port 0, the loss of peer 7. -/
theorem test_links : (linkAt.ports[0]? = some { role := 1 } ∧ ({ role := 2, module := 7 } : Port) ∈ linkAt.ports ∧ linkAt.lostPeers.contains 7 = false) ∧
    (after (exec (.laneFailure 0 3) linkAt) (fun t => (t.ports[0]?).map (·.good) == some 17 && t.hostOut.map (·.op) == [5]) && after (exec (.peerLoss 7) linkAt) (fun t => t.lostPeers == [7] && t.hostOut.map (·.op) == [4])) = true := by decide +kernel

def duskAt : State := { base with duskQueue := [1], dusk := some { tile := 1, spare := 8 * 96 + 3, opened := true } }

/-- R378: with the window open and the tile at rest the generation advances and the tile moves. -/
theorem test_dusk : (duskAt.enginesRest 1 = true ∧ (duskAt.tile 1).fenced = false ∧ duskAt.gen < 255) ∧
    (after (exec (.dusk 1) duskAt) (fun t => t.dusk == none && t.gen == 1 && t.site 1 == 771 && t.bad.contains (duskAt.site 1))) = true := by decide +kernel

def spareAt : State := { base with duskQueue := [1] }

/-- R377, R378, R384. -/
theorem test_dusk_opens : spareAt.dusk = none ∧ spareAt.duskQueue.head? = some 1 ∧ spareAt.lastAdvance = none ∧ (spareAt.tile 1).fenced = false ∧ ((onTile fun x => { x with fenced := true }).tile 0).fenced = true ∧ base.gen < 255 := by decide +kernel

/-- R383: a sweep, a first miss and a second. -/
theorem test_liveness : (base.now % 1048576 = 0 ∧ (later base 1048576).sweep < (later base 1048576).now / 1048576 ∧ base.isTile 0 = true ∧ (later { base with sweep := 2 } 70000).now % 1048576 ≥ 65536) ∧
    (after (exec .livenessSweep (later base 1048576)) (fun t => t.sweep == 1) && after (exec (.probeTimeout 0) (later { base with sweep := 2 } 70000)) (fun t => (t.tile 0).missed == 2 && !(t.tile 0).fenced) &&
after (exec (.probeTimeout 0) (later { onTile fun x => { x with missed := 1 } with sweep := 2 } 70000)) (fun t => (t.tile 0).fenced && t.fencedCount == 1)) = true := by decide +kernel

def weakRow : State := onTile fun x => { x with traced := [rowNumber 1 2 3 4] }

def weakBank : State := onTile fun x => { x with bankDue := [18] }

def hourAt : State := { onTile fun x => { x with errs := { x.errs with link := 3 } } with wall9 := 32400000000000, step := 6 }

def chkAt : State := onTile fun x => { x with chkTiles := [(1, 1, ad 1 0)] }

/-- R385-R390: patrol reads, a row and a bank spared, a checksum read again, the daily counts. -/
theorem test_upkeep : (weakRow.rowFails 0 1 2 3 4 = true ∧ weakBank.bankFails 0 1 2 = true ∧ (weakRow.tile 0).rowsUsed.lookD (subKey 1 2 3) 0 < 2 ∧ weakBank.duskQueue.contains 0 = false ∧ (weakBank.tile 0).banksUsed.lookD 1 0 = 0 ∧ chkAt.bankOf 0 1 (ad 1 0) = 4 ∧ hourAt.wall9 % 32400000000000 < hourAt.ninths ∧ 32400000000000 ≤ hourAt.wall9 ∧ hourAt.step = 6 ∧ (hourAt.tile 0).errsAt ≠ some hourAt.now) ∧
    (after (exec (.patrolRead 0 64 false) base) (fun t => (t.tile 0).errs.corrDram == 1) && after (exec (.patrolRead 0 64 true) base) (fun t => t.mem.isPoison 64 && (t.tile 0).errs.uncDram == 1) &&
after (exec (.rowSparing 0 1 2 3 4) weakRow) (fun t => (t.tile 0).spared == [rowNumber 1 2 3 4]) && after (exec (.bankSparing 0 1 2) weakBank) (fun t => (t.tile 0).banksUsed.look 1 == some 1) &&
after (exec (.checksumReread 0 4 false) chkAt) (fun t => (t.tile 0).chkTiles == [] && (t.tile 0).errs.checksum == 1) &&
after (exec (.errcount 0) hourAt) (fun t => (t.tile 0).errs == {})) = true := by decide +kernel

def req (ctx : Nat) (l : List Byte) : HostReq := { ctx := ctx, tag := 5, port := 0, addr := 0, len := l.length, data := l }

def memReq (l : List Byte) : HostReq := { ctx := 1, tag := 5, port := 0, addr := ad 1 0, len := 7, data := l }

def out (st : Nat) (t : State) : Bool := t.hostOut.map (fun m => (m.tag, m.status)) == [(5, BitVec.ofNat 64 st)]

def fiveAt : State := { inSlice { data := 5 } with ports := [{ role := 1 }, { role := 2, module := 7 }] }

def peerReq : PeerReq := { m := 7, tag := 5, ctx := 1, addr := ad 1 0, op := .write (wordBytes 9) }

/-- R346, R347: a read of the word 5, a write, a write from peer 7. -/
theorem test_outside : (fiveAt.hostUp (memReq []) = true ∧ fiveAt.standing 1 (ad 1 0) = .ready 0 ∧ fiveAt.object 1 1 = some dataObj ∧ dataObj.peer = false ∧ offOf (ad 1 0) + 8 ≤ dataObj.size ∧ (fiveAt.view 0 1 (ad 1 0)).poison = false ∧ quiet? fiveAt (objWordKey 1 (ad 1 0)) = true ∧ (fiveAt.peerPorts 7).isEmpty = false) ∧
    (after (exec (.memRead (memReq [])) fiveAt) (fun t => out 0 t && t.hostOut.map (fun m => m.data.take 8) == [[5, 0, 0, 0, 0, 0, 0, 0]]) &&
after (exec (.memWrite (memReq (wordBytes 8))) fiveAt) (fun t => out 0 t && (t.view 0 1 (ad 1 0)).data == 8) && after (exec (.peerAccess peerReq) fiveAt) (fun t => out 0 t && (t.view 0 1 (ad 1 0)).data == 9)) = true := by decide +kernel

def mg (s : State) (i : HostReq → Instr) (ctx : Nat) (l : List Byte) (st : Nat) (p : State → Bool := fun _ => true) : Bool := after (exec (i (req ctx l)) s) fun t => out st t && p t

def mgAt : State := { linkAt with ctxs := [(1, { debuggable := true }), (9, { debuggable := false })] }

def stoppedSvc : State := { mgAt with fields := [(10, { tile := 0 })], tiles := [(0, { tile0 with slots := slot0 :: List.replicate 14 {} ++ [{ svcSlot 1 1 with state := .stopped .service }] })] }

def bytes (l : List Word) : List Byte := l.flatMap wordBytes

/-- R342, R373, R394-R398: the module's commands, at step 7. -/
theorem test_management : (mgAt.hostUp (req 0 []) = true ∧ mgAt.step ≠ 0 ∧ mgAt.enabled = true ∧ mgAt.changing = false ∧ mgAt.ctxs.look 2 = none ∧ mgAt.ctxs.look 9 = some { debuggable := false } ∧ (stoppedSvc.slot 0 15).state = .stopped .service ∧ (({ debuggable := true } : Context).dying) = none) ∧
    (after (exec (.status (req 0 [])) mgAt) (fun t => t.hostOut.map (fun m => m.status.getLsbD 23) == [true]) &&
mg mgAt .modeset 0 (bytes [1]) 0 (fun t => t.mode == 1) && mg mgAt .modeset 0 (bytes [3]) 4 (fun t => t.changing) && mg mgAt .ctxcreate 0 (bytes [2]) 0 (fun t => (t.ctxs.look 2).isSome) &&
mg mgAt .ctxdestroy 0 (bytes [9]) 0 (fun t => (t.ctxs.look 9).isNone) &&
mg mgAt .peeradmit 0 (bytes [7]) 0 && mg stoppedSvc .svcrestart 0 (bytes [10]) 0 (fun t => (t.slot 0 15).state == .ready) && mg mgAt .retire 0 (bytes [1]) 4 (fun t => t.duskQueue.contains 1) &&
mg mgAt .partout 0 (bytes [256]) 0 (fun t => t.pumpsOut == [1]) && mg { mgAt with pumpsOut := [1] } .partin 0 (bytes [256]) 0 (fun t => t.pumpsOut == [])) = true := by decide +kernel

/-- Object 4 has been destroyed but for the last answer to its invalidation. -/
def dyingAt : State := { mgAt with objects := (objKey 1 4, dataObj) :: mgAt.objects, insts := [], objDying := [(1, 4, req 1 (bytes [4]))], tiles := [(0, { tile0 with xops := [{ id := 3, op := .dinval, ctx := 1, a := ad 4 0, w := 0, who := .nobody, step := 10 }] }), (1, tile1)] }

def newObj : BitVec 512 := (65535#512 <<< 64) ||| 0xAA#512

/-- R285, R398: objects, a port map, chunks of images, maps. -/
theorem test_management_objects : (descBad { desc := descOf (req 1 (wordBytes 8 ++ (List.range 64).map fun i => newObj.extractLsb' (8 * i) 8)) } = false ∧ mgAt.objectBad 1 dataObj = false ∧ mgAt.slabUsed (dirTile 1 8) < 262144 ∧ mgAt.objOps 1 4 = false ∧ mgAt.granulesOf 1 4 = [] ∧ chunkBad (req 0 (bytes [0, 1] ++ [7])) false = false ∧ chunkBad (req 0 (bytes [0x100000000, 1] ++ [7])) true = false) ∧
    (let z : Word := 0
mg mgAt .objcreate 1 (wordBytes 8 ++ (List.range 64).map fun i => newObj.extractLsb' (8 * i) 8) 0 (fun t => (t.object 1 8).isSome) &&
after (exec (.objdestroy (req 1 (bytes [4]))) { mgAt with objects := (objKey 1 4, dataObj) :: mgAt.objects, insts := [] }) (fun t => t.objDying.map (fun e => (e.1, e.2.1)) == [(1, 4)] && t.hostOut == [] && t.net.length == 3) &&
mg dyingAt (fun _ => .extentDrainComplete 0 3) 1 [] 0 (fun t => (t.object 1 4).isNone && t.objDying == []) &&
after (exec (.mgmtXmap (req 1 (bytes [ad 1 0, 0]))) mgAt) (fun t => t.net.length == 1 && t.hostOut == []) && mg mgAt .portmap 0 (List.replicate 40 0) 0 &&
mg mgAt .mapload 0 (bytes [z, 1] ++ [7]) 0 (fun t => t.stageMap == [(0, 7)]) && mg mgAt .fwload 0 (bytes [0x100000000, 1] ++ [7]) 0 (fun t => t.stageFw == [(0, 7)]) &&
after (exec (.mapread (req 0 (bytes [z, 3]))) { mgAt with dmap := some { version := 1, nrows := 80, signer := 0, epoch := 0, serial := 0 } }) (fun t => t.hostOut.map (fun m => m.data.length) == [4])) = true := by decide +kernel

def map0 : DefectMap := { version := 1, nrows := 80, signer := 0, epoch := 0, serial := 0 }

def surveyed (en : Bool) : State := { mgAt with dmap := some map0, attested := false, survey := true, step := 6, enabled := en }

/-- R373: the hash is a free value (log 8); the witness sends whatever it is. -/
theorem wit_mapaccept : (req 0 map0.hash).data.length = 32 ∧ (surveyed false).dmap = some map0 ∧ map0.hash = (req 0 map0.hash).data ∧
    (surveyed false).hostUp (req 0 []) = true := ⟨by simp [req, DefectMap.hash, padBytes], rfl, rfl, by decide +kernel⟩

/-- R353, R373: lengths of the forms whose outcome rests on a free value. -/
theorem test_management_free : (req 0 (List.replicate 2484 0)).data.length = 2484 ∧ (req 0 (List.replicate 40 0)).data.length = 40 ∧ bits (dword (req 0 (List.replicate 40 0)) 0) 63 12 = 0 ∧ ({ mgAt with ctxs := [(0, { debuggable := false })] } : State).ctxs.look 0 = some { debuggable := false } := by decide +kernel

def dbgAt (st : SlotState) : State := { onSlot fun sl => { sl with state := st } with ports := [{ role := 1 }], step := 7 }

def halt : State := dbgAt (.stopped .debug)

/-- R354-R358: stop, resume, read, step and write of slot 0 of tile 0. -/
theorem test_debugging : (halt.fields.look (halt.fieldOf 0) = some { tile := 200 } ∧ dbgTile (req 0 (bytes [0])) = 0 ∧ dbgSlot (req 0 (bytes [0])) = 0 ∧ halt.handleOk 0 = true ∧ halt.debuggable 1 = true ∧ (dbgContext (th halt) ((bytes (0 :: ad 2 64 :: List.replicate 12 0)).drop 8)).isSome = true ∧ (bytes (0 :: ad 2 64 :: List.replicate 12 0)).length = 112) ∧
    (after (exec (.dbgstop (req 0 (bytes [0]))) (dbgAt .ready)) (fun t => (t.field 10).mq.map (fun m => (m.kind, m.w0)) == [(4, 0x18#64 <<< 56)] && t.hostOut == []) && after (exec (.dbgresume (req 0 (bytes [0]))) halt) (fun t => t.dbgReqs.map Prod.snd == [true]) && mg halt .dbgread 0 (bytes [0]) 0 &&
after (exec (.dbgstep (req 0 (bytes [0]))) halt) (fun t => (sl0 t).stepReq.isSome && (sl0 t).state == .ready) && mg halt .dbgwrite 0 (bytes (0 :: ad 2 64 :: List.replicate 12 0)) 0 (fun t => (th t).pc == ad 2 64)) = true := by decide +kernel

def bigObj : Object := { desc := (2162687#512 <<< 64) ||| 0xAA#512 }

def issued0 : Issued := { slot := 0, tid := 16, kin := 1, ctx := 1, pc := pc0, ready := 1, elig := 1 }

def facAt : State := { halt with objects := [(objKey 1 1, bigObj)] }

def sampled : State := { onTile fun x => { x with issued := some issued0, nextIssue := 1 } with ctxs := [(1, { debuggable := true, trace := ad 1 0, sample := 10 })] }

/-- R355-R363: a comparator, trace, sampling and the counter grid. -/
theorem test_facilities : (facAt.object 1 (objOf (ad 1 0)) = some bigObj ∧ bigObj.writable = true ∧ bigObj.peer = false ∧ 2162688 ≤ bigObj.size ∧ 96 * facAt.rows * 64 ≤ bigObj.size ∧ (sampled.tile 0).issued = some issued0 ∧ sampled.now % 2 ^ 10 = 0 ∧ (sampled.tile 0).shut = false ∧ (900000 : Nat) % (9 * (base.gridUs * 1000)) < base.ninths ∧ base.usable (base.site 0) = true ∧ base.site 0 < 8448 ∧ (base.siteGrid 0).at_ ≠ 100000) ∧
    (mg facAt .dbgbrk 1 (bytes [1, pc0]) 0 (fun t => (t.ctxs.look 1).map (fun c => c.brk.getD 1 0) == some pc0) && mg facAt .traceset 1 (bytes [0]) 0 && mg facAt .traceset 1 (bytes [ad 1 0]) 0 (fun t => (t.ctxs.look 1).map (·.trace) == some (ad 1 0)) &&
mg facAt .sampleset 1 (bytes [10]) 0 (fun t => (t.ctxs.look 1).map (·.sample) == some 10) && mg facAt .gridset 1 (bytes [ad 1 0, 0]) 0 (fun t => t.gridUs == 100) &&
after (exec (.gridInterval (base.site 0)) { later base 100000 with gridObj := ad 1 0, wall9 := 900000 }) (fun t => (t.siteGrid (base.site 0)).seq == 1 && t.net.length == 1) && after (exec (.sample 0) sampled) (fun t => (t.tile 0).issued.isNone && (t.tile 0).trace.length == 1)) = true := by decide +kernel

/-! ### Decoding, issue and the invariant -/

def runAt (w : BitVec 32) : State := { base with agenda := [.issue 0 0], mem := { base.mem with cells := (word0 w).filter (fun c => c.2 != 0) } }

/-- R17, R64: `add w3, w1, w2` in memory is fetched and run; a service form at user level is PRIV; an event is its step. -/
theorem test_step : ((runAt addWord).arbiter 0 = some 0 ∧ (runAt addWord).curSlot.stopReq = false ∧ (runAt addWord).breakAt 0 0 = none ∧ (runAt addWord).hbeatDue 0 0 = false ∧ (th (runAt addWord)).foul = false ∧ (runAt addWord).fetch 0 1 pc0 = .ok addWord ∧ decode addWord = .ok (.add (.w 3) (.w 1) (.w 2) false) ∧ (runAt addWord).curSlot.runOk (.add (.w 3) (.w 1) (.w 2) false) = true ∧ encode (.add (.w 3) (.w 1) (.w 2) false) = some addWord ∧ encode .liveCountReport = none ∧ (stops (exec (.bar) { base with cur := (0, 3) })) = true) ∧
    (after (step (runAt addWord)) (fun t => (th t).regs.w3 == 10 && (th t).pc == ad 2 20) && after (step (runAt (0x39#6 ++ 0#26))) (fun t => (sl0 t).fault.map (·.code) == some 2) &&
after (step { base with agenda := [.event .liveCountReport], falls := [1] }) (fun t => t.falls == [])) = true := by decide +kernel

/-- The reset state with an instruction placed runs it. -/
theorem test_place : (after (step (State.reset.withFetchWord 32 addWord.toNat)) (fun _ => true)) = true := by decide +kernel

/-- No uncorrectable word, no waiter at the words used, nothing held before a write, no copy towards the link. -/
theorem wit_memory : base.mem.weak = [] ∧ five.mem.weak = [] ∧ five.waitersAt 0 (objWordKey 1 (ad 1 0)) = [] ∧
    (inL1 {}).waitersAt 0 (objWordKey 1 (ad 1 4)) = [] ∧ base.waitersAt 0 (spadWordKey 8) = [] ∧ base.waitersAt 0 (spadWordKey 0) = [] ∧
    fiveAt.waitersAt 0 (objWordKey 1 (ad 1 0)) = [] ∧ base.linkBound 0 0 = false ∧
    (at_ five (.stf 1 (ad 1 0) 9 none)).heldBefore 0 (pkt (.stf 1 (ad 1 0) 9 none)) = none ∧
    (at_ five (.copyWrite 0 1 (ad 1 0) 0xFF 8 false)).heldBefore 0 (pkt (.copyWrite 0 1 (ad 1 0) 0xFF 8 false)) = none := by decide +kernel

/-- What a queue's head, a flit on its way and a slot that stops meet; an address without a record is none of a misaligned one. -/
theorem wit_threads : queuedAt.queueTakes 0 1 = true ∧ flit0.stop = false ∧ flit0.back = none ∧ base.flitCredit 0 = true ∧
    base.teamClosed 0 0 = false ∧ base.curSlot.stopReq = false ∧ (base.tile 0).saves = [] ∧ base.homeOf 0 1 7 = .noObj ∧
    blocked0.joined = none ∧ blocked0.msgSlot = none ∧ blocked0.fault ≠ none ∧ wantAt.curSlot.atBoundary = true ∧
    wantAt.curSlot.retry = false ∧ wantAt.curSlot.released = false ∧ (wantAt.tile 0).vec = none := by decide +kernel

/-- What launches, seams and destructions meet. -/
theorem wit_launches : ((orderAt .waiting).makeReady (instOf .waiting 0)).isSome = true ∧ ({ hostAt with insts := [] } : State).launchCount 1 < 1024 ∧
    ((seamStep 4).tile 0).seamFills 0 1 = false ∧ ((seamStep 6).tile 0).orders = [] ∧ ((seamStep 6).tile 0).teams.map Prod.fst = [0] ∧
    mgAt.isTile (dirTile 1 4) = true ∧ (mgAt.tile (dirTile 1 4)).fenced = false ∧ (dyingAt.tile 0).pendings = [] ∧
    (linkAt.objects.all fun e => !e.2.peer) = true ∧ (linkAt.tiles.all fun e => e.2.xops.isEmpty) = true ∧ linkAt.net = [] := by decide +kernel

/-- R381, R394. -/
theorem test_invariant : State.reset.mem.wf = true ∧ State.reset.gen < 255 ∧ State.reset.mode < 4 ∧ base.mem.wf = true ∧ base.gen < 255 ∧ base.mode < 4 ∧ Instr.wellFormed (.add (.w 3) (.w 1) (.w 2) false) = true := by decide +kernel


end Sys2Proof.Tests
end

section
/-! SUPPORT. The issue of one slot: what `prepare` answers at an ordinary word, and that a step runs it (R17, R64). -/

namespace Sys2Proof.Machine

/-- R17, R97: the arbiter picks a slot that meets no stop, lost context, comparator or spent budget, and its fetch gives a word:
only that word decides what its issue leads to. -/
structure State.IssuesWord (s : State) (t k : Nat) (w : BitVec 32) : Prop where
  picked : s.arbiter t = some k
  going : (s.slot t k).stopReq = false
  sound : (s.slot t k).th.foul = false
  unbroken : s.breakAt t k = none
  beating : s.hbeatDue t k = false
  fetched : s.fetch t (s.slot t k).th.ctx (s.slot t k).ipc = .ok w

section
variable {s : State} {t k : Nat} {w : BitVec 32} {i : Instr}

/-- A word that decodes to a form its pending run allows is run, with its issue charged. -/
theorem prepare_run (h : s.IssuesWord t k w) (hp : s.privWord t k w = false) (hq : (s.slot t k).stepReq = none)
    (hd : decode w = .ok i) (hr : (s.slot t k).runOk i = true) :
    s.prepare t k = .run i (({ s with cur := (t, k) } : State).charge t k i) := by
  obtain ⟨ha, hs, hf, hb, hh, hw⟩ := h
  have hslot : ({ s with cur := (t, k) } : State).slot t k = s.slot t k := rfl
  have hbrk : ({ s with cur := (t, k) } : State).breakAt t k = none := hb
  have hbeat : ({ s with cur := (t, k) } : State).hbeatDue t k = false := hh
  have hpriv : ({ s with cur := (t, k) } : State).privWord t k w = false := hp
  have hfetch : ({ s with cur := (t, k) } : State).fetch t (s.slot t k).codeCtx (s.slot t k).ipc = .ok w := hw
  simp [State.prepare, ha, hslot, hbrk, hbeat, hfetch, hs, hf, hpriv, hd, hr, hq]

/-- R64: a service word at user level raises PRIV with its word before it is decoded. -/
theorem prepare_priv (h : s.IssuesWord t k w) (hp : s.privWord t k w = true) :
    s.prepare t k =
      .done ((({ s with cur := (t, k) } : State).charge t k .trkw).raise t k FaultCode.priv 0#64 (w.zeroExtend 64)) := by
  obtain ⟨ha, hs, hf, hb, hh, hw⟩ := h
  have hslot : ({ s with cur := (t, k) } : State).slot t k = s.slot t k := rfl
  have hbrk : ({ s with cur := (t, k) } : State).breakAt t k = none := hb
  have hbeat : ({ s with cur := (t, k) } : State).hbeatDue t k = false := hh
  have hpriv : ({ s with cur := (t, k) } : State).privWord t k w = true := hp
  have hfetch : ({ s with cur := (t, k) } : State).fetch t (s.slot t k).codeCtx (s.slot t k).ipc = .ok w := hw
  simp [State.prepare, ha, hslot, hbrk, hbeat, hfetch, hs, hf, hpriv]

/-- R354: a slot that no stop finds in a wait is left as the instruction left it. -/
theorem settle_of_not_stops (h : (s.slot t k).stops = false) : s.settle t k = s := by
  simp [State.settle, State.stopWait, h]

theorem privWord_eq_false (h : w.toNat / 2 ^ 26 = 0x39 → s.atService t k = true) : s.privWord t k w = false := by
  by_cases hw : w.toNat / 2 ^ 26 = 0x39
  · simp [State.privWord, h hw]
  · simp [State.privWord, hw, -Nat.reducePow]

end

/-- Settles O55: with no stop in the way only the slot's word decides what `prepare` answers, and `step` runs that answer. -/
theorem stepRunsDecoded : Obligations.StepRunsDecoded := by
  intro s t k w i rest s0 s1 sl
  refine ⟨fun hag ha hs hq hf hb hw => ?_, fun hag he => by simp [step, hag, he, s0]⟩
  have hstep : step s = issueStep s0 t k := by simp [step, hag, s0]
  rw [hstep, issueStep]
  refine ⟨fun hd hr hp hh => ?_, fun hw' hu hh => ?_⟩
  · have hrun : s0.prepare t k = .run i (s1.charge t k i) :=
      prepare_run (s := s0) ⟨ha, hs, hf, hb, hh, hw⟩ (privWord_eq_false (s := s0) hp) hq hd hr
    rw [hrun]
    refine ⟨rfl, fun u hu hst => ?_⟩
    show settled t k (exec i (s1.charge t k i)) = _
    rw [hu]
    exact congrArg Host.Outcome.next (settle_of_not_stops hst)
  · have hpriv : s0.privWord t k w = true := by
      have hlow : s0.atService t k = false := hu
      simp [State.privWord, hw', hlow, -Nat.reducePow]
    rw [prepare_priv (s := s0) ⟨ha, hs, hf, hb, hh, hw⟩ hpriv]
    rfl

end Sys2Proof.Machine
end

section
/-! SUPPORT. The tiles of the module after dawn (R374, R375). -/

namespace Sys2Proof.Machine

/-- Values of one kind listed under some keys: a look-up finds nothing new or that value. -/
theorem look_foldl_put_const {α : Type} (v : α) (ks : List Nat) (m : Map α) (k : Nat) :
    (ks.foldl (fun m j => m.put j v) m).look k = m.look k ∨ (ks.foldl (fun m j => m.put j v) m).look k = some v := by
  induction ks generalizing m with
  | nil => exact Or.inl rfl
  | cons j ks ih =>
    rcases ih (m.put j v) with h | h
    · by_cases hk : k = j
      · exact Or.inr (by rw [List.foldl_cons, h, hk, look_put_same])
      · exact Or.inl (by rw [List.foldl_cons, h, look_put_other _ _ _ hk])
    · exact Or.inr h

theorem reset_tiles : State.reset.tiles = (plainServices.map Prod.snd).foldl (fun (m : Map Tile) j => m.put j Tile.service) [] := by
  simp only [State.reset]

/-- R374, R375: dawn leaves every tile fresh but the service tiles, which run their service thread. -/
theorem reset_tile (t : Nat) : State.reset.tile t = Tile.fresh ∨ State.reset.tile t = Tile.service := by
  have hfresh : ({ Tile.fresh with extents := State.reset.freshExtents } : Tile) = Tile.fresh := rfl
  unfold State.tile Map.lookD
  rw [hfresh, reset_tiles]
  rcases look_foldl_put_const Tile.service (plainServices.map Prod.snd) [] t with h | h
  · exact Or.inl (by rw [h]; rfl)
  · exact Or.inr (by rw [h]; rfl)

theorem fresh_slot {k : Nat} (hk : k < 16) : Tile.fresh.slot k = {} := List.getD_replicate ({} : Slot) hk

theorem service_slot {k : Nat} (hk : k < 15) : Tile.service.slot k = {} :=
  (List.getD_append (List.replicate 15 ({} : Slot)) [serviceSlot] {} k (by simpa using hk)).trans
    (List.getD_replicate ({} : Slot) hk)

theorem fresh_mac {m : Nat} (hm : m < 256) : Tile.fresh.mac m = {} := List.getD_replicate ({} : Macro) hm

theorem service_mac {m : Nat} (hm : m < 256) : Tile.service.mac m = {} := fresh_mac hm

/-- Settles O57: a tile after dawn is a fresh one or a service tile, and neither holds anything but the service thread. -/
theorem resetValues : Obligations.ResetValues := by
  refine ⟨rfl, rfl, rfl, rfl, rfl, rfl, rfl, rfl, rfl, fun t => ?_, fun a => ⟨rfl, rfl, rfl⟩⟩
  unfold State.slot
  rcases reset_tile t with h | h <;> rw [h]
  · exact ⟨rfl, rfl, rfl, fun m hm => fresh_mac hm, fun k hk => by rw [fresh_slot (by omega)]; exact ⟨rfl, rfl⟩,
      Or.inl (fresh_slot (by omega))⟩
  · exact ⟨rfl, rfl, rfl, fun m hm => service_mac hm, fun k hk => by rw [service_slot hk]; exact ⟨rfl, rfl⟩, Or.inr rfl⟩

end Sys2Proof.Machine
end

section
/-! SUPPORT. The words of the system and service groups are read back (R55, R56, R64, R70, R194), and a service form at user
level raises PRIV. -/

namespace Sys2Proof

@[simp] theorem regOf_code (r : Reg) : regOf r.code = .ok r := by
  cases r with
  | w n => fin_cases n <;> rfl
  | acc => rfl
  | zr => rfl

@[simp] theorem regOf_zero : regOf 0#4 = .ok (.w 0#3) := rfl

section
variable (m : BitVec 6) (x y z : BitVec 4) (f : BitVec 14)

/-- R55: the bits of a word of format A, field by field. -/
theorem getLsbD_fmtA (i : Nat) : (fmtA m x y z f).getLsbD i =
    if i < 14 then f.getLsbD i else if i < 18 then z.getLsbD (i - 14) else if i < 22 then y.getLsbD (i - 18)
    else if i < 26 then x.getLsbD (i - 22) else m.getLsbD (i - 26) := by
  have h : (fmtA m x y z f).getLsbD i = BitVec.getLsbD (w := 6 + 4 + 4 + 4 + 14) (m ++ x ++ y ++ z ++ f) i := rfl
  rw [h]
  simp only [BitVec.getLsbD_append]
  grind

@[simp] theorem major_fmtA : (fmtA m x y z f).extractLsb' 26 6 = m := by
  ext i hi
  simp only [BitVec.getElem_extractLsb', getLsbD_fmtA]
  grind

@[simp] theorem fieldD_fmtA : fieldD (fmtA m x y z f) = x := by
  ext i hi
  simp only [fieldD, BitVec.getElem_extractLsb', getLsbD_fmtA]
  grind

@[simp] theorem fieldA_fmtA : fieldA (fmtA m x y z f) = y := by
  ext i hi
  simp only [fieldA, BitVec.getElem_extractLsb', getLsbD_fmtA]
  grind

@[simp] theorem fieldB_fmtA : fieldB (fmtA m x y z f) = z := by
  ext i hi
  simp only [fieldB, BitVec.getElem_extractLsb', getLsbD_fmtA]
  grind

/-- A part of the func field. -/
theorem func_fmtA (j n : Nat) (h : j + n ≤ 14) : (fmtA m x y z f).extractLsb' j n = f.extractLsb' j n := by
  ext i hi
  simp only [BitVec.getElem_extractLsb', getLsbD_fmtA, show j + i < 14 by omega, if_true]

@[simp] theorem fieldF_fmtA : fieldF (fmtA m x y z f) = f :=
  (func_fmtA m x y z f 0 14 le_rfl).trans (BitVec.extractLsb'_eq_self)

/-- R63: the major of a word is its top six bits. -/
theorem majorNat_fmtA : (fmtA m x y z f).toNat / 2 ^ 26 = m.toNat := by
  have h := congrArg BitVec.toNat (major_fmtA m x y z f)
  rw [BitVec.extractLsb'_toNat, Nat.shiftRight_eq_div_pow] at h
  have := (fmtA m x y z f).isLt
  omega

end

/-- R64, R194: the ten service-only forms have words of major 0x39, which are read back. -/
theorem decode_service {d a b : Reg} {i : Instr} (hi : i ∈ [Instr.reply d a b, .replaya d a b, .xmap d a b, .xunmap d a,
    .xdrain d a b, .dinval d a, .msend d a, .mrecv d, .dstop d a, .dresume d a]) (hw : i.wellFormed = true) :
    decode (Machine.wordOf i) = .ok i ∧ (Machine.wordOf i).toNat / 2 ^ 26 = 0x39 := by
  simp only [List.mem_cons, List.not_mem_nil, or_false] at hi
  rcases hi with rfl | rfl | rfl | rfl | rfl | rfl | rfl | rfl | rfl | rfl <;>
    exact ⟨by simp [Machine.wordOf, encode, decode, decodeService, zeroField, combine, hw, bind, Except.bind], majorNat_fmtA _ _ _ _ _⟩

namespace Machine

/-- R26, R64: at user level a privileged form raises PRIV with its word, whatever its effect. -/
theorem privileged_user {s : State} (i : Instr) (f : Nat → Nat → Slot → State → State) (hs : s.userIssues) :
    privileged s i f = .next (s.raise s.cur.1 s.cur.2 FaultCode.priv 0#64 ((wordOf i).zeroExtend 64)) := by
  obtain ⟨hissue, huser⟩ := hs
  simp [privileged, onIssue_next s _ hissue, huser]

/-- R194: every service-only form is a privileged one. -/
theorem exec_service_privileged {d a b : Reg} {i : Instr} (s : State) (hi : i ∈ [Instr.reply d a b, .replaya d a b, .xmap d a b,
    .xunmap d a, .xdrain d a b, .dinval d a, .msend d a, .mrecv d, .dstop d a, .dresume d a]) :
    ∃ f, exec i s = privileged s i f := by
  simp only [List.mem_cons, List.not_mem_nil, or_false] at hi
  rcases hi with rfl | rfl | rfl | rfl | rfl | rfl | rfl | rfl | rfl | rfl <;>
    simp only [exec, execReply, execReplaya, execXmap, execXunmap, execXdrain, execDinval, execMsend, execMrecv, execDstop,
      execDresume, service] <;> exact ⟨_, rfl⟩

/-- Settles O37: each service-only form is a privileged one, whose word decodes to it. -/
theorem privilegeRule : Obligations.PrivilegeRule := by
  intro s d a b i hs hi hw
  obtain ⟨hdecode, hmajor⟩ := decode_service hi hw
  obtain ⟨f, hexec⟩ := exec_service_privileged s hi
  exact ⟨wordOf i, hmajor, hdecode, hexec.trans (privileged_user i f hs)⟩

end Machine

end Sys2Proof
end

section
/-! SUPPORT. Reads of the special registers (R24, R191, R192). -/

namespace Sys2Proof.Machine

section
variable {s : State}

/-- The end of an instruction whose result is one register, as the system group writes it. -/
theorem modSlot_setReg_finish (d : Reg) (v : Word) :
    s.modSlot s.cur.1 s.cur.2 (fun sl => { sl with th := sl.th.setReg d v }.finish) = s.wrote d v :=
  modCur_congr s _ _ rfl

theorem specialFault_user {t k n : Nat} (hn : n < 0x0D) : s.specialFault t k n = none := by
  simp [State.specialFault, show ¬ 0x0D ≤ n by omega, show ¬ n ≥ 0x20 by omega]

/-- R191: `mfs` of a number that has no rule of its own at user level. -/
theorem exec_mfs_user (d : Reg) {n : BitVec 6} (hs : s.userIssues) (hn : n.toNat < 0x0D) (hr : n ≠ 0x0B#6) :
    exec (.mfs d n) s = .next (s.wrote d (s.special s.cur.1 s.cur.2 n.toNat)) := by
  obtain ⟨hissue, huser⟩ := hs
  simp [exec, execMfs, onIssue_next s _ hissue, specialFault_user hn, hr, huser, modSlot_setReg_finish]

/-- R24: `rng` takes a fresh draw. -/
theorem exec_mfs_rng (d : Reg) (hs : s.issuing = true) :
    exec (.mfs d 0x0B#6) s = .next ({ s with fresh := s.fresh + 1 }.wrote d (Config.freeRng s.fresh)) := by
  simp [exec, execMfs, onIssue_next s _ hs, specialFault_user, State.draw]
  exact modSlot_setReg_finish (s := { s with fresh := s.fresh + 1 }) d _

/-- R191: a number that the issuer may not name raises its fault with the word. -/
theorem exec_mfs_fault (d : Reg) {n : BitVec 6} {code : Nat} (hs : s.issuing = true)
    (hf : s.specialFault s.cur.1 s.cur.2 n.toNat = some code) :
    exec (.mfs d n) s = .next (s.raise s.cur.1 s.cur.2 code 0#64 ((wordOf (.mfs d n)).zeroExtend 64)) := by
  simp [exec, execMfs, onIssue_next s _ hs, hf]

/-- R192: `mfs` at service level. -/
theorem exec_mfs_service (d : Reg) {n : BitVec 6} {v : Word} (hs : s.serviceIssues) (hn : 0x20 ≤ n.toNat)
    (hv : s.serviceSpecial s.cur.1 s.cur.2 n.toNat = some v) : exec (.mfs d n) s = .next (s.wrote d v) := by
  obtain ⟨hissue, hservice⟩ := hs
  have hr : n ≠ 0x0B#6 := by rintro rfl; simp at hn
  have hf : s.specialFault s.cur.1 s.cur.2 n.toNat = none := by
    simp [State.specialFault, hservice, show ¬ n.toNat < 0x20 by omega]
  simp [exec, execMfs, onIssue_next s _ hissue, hf, hr, hservice, hv, modSlot_setReg_finish]

/-- R70: the word of `mfs` is read back. -/
theorem decode_mfs (d : Reg) (n : BitVec 6) : decode (wordOf (.mfs d n)) = .ok (.mfs d n) := by
  have hlow : ∀ n : BitVec 6, (0#8 ++ n : BitVec 14).extractLsb' 0 6 = n := by decide
  have hmid : ∀ n : BitVec 6, (0#8 ++ n : BitVec 14).extractLsb' 6 4 = 0#4 := by decide
  have hop : ∀ n : BitVec 6, (0#8 ++ n : BitVec 14).extractLsb' 10 4 = 0#4 := by decide
  simp [wordOf, encode, decode, decodeSystem, zeroField, func_fmtA, hlow, hmid, hop, bind, Except.bind, pure, Except.pure]

theorem special_args {t k : Nat} {i : Inst} (h : s.insts.look (s.slot t k).th.kin = some i) :
    s.special t k 0x0C = i.rec_.args := by
  simp [State.special, h]

/-- R24: a tile name is its generation, row and column in 24 bits. -/
theorem name_zeroExtend (t : Nat) :
    (s.name t).zeroExtend 64 = fromNat (s.gen % 256 * 65536 + t / 96 % 256 * 256 + t % 96) := by
  apply BitVec.eq_of_toNat_eq
  simp [State.name, nameOf, fromNat]
  omega

end

theorem readSpecials_user : Claim.readSpecials := by
  intro s d i hs u k sl th rd stops
  have user (n : BitVec 6) (hn : n.toNat < 0x0D) (hr : n ≠ 0x0B#6) : rd n (s.special u k n.toNat) := exec_mfs_user d hs hn hr
  refine ⟨user 0x00#6 (by decide) (by decide), user 0x01#6 (by decide) (by decide), user 0x02#6 (by decide) (by decide),
    ?_, user 0x04#6 (by decide) (by decide), user 0x05#6 (by decide) (by decide),
    user 0x06#6 (by decide) (by decide), user 0x07#6 (by decide) (by decide), user 0x08#6 (by decide) (by decide),
    user 0x09#6 (by decide) (by decide), user 0x0A#6 (by decide) (by decide), fun hi' => ?_, ⟨_, exec_mfs_rng d hs.1⟩,
    fun n h1 h2 => ⟨_, decode_mfs d n, exec_mfs_fault d hs.1 ?_⟩, fun n h1 => ⟨_, decode_mfs d n, exec_mfs_fault d hs.1 ?_⟩⟩
  · show exec _ s = _
    rw [← name_zeroExtend]
    exact user 0x03#6 (by decide) (by decide)
  · have hargs := user 0x0C#6 (by decide) (by decide)
    rwa [show s.special u k (0x0C#6).toNat = i.rec_.args from special_args hi'] at hargs
  · simp [State.specialFault, h1, h2, FaultCode.illegal]
  · simp [State.specialFault, show ¬ n.toNat < 0x20 by omega, h1, hs.2, FaultCode.priv]

theorem readSpecials_service : Claim.readServiceSpecials := by
  intro s d hs u f rd
  have service (n : BitVec 6) (v : Word) (hn : 0x20 ≤ n.toNat) (hv : s.serviceSpecial u s.cur.2 n.toNat = some v) : rd n v :=
    exec_mfs_service d hs hn hv
  exact ⟨service _ _ (by decide) rfl, service _ _ (by decide) rfl, service _ _ (by decide) rfl, service _ _ (by decide) rfl,
    service _ _ (by decide) rfl⟩

/-- Settles O33: at each level `mfs` writes the value of `State.special` or `State.serviceSpecial`, or raises the fault of the
number. -/
theorem readSpecials : Obligations.ReadSpecials := ⟨readSpecials_user, readSpecials_service⟩

end Sys2Proof.Machine
end

section
/-! SUPPORT. Writes of the special registers (R22, R23, R192). -/

namespace Sys2Proof.Machine

/-- R22: the fields of `st` that `mts` keeps, and those that it writes outright. -/
theorem keepMask_bit {n : Nat} (hn : n < 64) :
    (0x0000FFFF02FFFC00#64).getLsbD n = decide ((10 ≤ n ∧ n ≤ 23) ∨ n = 25 ∨ (32 ≤ n ∧ n ≤ 47)) := by
  revert n; decide

theorem writeMask_bit {n : Nat} (hn : n < 64) :
    (0x00000000050003FF#64).getLsbD n = decide (n ≤ 9 ∨ n = 24 ∨ n = 26) := by
  revert n; decide

theorem traceMask_bit {n : Nat} (hn : n < 64) : (~~~0x0000000004000000#64).getLsbD n = decide (n ≠ 26) := by
  revert n; decide

/-- R23: what `mts` refuses to write: a nonzero reserved bit, or an `rm` of 5 to 7. -/
theorem writeSt_eq_none (st v : Word) :
    writeSt st v = none ↔ ¬ (v.toNat / 2 ^ 48 = 0 ∧ v.toNat / 2 ^ 27 % 32 = 0 ∧ v.toNat % 8 ≤ 4) := by
  have h := v.isLt
  simp [writeSt, bits]
  omega

/-- R22, R23: each bit of `st` after a write. -/
theorem writeSt_bit {st v w : Word} (h : writeSt st v = some w) {n : Nat} (hn : n < 64) :
    w.getLsbD n = if n = 26 then v.getLsbD 26 && st.getLsbD 25
      else if n ≤ 9 ∨ n = 24 then v.getLsbD n
      else if (10 ≤ n ∧ n ≤ 23) ∨ n = 25 ∨ (32 ≤ n ∧ n ≤ 47) then st.getLsbD n else false := by
  have hnew : ∀ m, m < 64 → (st &&& 0x0000FFFF02FFFC00#64 ||| v &&& 0x00000000050003FF#64).getLsbD m =
      ((st.getLsbD m && decide ((10 ≤ m ∧ m ≤ 23) ∨ m = 25 ∨ (32 ≤ m ∧ m ≤ 47))) ||
        (v.getLsbD m && decide (m ≤ 9 ∨ m = 24 ∨ m = 26))) := fun m hm => by
    rw [BitVec.getLsbD_or, BitVec.getLsbD_and, BitVec.getLsbD_and, keepMask_bit hm, writeMask_bit hm]
  have h25 : (st &&& 0x0000FFFF02FFFC00#64 ||| v &&& 0x00000000050003FF#64).getLsbD 25 = st.getLsbD 25 := by simp
  simp only [writeSt] at h
  split at h
  · cases h
  · rw [h25] at h
    obtain rfl := Option.some.inj h
    split
    · rw [hnew n hn]
      grind
    · rw [BitVec.getLsbD_and, hnew n hn, traceMask_bit hn]
      grind

/-- R23: `mts` of an allowed value to `st` changes `st` alone. -/
theorem stWrite_ok {s : State} {v w st : Word} (h : writeSt s.curSlot.th.st v = some st) :
    s.stWrite s.cur.1 s.cur.2 v w = s.ended (fun th => { th with st := st }) s.following := by
  have hslot : writeSt (s.slot s.cur.1 s.cur.2).th.st v = some st := h
  simp only [State.stWrite, hslot]
  exact modCur_congr s _ _ rfl

theorem stWrite_bad {s : State} {v w : Word} (h : writeSt s.curSlot.th.st v = none) :
    s.stWrite s.cur.1 s.cur.2 v w = s.raise s.cur.1 s.cur.2 FaultCode.illegal 0#64 w := by
  have hslot : writeSt (s.slot s.cur.1 s.cur.2).th.st v = none := h
  simp only [State.stWrite, hslot]

/-- R70: `mts` to `st` in both of its forms is the write of R23. -/
theorem exec_mts_st {s : State} (a : Reg) {i : Instr} (hs : s.issuing = true) (hi : i = .stWrite a ∨ i = .mts a 0x07#6) :
    exec i s = .next (s.stWrite s.cur.1 s.cur.2 (s.rd a) ((wordOf (.mts a 0x07#6)).zeroExtend 64)) := by
  rcases hi with rfl | rfl <;>
    simp [exec, execStWrite, execMts, onIssue_next s _ hs, State.mts, specialFault_user, State.rd]

/-- The thread that issued, after an instruction that ends. -/
theorem then_ended {s : State} (hs : s.issuing = true) (f : Thread → Thread) (pc : Word) :
    s.then_ (s.ended f pc) = { f s.curSlot.th with pc := pc } :=
  congrArg Slot.th (curSlot_modCur hs _)

/-- R22, R23: the half of O34 about `st` holds. -/
theorem writeStatus : Claim.writeStatus := by
  intro s a hs u k v th good wrote
  refine ⟨fun hg => ?_, fun hg => ?_⟩
  · obtain ⟨st, hst⟩ := Option.ne_none_iff_exists'.mp (mt (writeSt_eq_none th.st v).mp (not_not_intro hg))
    have main (i : Instr) (hi : i = .stWrite a ∨ i = .mts a 0x07#6) : wrote i := by
      have hthen := then_ended hs (fun th => { th with st := st }) s.following
      have hbit {n : Nat} (hn : n < 64) := writeSt_bit hst hn
      refine ⟨_, (exec_mts_st a hs hi).trans (congrArg _ (stWrite_ok hst)), ended_onlySlot s _ _, ?_, ?_, ?_, ?_, ?_⟩ <;>
        rw [hthen]
      · intro n hn
        rw [hbit (by omega), if_neg (by omega), if_pos (by omega)]
      · intro n hn
        rw [hbit (by omega), if_neg (by omega), if_neg (by omega), if_pos (by omega)]
      · exact hbit (by omega)
      · intro n hn
        by_cases hlt : n < 64
        · rw [hbit hlt, if_neg (by omega), if_neg (by omega), if_neg (by omega)]
        · exact BitVec.getLsbD_of_ge _ _ (by omega)
    exact ⟨main _ (Or.inl rfl), main _ (Or.inr rfl)⟩
  · have hst := (writeSt_eq_none th.st v).mpr hg
    have main (i : Instr) (hi : i = .stWrite a ∨ i = .mts a 0x07#6) :=
      (exec_mts_st a hs hi).trans (congrArg Host.Outcome.next (stWrite_bad hst))
    exact ⟨_, main _ (Or.inl rfl), main _ (Or.inr rfl)⟩

/-- R192, R240: a write of `svctx` selects the context and records the one it leaves among those written under. -/
theorem svctxWrite_field {s : State} {t k : Nat} {v : Word} (w : Word) (hv : v.toNat < 4096) :
    (s.svctxWrite t k v w).fields.look (s.fieldOf t) =
      some { s.here t with svctx := v.toNat, svcUsed := insertNat (s.here t).svcUsed (s.here t).svctx } := by
  have hbits : bits v 63 12 = 0 := by
    simp [bits, Nat.shiftRight_eq_div_pow, Nat.div_eq_of_lt hv]
  simp [State.svctxWrite, hbits, look_put_same, State.here]

theorem exec_mts_svctx {s : State} (a : Reg) (hs : s.serviceIssues) :
    exec (.mts a 0x20#6) s = .next (s.svctxWrite s.cur.1 s.cur.2 (s.rd a) ((wordOf (.mts a 0x20#6)).zeroExtend 64)) := by
  obtain ⟨hissue, hservice⟩ := hs
  simp [exec, execMts, onIssue_next s _ hissue, State.mts, State.specialFault, hservice, State.rd]

/-- The service thread of field 10, at tile 0 of a wafer without exceptions, issues; no context has been selected before. -/
def firstSelection : State :=
  { State.reset with siteOf := [], tiles := [(0, Tile.service)], fields := [(10, { tile := 0 })], cur := (0, 15) }

theorem firstSelection_serviceIssues : firstSelection.serviceIssues := ⟨rfl, rfl⟩

/-- Refutes O34: a write of `svctx` also enters the context it leaves into the list of those that the service thread has written
under (R240), so the field is not as it was but for `svctx`. -/
theorem not_writeSpecials : ¬ Obligations.WriteSpecials := by
  rintro ⟨-, hservice⟩
  obtain ⟨t, hexec, -, hfield, -⟩ := (hservice firstSelection .zr firstSelection_serviceIssues).2 (by decide)
  rw [exec_mts_svctx .zr firstSelection_serviceIssues] at hexec
  injection hexec with hexec
  rw [← hexec, svctxWrite_field _ (by decide)] at hfield
  have hused := congrArg Field.svcUsed (Option.some.inj hfield)
  exact absurd hused (by decide)

end Sys2Proof.Machine
end

section
/-! SUPPORT. What an issued form answers: the next state where a slot issues, and nothing where none does (R17, R64). -/

namespace Sys2Proof.Machine

/-- The answer of a form with an encoding: one next state, given exactly where a READY slot issues. -/
def Answers (s : State) (o : Out) : Prop := ∃ t, o = if s.issuing then .next t else .fault .notEnabled

theorem answers_ite {s : State} {c : Prop} [Decidable c] {a b : Out} (ha : Answers s a) (hb : Answers s b) :
    Answers s (if c then a else b) := by
  split
  · exact ha
  · exact hb

theorem answers_raiseCur (s : State) (code : Nat) (a x : Word) : Answers s (raiseCur s code a x) := ⟨_, rfl⟩

theorem answers_onFlow (s : State) (f : Slot → Thread × Word) : Answers s (onFlow s f) := ⟨_, rfl⟩

theorem answers_onIssue (s : State) (f : Nat → Nat → Slot → State → State) : Answers s (onIssue s f) := ⟨_, rfl⟩

/-- R97, R99: a register jump either raises ALIGN or jumps. -/
theorem answers_jumpReg (s : State) (d a : Reg) : Answers s (jumpReg s d a) :=
  answers_ite (answers_raiseCur s _ _ _) (answers_onFlow s _)

/-- R60, R62: an XW word either joins the pending run or fails it. -/
theorem answers_xwExtension (s : State) (e : BitVec 25) : Answers s (execXwExtension e s) :=
  answers_ite (answers_raiseCur s _ _ _) (answers_onIssue s _)

theorem answers_xwModifier (s : State) (n x : Bool) : Answers s (execXwModifier n x s) :=
  answers_ite (answers_raiseCur s _ _ _) (answers_onIssue s _)

/-- Every form with an encoding answers so: register jumps and XW words by their two cases, each of the others because its
meaning is one total effect of the issuing slot. -/
theorem answers_exec (s : State) (i : Instr) (h : (encode i).isSome = true) : Answers s (exec i s) := by
  cases i
  all_goals simp only [encode, Option.isSome_some, Option.isSome_none, Bool.false_eq_true] at h
  case jr a => exact answers_jumpReg s .zr a
  case jalr d a => exact answers_jumpReg s d a
  case xwExtension e => exact answers_xwExtension s e
  case xwModifier n x => exact answers_xwModifier s n x
  all_goals exact ⟨_, rfl⟩

/-- Settles O56: a form with an encoding answers by whether a slot issues. -/
theorem issueAnswers : Obligations.IssueAnswers := by
  intro s i h
  obtain ⟨t, ht⟩ := answers_exec s i h
  exact ⟨fun hs => ⟨t, by rw [ht, if_pos hs]⟩, fun hs => by rw [ht, hs]; rfl⟩
end Sys2Proof.Machine
end

section
/-! SUPPORT. What a packet and a trace record leave alone: sending, tracing and seating, each said once (R206, R250, R357). -/

namespace Sys2Proof.Machine

section
variable (s : State) (t k : Nat)

/-- Sending changes the sender's numbers and the fabric, and nothing else. -/
theorem send_shape (p : Packet) : s.send p = { s with tiles := (s.send p).tiles, net := (s.send p).net } := by
  unfold State.send
  dsimp only
  split <;> rfl

/-- R250: a packet on a channel that no sequence counts leaves its tile as it is. -/
theorem send_tiles_uncounted {p : Packet} (h : p.vc = 1 ∨ p.vc = 3 ∨ p.vc = 4) : (s.send p).tiles = s.tiles := by
  rcases h with h | h | h <;> simp [State.send, h]

theorem traceSend_tiles (ph : Nat) : (s.traceSend t ph).tiles = s.tiles := by
  unfold State.traceSend
  split
  · rfl
  · dsimp only
    split <;> exact send_tiles_uncounted s (Or.inr (Or.inr rfl))

theorem traceSend_shape (ph : Nat) :
    s.traceSend t ph = { s with tiles := (s.traceSend t ph).tiles, net := (s.traceSend t ph).net } := by
  unfold State.traceSend
  split
  · rfl
  · dsimp only
    split <;> exact send_shape s _

theorem pushTrace_shape (ctx : Nat) (ws : List Word) :
    s.pushTrace t ctx ws = { s with tiles := (s.pushTrace t ctx ws).tiles, net := (s.pushTrace t ctx ws).net } := by
  unfold State.pushTrace
  dsimp only
  split
  · rfl
  · split
    · rw [traceSend_shape]
      rfl
    · rfl

/-- R357: a record changes the tile's trace buffer alone. -/
theorem pushTrace_tile (ctx : Nat) (ws : List Word) (u : Nat) :
    ∃ T L, (s.pushTrace t ctx ws).tile u = { s.tile u with trace := T, traceLost := L } := by
  have put (x : Tile) (hx : ∃ T L, x = { s.tile t with trace := T, traceLost := L }) :
      ∃ T L, (s.setTile t x).tile u = { s.tile u with trace := T, traceLost := L } := by
    by_cases hu : u = t
    · subst hu
      simpa using hx
    · exact ⟨_, _, tile_setTile_other s t x hu⟩
  unfold State.pushTrace
  dsimp only
  split
  · exact put _ ⟨_, _, rfl⟩
  · split
    · obtain ⟨T, L, h⟩ := put _ ⟨_, _, rfl⟩
      refine ⟨T, L, ?_⟩
      rw [← h, State.tile, traceSend_tiles, traceSend_shape]
      rfl
    · exact put _ ⟨_, _, rfl⟩

/-- A record of a thread changes trace buffers and the fabric, and nothing else. -/
theorem emit_shape (kind : Nat) (x : Word) :
    s.emit t k kind x = { s with tiles := (s.emit t k kind x).tiles, net := (s.emit t k kind x).net } := by
  unfold State.emit
  dsimp only
  split
  · rfl
  · split
    · exact pushTrace_shape s t _ _
    · rfl

theorem emit_tile (kind : Nat) (x : Word) (u : Nat) :
    ∃ T L, (s.emit t k kind x).tile u = { s.tile u with trace := T, traceLost := L } := by
  unfold State.emit
  dsimp only
  split
  · exact ⟨_, _, rfl⟩
  · split
    · exact pushTrace_tile s t _ _ u
    · exact ⟨_, _, rfl⟩

@[simp] theorem emit_mem (kind : Nat) (x : Word) : (s.emit t k kind x).mem = s.mem := by rw [emit_shape]
@[simp] theorem emit_insts (kind : Nat) (x : Word) : (s.emit t k kind x).insts = s.insts := by rw [emit_shape]

@[simp] theorem emit_slots (kind : Nat) (x : Word) (u : Nat) : ((s.emit t k kind x).tile u).slots = (s.tile u).slots := by
  obtain ⟨T, L, h⟩ := emit_tile s t k kind x u
  rw [h]

@[simp] theorem emit_slot (kind : Nat) (x : Word) (u j : Nat) : (s.emit t k kind x).slot u j = s.slot u j := by
  simp [State.slot, Tile.slot]

@[simp] theorem emit_nextSeq (kind : Nat) (x : Word) (u : Nat) : ((s.emit t k kind x).tile u).nextSeq = (s.tile u).nextSeq := by
  obtain ⟨T, L, h⟩ := emit_tile s t k kind x u
  rw [h]

end

/-- R206: the slot as a context finds it once it has taken it. -/
def Slot.seated (sl : Slot) (f : Flit) (p full : Nat) : Slot :=
  ({ state := if f.stop then .stopped .debug else .ready, th := f.th, ipc := f.th.pc, team := p, budget := full,
     eligAt := sl.eligAt, fseq := sl.fseq, reqSeq := sl.reqSeq, released := f.released } : Slot).pinState f

/-- R206: a context of a team that is here takes a slot, and the slot alone changes. -/
theorem seat_resident {s : State} {t k p : Nat} {f : Flit} (hp : (s.tile t).posOf f.th.kin = some p) (hb : f.back = none) :
    s.seat t k f = (s.modSlot t k (fun sl => sl.seated f p (s.fullBudget f.th.kin))).emit t k 2
      (if f.kind = 6 then 0#64 else f.frm.zeroExtend 64) := by
  simp only [State.seat, State.openTeam, hp, hb]
  rfl

section
variable {s : State} {t k p : Nat} {f : Flit} (hp : (s.tile t).posOf f.th.kin = some p) (hb : f.back = none)
include hp hb

theorem seat_slot_same (hk : k < (s.tile t).slots.length) :
    (s.seat t k f).slot t k = (s.slot t k).seated f p (s.fullBudget f.th.kin) := by
  rw [seat_resident hp hb, emit_slot, slot_modSlot_same _ _ _ _ hk]

theorem seat_slot_other {j : Nat} (hj : j ≠ k) : (s.seat t k f).slot t j = s.slot t j := by
  rw [seat_resident hp hb, emit_slot, slot_modSlot_slot _ _ _ _ hj]

theorem seat_mem : (s.seat t k f).mem = s.mem := by
  rw [seat_resident hp hb, emit_mem, modSlot_mem]

theorem seat_insts : (s.seat t k f).insts = s.insts := by
  rw [seat_resident hp hb, emit_insts, modSlot_insts]

theorem seat_nextSeq : ((s.seat t k f).tile t).nextSeq = (s.tile t).nextSeq := by
  rw [seat_resident hp hb, emit_nextSeq, State.modSlot, tile_modTile_same]
  rfl

theorem seat_slots_length : ((s.seat t k f).tile t).slots.length = (s.tile t).slots.length := by
  rw [seat_resident hp hb, emit_slots, State.modSlot, tile_modTile_same]
  exact modifyAt_length _ _ _

end

end Sys2Proof.Machine
end

section
/-! SUPPORT. A `spawn` that looks for a place claims nothing itself (R132, R143, R210): the slots that others may take are as before. -/

namespace Sys2Proof.Machine

/-- R132: the caller's slot while its `spawn` looks for a place. -/
def Slot.seeks (sl : Slot) (d : Reg) (target pc : Word) (m : Bool) : Slot :=
  { sl with state := .ready, pend := .spawn d target pc m, retry := true, tried := [], level := 0 }

/-- The state while the `spawn` of slot `k` looks for a place. -/
def State.seeking (s : State) (t k : Nat) (d : Reg) (target pc : Word) (m : Bool) : State :=
  s.modSlot t k (fun sl => sl.seeks d target pc m)

theorem mem_zipIdx_slot {l : List Slot} {k : Nat} (h : k < l.length) : (l.getD k {}, k) ∈ l.zipIdx := by
  rw [List.mem_zipIdx_iff_getElem?]
  simp [h]

/-- Whether some listed slot's thread and number have a property does not depend on what else the slots hold. -/
theorem any_zipIdx_modifyAt (l : List Slot) (k : Nat) (g : Slot → Slot) (hg : ∀ sl, (g sl).th = sl.th)
    (P : Thread → Nat → Bool) :
    (modifyAt l k g).zipIdx.any (fun e => P e.1.th e.2) = l.zipIdx.any (fun e => P e.1.th e.2) := by
  suffices h : ∀ n, ((modifyAt l k g).zipIdx n).any (fun e => P e.1.th e.2) = (l.zipIdx n).any (fun e => P e.1.th e.2) from h 0
  induction l generalizing k with
  | nil => exact fun _ => rfl
  | cons x xs ih =>
    intro n
    cases k with
    | zero => simp [modifyAt, hg]
    | succ k => simp [modifyAt, ih k]

section
variable {s : State} {t k : Nat} {d : Reg} {target pc : Word} {m : Bool}

/-- R143: a thread that another of its kernel can join does not wait at `seam`. -/
theorem seamWait_of_canSeat (hk : k < (s.tile t).slots.length) (hc : s.canSeat t (s.slot t k).th.kin = true) :
    s.seamWait t k = false := by
  simp only [State.canSeat, Bool.and_eq_true, Bool.not_eq_true'] at hc
  obtain ⟨⟨-, hseam⟩, -⟩ := hc
  simp only [State.atSeam, Bool.or_eq_false_iff, List.any_eq_false, Bool.and_eq_true, beq_iff_eq, not_and] at hseam
  have h := hseam.1.1 _ (mem_zipIdx_slot hk) rfl
  simpa using h

theorem fetch_modSlot (g : Slot → Slot) (ctx : Nat) (a : Word) : (s.modSlot t k g).fetch t ctx a = s.fetch t ctx a := by
  simp [State.fetch, State.modSlot, Tile.modSlot, State.object]

theorem seeking_slot_same (hk : k < (s.tile t).slots.length) :
    (s.seeking t k d target pc m).slot t k = (s.slot t k).seeks d target pc m := slot_modSlot_same s t k _ hk

theorem seeking_slot_other {j : Nat} (hj : j ≠ k) : (s.seeking t k d target pc m).slot t j = s.slot t j :=
  slot_modSlot_slot s t k _ hj

theorem seeking_tile : (s.seeking t k d target pc m).tile t = (s.tile t).modSlot k (·.seeks d target pc m) :=
  tile_modTile_same s t _

theorem waiting_seeking (hk : k < (s.tile t).slots.length) (j : Nat) :
    (s.seeking t k d target pc m).waiting t j = s.waiting t j := by
  have hfetch : ∀ ctx a, (s.seeking t k d target pc m).fetch t ctx a = s.fetch t ctx a := fetch_modSlot _
  by_cases hj : j = k
  · subst hj
    simp [State.waiting, hfetch, seeking_slot_same hk, Slot.seeks, Slot.codeCtx]
  · simp [State.waiting, hfetch, seeking_slot_other hj]

theorem seamWait_seeking (hk : k < (s.tile t).slots.length) (hc : s.canSeat t (s.slot t k).th.kin = true) (j : Nat) :
    (s.seeking t k d target pc m).seamWait t j = s.seamWait t j := by
  by_cases hj : j = k
  · subst hj
    rw [seamWait_of_canSeat hk hc]
    simp [State.seamWait, seeking_slot_same hk, Slot.seeks]
  · simp [State.seamWait, waiting_seeking hk, seeking_slot_other hj]

theorem atSeam_seeking (hk : k < (s.tile t).slots.length) (hc : s.canSeat t (s.slot t k).th.kin = true) (kin : Nat) :
    (s.seeking t k d target pc m).atSeam t kin = s.atSeam t kin := by
  simp only [State.atSeam, seamWait_seeking hk hc, seeking_tile, Tile.modSlot]
  rw [any_zipIdx_modifyAt _ _ (fun x => x.seeks d target pc m) (fun _ => rfl) (fun th j => th.kin == kin && s.seamWait t j)]
  rfl

theorem canSeat_seeking (hk : k < (s.tile t).slots.length) (hc : s.canSeat t (s.slot t k).th.kin = true) (kin : Nat) :
    (s.seeking t k d target pc m).canSeat t kin = s.canSeat t kin := by
  simp only [State.canSeat, atSeam_seeking hk hc, seeking_tile]
  rfl

theorem seeking_state (hk : k < (s.tile t).slots.length) (hr : (s.slot t k).state = .ready) (j : Nat) :
    ((s.seeking t k d target pc m).slot t j).state = (s.slot t j).state := by
  by_cases hj : j = k
  · subst hj
    rw [seeking_slot_same hk, hr]
    rfl
  · rw [seeking_slot_other hj]

theorem localSpawner_seeking (hk : k < (s.tile t).slots.length) (hc : s.canSeat t (s.slot t k).th.kin = true)
    (hr : (s.slot t k).state = .ready) : (s.seeking t k d target pc m).localSpawner t = s.localSpawner t := by
  unfold State.localSpawner
  congr 1
  funext j
  by_cases hj : j = k
  · subst hj
    simp [seeking_slot_same hk, Slot.seeks, hr]
  · simp only [seeking_slot_other hj, canSeat_seeking hk hc]

theorem grantSlot_seeking (hk : k < (s.tile t).slots.length) (hr : (s.slot t k).state = .ready) :
    (s.seeking t k d target pc m).grantSlot t = s.grantSlot t := by
  simp only [State.grantSlot, State.freeSlots, State.freeSlot, seeking_state hk hr, State.reserved, seeking_tile]
  rfl

/-- R132, R210: what is open to a spawner is what was open before it looked. -/
theorem openSlot_seeking (hk : k < (s.tile t).slots.length) (hc : s.canSeat t (s.slot t k).th.kin = true)
    (hr : (s.slot t k).state = .ready) : (s.seeking t k d target pc m).openSlot t = s.openSlot t := by
  simp only [State.openSlot, State.spawnerSlot, localSpawner_seeking hk hc hr, grantSlot_seeking hk hr, State.wokenClaim,
    State.queueClaim, canSeat_seeking hk hc, seeking_tile]
  rfl

end

end Sys2Proof.Machine
end

section
/-! SUPPORT. A child is born, seated and reported to its caller (R131, R132). -/

namespace Sys2Proof.Machine

/-! ### The live count and the number of a child -/

/-- R24, R312: a child takes the next number of the tile and counts as live. -/
def State.born (s : State) (t kin : Nat) : State := (s.newTid t).2.modInst kin (fun i => { i with live := i.live + 1 })

section
variable (s : State) (t k : Nat)

@[simp] theorem modInst_tile (kin : Nat) (f : Inst → Inst) (u : Nat) : (s.modInst kin f).tile u = s.tile u := by
  unfold State.modInst
  split <;> rfl

@[simp] theorem modInst_mem (kin : Nat) (f : Inst → Inst) : (s.modInst kin f).mem = s.mem := by
  unfold State.modInst
  split <;> rfl

theorem modInst_look {kin : Nat} {i : Inst} (f : Inst → Inst) (h : s.insts.look kin = some i) :
    (s.modInst kin f).insts.look kin = some (f i) := by
  simp [State.modInst, h, look_put_same]

theorem born_tile (kin : Nat) : (s.born t kin).tile t =
    { s.tile t with nextSeq := if (s.tile t).nextSeq ≥ 524287 then 16 else (s.tile t).nextSeq + 1 } := by
  simp [State.born, State.newTid]

@[simp] theorem born_slot (kin j : Nat) : (s.born t kin).slot t j = s.slot t j := by
  simp [State.slot, Tile.slot, born_tile]

@[simp] theorem born_mem (kin : Nat) : (s.born t kin).mem = s.mem := by
  simp [State.born, State.newTid]

theorem born_look {kin : Nat} {i : Inst} (h : s.insts.look kin = some i) :
    (s.born t kin).insts.look kin = some { i with live := i.live + 1 } :=
  modInst_look _ _ h

/-- R132: a child is numbered and counted by the tile that takes it. -/
theorem birth_child {f : Flit} (hf : f.kind = 3) : s.birth t f =
    ({ f with th := { f.th with tid := tidOf t (s.tile t).nextSeq } }, s.born t f.th.kin) := by
  simp [State.birth, hf, State.newTid, State.born]

/-- R206: any other context keeps its number. -/
theorem birth_other {f : Flit} (hf : f.kind ≠ 3) : s.birth t f = (f, s) := by
  simp [State.birth, hf]

/-- The number just given, as the tile recalls it. -/
theorem lastTid_eq {n : Nat} (hlo : 16 ≤ n) (hhi : n ≤ 524287)
    (h : (s.tile t).nextSeq = if n ≥ 524287 then 16 else n + 1) : s.lastTid t = tidOf t n := by
  have : (if (s.tile t).nextSeq = 16 then 524287 else (s.tile t).nextSeq - 1) = n := by
    rw [h]
    split_ifs <;> omega
  simp [State.lastTid, this]

end

/-! ### An open slot -/

/-- R210: an open slot is a free one of a kernel, and no spawner of the tile waits for it. -/
theorem openSlot_some {s : State} {t j : Nat} (h : s.openSlot t = some j) :
    s.localSpawner t = none ∧ j < 16 ∧ (s.slot t j).state = .free := by
  unfold State.openSlot at h
  split at h
  · cases h
  · rename_i hlocal
    refine ⟨by simpa using hlocal, ?_⟩
    unfold State.spawnerSlot at h
    split at h
    · cases h
    · unfold State.grantSlot at h
      split at h
      · cases h
      · have hmem := List.mem_of_find?_eq_some h
        refine ⟨?_, by simpa using List.find?_some h⟩
        simp only [State.kernelSlots, List.mem_range] at hmem
        split at hmem <;> omega

theorem serveSpawners_none {s : State} {t : Nat} (h : s.localSpawner t = none) (n : Nat) : s.serveSpawners t n = s := by
  cases n <;> simp [State.serveSpawners, h]

/-- R206: a context of a kernel that lives and whose team can seat it takes the open slot. -/
theorem arrive_openSlot {s : State} {t j : Nat} {f : Flit} {i : Inst} (hi : s.insts.look f.th.kin = some i)
    (hl : i.killed = false) (hq : (s.tile t).quiesced f.th.kin = false) (ho : s.openSlot t = some j)
    (hc : s.canSeat t f.th.kin = true) : s.arrive t f = .took ((s.birth t f).2.seat t j (s.birth t f).1) := by
  simp [State.arrive, State.killedInst, hi, hl, hq, serveSpawners_none (openSlot_some ho).1, ho, hc]

end Sys2Proof.Machine
end

section
/-! SUPPORT. `spawn` on the current tile (R130-R132). -/

namespace Sys2Proof.Machine

/-! ### The caller -/

section
variable (s : State) (t k : Nat) (d : Reg) (tid : BitVec 32)

theorem spawned_slot_same (hk : k < (s.tile t).slots.length) : (s.spawned t k d tid).slot t k =
    ({ s.slot t k with th := (s.slot t k).th.setReg d (tid.zeroExtend 64), state := .ready } : Slot).finish := by
  rw [State.spawned, slot_modSlot_same _ _ _ _ (by simpa using hk), emit_slot]

theorem spawned_slot_other {j : Nat} (hj : j ≠ k) : (s.spawned t k d tid).slot t j = s.slot t j := by
  rw [State.spawned, slot_modSlot_slot _ _ _ _ hj, emit_slot]

@[simp] theorem spawned_mem : (s.spawned t k d tid).mem = s.mem := by simp [State.spawned]
@[simp] theorem spawned_insts : (s.spawned t k d tid).insts = s.insts := by simp [State.spawned]

@[simp] theorem spawned_nextSeq : ((s.spawned t k d tid).tile t).nextSeq = (s.tile t).nextSeq := by
  rw [State.spawned, State.modSlot, tile_modTile_same]
  exact emit_nextSeq s t k 4 _ t

end

/-! ### The child -/

theorem bounceMask_bit {i : Nat} (hi : i < 64) : (BitVec.ofNat 64 ((2 ^ (15 + 1 - 13) - 1) <<< 13)).getLsbD i =
    decide (13 ≤ i ∧ i ≤ 15) := by
  revert i; decide

/-- R213: the bounce count of a context set; nothing else of its `st` changes. -/
theorem setBounce_bit (th : Thread) (n : Nat) {i : Nat} (hi : i < 13 ∨ 15 < i) :
    (th.setBounce n).st.getLsbD i = th.st.getLsbD i := by
  by_cases h64 : i < 64
  · have hmask : decide (13 ≤ i ∧ i ≤ 15) = false := by simp; omega
    simp only [Thread.setBounce, Thread.setSt, setBits, BitVec.getLsbD_or, BitVec.getLsbD_and, BitVec.getLsbD_not,
      bounceMask_bit h64, hmask]
    simp [h64]
  · rw [BitVec.getLsbD_of_ge _ _ (by omega), BitVec.getLsbD_of_ge _ _ (by omega)]

/-- R131: a child inherits the low four bits of `st`: `rm` and `sat`. -/
theorem childOf_bit (th : Thread) (pc : Word) (m debug : Bool) {i : Nat} (hi : i < 4) :
    (childOf th pc m debug).st.getLsbD i = th.st.getLsbD i := by
  have hkeep : ∀ i, i < 4 → (0x0400000F#64).getLsbD i = true := by decide
  have hmig : ∀ i, i < 4 → (0x01000000#64).getLsbD i = false := by decide
  have hdbg : ∀ i, i < 4 → (0x02000000#64).getLsbD i = false := by decide
  simp only [childOf, BitVec.getLsbD_or, BitVec.getLsbD_and, hkeep i hi, Bool.and_true]
  split <;> split <;> simp [hmig i hi, hdbg i hi]

theorem childOf_migratable (th : Thread) (pc : Word) (m debug : Bool) :
    (childOf th pc m debug).migratable = (m || th.migratable) := by
  have hkeep : (0x0400000F#64).getLsbD 24 = false := by decide
  have hmig : ∀ c : Bool, (if c then 0x01000000#64 else 0#64).getLsbD 24 = c := by decide
  have hdbg : ∀ c : Bool, (if c then 0x02000000#64 else 0#64).getLsbD 24 = false := by decide
  simp only [Thread.migratable, childOf, BitVec.getLsbD_or, BitVec.getLsbD_and, hkeep, hdbg, Bool.and_false,
    Bool.false_or, Bool.or_false]
  exact hmig _

/-- `rm` is the low three bits of `st`. -/
theorem rm_congr {a b : Thread} (h : ∀ i, i < 3 → a.st.getLsbD i = b.st.getLsbD i) : a.rm = b.rm := by
  have hbits : ∀ th : Thread, th.rm = (th.st.extractLsb' 0 3).toNat := fun th => by simp [Thread.rm, bits]
  rw [hbits, hbits]
  congr 1
  ext i hi
  simpa [BitVec.getElem_extractLsb'] using h i hi

/-- R131, R213: what a child's context is once it has its number and sits in its slot. -/
structure Slot.IsChild (c : Slot) (th : Thread) (pc : Word) (tid : BitVec 32) (m : Bool) (p hk : Nat) : Prop where
  state : c.state = .ready
  pc : c.th.pc = pc
  tid : c.th.tid = tid
  kin : c.th.kin = th.kin
  ctx : c.th.ctx = th.ctx
  acc : c.th.acc = 0#64
  regs : c.th.regs = { w0 := th.regs.w0, w1 := th.regs.w1, w2 := th.regs.w2, w3 := th.regs.w3 }
  migratable : c.th.migratable = (m || th.migratable)
  rm : c.th.rm = th.rm
  handles : c.th.NoHandles
  budget : c.budget = 2 ^ hk
  team : c.team = p

theorem seated_isChild (sl : Slot) (th : Thread) (pc : Word) (tid : BitVec 32) (m debug : Bool) (p hk : Nat) {f : Flit}
    (hkind : f.kind = 3) (hstop : f.stop = false) (hth : f.th = { childOf th pc m debug with tid := tid }) :
    (sl.seated f p (2 ^ hk)).IsChild th pc tid m p hk := by
  have hpin : (sl.seated f p (2 ^ hk)).th = ({ childOf th pc m debug with tid := tid } : Thread).setBounce 0 := by
    simp [Slot.seated, Slot.pinState, hkind, hth]
  refine ⟨?_, ?_, ?_, ?_, ?_, ?_, ?_, ?_, ?_, ?_, ?_, ?_⟩
  · simp [Slot.seated, Slot.pinState, hkind, hstop]
  · rw [hpin]; rfl
  · rw [hpin]; rfl
  · rw [hpin]; rfl
  · rw [hpin]; rfl
  · rw [hpin]; rfl
  · rw [hpin]; rfl
  · rw [hpin, Thread.migratable, setBounce_bit _ _ (by omega)]
    exact childOf_migratable th pc m debug
  · rw [hpin]
    exact rm_congr fun i hi => by
      rw [setBounce_bit _ _ (by omega)]
      exact childOf_bit th pc m debug (by omega)
  · have hnone : handleValid 0#32 = false := by decide
    rw [hpin]
    exact ⟨hnone, hnone⟩
  · simp [Slot.seated, Slot.pinState, hkind]
  · simp [Slot.seated, Slot.pinState, hkind]

/-! ### The whole form -/

theorem drain_noHandles {s : State} {t k : Nat} (h : (s.slot t k).th.NoHandles) (cont : State → State) :
    s.drain t k cont = cont s := by
  obtain ⟨hA, hB⟩ := h
  simp [State.drain, State.onHandles, State.handlesWait, State.handleWait, Thread.handle, hA, hB]

/-- R97, R130: a jump target that raises nothing. -/
theorem pcCheck_ok {s : State} {ctx : Nat} {a : Word} {o : Object} (h4 : a.toNat % 4 = 0) (ho : s.object ctx (objOf a) = some o)
    (hc : o.isCode = true) (hs : offOf a < o.size) : s.pcCheck ctx a = none := by
  have hlow : a &&& 3#64 = 0#64 := by
    apply BitVec.eq_of_toNat_eq
    have := Nat.and_two_pow_sub_one_eq_mod a.toNat 2
    simp at this
    simp [this, h4]
  simp [State.pcCheck, hlow, ho, hc, Nat.not_le.mpr hs]

section
variable {s : State} {t k j : Nat} {d : Reg} {target pc : Word} {m : Bool} {th : Thread} {i : Inst}

/-- R132: `spawn` on the caller's own tile with an open slot: the child is born, takes the slot, and the caller goes on. -/
theorem spawnPlace_here (hth : (s.slot t k).th = th) (hp : bits target 23 16 ≠ 0xFF)
    (ht : nameTile (target.extractLsb' 0 24) = t) (hi : s.insts.look th.kin = some i) (hl : i.killed = false)
    (hq : (s.tile t).quiesced th.kin = false) (hk : k < (s.tile t).slots.length)
    (hr : (s.slot t k).state = .ready) (ho : s.openSlot t = some j) (hc : s.canSeat t th.kin = true) :
    ∃ f : Flit, f.kind = 3 ∧ f.stop = false ∧ f.back = none ∧
      f.th = { childOf th pc m (s.debuggable th.ctx) with tid := tidOf t (s.tile t).nextSeq } ∧
      s.spawnPlace t k d target pc m =
        (((s.seeking t k d target pc m).born t th.kin).seat t j f).spawned t k d
          ((((s.seeking t k d target pc m).born t th.kin).seat t j f).lastTid t) := by
  subst hth
  have hth : ((s.seeking t k d target pc m).slot t k).th = (s.slot t k).th := by rw [seeking_slot_same hk]; rfl
  have hplace : isPlacement target = false := by simpa [isPlacement] using hp
  have hseq : ((s.seeking t k d target pc m).tile t).nextSeq = (s.tile t).nextSeq := by rw [seeking_tile]; rfl
  have hinsts : (s.seeking t k d target pc m).insts = s.insts := rfl
  have hdebug : (s.seeking t k d target pc m).debuggable = s.debuggable := rfl
  have hquiet : ((s.seeking t k d target pc m).tile t).quiesced = (s.tile t).quiesced := by rw [seeking_tile]; rfl
  have harrive := arrive_openSlot (s := s.seeking t k d target pc m)
    (f := (s.seeking t k d target pc m).childFlit t k pc m false) (i := i) (t := t) (j := j)
    (by simpa [State.childFlit, childOf, hth, hinsts] using hi) hl
    (by simpa [State.childFlit, childOf, hth, hquiet] using hq)
    (by rw [openSlot_seeking hk hc hr, ho])
    (by simpa [State.childFlit, childOf, hth, canSeat_seeking hk hc] using hc)
  rw [birth_child _ t (f := (s.seeking t k d target pc m).childFlit t k pc m false) rfl] at harrive
  refine ⟨{ (s.seeking t k d target pc m).childFlit t k pc m false with
    th := { childOf (s.slot t k).th pc m (s.debuggable (s.slot t k).th.ctx) with tid := tidOf t (s.tile t).nextSeq } },
    rfl, rfl, rfl, rfl, ?_⟩
  have hmod : s.modSlot t k (fun sl => { sl with
      state := .ready, pend := .spawn d target pc m, retry := true, tried := [], level := 0 }) =
    s.seeking t k d target pc m := rfl
  unfold State.spawnPlace
  simp only [hplace, ht, hmod, harrive]
  simp [State.childFlit, hth, hseq, hdebug, childOf]

theorem seeking_born_tile (kin : Nat) : ((s.seeking t k d target pc m).born t kin).tile t =
    { (s.tile t).modSlot k (fun sl => sl.seeks d target pc m) with
      nextSeq := if (s.tile t).nextSeq ≥ 524287 then 16 else (s.tile t).nextSeq + 1 } := by
  rw [born_tile, seeking_tile]
  rfl

theorem seeking_born_mem (kin : Nat) : ((s.seeking t k d target pc m).born t kin).mem = s.mem := by
  simp [State.seeking]

end

/-- R130: a `spawn` that passes its checks, with no write outstanding, looks for its place. -/
theorem exec_spawn {s : State} {d a b : Reg} {m : Bool} (hs : s.userIssues)
    (hcheck : s.spawnCheck s.curSlot.th (s.rd a) m = none) (hpc : s.pcCheck s.curSlot.th.ctx (s.rd b) = none)
    (hh : s.curSlot.th.NoHandles) :
    exec (if m then .spawnM d a b else .spawn d a b) s = .next (s.spawnPlace s.cur.1 s.cur.2 d (s.rd a) (s.rd b) m) := by
  obtain ⟨hissue, huser⟩ := hs
  have hdrain := drain_noHandles (s := s) (t := s.cur.1) (k := s.cur.2) hh
  have main (i : Instr) : spawn s i d a b m = .next (s.spawnPlace s.cur.1 s.cur.2 d (s.rd a) (s.rd b) m) := by
    simp only [State.rd] at hcheck hpc
    simp [spawn, onIssue_next s _ hissue, State.notService, huser, hcheck, hpc, hdrain, State.rd]
  cases m
  · exact main _
  · exact main _

/-- Settles O22: the checks pass, the place is the open slot, and what is born, seated and reported is read off field by field. -/
theorem spawnHere : Obligations.SpawnHere := by
  intro s d a b m ob i j p hs u th target pc tid hp ht hname h4 hob hcode hsize hh hi hl hq hlen hlo hhi hpos ho hc
  obtain ⟨hissue, huser⟩ := hs
  obtain ⟨hk16, hready, hk⟩ := issuing_slot hissue
  obtain ⟨-, hj16, hfree⟩ := openSlot_some ho
  have hj : j < (s.tile u).slots.length := by omega
  have hjk : j ≠ s.cur.2 := by
    rintro rfl
    exact absurd (hready.symm.trans hfree) (by decide)
  have hcheck : s.spawnCheck s.curSlot.th (s.rd a) m = none := by
    have : isPlacement (s.rd a) = false := by simpa [isPlacement] using hp
    simpa [State.spawnCheck, this] using hname
  obtain ⟨f, hkind, hstop, hback, hfth, hplace⟩ :=
    spawnPlace_here (d := d) (pc := pc) (m := m) (th := th) rfl hp ht hi hl hq hk hready ho hc
  have hexec := exec_spawn (d := d) ⟨hissue, huser⟩ hcheck (pcCheck_ok h4 hob hcode hsize) hh
  rw [hplace] at hexec
  have hfkin : f.th.kin = th.kin := by rw [hfth]; rfl
  have htile : ((s.seeking u s.cur.2 d target pc m).born u th.kin).tile u =
    { (s.tile u).modSlot s.cur.2 (fun sl => sl.seeks d target pc m) with
      nextSeq := if (s.tile u).nextSeq ≥ 524287 then 16 else (s.tile u).nextSeq + 1 } := seeking_born_tile th.kin
  have hpos2 : (((s.seeking u s.cur.2 d target pc m).born u th.kin).tile u).posOf f.th.kin = some p := by
    rw [htile, hfkin]
    exact hpos
  have hlen2 : (((s.seeking u s.cur.2 d target pc m).born u th.kin).tile u).slots.length = 16 := by
    rw [htile]
    exact (modifyAt_length _ _ _).trans hlen
  have hlook := born_look (s.seeking u s.cur.2 d target pc m) u (kin := th.kin) hi
  have hbudget : ((s.seeking u s.cur.2 d target pc m).born u th.kin).fullBudget f.th.kin = 2 ^ i.rec_.hk := by
    simp [State.fullBudget, hfkin, hlook]
  have hnext : (((s.seeking u s.cur.2 d target pc m).born u th.kin).tile u).nextSeq =
      if (s.tile u).nextSeq ≥ 524287 then 16 else (s.tile u).nextSeq + 1 := by rw [htile]
  have hslot2 (l : Nat) : ((s.seeking u s.cur.2 d target pc m).born u th.kin).slot u l =
      (s.seeking u s.cur.2 d target pc m).slot u l := born_slot _ u _ l
  have hmem2 : ((s.seeking u s.cur.2 d target pc m).born u th.kin).mem = s.mem := seeking_born_mem th.kin
  generalize (s.seeking u s.cur.2 d target pc m).born u th.kin = s2 at *
  have htid : (s2.seat u j f).lastTid u = tid := lastTid_eq _ u hlo hhi ((seat_nextSeq hpos2 hback).trans hnext)
  rw [htid] at hexec
  have hcaller : (s2.seat u j f).slot u s.cur.2 = s.curSlot.seeks d target pc m :=
    (seat_slot_other hpos2 hback hjk.symm).trans ((hslot2 _).trans (seeking_slot_same hk))
  have hcallerEnd := spawned_slot_same (s2.seat u j f) u s.cur.2 d tid
    (by rw [seat_slots_length hpos2 hback, hlen2]; exact hk16)
  rw [hcaller] at hcallerEnd
  have hchild : ((s2.seat u j f).spawned u s.cur.2 d tid).slot u j = (s2.slot u j).seated f p (2 ^ i.rec_.hk) := by
    rw [spawned_slot_other _ _ _ _ _ hjk, seat_slot_same hpos2 hback (by omega), hbudget]
  refine ⟨_, hexec, hjk, congrArg Slot.state hcallerEnd, congrArg Slot.th hcallerEnd, ?_, ?_, fun a => ?_, fun l hlj hlk => ?_, ?_⟩
  · obtain ⟨h1, h2, h3, h4, h5, h6, h7, h8, h9, h10, h11, h12⟩ :=
      seated_isChild (s2.slot u j) th pc tid m (s.debuggable th.ctx) p i.rec_.hk hkind hstop hfth
    rw [hchild]
    exact ⟨h1, h2, h3, h4, h5, h6, h7, h8, h9, h10, h11, h12⟩
  · rw [spawned_insts, seat_insts hpos2 hback, hlook]
  · rw [spawned_mem, seat_mem hpos2 hback, hmem2]
    exact ⟨rfl, rfl, rfl⟩
  · rw [spawned_slot_other _ _ _ _ _ hlk, seat_slot_other hpos2 hback hlj, hslot2, seeking_slot_other hlk]
  · rw [spawned_nextSeq, seat_nextSeq hpos2 hback, hnext]

end Sys2Proof.Machine
end

section
/-! SUPPORT. Waits of a slot that end by a condition, and the barrier of a team (R19, R142, R216). -/

namespace Sys2Proof.Machine

section
variable {s : State} {t k : Nat}

/-- A slot that is not FREE is one of its tile's. -/
theorem slot_lt_of_state (h : (s.slot t k).state ≠ .free) : k < (s.tile t).slots.length := by
  by_contra hk
  have : s.slot t k = {} := List.getD_eq_default _ _ (Nat.le_of_not_lt hk)
  exact h (by rw [this])

theorem slot_lt_of_wait {w : Why} (h : (s.slot t k).state = .wait w) : k < (s.tile t).slots.length :=
  slot_lt_of_state (by simp [h])

theorem modSlot_onlySlot (f : Slot → Slot) : s.OnlySlot (s.modSlot t k f) t k := by
  refine ⟨rfl, fun v hv => tile_modTile_other s _ _ hv, ?_, fun j hj => slot_modSlot_slot s _ _ _ hj⟩
  rw [State.modSlot, tile_modTile_same]
  rfl

/-! ### Single slots (R19, R216) -/

/-- R19: the slot is READY at its instruction, which goes on. -/
theorem waitResume_next {w : Why} (hw : (s.slot t k).state = .wait w) (hbar : w ≠ .barrier) (hover : s.waitOver t k w = true)
    (hshut : (s.tile t).shut = false) : exec (.waitResume t k) s =
      .next (s.modSlot t k (fun sl => { sl with state := .ready, retry := true, heldWr := false })) := by
  show execWaitResume t k s = _
  unfold execWaitResume
  split
  · next h => exact absurd (by simpa [hw] using h) hbar
  · next v _ h =>
    obtain rfl : w = v := by simpa [hw] using h
    rw [hover, hshut]
    rfl
  · next h => exact absurd hw (h w)

theorem waitOver_engine {e : Eng} (h : (s.slotQ t k e).q.length < 2) : s.waitOver t k (.engine e) = true := by
  simpa [State.waitOver] using h

theorem waitOver_mac {g : Nat} (hl : ((s.tile t).mac g).state ≠ .loading) (hs : ((s.tile t).mac g).state ≠ .scrubbing)
    (hd : ((s.tile t).mac g).due = false) : s.waitOver t k (.mac g) = true := by
  have : (s.tile t).settled g = true := by
    unfold Tile.settled
    cases hm : ((s.tile t).mac g).state <;> simp_all
  simp [State.waitOver, this, hd]

theorem waitOver_handles (h : (s.slot t k).th.NoHandles) : s.waitOver t k .handles = true := by
  obtain ⟨hA, hB⟩ := h
  simp [State.waitOver, State.handlesWait, State.handleWait, Thread.handle, hA, hB]

theorem waitOver_alone (h : ∀ j, j < 16 → j ≠ k → s.member t (s.slot t k).team j = false) : s.waitOver t k .alone = true := by
  simp only [State.waitOver, List.all_eq_true, List.mem_range, Bool.or_eq_true, beq_iff_eq, Bool.not_eq_true']
  exact fun j hj => or_iff_not_imp_left.mpr (h j hj)

theorem parkRetry_next {since : Nat} (hw : (s.slot t k).state = .wait (.park since)) (hshut : (s.tile t).shut = false)
    (hdue : since + 256 ≤ s.now) :
    exec (.parkRetry t k) s = .next (s.modSlot t k (fun sl => { sl with state := .ready, retry := true })) := by
  show execParkRetry t k s = _
  simp [execParkRetry, hw, hshut, hdue, onEvent]

theorem parkRetry_early {since : Nat} (hw : (s.slot t k).state = .wait (.park since)) (hdue : s.now < since + 256) :
    exec (.parkRetry t k) s = .fault .notEnabled := by
  show execParkRetry t k s = _
  simp [execParkRetry, hw, hdue, onEvent]

/-! ### Spilled waiters (R216) -/

/-- R216: with no lost entry the oldest spilled ones fill the table. -/
theorem unspill_table {x : Tile} (h : ∀ w, w ∈ x.spilled → w.foul = false) :
    x.unspill = { x with waiters := x.waiters ++ x.spilled.take (256 - x.waiters.length)
                         spilled := x.spilled.drop (256 - x.waiters.length) } := by
  have hgood : x.spilled.filter (fun w => !w.foul) = x.spilled := List.filter_eq_self.mpr fun w hw => by simp [h w hw]
  have hlost : x.spilled.filter Waiter.foul = [] := List.filter_eq_nil_iff.mpr fun w hw => by simp [h w hw]
  simp [Tile.unspill, hgood, hlost]

/-- R385: where no spilled entry is lost, none is dropped. -/
theorem dropSpilled_tile (h : ∀ w, w ∈ (s.tile t).spilled → w.foul = false) : (s.dropSpilled t).tile t = s.tile t := by
  have hgood : (s.tile t).spilled.filter (fun w => !w.foul) = (s.tile t).spilled :=
    List.filter_eq_self.mpr fun w hw => by simp [h w hw]
  have hlost : (s.tile t).spilled.filterMap (fun w => w.th.filter (·.foul)) = [] := by
    rw [List.filterMap_eq_nil_iff]
    intro w hw
    have := h w hw
    unfold Waiter.foul at this
    cases hth : w.th with
    | none => rfl
    | some th => simpa [hth] using this
  simp [State.dropSpilled, hgood, hlost]

theorem waiterUnspill_next (hs : (s.tile t).spilled ≠ []) (hw : (s.tile t).waiters.length < 256) :
    exec (.waiterUnspill t) s = .next ((s.dropSpilled t).modTile t Tile.unspill) := by
  show execWaiterUnspill t s = _
  simp [execWaiterUnspill, onEvent, hs, hw]

end

/-! ### The barrier (R142) -/

theorem modSlot_slot_same (x : Tile) (k : Nat) (f : Slot → Slot) (h : k < x.slots.length) : (x.modSlot k f).slot k = f (x.slot k) :=
  modifyAt_getD_same _ _ _ _ h

theorem modSlot_slot_other (x : Tile) (k : Nat) (f : Slot → Slot) {j : Nat} (h : j ≠ k) : (x.modSlot k f).slot j = x.slot j :=
  modifyAt_getD_other _ _ _ _ h

/-- The slots of a list that a predicate picks, each changed. -/
def Tile.modSlots (x : Tile) (b : Nat → Bool) (f : Slot → Slot) (ks : List Nat) : Tile :=
  ks.foldl (fun x k => if b k then x.modSlot k f else x) x

section
variable {b : Nat → Bool} {f : Slot → Slot}

theorem modSlots_cons (x : Tile) (k : Nat) (ks : List Nat) :
    x.modSlots b f (k :: ks) = (if b k then x.modSlot k f else x).modSlots b f ks := rfl

theorem pickSlot_other (x : Tile) {j k : Nat} (h : j ≠ k ∨ b k = false) : (if b k then x.modSlot k f else x).slot j = x.slot j := by
  split
  · next hb => exact modSlot_slot_other x k f (h.resolve_right (by simp [hb]))
  · rfl

/-- A change of the slots of a list leaves the others. -/
theorem modSlots_slot_other {ks : List Nat} {j : Nat} (h : j ∈ ks → b j = false) (x : Tile) :
    (x.modSlots b f ks).slot j = x.slot j := by
  induction ks generalizing x with
  | nil => rfl
  | cons k ks ih =>
    rw [modSlots_cons, ih (fun hj => h (List.mem_cons_of_mem _ hj))]
    refine pickSlot_other x (or_iff_not_imp_left.mpr fun hjk => ?_)
    obtain rfl := not_not.mp hjk
    exact h List.mem_cons_self

theorem modSlots_slot_same {ks : List Nat} {j : Nat} (hnd : ks.Nodup) (hj : j ∈ ks) (hb : b j = true) (x : Tile)
    (hlen : j < x.slots.length) : (x.modSlots b f ks).slot j = f (x.slot j) := by
  induction ks generalizing x with
  | nil => cases hj
  | cons k ks ih =>
    obtain ⟨hk, hnd⟩ := List.nodup_cons.mp hnd
    rw [modSlots_cons]
    rcases List.mem_cons.mp hj with rfl | hj
    · rw [modSlots_slot_other (fun h => absurd h hk), if_pos hb, modSlot_slot_same x j f hlen]
    · have hlen' : j < (if b k then x.modSlot k f else x).slots.length := by
        split
        · exact (modifyAt_length x.slots k f).symm ▸ hlen
        · exact hlen
      rw [ih hnd hj _ hlen', pickSlot_other x (Or.inl (ne_of_mem_of_not_mem hj hk))]

end

section
variable {s : State} {t p : Nat}

theorem barrier_eq : s.barrier t p = if s.allAtBar t p then
    s.modTile t (fun x => x.modSlots (s.member t p) Slot.finishReady (List.range 16)) else s := rfl

/-- R142: a slot that is no member of the team is as it was. -/
theorem barrier_slot_other {j : Nat} (h : s.member t p j = false) : (s.barrier t p).slot t j = s.slot t j := by
  rw [barrier_eq]
  split
  · rw [State.slot, tile_modTile_same]
    exact modSlots_slot_other (fun _ => h) _
  · rfl

/-- R142: where all are at `bar`, each member goes on. -/
theorem barrier_slot_member {j : Nat} (hall : s.allAtBar t p = true) (hj : j < 16) (hm : s.member t p j = true) :
    (s.barrier t p).slot t j = (s.slot t j).finishReady := by
  have hlen : j < (s.tile t).slots.length := slot_lt_of_state (by
    simp only [State.member, Bool.and_eq_true, bne_iff_ne] at hm
    exact hm.1.2)
  rw [barrier_eq, if_pos hall, State.slot, tile_modTile_same]
  exact modSlots_slot_same List.nodup_range (List.mem_range.mpr hj) hm _ hlen

theorem allAtBar_of_members (h : ∀ j, j < 16 → s.member t p j = true → (s.slot t j).state = .wait .barrier) :
    s.allAtBar t p = true := by
  simp only [State.allAtBar, List.all_eq_true, List.mem_range, Bool.or_eq_true, Bool.not_eq_true', beq_iff_eq]
  intro j hj
  cases hm : s.member t p j with
  | false => exact Or.inl rfl
  | true => exact Or.inr (h j hj hm)

theorem waitResume_barrier {k : Nat} (hw : (s.slot t k).state = .wait .barrier) (hall : s.allAtBar t (s.slot t k).team = true)
    (hshut : (s.tile t).shut = false) : exec (.waitResume t k) s = .next (s.barrier t (s.slot t k).team) := by
  show execWaitResume t k s = _
  simp [execWaitResume, hw, hall, hshut, onEvent]

end

end Sys2Proof.Machine
end

section
/-! SUPPORT. The caches of a tile change no thread (R235-R239): a fill, its write-backs and their notices leave every slot's context. -/

namespace Sys2Proof.Machine

/-- Every slot is there with its thread and its place. -/
def State.KeepsThreads (s u : State) : Prop :=
  ∀ t, (u.tile t).slots.length = (s.tile t).slots.length ∧
    ∀ k, (u.slot t k).th = (s.slot t k).th ∧ (u.slot t k).ipc = (s.slot t k).ipc

namespace State.KeepsThreads

theorem refl (s : State) : s.KeepsThreads s := fun _ => ⟨rfl, fun _ => ⟨rfl, rfl⟩⟩

theorem trans {s u v : State} (h : s.KeepsThreads u) (h' : u.KeepsThreads v) : s.KeepsThreads v := fun t =>
  ⟨(h' t).1.trans (h t).1, fun k => ⟨((h' t).2 k).1.trans ((h t).2 k).1, ((h' t).2 k).2.trans ((h t).2 k).2⟩⟩

theorem of_slots {s u : State} (h : ∀ t, (u.tile t).slots = (s.tile t).slots) : s.KeepsThreads u := fun t =>
  ⟨congrArg _ (h t), fun k => by simp [State.slot, Tile.slot, h t]⟩

theorem foldl {α : Type} {f : State → α → State} (h : ∀ (s : State) a, s.KeepsThreads (f s a)) (l : List α) (s : State) :
    s.KeepsThreads (l.foldl f s) := by
  induction l generalizing s with
  | nil => exact refl s
  | cons a l ih => exact (h s a).trans (ih _)

end State.KeepsThreads

open State.KeepsThreads

theorem keeps_setTile {s : State} {t : Nat} {x : Tile} (h : x.slots = (s.tile t).slots) : s.KeepsThreads (s.setTile t x) :=
  of_slots fun u => by
    by_cases hu : u = t
    · rw [hu, tile_setTile_same, h]
    · rw [tile_setTile_other s t x hu]

theorem keeps_modTile {s : State} {t : Nat} {f : Tile → Tile} (h : ∀ x, (f x).slots = x.slots) : s.KeepsThreads (s.modTile t f) :=
  keeps_setTile (h _)

theorem keeps_modMem (s : State) (f : Mem → Mem) : s.KeepsThreads (s.modMem f) := of_slots fun _ => rfl

theorem keeps_send (s : State) (p : Packet) : s.KeepsThreads (s.send p) := fun u =>
  ⟨by rcases send_tile s p u with h | ⟨-, m, n, f, -, h⟩ <;> rw [h]; exact modifyAt_length _ _ _,
   fun k => by
    obtain ⟨q, h⟩ := slot_send s p u k
    rw [h]
    exact ⟨rfl, rfl⟩⟩

section
variable (s : State) (t : Nat)

theorem keeps_mergeNotice (l : Line) (i : Nat) : s.KeepsThreads (s.mergeNotice t l i) := keeps_send s _

theorem keeps_countDram (soft weak : List Nat) : s.KeepsThreads (s.countDram t soft weak) := keeps_modTile fun _ => rfl

theorem keeps_countSram (soft weak : Nat) : s.KeepsThreads (s.countSram t soft weak) := keeps_modTile fun _ => rfl

theorem keeps_meetDram (key n : Nat) : s.KeepsThreads (s.meetDram t key n) := by
  unfold State.meetDram
  split
  · exact refl s
  · exact (keeps_countDram s t _ _).trans (keeps_modMem _ _)

theorem tlbUse_slots (x : Tile) (l : Line) : (x.tlbUse l).slots = x.slots := by
  unfold Tile.tlbUse
  split <;> rfl

theorem keeps_meetLine (ctx obj ln : Nat) : s.KeepsThreads (s.meetLine t ctx obj ln) := by
  unfold State.meetLine
  dsimp only
  split
  · exact refl s
  · exact (keeps_countSram s t _ _).trans (keeps_modTile fun _ => rfl)

/-- R239: a line written to DRAM, with the errors it meets counted and noticed. -/
theorem keeps_sliceOut (l : Line) : s.KeepsThreads (s.sliceOut t l) := by
  unfold State.sliceOut
  split
  · exact refl s
  · refine State.KeepsThreads.trans ?_ (foldl (fun s i => keeps_mergeNotice s t l i) _ _)
    refine State.KeepsThreads.trans ?_ (keeps_modMem _ _)
    refine State.KeepsThreads.trans ?_ (keeps_modTile fun x => ?_)
    · split
      · exact refl s
      · exact keeps_countDram s t _ _
    · split
      · exact tlbUse_slots x l
      · rfl

theorem keeps_readLine (l : Line) : s.KeepsThreads (s.readLine t l).1 := by
  have hmet (key : Nat) : s.KeepsThreads ((s.modTile t (fun x => x.tlbUse l)).meetDram t key 8) :=
    (keeps_modTile (tlbUse_slots · l)).trans (keeps_meetDram _ t _ _)
  unfold State.readLine
  split
  · exact refl s
  · dsimp only
    split
    · split <;> exact hmet _
    · exact hmet _

theorem keeps_sliceIn (ctx obj ln : Nat) (uo : Bool) : s.KeepsThreads (s.sliceIn t ctx obj ln uo) := by
  have hmet := keeps_meetLine s t ctx obj ln
  have place (u : State) (l : Line) : u.KeepsThreads
      (match placeLine sliceSet (u.tile t).slices l with
       | (ls, out) => match out with
         | none => u.setTile t { u.tile t with slices := ls }
         | some v => (u.setTile t { u.tile t with slices := ls }).sliceOut t v) := by
    have hset (ls : List Line) : u.KeepsThreads (u.setTile t { u.tile t with slices := ls }) := keeps_setTile rfl
    cases placeLine sliceSet (u.tile t).slices l with
    | mk ls out => cases out with
      | none => exact hset ls
      | some v => exact (hset ls).trans (keeps_sliceOut _ t v)
  unfold State.sliceIn
  dsimp only
  cases findLine ((s.meetLine t ctx obj ln).tile t).slices ctx obj ln with
  | some l => exact hmet.trans (place _ l)
  | none => exact (hmet.trans (keeps_readLine _ t _)).trans (place _ _)

/-- R238: the dirty bytes of a line of the L1 go to the slice. -/
theorem keeps_l1Out (l : Line) : s.KeepsThreads (s.l1Out t l) := by
  unfold State.l1Out
  split
  · exact refl s
  · refine State.KeepsThreads.trans ?_ (foldl (fun s i => keeps_mergeNotice s t l i) _ _)
    exact (keeps_sliceIn s t _ _ _ _).trans (keeps_modTile fun _ => rfl)

theorem keeps_l1Put (l : Line) : s.KeepsThreads (s.l1Put t l) := by
  have hset (ls : List Line) : s.KeepsThreads (s.setTile t { s.tile t with l1 := ls }) := keeps_setTile rfl
  unfold State.l1Put
  dsimp only
  cases placeLine l1Set (s.tile t).l1 l with
  | mk ls out => cases out with
    | none => exact hset ls
    | some v => exact (hset ls).trans (keeps_l1Out _ t v)

/-- R237: a merging fill. -/
theorem keeps_l1Fill (ctx : Nat) (a : Word) (uo : Bool) : s.KeepsThreads (s.l1Fill t ctx a uo) := by
  unfold State.l1Fill
  exact (keeps_sliceIn s t _ _ _ _).trans (keeps_l1Put _ t _)

end

/-- R237: the fill of a waiting load ends its wait, with the thread at its instruction. -/
theorem mergingFill_next {s : State} {t k : Nat} (hw : (s.slot t k).state = .wait .fill) (hshut : (s.tile t).shut = false) :
    ∃ u, s.KeepsThreads u ∧ exec (.mergingFill t k) s =
      .next (u.modSlot t k (fun sl => { sl with state := .ready, retry := true })) := by
  have hok : ((s.slot t k).state == .wait .fill && !(s.tile t).shut) = true := by simp [hw, hshut]
  show ∃ u, s.KeepsThreads u ∧ execMergingFill t k s = _
  unfold execMergingFill
  dsimp only
  rw [hok]
  split
  · exact ⟨_, keeps_l1Fill s t _ _ _, rfl⟩
  · exact ⟨s, refl s, rfl⟩

end Sys2Proof.Machine
end

section
/-! SUPPORT. Slots given to those who wait for them: retries of `spawn`, queue heads, ring entries and arriving threads (R132,
R206-R210). -/

namespace Sys2Proof.Machine

section
variable {s : State} {t k : Nat}

/-! ### Retries of `spawn` (R132) -/

/-- R210: a spawner of its own tile asks for a place there. -/
theorem localSpawner_target {since : Nat} {d : Reg} {target pc : Word} {m : Bool} (hw : (s.slot t k).state = .wait (.spawn since))
    (hp : (s.slot t k).pend = .spawn d target pc m) (h : s.localSpawner t = some k) :
    isPlacement target = true ∨ nameTile (target.extractLsb' 0 24) = t := by
  have := List.find?_some h
  simp only [hw, hp, Bool.and_eq_true, Bool.or_eq_true, beq_iff_eq] at this
  exact this.1

/-- R132, R204: a `spawn` to another tile forms its child's flit. -/
theorem spawnPlace_away {d : Reg} {target pc : Word} {m : Bool} (hp : isPlacement target = false)
    (ht : nameTile (target.extractLsb' 0 24) ≠ t) : s.spawnPlace t k d target pc m =
      (s.seeking t k d target pc m).sendChild t k (nameTile (target.extractLsb' 0 24)) (bits target 23 16) := by
  simp only [State.spawnPlace, hp, if_neg ht]
  rfl

theorem spawnRetry_away {since : Nat} {d : Reg} {target pc : Word} {m : Bool} (hw : (s.slot t k).state = .wait (.spawn since))
    (hp : (s.slot t k).pend = .spawn d target pc m) (hdue : since + 256 ≤ s.now) (hshut : (s.tile t).shut = false)
    (hplace : isPlacement target = false) (ht : nameTile (target.extractLsb' 0 24) ≠ t) :
    exec (.spawnRetry t k) s = .next
      ((s.seeking t k d target pc m).sendChild t k (nameTile (target.extractLsb' 0 24)) (bits target 23 16)) := by
  have hlocal : s.localSpawner t ≠ some k := fun h => by
    rcases localSpawner_target hw hp h with h | h
    · simp [hplace] at h
    · exact ht h
  show execSpawnRetry t k s = _
  simp [execSpawnRetry, hw, hp, hlocal, hdue, hshut, onEvent, spawnPlace_away hplace ht]

theorem sendChild_slot {dst gen : Nat} (hk : k < (s.tile t).slots.length) : (s.sendChild t k dst gen).slot t k =
    { s.slot t k with state := .wait (.childFlit (max s.now ((s.slot t k).eligAt - 2)) dst gen), retry := true } :=
  slot_modSlot_same s t k _ hk

/-! ### A context takes a slot (R206) -/

theorem openTeam_tile (kin ctx : Nat) : ∃ T Q n, (s.openTeam t kin ctx).2.tile t =
    { s.tile t with teams := T, queues := Q, serial := n } := by
  unfold State.openTeam
  dsimp only
  split
  · exact ⟨_, _, _, rfl⟩
  · exact ⟨_, _, _, by rw [modInst_tile, tile_setTile_same]⟩

@[simp] theorem openTeam_slots (kin ctx : Nat) : ((s.openTeam t kin ctx).2.tile t).slots = (s.tile t).slots := by
  obtain ⟨T, Q, n, h⟩ := openTeam_tile (s := s) (t := t) kin ctx
  rw [h]

@[simp] theorem modInst_net (kin : Nat) (f : Inst → Inst) : (s.modInst kin f).net = s.net := by
  unfold State.modInst
  split <;> rfl

@[simp] theorem openTeam_net (kin ctx : Nat) : (s.openTeam t kin ctx).2.net = s.net := by
  unfold State.openTeam
  dsimp only
  split <;> simp

theorem seat_eq {f : Flit} (hb : f.back = none) : s.seat t k f =
    ((s.openTeam t f.th.kin f.th.ctx).2.modSlot t k (fun sl =>
      sl.seated f (s.openTeam t f.th.kin f.th.ctx).1 ((s.openTeam t f.th.kin f.th.ctx).2.fullBudget f.th.kin))).emit t k 2
        (if f.kind = 6 then 0#64 else f.frm.zeroExtend 64) := by
  simp only [State.seat, hb]
  rfl

/-- R206, R213: what a migrated thread finds in its slot. -/
structure Slot.Migrated (sl : Slot) (f : Flit) : Prop where
  state : sl.state = .ready
  th : sl.th = f.th
  ipc : sl.ipc = f.th.pc
  prev : sl.prev = some f.frm

theorem seated_migrated (sl : Slot) {f : Flit} (p full : Nat) (hkind : f.kind = 0) (hstop : f.stop = false) :
    (sl.seated f p full).Migrated f := by
  constructor <;> simp [Slot.seated, Slot.pinState, hkind, hstop]

theorem seat_migrated {f : Flit} (hb : f.back = none) (hkind : f.kind = 0) (hstop : f.stop = false)
    (hk : k < (s.tile t).slots.length) : ((s.seat t k f).slot t k).Migrated f := by
  rw [seat_eq hb, emit_slot, slot_modSlot_same _ _ _ _ (by simpa using hk)]
  exact seated_migrated _ _ _ hkind hstop

/-- R357: a thread without trace leaves no record. -/
theorem emit_untraced (h : (s.slot t k).th.trace = false) (kind : Nat) (x : Word) : s.emit t k kind x = s := by
  unfold State.emit
  dsimp only
  split
  · rfl
  · simp [h]

theorem seat_net {f : Flit} (hb : f.back = none) (hkind : f.kind = 0) (hstop : f.stop = false)
    (hk : k < (s.tile t).slots.length) (htrace : f.th.trace = false) : (s.seat t k f).net = s.net := by
  have hk' : k < ((s.openTeam t f.th.kin f.th.ctx).2.tile t).slots.length := by simpa using hk
  rw [seat_eq hb, emit_untraced, modSlot_net, openTeam_net]
  rw [slot_modSlot_same _ _ _ _ hk', (seated_migrated _ _ _ hkind hstop).th, htrace]

/-! ### Queue heads (R210) -/

theorem slotGrant_queue {i j : Nat} (hshut : (s.tile t).shut = false) (hwoken : s.wokenClaim t = none)
    (hgrant : s.grantSlot t = some j) (hnext : s.queueNext t = some i) :
    exec (.slotGrant t) s = .next (s.seatQueued t j i) := by
  have hfree : s.freeSlots t ≠ 0 := fun h => by simp [State.grantSlot, h] at hgrant
  show execSlotGrant t s = _
  simp [execSlotGrant, hshut, hwoken, hgrant, hnext, hfree]

theorem seatQueued_migrated {j i : Nat} {q : AQueue} {f : Flit} {rest : List Flit} (hj : j < (s.tile t).slots.length)
    (hq : (s.tile t).queues.look i = some q) (hhead : q.q = f :: rest) (hstop : f.stop = false) (hb : f.back = none)
    (hkind : f.kind = 0) : ((s.seatQueued t j i).slot t j).Migrated f := by
  have hseat (u : State) (hu : j < (u.tile t).slots.length) : (((u.seat t j f).modTile t Tile.tidyQueues).slot t j).Migrated f := by
    rw [State.slot, tile_modTile_same]
    exact seat_migrated hb hkind hstop hu
  simp only [State.seatQueued, hq, hhead]
  exact hseat _ (by rw [tile_modTile_same]; exact hj)

/-! ### The spill ring (R208) -/

theorem look_filter {α : Type} {m : Map α} {k : Nat} {v : α} {b : Nat × α → Bool} (h : m.look k = some v) (hb : b (k, v) = true) :
    Map.look (m.filter b) k = some v := by
  induction m with
  | nil => cases h
  | cons e m ih =>
    obtain ⟨j, u⟩ := e
    by_cases hj : j = k
    · subst hj
      obtain rfl : u = v := by simpa [Map.look] using h
      simp [hb, Map.look]
    · have hrest := ih (by simpa [Map.look, hj] using h)
      rw [List.filter_cons]
      split
      · simpa [Map.look, hj] using hrest
      · exact hrest

/-- R207: a queue that holds an entry stays. -/
theorem tidyQueues_look {x : Tile} {i : Nat} {q : AQueue} (h : x.queues.look i = some q) (hq : q.q ≠ []) :
    x.tidyQueues.queues.look i = some q := by
  refine look_filter h ?_
  cases hc : q.q with
  | nil => exact absurd hc hq
  | cons f rest => rfl

theorem ringMove_head {f : Flit} {rest : List Flit} {q : AQueue} (hring : (s.tile t).ring = f :: rest)
    (hquiet : (s.tile t).quiesced f.th.kin = false) (hq : (s.tile t).queues.look f.th.ctx = some q) (hroom : q.q.length < q.depth) :
    s.ringMove t = some 0 := by
  simp [State.ringMove, hring, firstIdx, hquiet, hq, hroom]

/-- R208: the first entry of the ring at the end of its context's queue. -/
def Tile.unring (x : Tile) (f : Flit) : Tile :=
  match x.queues.look f.th.ctx with
  | none => x
  | some q => { x with ring := dropAt x.ring 0, queues := x.queues.put f.th.ctx { q with q := q.q ++ [f] } }.tidyQueues

theorem ringToQueue_head {f : Flit} {rest : List Flit} {q : AQueue} (hshut : (s.tile t).shut = false)
    (hring : (s.tile t).ring = f :: rest) (hfoul : f.th.foul = false) (hquiet : (s.tile t).quiesced f.th.kin = false)
    (hq : (s.tile t).queues.look f.th.ctx = some q) (hroom : q.q.length < q.depth) :
    exec (.ringToQueue t) s = .next (s.modTile t (·.unring f)) := by
  show execRingToQueue t s = _
  simp only [execRingToQueue, ringMove_head hring hquiet hq hroom, hring, List.getElem?_cons_zero, hshut, hfoul, hq]
  rfl

theorem unring_head {x : Tile} {f : Flit} {rest : List Flit} {q : AQueue} (hring : x.ring = f :: rest)
    (hq : x.queues.look f.th.ctx = some q) : (x.unring f).ring = rest ∧
      (x.unring f).queues.look f.th.ctx = some { q with q := q.q ++ [f] } := by
  simp only [Tile.unring, hq, hring]
  exact ⟨rfl, tidyQueues_look (look_put_same _ _ _) (by simp)⟩

/-! ### Arrivals (R206) -/

theorem notePort_shape (p : Packet) : ∃ m, s.notePort p = { s with portAt := m } := by
  unfold State.notePort
  split
  · split
    · exact ⟨_, rfl⟩
    · exact ⟨_, rfl⟩
  · exact ⟨_, rfl⟩

/-- A packet that arrives is taken, and leaves the fabric. -/
theorem onPacket_taken {n : Nat} {p : Packet} {f : Packet → State → Taken} {u : State} (h : s.Arrives n p)
    (hf : f p (({ s with net := dropAt s.net n } : State).notePort p) = .yes u) : onPacket s n f = .next u := by
  obtain ⟨hthere, hgoing, hturn, htile, hopen, hstanding⟩ := h
  simp [onPacket, hthere, hgoing, hturn, hopen, hstanding, hf]

/-- R206: a thread whose name is current, of a kernel that lives, takes the open slot. -/
theorem migrationFlit_seated {n j : Nat} {p : Packet} {f : Flit} {i : Inst} (h : s.Arrives n p) (ht : p.dst = t)
    (hbody : p.body = .migrate f) (hkind : f.kind = 0) (hi : s.insts.look f.th.kin = some i) (hl : i.killed = false)
    (hquiet : (s.tile t).quiesced f.th.kin = false) (ho : s.openSlot t = some j) (hc : s.canSeat t f.th.kin = true) :
    ∃ m, exec (.migrationFlit n) s = .next (({ s with net := dropAt s.net n, portAt := m } : State).seat t j f) := by
  obtain ⟨m, hm⟩ := notePort_shape (s := { s with net := dropAt s.net n }) p
  have harrive : ({ s with net := dropAt s.net n, portAt := m } : State).arrive t f =
      .took (({ s with net := dropAt s.net n, portAt := m } : State).seat t j f) := by
    rw [arrive_openSlot (s := { s with net := dropAt s.net n, portAt := m }) (i := i) hi hl hquiet ho hc,
      birth_other _ _ (by omega)]
  refine ⟨m, ?_⟩
  have htaken := onPacket_taken (f := fun p s => s.takeFlit p f) h (u := ({ s with net := dropAt s.net n, portAt := m } : State).seat t j f)
    (by simp [hm, State.takeFlit, ht, hkind, harrive])
  show execMigrationFlit n s = _
  simp [execMigrationFlit, h.there, hbody, h.going, htaken]

end

end Sys2Proof.Machine
end

section
/-! SUPPORT. How waits end and arrivals are admitted, put together (R19, R132, R142, R206-R216, R237). -/

namespace Sys2Proof.Machine

section
variable {s : State} {t k : Nat}

theorem readySlot {f : Slot → Slot} (hk : k < (s.tile t).slots.length)
    (hf : ∀ sl, (f sl).state = .ready ∧ (f sl).th = sl.th ∧ (f sl).ipc = sl.ipc ∧ (f sl).retry = true) :
    ((s.modSlot t k f).slot t k).state = .ready ∧ ((s.modSlot t k f).slot t k).th = (s.slot t k).th ∧
      ((s.modSlot t k f).slot t k).ipc = (s.slot t k).ipc ∧ ((s.modSlot t k f).slot t k).retry = true := by
  rw [slot_modSlot_same _ _ _ _ hk]
  exact hf _

end

/-- Settles O43: each wait by the condition that ends it, each claimant by the slot or place that it is given. -/
theorem waitsEnd : Obligations.WaitsEnd := by
  intro s t k i since j n w d target pc m q f rest h p x sl again same hshut
  refine ⟨fun hw hover => ?_, fun hw hall => ?_, fun hw => ?_, fun hw => ⟨fun hdue => ?_, parkRetry_early hw⟩,
    fun hs hroom hfoul => ?_, fun hw hp hdue hplace ht => ?_, fun hwoken hgrant hj hnext hq hhead hstop hb hkind _ => ?_,
    fun hring hfoul hquiet hq hroom => ?_,
    fun harr ht hbody hkind hb hstop htrace hi hl hquiet ho hj hc => ?_⟩
  · have hwait : w ≠ .barrier ∧ s.waitOver t k w = true := by
      rcases hover with ⟨e, rfl, he⟩ | ⟨g, rfl, hl, hs, hd⟩ | ⟨rfl, hn⟩ | ⟨rfl, ha⟩
      · exact ⟨by simp, waitOver_engine he⟩
      · exact ⟨by simp, waitOver_mac hl hs hd⟩
      · exact ⟨by simp, waitOver_handles hn⟩
      · exact ⟨by simp, waitOver_alone ha⟩
    exact ⟨_, waitResume_next hw hwait.1 hwait.2 hshut, readySlot (slot_lt_of_wait hw) fun _ => ⟨rfl, rfl, rfl, rfl⟩,
      modSlot_onlySlot _⟩
  · have hbar := allAtBar_of_members hall
    refine ⟨_, waitResume_barrier hw hbar hshut, fun j hj hm => ?_⟩
    rw [barrier_slot_member hbar hj hm]
    exact ⟨rfl, rfl⟩
  · obtain ⟨u, hkeep, hexec⟩ := mergingFill_next hw hshut
    obtain ⟨hlen, hsame⟩ := hkeep t
    obtain ⟨hth, hipc⟩ := hsame k
    obtain ⟨h1, h2, h3, h4⟩ := readySlot (s := u) (f := fun sl => { sl with state := .ready, retry := true })
      (hlen ▸ slot_lt_of_wait hw) fun _ => ⟨rfl, rfl, rfl, rfl⟩
    exact ⟨_, hexec, h1, h2.trans hth, h3.trans hipc, h4⟩
  · exact ⟨_, parkRetry_next hw hshut hdue, readySlot (slot_lt_of_wait hw) fun _ => ⟨rfl, rfl, rfl, rfl⟩, modSlot_onlySlot _⟩
  · refine ⟨_, waiterUnspill_next hs hroom, ?_⟩
    rw [tile_modTile_same, dropSpilled_tile hfoul, unspill_table hfoul]
    constructor
    · simp [x]
    · simp only [List.length_append, List.length_take]
      omega
  · refine ⟨_, spawnRetry_away hw hp hdue hshut hplace ht, ?_⟩
    have hk := slot_lt_of_wait hw
    rw [sendChild_slot (by rw [seeking_tile]; exact (modifyAt_length _ _ _).symm ▸ hk), seeking_slot_same hk]
    exact ⟨rfl, rfl⟩
  · obtain ⟨hstate, hth, hipc, -⟩ := seatQueued_migrated hj hq hhead hstop hb hkind
    exact ⟨_, slotGrant_queue hshut hwoken hgrant hnext, hstate, hth, hipc⟩
  · refine ⟨_, ringToQueue_head hshut hring hfoul hquiet hq hroom, ?_⟩
    rw [tile_modTile_same]
    exact unring_head hring hq
  · obtain ⟨v, hexec⟩ := migrationFlit_seated harr ht hbody hkind hi hl hquiet ho hc
    have hj' : j < (({ s with net := dropAt s.net n, portAt := v } : State).tile t).slots.length := hj
    obtain ⟨hstate, hth, hipc, hprev⟩ := seat_migrated hb hkind hstop hj'
    exact ⟨_, hexec, seat_net hb hkind hstop hj' htrace, hstate, hth, hipc, hprev⟩

end Sys2Proof.Machine
end

section
/-! SUPPORT. What a slot holds once it has given up its thread, asked a home or taken a fault (R142, R204, R256). -/

namespace Sys2Proof.Machine

section
variable (s : State) (t k : Nat)

/-! ### A pending step given up (R354) -/

theorem stepLeft_slot : ∃ r b, (s.stepLeft t k).slot t k = { s.slot t k with stepReq := r, stopReq := b } := by
  unfold State.stepLeft
  split
  · exact ⟨_, _, rfl⟩
  · by_cases hk : k < (s.tile t).slots.length
    · exact ⟨_, _, slot_modSlot_same s t k _ hk⟩
    · refine ⟨(s.slot t k).stepReq, (s.slot t k).stopReq, ?_⟩
      show (s.modSlot t k _).slot t k = _
      rw [State.slot, State.modSlot, tile_modTile_same]
      exact congrArg (fun l => l.getD k {}) (modifyAt_beyond _ _ _ (Nat.le_of_not_lt hk))

@[simp] theorem stepLeft_slots_length : ((s.stepLeft t k).tile t).slots.length = (s.tile t).slots.length := by
  unfold State.stepLeft
  split
  · rfl
  · show ((s.modSlot t k _).tile t).slots.length = _
    rw [State.modSlot, tile_modTile_same]
    exact modifyAt_length _ _ _

@[simp] theorem stepLeft_net : (s.stepLeft t k).net = s.net := by
  unfold State.stepLeft
  split <;> rfl

/-! ### A slot vacated (R142, R204) -/

@[simp] theorem barrier_net (p : Nat) : (s.barrier t p).net = s.net := by
  rw [barrier_eq]
  split <;> rfl

@[simp] theorem vacate_net : (s.vacate t k).net = s.net := by simp [State.vacate]

/-- R196: a vacated slot is FREE, and its fault sequence number stays. -/
theorem vacate_slot {s : State} {t k : Nat} (hk : k < (s.tile t).slots.length) :
    ((s.vacate t k).slot t k).state = .free ∧ ((s.vacate t k).slot t k).fseq = (s.slot t k).fseq := by
  obtain ⟨r, b, hleft⟩ := stepLeft_slot s t k
  have hvacant : ((s.stepLeft t k).modSlot t k Slot.vacant).slot t k = (s.slot t k).vacant := by
    rw [slot_modSlot_same _ _ _ _ (by simpa using hk), hleft]
    rfl
  have hmember (p : Nat) : ((s.stepLeft t k).modSlot t k Slot.vacant).member t p k = false := by
    simp [State.member, hvacant, Slot.vacant]
  rw [State.vacate, barrier_slot_other (hmember _), hvacant]
  exact ⟨rfl, rfl⟩

end

/-! ### A fault (R256) -/

section
variable {s : State} {t k : Nat}

theorem postFault_slot (f : FaultRec) (hk : k < (s.tile t).slots.length) :
    ∃ q, (s.postFault t k f).slot t k = { s.slot t k with fseq := (s.slot t k).fseq + 1#8, reqSeq := q } := by
  have hmod := slot_modSlot_same s t k (fun sl => { sl with fseq := sl.fseq + 1#8 }) hk
  unfold State.postFault
  dsimp only
  rw [emit_slot]
  obtain ⟨q, hq⟩ := slot_send (s.modSlot t k (fun sl => { sl with fseq := sl.fseq + 1#8 })) _ t k
  exact ⟨q, hq.trans (by rw [hmod])⟩

/-- R256: a thread of a kernel BLOCKED on its fault. -/
theorem raise_slot (hs : s.atService t k = false) (hk : k < (s.tile t).slots.length) (code : Nat) (a x : Word) :
    ∃ r b q, (s.raise t k code a x).slot t k =
      { (s.slot t k).block { code := code, pc := (s.slot t k).th.pc, addr := a, extra := x } with
        stepReq := r, stopReq := b, fseq := (s.slot t k).fseq + 1#8, reqSeq := q } := by
  let f : FaultRec := { code := code, pc := (s.slot t k).th.pc, addr := a, extra := x }
  have hraise : s.raise t k code a x = ((s.modSlot t k (fun sl => sl.block f)).stepLeft t k).postFault t k f := by
    simp [State.raise, State.raiseRec, hs, f]
  have hlen : k < ((s.modSlot t k (fun sl => sl.block f)).tile t).slots.length := by
    rw [State.modSlot, tile_modTile_same]
    exact (modifyAt_length _ _ _).symm ▸ hk
  obtain ⟨r, b, hleft⟩ := stepLeft_slot (s.modSlot t k (fun sl => sl.block f)) t k
  obtain ⟨q, hq⟩ := postFault_slot (s := (s.modSlot t k (fun sl => sl.block f)).stepLeft t k) (t := t) (k := k) f (by simpa using hlen)
  refine ⟨r, b, q, ?_⟩
  rw [hraise, hq, hleft, slot_modSlot_same s t k _ hk]
  rfl

/-! ### A read request (R104, R112) -/

theorem remoteRead_slot (hk : k < (s.tile t).slots.length) (dst gen : Nat) (a : Word) (d : Reg) (z : Size) (sx : Bool)
    (base : Option (Ptr × Word)) (pin : Bool) : ((s.remoteRead t k dst gen a d z sx base pin).slot t k).state = .remote ∧
      ((s.remoteRead t k dst gen a d z sx base pin).slot t k).th = (s.slot t k).th := by
  let u := s.modSlot t k (fun sl => { sl with state := .remote, pend := .load d z sx base pin })
  have hmod : u.slot t k = { s.slot t k with state := .remote, pend := .load d z sx base pin } := slot_modSlot_same s t k _ hk
  obtain ⟨r, b, hleft⟩ := stepLeft_slot u t k
  obtain ⟨q, hq⟩ := slot_send (u.stepLeft t k)
    { vc := 0, src := t, dst := dst, gen := gen, slot := k, body := .readReq (s.memCtx t k) a z } t k
  rw [hleft, hmod] at hq
  exact ⟨(congrArg Slot.state hq).trans rfl, (congrArg Slot.th hq).trans rfl⟩

end

end Sys2Proof.Machine
end

section
/-! SUPPORT. Departures of threads and the bounds of their waits (R204). -/

namespace Sys2Proof.Machine

/-- R204: the bound of a departure's wait: 4,096 cycles for a load, 65,536 for any other. -/
theorem departure_bound (since kind dst gen : Nat) :
    (Why.departure since kind dst gen).bound = some (since + if kind = 0 then 4096 else 65536) := by
  cases kind <;> rfl

/-- R204, R213: the context that a departing flit takes: past its instruction for a `hop`, with its bounce for a load. -/
theorem bounced_flit_th (sl : Slot) (name : BitVec 24) (kind dst : Nat) : ((sl.bounced kind dst).flit name kind).th =
    if kind = 1 then { sl.th with pc := sl.ipc + 4#64 } else if kind = 0 then sl.th.setBounce (sl.bounceTo dst).1 else sl.th := by
  by_cases h0 : kind = 0
  · subst h0
    simp [Slot.bounced, Slot.flit]
  · simp [Slot.bounced, Slot.flit, h0]

section
variable {s : State} {t k since kind dst gen : Nat}

/-- R204 step 3: a departure that is formed, within its bound and accepted by the router leaves. -/
theorem migrationDeparture_next (hw : (s.slot t k).state = .wait (.departure since kind dst gen))
    (htrace : (s.slot t k).th.trace = false) (hformed : since ≤ s.now)
    (hbound : s.now < since + (if kind = 0 then 4096 else 65536)) (hcredit : s.flitCredit t = true) :
    exec (.migrationDeparture t k) s = .next
      ((s.sendFlit t dst gen (((s.slot t k).bounced kind dst).flit (s.name t) kind)).vacate t k) := by
  have hwithin : ((match (Why.departure since kind dst gen).bound with | some c => decide (c ≤ s.now) | none => true) ||
      !(Why.departure since kind dst gen).formed s.now) = false := by
    rw [departure_bound]
    simp [Why.formed, hformed, hbound]
  show execMigrationDeparture t k s = _
  unfold execMigrationDeparture
  simp only [hw]
  rw [if_neg (by rw [Bool.not_eq_true]; exact hwithin)]
  simp [hcredit, emit_untraced htrace]

/-- R250: a packet on a channel that no sequence counts leaves every tile as it is. -/
theorem send_tile_uncounted (s : State) {p : Packet} (h : p.vc = 1 ∨ p.vc = 3 ∨ p.vc = 4) (u : Nat) : (s.send p).tile u = s.tile u := by
  have hextents : (s.send p).freshExtents = s.freshExtents := by rw [send_shape]
  simp [State.tile, send_tiles_uncounted s h, hextents]

/-- R204: a departed slot, with the flit in the fabric. -/
theorem sendFlit_vacate (f : Flit) (hk : k < (s.tile t).slots.length) :
    ((s.sendFlit t dst gen f).vacate t k |>.slot t k).state = .free ∧
      ((s.sendFlit t dst gen f).vacate t k |>.slot t k).fseq = (s.slot t k).fseq ∧
      ∃ q, ((s.sendFlit t dst gen f).vacate t k).net = s.net ++ [q] ∧ q.vc = 3 ∧ q.src = t ∧ q.dst = dst ∧ q.gen = gen ∧
        q.body = .migrate f := by
  have htile : (s.sendFlit t dst gen f).tile t = s.tile t := send_tile_uncounted s (Or.inr (Or.inl rfl)) t
  obtain ⟨hfree, hseq⟩ := vacate_slot (s := s.sendFlit t dst gen f) (t := t) (k := k) (htile ▸ hk)
  obtain ⟨n, o, r, g, q, hnet⟩ := send_net s { vc := 3, src := t, dst := dst, gen := gen, body := .migrate f }
  refine ⟨hfree, hseq.trans (by rw [State.slot, htile]; rfl), _, (vacate_net _ t k).trans hnet, rfl, rfl, rfl, rfl, rfl⟩

/-- R204: a load that has waited its bound is performed at its home. -/
theorem loadDepartureTimeout_indexed {d : Reg} {y : Ptr} {x : Reg} {z : Size} {o : Sys2Proof.Order} {c : Scope}
    (hw : (s.slot t k).state = .wait (.departure since 0 dst gen)) (hdue : since + 4096 ≤ s.now)
    (hi : s.waiting t k = some (.ldx d y x z o c)) : exec (.loadDepartureTimeout t k) s =
      .next (s.remoteRead t k dst gen (addrX (s.slot t k).th y x (sizeBytes z)) d z (s.slot t k).sx none false) := by
  show execLoadDepartureTimeout t k s = _
  simp [execLoadDepartureTimeout, hw, hi, Nat.not_lt.mpr hdue]

/-- R102: the address of an indexed form over the integers. -/
theorem addrX_int (th : Thread) (a : Ptr) (b : Reg) (n : Nat) :
    addrX th a b n = th.regs.get a + fromInt ((th.reg b).toInt * n) := by
  rw [addrX, fromInt, BitVec.ofInt_mul, BitVec.ofInt_toInt, BitVec.ofInt_natCast]

theorem remoteRead_net (a : Word) (d : Reg) (z : Size) (sx : Bool) (base : Option (Ptr × Word)) (pin : Bool) :
    ∃ q, (s.remoteRead t k dst gen a d z sx base pin).net = s.net ++ [q] ∧ q.vc = 0 ∧ q.src = t ∧ q.dst = dst ∧ q.gen = gen ∧
      q.slot = k ∧ q.body = .readReq (s.memCtx t k) a z := by
  obtain ⟨n, o, r, g, q, hnet⟩ := send_net
    ((s.modSlot t k (fun sl => { sl with state := .remote, pend := .load d z sx base pin })).stepLeft t k)
    { vc := 0, src := t, dst := dst, gen := gen, slot := k, body := .readReq (s.memCtx t k) a z }
  rw [stepLeft_net, modSlot_net] at hnet
  exact ⟨_, hnet, rfl, rfl, rfl, rfl, rfl, rfl⟩

theorem qstallTimeout_next (hw : (s.slot t k).state = .wait (.departure since kind dst gen)) (hkind : kind ≠ 0)
    (hdue : since + 65536 ≤ s.now) :
    exec (.qstallTimeout t k) s = .next (s.raise t k FaultCode.qstall (s.addrAt t k) 0#64) := by
  show execQstallTimeout t k s = _
  simp [execQstallTimeout, hw, hkind, hdue, onEvent]

/-! ### A child's flit (R132, R204) -/

theorem childFlitTimeout_next (hw : (s.slot t k).state = .wait (.childFlit since dst gen)) (hdue : since + 4096 ≤ s.now) :
    exec (.childFlitTimeout t k) s = .next (s.childRefused t k) := by
  show execChildFlitTimeout t k s = _
  simp [execChildFlitTimeout, hw, hdue, onEvent]

theorem childFlitTimeout_early (hw : (s.slot t k).state = .wait (.childFlit since dst gen)) (hdue : s.now < since + 4096) :
    exec (.childFlitTimeout t k) s = .fault .notEnabled := by
  show execChildFlitTimeout t k s = _
  simp [execChildFlitTimeout, hw, hdue, onEvent]

/-- R132: the slot of a `spawn` that waits 256 cycles for its next attempt. -/
def Slot.respawns (sl : Slot) (now : Nat) (d : Reg) (target pc : Word) (m : Bool) : Slot :=
  { sl with state := .wait (.spawn now), retry := true, pend := .spawn d target pc m, tried := [], level := 0, resent := false }

theorem teamClosed_modSlot (hk : k < (s.tile t).slots.length) (f : Slot → Slot) (hf : ∀ sl, (f sl).team = sl.team) :
    (s.modSlot t k f).teamClosed t k = s.teamClosed t k := by
  unfold State.teamClosed
  dsimp only
  rw [State.modSlot, tile_modTile_same, modSlot_slot_same _ _ _ hk, hf]
  rfl

/-- R133, R144: a refused child whose caller may not run it inline, with no stop or quiesce under way. -/
theorem childRefused_waits {d : Reg} {target pc : Word} {m : Bool} (hk : k < (s.tile t).slots.length)
    (hp : (s.slot t k).pend = .spawn d target pc m) (hplace : isPlacement target = false) (hinline : ¬ (s.slot t k).th.inline < 4)
    (hstop : (s.slot t k).stopReq = false) (hclosed : s.teamClosed t k = false) :
    s.childRefused t k = s.modSlot t k (fun sl => sl.respawns s.now d target pc m) := by
  have hslot := slot_modSlot_same s t k (fun sl => sl.respawns s.now d target pc m) hk
  have hstopped : (s.modSlot t k (fun sl => sl.respawns s.now d target pc m)).stopWait t k =
      s.modSlot t k (fun sl => sl.respawns s.now d target pc m) := by
    have hstop' : ((s.modSlot t k (fun sl => sl.respawns s.now d target pc m)).slot t k).stopReq = false := by
      rw [hslot]
      exact hstop
    simp [State.stopWait, hstop', teamClosed_modSlot hk (fun sl => sl.respawns s.now d target pc m) (fun _ => rfl), hclosed]
  rw [← hstopped]
  simp only [State.childRefused, hp, hplace, State.spawnFails, hinline]
  rfl

end

end Sys2Proof.Machine
end

section
/-! SUPPORT. Packets that come back or are held, errors of links, and changes of the clock (R28, R107, R248, R350, R379, R382). -/

namespace Sys2Proof.Machine

section
variable {s : State} {n : Nat} {p : Packet}

/-! ### Returned and held packets (R107, R263, R379) -/

/-- R107: a request that comes back STALE, in its turn. -/
theorem staleReturn_read {ctx : Nat} {a : Word} {z : Size} (hnet : s.net[n]? = some p) (hsrc : (s.tile p.src).closed = false)
    (hret : p.ret = .stale) (hfirst : s.firstReturned p = true) (hbody : p.body = .readReq ctx a z) :
    exec (.staleReturn n) s = .next (({ s with net := dropAt s.net n } : State).staleAccess p ctx a) := by
  show execStaleReturn n s = _
  simp [execStaleReturn, hnet, hsrc, hret, hfirst, hbody, Body.place]

theorem staleAccess_first {ctx u : Nat} {a : Word} {o : Object} (hr : p.resent = false) (ho : s.object ctx (objOf a) = some o)
    (hu : s.trueHome ctx a p.src = some u) : s.staleAccess p ctx a = (s.refresh p.src ctx a).resend p u true := by
  simp [State.staleAccess, hr, ho, hu]

/-- R263: the second return of a read raises STALE. -/
theorem staleAccess_again {ctx : Nat} {a : Word} {z : Size} (hr : p.resent = true) (hbody : p.body = .readReq ctx a z) :
    s.staleAccess p ctx a = s.refuse p.dst p FaultCode.stale a ((nameOf p.gen p.dst).zeroExtend 64) := by
  simp [State.staleAccess, hr, hbody]

/-- A packet sent again is the same packet with the current name of its tile. -/
theorem resend_net (s : State) (p : Packet) (dst : Nat) (again : Bool) : ∃ q, (s.resend p dst again).net = s.net ++ [q] ∧
    q.dst = dst ∧ q.gen = s.gen ∧ q.body = p.body ∧ q.src = p.src ∧ q.slot = p.slot ∧ q.resent = (p.resent || again) := by
  obtain ⟨m, o, r, g, q, hnet⟩ := send_net s { p with dst := dst, gen := s.gen, ret := .no, held := false, resent := p.resent || again }
  exact ⟨_, hnet, rfl, rfl, rfl, rfl, rfl, rfl⟩

theorem refuse_net (s : State) (h : Nat) (p : Packet) (code : Nat) (a x : Word) : ∃ q, (s.refuse h p code a x).net = s.net ++ [q] ∧
    q.dst = p.src ∧ q.slot = p.slot ∧ q.body = .failed code a x := by
  obtain ⟨m, o, r, g, q, hnet⟩ := send_net s { vc := 1, src := h, dst := p.src, gen := s.gen, slot := p.slot, body := .failed code a x }
  exact ⟨_, hnet, rfl, rfl, rfl⟩

theorem resend_held (s : State) (p : Packet) (dst : Nat) (again : Bool) : (s.resend p dst again).held = s.held := by
  unfold State.resend State.send
  dsimp only
  split <;> rfl

/-- R379: the first of its source and channel among the held packets of a tile that answers again. -/
theorem heldPacketResend_next (hheld : s.held[n]? = some p) (hgen : p.gen ≠ s.gen) (hopen : (s.tile p.dst).closed = false)
    (hfirst : ∀ q, q ∈ s.held.take n → q.src = p.src → q.dst = p.dst → q.vc ≠ p.vc) :
    exec (.heldPacketResend n) s = .next (({ s with held := dropAt s.held n } : State).resend p p.dst false) := by
  have hnone : (s.held.take n).any (fun q => q.src == p.src && q.dst == p.dst && q.vc == p.vc) = false := by
    simp only [List.any_eq_false, Bool.and_eq_true, beq_iff_eq, not_and, and_imp]
    exact hfirst
  show execHeldPacketResend n s = _
  simp only [execHeldPacketResend, hheld, hgen, hopen, hnone]
  rfl

/-! ### Errors of links (R248, R350, R389) -/

/-- R389: the error of a router's link is counted at the tile of its site, where it has one. -/
def State.linkErrorAt (s : State) (site : Nat) : State :=
  match s.tileAt site with
  | none => s
  | some t => s.modTile t (fun x => { x with errs := { x.errs with link := x.errs.link + 1 } })

theorem linkError_at (port : Nat) : s.linkError port = s.linkErrorAt (Config.portSite port) := rfl

/-- A counted error changes one tile's count and nothing else. -/
theorem linkErrorAt_shape (site : Nat) : s.linkErrorAt site = { s with tiles := (s.linkErrorAt site).tiles } := by
  unfold State.linkErrorAt
  split <;> rfl

theorem linkErrorAt_tile {site e : Nat} (h : s.tileAt site = some e) :
    ((s.linkErrorAt site).tile e).errs.link = (s.tile e).errs.link + 1 := by
  simp [State.linkErrorAt, h]

theorem linkErrorAt_tile_other {site e : Nat} (h : s.tileAt site ≠ some e) : (s.linkErrorAt site).tile e = s.tile e := by
  unfold State.linkErrorAt
  split
  · rfl
  · next t ht => exact tile_modTile_other s t _ fun he => h (he ▸ ht)

theorem linkCrcResend_next {port : Nat} {r : Port} (hport : s.ports[port]? = some r) (hup : r.up = true) (hrole : r.role ≠ 0) :
    ∃ G, exec (.linkCrcResend port) s = .next { s.linkErrorAt (Config.portSite port) with grids := G } := by
  refine ⟨((s.linkError port).countResend (Config.portSite port) (outward (Config.portSite port))).grids, ?_⟩
  show execLinkCrcResend port s = _
  simp only [execLinkCrcResend, hport, hup, onEvent]
  rw [if_pos (by simpa using hrole)]
  rfl

/-- R248, R361: a header's CRC error is counted at a site of the packet's path. -/
theorem headerCrcError_next (hnet : s.net[n]? = some p) (hheld : p.held = false) (hret : p.ret = .no) (hpath : s.sitesOf p ≠ []) :
    ∃ g G, g ∈ s.sitesOf p ∧
      exec (.headerCrcError n) s = .next (({ s with fresh := s.fresh + 1, grids := G } : State).linkErrorAt g) := by
  have hindex : Config.crcRouter s.fresh % (s.sitesOf p).length < (s.sitesOf p).length :=
    Nat.mod_lt _ (List.length_pos_of_ne_nil hpath)
  have hmem : (s.sitesOf p).getD (Config.crcRouter s.fresh % (s.sitesOf p).length) 0 ∈ s.sitesOf p := by
    rw [List.getD_eq_getElem _ _ hindex]
    exact List.getElem_mem hindex
  have counted (u : State) (g : Nat) : (match u.tileAt g with
      | none => Host.Outcome.next u
      | some t => Host.Outcome.next (u.modTile t (fun x => { x with errs := { x.errs with link := x.errs.link + 1 } })) : Out) =
        .next (u.linkErrorAt g) := by
    unfold State.linkErrorAt
    cases u.tileAt g <;> rfl
  show ∃ g G, g ∈ s.sitesOf p ∧ execHeaderCrcError n s = _
  simp only [execHeaderCrcError, hnet, hheld, hret, State.draw]
  rw [if_neg (by simp)]
  generalize List.find? _ (List.range 4) = before
  cases before with
  | none => exact ⟨_, s.grids, hmem, counted { s with fresh := s.fresh + 1 } _⟩
  | some k => exact ⟨_, _, hmem, counted (({ s with fresh := s.fresh + 1 } : State).countResend _ k) _⟩

end

end Sys2Proof.Machine
end

section
/-! SUPPORT. Relocks and changes of the clock's tree (R28, R370, R382). -/

namespace Sys2Proof.Machine

section
variable {s : State} {t : Nat}

/-! ### Relocks (R28) -/

theorem relockAll_cons (s : State) (t : Nat) (ts : List Nat) :
    s.relockAll (t :: ts) = (s.modTile t (fun x => { x with relock := true, relockAt := s.now })).relockAll ts := rfl

theorem relockAll_slots (ts : List Nat) (s : State) (e : Nat) : ((s.relockAll ts).tile e).slots = (s.tile e).slots := by
  induction ts generalizing s with
  | nil => rfl
  | cons t ts ih =>
    rw [relockAll_cons, ih]
    by_cases he : e = t
    · rw [he, tile_modTile_same]
    · rw [tile_modTile_other _ _ _ he]

/-- A relocking tile stays so while others begin. -/
theorem relockAll_relock (ts : List Nat) {s : State} {e : Nat} (h : e ∈ ts ∨ (s.tile e).relock = true) :
    ((s.relockAll ts).tile e).relock = true := by
  induction ts generalizing s with
  | nil => exact h.resolve_left (by simp)
  | cons t ts ih =>
    rw [relockAll_cons]
    refine ih ?_
    by_cases he : e = t
    · exact Or.inr (by rw [he, tile_modTile_same])
    · rw [tile_modTile_other _ _ _ he]
      exact h.imp_left fun h => (List.mem_cons.mp h).resolve_left he

/-- R370: a change of the clock comes to the tile of every listed site that the bound reaches. -/
theorem clockTiles_mem {g e : Nat} (he : s.tileAt g = some e) {n : Nat} (ahead behind : List Nat) (hn : ahead.length < n) :
    e ∈ s.clockTiles n (ahead ++ g :: behind) := by
  induction ahead generalizing n behind with
  | nil =>
    obtain ⟨n, rfl⟩ := Nat.exists_eq_succ_of_ne_zero (Nat.ne_zero_of_lt hn)
    simp [State.clockTiles, he]
  | cons p ps ih =>
    obtain ⟨n, rfl⟩ := Nat.exists_eq_succ_of_ne_zero (Nat.ne_zero_of_lt hn)
    have hn' : ps.length < n := by simpa using hn
    rw [List.cons_append, State.clockTiles]
    split
    · exact List.mem_cons_of_mem _ (ih behind hn')
    · rw [List.append_assoc, List.cons_append]
      exact ih _ hn'

theorem siteNeighbours_length (site : Nat) : (siteNeighbours site).length ≤ 4 := List.length_filterMap_le _ _

/-- The state once a tile's clock has relocked, before the change goes on. -/
def State.relockEnded (s : State) (t : Nat) : State :=
  ((s.modTile t (fun x => { x with relock := false, relockAt := 0 })).relockNoted (s.site t)).unlist t

theorem relockEnded_shape : ∃ T G, s.relockEnded t = { s with tiles := T, grids := G } := by
  unfold State.relockEnded
  rw [unlist_eq]
  exact ⟨_, _, rfl⟩

theorem relockNoted_tile (s : State) (p e : Nat) : (s.relockNoted p).tile e = s.tile e := rfl

theorem relockEnded_tile : (s.relockEnded t).tile t = { s.tile t with relock := false, relockAt := 0 } := by
  rw [State.relockEnded, tile_unlist, relockNoted_tile, tile_modTile_same]

theorem relockEnded_tile_other {e : Nat} (he : e ≠ t) : (s.relockEnded t).tile e = s.tile e := by
  rw [State.relockEnded, tile_unlist, relockNoted_tile, tile_modTile_other s t _ he]

/-- R370: the sites next to `p` whose clock comes from it. -/
def State.clockChildren (s : State) (p : Nat) : List Nat :=
  (siteNeighbours p).filter (fun q => s.forwards q && q != s.clockRoot && s.parentOf q == p)

theorem relocked_eq : s.relocked t = if s.changing then
    (s.relockEnded t).relockAll ((s.relockEnded t).clockTiles 8448 ((s.relockEnded t).clockChildren (s.site t)))
    else s.relockEnded t := by
  have hchanging : (s.relockEnded t).changing = s.changing := by
    obtain ⟨T, G, h⟩ := relockEnded_shape (s := s) (t := t)
    rw [h]
  have hdef : s.relocked t = if !(s.relockEnded t).changing then s.relockEnded t
    else (s.relockEnded t).relockAll ((s.relockEnded t).clockTiles 8448 ((s.relockEnded t).clockChildren (s.site t))) := rfl
  rw [hdef, hchanging]
  cases s.changing <;> rfl

theorem relocked_slots : ((s.relocked t).tile t).slots = (s.tile t).slots := by
  rw [relocked_eq]
  split
  · rw [relockAll_slots, relockEnded_tile]
  · rw [relockEnded_tile]

/-- R28, R370: while the rate changes, the tiles whose clock comes from a relocked site pause in turn. -/
theorem relocked_child {g e : Nat} (hc : s.changing = true) (hg : g ∈ siteNeighbours (s.site t)) (hf : s.forwards g = true)
    (hroot : g ≠ s.clockRoot) (hparent : s.parentOf g = s.site t) (he : s.tileAt g = some e) :
    ((s.relocked t).tile e).relock = true := by
  obtain ⟨T, G, hshape⟩ := relockEnded_shape (s := s) (t := t)
  have hchild : g ∈ (s.relockEnded t).clockChildren (s.site t) := by
    rw [hshape]
    exact List.mem_filter.mpr ⟨hg, by
      rw [Bool.and_eq_true, Bool.and_eq_true, bne_iff_ne, beq_iff_eq]
      exact ⟨⟨hf, hroot⟩, hparent⟩⟩
  obtain ⟨ahead, behind, hsplit⟩ := List.append_of_mem hchild
  have hshort : ((s.relockEnded t).clockChildren (s.site t)).length ≤ 4 :=
    (List.length_filter_le _ _).trans (siteNeighbours_length _)
  have hplace : (s.relockEnded t).tileAt g = some e := by
    rw [hshape]
    exact he
  rw [relocked_eq, if_pos hc, hsplit]
  rw [hsplit, List.length_append] at hshort
  exact relockAll_relock _ (Or.inl (clockTiles_mem hplace ahead behind (by omega)))

theorem clockRelock_next (h : (s.tile t).relock = true) : exec (.clockRelock t) s = .next (s.relocked t) := by
  show execClockRelock t s = _
  simp [execClockRelock, h, onEvent]

/-! ### Clock parents (R382) -/

theorem clocked_forwards {site n : Nat} (h : s.clocked site n = true) : s.forwards site = true := by
  cases n with
  | zero => simp [State.clocked] at h
  | succ n =>
    rw [State.clocked, Bool.and_eq_true] at h
    exact h.1

/-- R382: a site next to one that the clock reaches by another way takes a parent, which forwards. -/
theorem newParent_some {site u : Nat} (hu : u ∈ siteNeighbours site) (hc : s.clocked u 8448 = true)
    (hd : s.descends u site 8448 = false) :
    ∃ g, s.newParent site = some g ∧ g ∈ siteNeighbours site ∧ s.forwards g = true := by
  cases h : s.newParent site with
  | none => simpa [hc, hd] using List.find?_eq_none.mp h u hu
  | some g =>
    have hg := List.find?_some h
    rw [Bool.and_eq_true] at hg
    exact ⟨g, rfl, List.mem_of_find?_eq_some h, clocked_forwards hg.1⟩

/-- The state once a site has taken its clock from `g`. -/
def State.reparented (s : State) (site g : Nat) : State :=
  let s' : State := { s with parents := s.parents.put site g }
  match s.tileAt site with
  | none => s'
  | some t => s'.modTile t (fun x => { x with relock := true, relockAt := s.now })

theorem clockParentSwitch_next {site g : Nat} (hnew : s.newParent site = some g) (hf : s.forwards site = true)
    (hlost : s.forwards (s.parentOf site) = false) (hroot : site ≠ s.clockRoot) :
    exec (.clockParentSwitch site) s = .next (s.reparented site g) := by
  have hun : s.unclocked site = true := by simp [State.unclocked, hf, hroot, hlost, hnew]
  show execClockParentSwitch site s = _
  simp only [execClockParentSwitch, hnew, hun]
  rfl

theorem reparented_parent (site g : Nat) : (s.reparented site g).parents.look site = some g := by
  unfold State.reparented
  split <;> exact look_put_same _ _ _

theorem reparented_relock {site g e : Nat} (h : s.tileAt site = some e) : ((s.reparented site g).tile e).relock = true := by
  simp only [State.reparented, h]
  rw [tile_modTile_same]

end

end Sys2Proof.Machine
end

section
/-! SUPPORT. Departures, their limits, returned packets, and the clock, put together (R28, R204, R248-R263, R350, R379, R382). -/

namespace Sys2Proof.Machine

/-- Settles O44: each departure, return, error and relock by the rule of its step. -/
theorem departures : Obligations.Departures := by
  intro s t k n since kind dst gen u v site port ctx p a b d y x z o c m ob r sl waits
  refine ⟨fun hw htrace hformed hbound hcredit => ?_, fun hw hdue hi => ?_, fun hw hkind hdue hserv => ?_,
    fun hw hp hplace hinline hstop hclosed => ⟨fun hdue => ?_, childFlitTimeout_early hw⟩,
    fun hnet _ hopen hret hfirst hbody hob hhome => ⟨fun hr => ?_, fun hr => ?_⟩,
    fun hheld hgen hopen hfirst => ?_, fun hnet hheld hret hpath => ?_, fun hport hup hrole hv => ?_, fun hrelock => ?_,
    fun hu hc hd hf hlost hroot => ?_⟩
  · obtain ⟨hfree, hseq, q, hnet, hvc, hsrc, hdst, hgen, hbody⟩ := sendFlit_vacate (dst := dst) (gen := gen)
      ((sl.bounced kind dst).flit (s.name t) kind) (slot_lt_of_wait hw)
    exact ⟨_, q, _, migrationDeparture_next hw htrace hformed hbound hcredit, hnet, hvc, hsrc, hdst, hgen, hbody, rfl, rfl,
      bounced_flit_th sl _ kind dst, hfree, hseq⟩
  · obtain ⟨q, hnet, hvc, hsrc, hdst, hgen, hslot, hbody⟩ := remoteRead_net (s := s) (t := t) (k := k) (dst := dst) (gen := gen)
      (addrX sl.th y x (sizeBytes z)) d z sl.sx none false
    obtain ⟨hstate, hth⟩ := remoteRead_slot (slot_lt_of_wait hw) dst gen (addrX sl.th y x (sizeBytes z)) d z sl.sx none false
    exact ⟨_, q, loadDepartureTimeout_indexed hw hdue hi, hnet, hvc, hsrc, hdst, hgen, hslot, by rw [hbody, addrX_int], hstate, hth⟩
  · obtain ⟨r', b', q, hslot⟩ := raise_slot hserv (slot_lt_of_wait hw) FaultCode.qstall (s.addrAt t k) 0#64
    refine ⟨_, { code := FaultCode.qstall, pc := sl.th.pc, addr := s.addrAt t k, extra := 0#64 },
      qstallTimeout_next hw hkind hdue, ?_⟩
    rw [hslot]
    exact ⟨rfl, rfl, rfl, rfl, rfl⟩
  · have hk := slot_lt_of_wait hw
    refine ⟨_, childFlitTimeout_next hw hdue, ?_⟩
    rw [childRefused_waits hk hp hplace hinline hstop hclosed, slot_modSlot_same _ _ _ _ hk]
    exact ⟨rfl, rfl⟩
  · obtain ⟨q, hq, hdst, hgen, hbody', hsrc, hslot, hresent⟩ :=
      resend_net (({ s with net := dropAt s.net n } : State).refresh p.src ctx a) p u true
    refine ⟨_, q, staleReturn_read hnet hopen hret hfirst hbody, ?_, hdst, hgen, hbody', hsrc, hslot, by simpa using hresent⟩
    rw [staleAccess_first (s := { s with net := dropAt s.net n }) hr hob hhome]
    exact hq
  · obtain ⟨q, hq, hdst, hslot, hbody'⟩ := refuse_net { s with net := dropAt s.net n } p.dst p FaultCode.stale a
      ((nameOf p.gen p.dst).zeroExtend 64)
    refine ⟨_, q, staleReturn_read hnet hopen hret hfirst hbody, ?_, hdst, hslot, hbody'⟩
    rw [staleAccess_again hr hbody]
    exact hq
  · obtain ⟨q, hq, hdst, hgen', hbody, hsrc, -⟩ := resend_net { s with held := dropAt s.held n } p p.dst false
    exact ⟨_, q, heldPacketResend_next hheld hgen hopen hfirst, resend_held _ _ _ _, hq, hgen', hdst, hsrc, hbody⟩
  · obtain ⟨g, G, hg, hexec⟩ := headerCrcError_next hnet hheld hret hpath
    have hshape := linkErrorAt_shape (s := { s with fresh := s.fresh + 1, grids := G }) g
    refine ⟨_, g, hexec, by rw [hshape], fun e => by rw [hshape]; exact ⟨rfl, rfl, rfl⟩, hg, fun e he => ?_, fun e he => ?_⟩
    · exact linkErrorAt_tile (s := { s with fresh := s.fresh + 1, grids := G }) he
    · exact linkErrorAt_tile_other (s := { s with fresh := s.fresh + 1, grids := G }) he
  · obtain ⟨G, hexec⟩ := linkCrcResend_next hport hup hrole
    have hshape := linkErrorAt_shape (s := s) (Config.portSite port)
    exact ⟨_, hexec, by rw [hshape], by rw [hshape], linkErrorAt_tile hv⟩
  · refine ⟨_, clockRelock_next hrelock, relocked_slots, fun hc => ?_, fun hc g e hg hf hroot hparent he =>
      relocked_child hc hg hf hroot hparent he⟩
    rw [relocked_eq, hc]
    exact ⟨by rw [if_neg (by simp), relockEnded_tile], fun e he => relockEnded_tile_other he⟩
  · obtain ⟨g, hnew, hg, hfg⟩ := newParent_some hu hc hd
    exact ⟨_, g, clockParentSwitch_next hnew hf hlost hroot, reparented_parent _ _, hg, hfg, fun e he => reparented_relock he⟩

end Sys2Proof.Machine
end

section
/-! SUPPORT. Exact values: what the exact operations give as rational numbers, and on NaNs (R30, R31, R48, R91, R92, R95). -/

namespace Sys2Proof.Machine

/-! ### Powers of two -/

theorem two_pow_toNat_mul {a b : Int} (h : a ≤ b) : (2 : ℚ) ^ (b - a).toNat * 2 ^ a = 2 ^ b := by
  rw [← zpow_natCast, Int.toNat_of_nonneg (by omega), ← zpow_add₀ two_ne_zero, sub_add_cancel]

/-! ### Signed magnitudes -/

/-- The factor of a sign bit. -/
def signOf (n : Bool) : ℚ := if n then -1 else 1

@[simp] theorem signOf_true : signOf true = -1 := rfl
@[simp] theorem signOf_false : signOf false = 1 := rfl
@[simp] theorem signOf_not (n : Bool) : signOf (!n) = -signOf n := by cases n <;> simp
@[simp] theorem signOf_bne (a b : Bool) : signOf (a != b) = signOf a * signOf b := by cases a <;> cases b <;> simp
@[simp] theorem signOf_mul_self (n : Bool) : signOf n * signOf n = 1 := by cases n <;> simp
@[simp] theorem abs_signOf (n : Bool) : |signOf n| = 1 := by cases n <;> simp

theorem rat_fin (n : Bool) (m : Nat) (e : Int) : (Val.fin n m e).rat = signOf n * (m * 2 ^ e) := by
  rw [Val.rat, mul_assoc]; rfl

@[simp] theorem rat_fin_zero (n : Bool) (e : Int) : (Val.fin n 0 e).rat = 0 := by simp [rat_fin]

theorem rat_fin_eq_zero (n : Bool) (m : Nat) (e : Int) : (Val.fin n m e).rat = 0 ↔ m = 0 := by
  have h2 : (2 : ℚ) ^ e ≠ 0 := by positivity
  cases n <;> simp [rat_fin, h2]

theorem abs_rat_fin (n : Bool) (m : Nat) (e : Int) : |(Val.fin n m e).rat| = m * 2 ^ e := by
  rw [rat_fin, abs_mul, abs_signOf, one_mul, abs_of_nonneg (by positivity)]

/-- A signed integer as sign and magnitude. -/
theorem rat_fin_natAbs (x e : Int) : (Val.fin (x < 0) x.natAbs e).rat = x * 2 ^ e := by
  rw [rat_fin, ← mul_assoc]
  congr 1
  rcases lt_or_ge x 0 with h | h
  · have : ((x.natAbs : Int) : ℚ) = -x := by rw [Int.ofNat_natAbs_of_nonpos h.le]; push_cast; rfl
    rw [Int.cast_natCast] at this
    simp [h, this]
  · have : ((x.natAbs : Int) : ℚ) = x := by rw [Int.natAbs_of_nonneg h]
    rw [Int.cast_natCast] at this
    simp [not_lt.2 h, this]

@[simp] theorem rat_intVal (x : Int) : (intVal x).rat = x := (rat_fin_natAbs x 0).trans (by simp)

theorem eq_fin_of_isFinite {v : Val} (h : v.isFinite = true) : ∃ n m e, v = .fin n m e := by
  cases v with
  | fin n m e => exact ⟨n, m, e, rfl⟩
  | nan _ => cases h
  | inf _ => cases h

theorem eq_nan_of_isNan {v : Val} (h : v.isNan = true) : v = .nan v.isSig := by
  cases v with
  | nan _ => rfl
  | fin _ _ _ => cases h
  | inf _ => cases h

theorem isSig_of_isNan {v : Val} (h : v.isNan = false) : v.isSig = false := by
  cases v with
  | nan _ => cases h
  | fin _ _ _ => rfl
  | inf _ => rfl

/-! ### Negation, product and sum (R48, R91, R92) -/

@[simp] theorem isFinite_neg (v : Val) : v.neg.isFinite = v.isFinite := by cases v <;> rfl
@[simp] theorem isNan_neg (v : Val) : v.neg.isNan = v.isNan := by cases v <;> rfl
@[simp] theorem isSig_neg (v : Val) : v.neg.isSig = v.isSig := by cases v <;> rfl

@[simp] theorem rat_neg (v : Val) : v.neg.rat = -v.rat := by
  cases v with
  | fin n m e => simp [Val.neg, rat_fin]
  | nan _ => simp [Val.neg, Val.rat]
  | inf _ => simp [Val.neg, Val.rat]

theorem mulVal_finite {x y : Val} (hx : x.isFinite = true) (hy : y.isFinite = true) :
    (mulVal x y).isFinite = true ∧ (mulVal x y).rat = x.rat * y.rat := by
  obtain ⟨a, m, e, rfl⟩ := eq_fin_of_isFinite hx
  obtain ⟨b, n, f, rfl⟩ := eq_fin_of_isFinite hy
  refine ⟨rfl, ?_⟩
  simp only [mulVal, rat_fin, signOf_bne, Nat.cast_mul, zpow_add₀ (two_ne_zero (α := ℚ))]
  ring

theorem addFin_rat (a : Bool) (m : Nat) (e : Int) (b : Bool) (n : Nat) (f : Int) :
    ((addFin a m e b n f).1 : ℚ) * 2 ^ (addFin a m e b n f).2 = (Val.fin a m e).rat + (Val.fin b n f).rat := by
  have he : ((m : ℚ) * 2 ^ (e - min e f).toNat) * 2 ^ min e f = m * 2 ^ e := by
    rw [mul_assoc, two_pow_toNat_mul (min_le_left e f)]
  have hf : ((n : ℚ) * 2 ^ (f - min e f).toNat) * 2 ^ min e f = n * 2 ^ f := by
    rw [mul_assoc, two_pow_toNat_mul (min_le_right e f)]
  have hsign (c : Bool) (k : Nat) : ((if c then -(k : Int) else k : Int) : ℚ) = signOf c * k := by cases c <;> simp
  simp only [addFin]
  rw [Int.cast_add, hsign, hsign, rat_fin, rat_fin, ← he, ← hf]
  push_cast
  ring

/-- R92: the sum of finite values is finite and exact; only its sign of zero depends on the rounding mode. -/
theorem addVal_finite (rm : Nat) {x y : Val} (hx : x.isFinite = true) (hy : y.isFinite = true) :
    (addVal rm x y).isFinite = true ∧ (addVal rm x y).rat = x.rat + y.rat := by
  obtain ⟨a, m, e, rfl⟩ := eq_fin_of_isFinite hx
  obtain ⟨b, n, f, rfl⟩ := eq_fin_of_isFinite hy
  have hsum := addFin_rat a m e b n f
  rcases hs : addFin a m e b n f with ⟨s, g⟩
  simp only [hs] at hsum
  simp only [addVal, addSigned, hs]
  split
  · rename_i h0
    exact ⟨rfl, by rw [← hsum, h0]; simp⟩
  · exact ⟨rfl, by rw [← hsum, rat_fin_natAbs]⟩

/-- R31: a NaN operand makes the product a NaN, signalling as one of the operands is. -/
theorem mulVal_nan {x y : Val} (h : (x.isNan || y.isNan) = true) : mulVal x y = .nan (x.isSig || y.isSig) := by
  cases x <;> cases y <;> simp [Val.isNan] at h <;> simp [mulVal, Val.isSig]

theorem addVal_nan (rm : Nat) {x y : Val} (h : (x.isNan || y.isNan) = true) : addVal rm x y = .nan (x.isSig || y.isSig) := by
  cases x <;> cases y <;> simp [Val.isNan] at h <;> simp [addVal, Val.isSig]

/-- R95: the fused form of finite operands. -/
theorem fmaVal_finite (rm : Nat) {x y z : Val} (hx : x.isFinite = true) (hy : y.isFinite = true) (hz : z.isFinite = true) :
    (fmaVal rm x y z).isFinite = true ∧ (fmaVal rm x y z).rat = x.rat * y.rat + z.rat := by
  obtain ⟨hfin, hrat⟩ := mulVal_finite hx hy
  rw [← hrat]
  exact addVal_finite rm hfin hz

theorem fmaVal_nan (rm : Nat) {x y z : Val} (h : (x.isNan || y.isNan) = true) (hz : z.isNan = false) :
    fmaVal rm x y z = .nan (x.isSig || y.isSig) := by
  rw [fmaVal, mulVal_nan h, addVal_nan rm rfl, isSig_of_isNan hz, Bool.or_false]
  rfl

end Sys2Proof.Machine
end

section
/-! SUPPORT. Scalar sums, products and fused forms (R31, R89-R91, R95). -/

namespace Sys2Proof.Machine

/-- R31: a NaN rounds to the canonical NaN of its precision. -/
theorem roundTo_nan (p : Bool) (r : Rnd) (sig : Bool) : roundTo (fpFmt p) r (.nan sig) = ((fpFmt p).nanCode, Flags.nvIf sig) := by
  cases p <;> rfl

/-- R31, R90: a NaN as the result of a form: the canonical NaN is written, with NV for a signalling one. -/
theorem wroteRounded_nan (s : State) (p : Bool) (d : Reg) (code : Nat) (sig : Bool) :
    s.wroteRounded p d code (.nan sig) Flags.none = s.wroteFlags d (fromNat (fpFmt p).nanCode) (Flags.nvIf sig) := by
  simp only [State.wroteRounded, roundTo_nan, Flags.none, BitVec.zero_or]

section
variable {s : State} (h : s.issuing = true)
include h

/-- R79, R90: a two-operand form rounds its exact result once. -/
theorem fp2_rounded (d a b : Reg) (p : Bool) (f : Nat → Val → Val → Val × Flags) :
    fp2 s d a b p f = .next (s.wroteRounded p d (regCode d) (f s.curSlot.th.rm (fpVal p (s.rd a)) (fpVal p (s.rd b))).1
      (f s.curSlot.th.rm (fpVal p (s.rd a)) (fpVal p (s.rd b))).2) :=
  onThread_wroteFlags s d _ _ h

theorem exec_fadd (d a b : Reg) (p : Bool) : exec (.fadd d a b p) s =
    .next (s.wroteRounded p d (regCode d) (addVal s.curSlot.th.rm (fpVal p (s.rd a)) (fpVal p (s.rd b))) Flags.none) :=
  fp2_rounded h d a b p (fun rm x y => (addVal rm x y, Flags.none))

theorem exec_fsub (d a b : Reg) (p : Bool) : exec (.fsub d a b p) s =
    .next (s.wroteRounded p d (regCode d) (addVal s.curSlot.th.rm (fpVal p (s.rd a)) (fpVal p (s.rd b)).neg) Flags.none) :=
  fp2_rounded h d a b p (fun rm x y => (addVal rm x y.neg, Flags.none))

theorem exec_fmul (d a b : Reg) (p : Bool) : exec (.fmul d a b p) s =
    .next (s.wroteRounded p d (regCode d) (mulVal (fpVal p (s.rd a)) (fpVal p (s.rd b))) Flags.none) :=
  fp2_rounded h d a b p (fun _ x y => (mulVal x y, Flags.none))

/-- R95: a fused form rounds its exact result once. -/
theorem fused_rounded (d a b : Reg) (p np nz : Bool) :
    fused s d a b p np nz = .next (s.wroteRounded p d (regCode d)
      (fmaVal s.curSlot.th.rm (if np then (fpVal p (s.rd a)).neg else fpVal p (s.rd a)) (fpVal p (s.rd b))
        (if nz then (fpVal p (s.rd d)).neg else fpVal p (s.rd d))) Flags.none) :=
  onThread_wroteFlags s d _ _ h

theorem exec_fma (d a b : Reg) (p : Bool) : exec (.fma d a b p) s = .next (s.wroteRounded p d (regCode d)
    (fmaVal s.curSlot.th.rm (fpVal p (s.rd a)) (fpVal p (s.rd b)) (fpVal p (s.rd d))) Flags.none) :=
  fused_rounded h d a b p false false

theorem exec_fms (d a b : Reg) (p : Bool) : exec (.fms d a b p) s = .next (s.wroteRounded p d (regCode d)
    (fmaVal s.curSlot.th.rm (fpVal p (s.rd a)) (fpVal p (s.rd b)) (fpVal p (s.rd d)).neg) Flags.none) :=
  fused_rounded h d a b p false true

theorem exec_fnma (d a b : Reg) (p : Bool) : exec (.fnma d a b p) s = .next (s.wroteRounded p d (regCode d)
    (fmaVal s.curSlot.th.rm (fpVal p (s.rd a)).neg (fpVal p (s.rd b)) (fpVal p (s.rd d))) Flags.none) :=
  fused_rounded h d a b p true false

theorem exec_fnms (d a b : Reg) (p : Bool) : exec (.fnms d a b p) s = .next (s.wroteRounded p d (regCode d)
    (fmaVal s.curSlot.th.rm (fpVal p (s.rd a)).neg (fpVal p (s.rd b)) (fpVal p (s.rd d)).neg) Flags.none) :=
  fused_rounded h d a b p true true

theorem accFused_rounded (a b : Reg) (p : Bool) : accFused s a b p = .next (s.wroteRounded p .acc (regCode .acc)
    (fmaVal s.curSlot.th.rm (fpVal p (s.rd a)) (fpVal p (s.rd b)) (fpVal p (s.rd .acc))) Flags.none) :=
  onThread_wroteFlags s .acc _ _ h

/-- R89: the accumulating form of each precision. -/
theorem exec_fmac (a b : Reg) (p : Bool) : exec (if p then .fmacD a b else .fmacS a b) s =
    .next (s.wroteRounded p .acc (regCode .acc)
      (fmaVal s.curSlot.th.rm (fpVal p (s.rd a)) (fpVal p (s.rd b)) (fpVal p (s.rd .acc))) Flags.none) := by
  cases p
  · exact accFused_rounded h a b false
  · exact accFused_rounded h a b true

end

/-- A form that rounds a NaN writes the canonical one. -/
theorem writes_nan {s : State} {o : Out} {p sig : Bool} {d : Reg} {code : Nat} {v : Val}
    (ho : o = .next (s.wroteRounded p d code v Flags.none)) (hv : v = .nan sig) :
    o = .next (s.wroteFlags d (fromNat (fpFmt p).nanCode) (Flags.nvIf sig)) := by
  rw [ho, hv, wroteRounded_nan]

/-- Settles O5: each form rounds the exact value that `addVal`, `mulVal` or `fmaVal` gives, a NaN where an operand is one. -/
theorem floatSums : Obligations.FloatSums := by
  intro s d a b p h x y z w nan put one acc
  have hone {i : Instr} {r : Reg} {v : Val} {q : ℚ} (he : exec i s = .next (put r v)) (hv : v.isFinite = true ∧ v.rat = q) :
      one i r q := ⟨v, hv.1, hv.2, he⟩
  refine ⟨fun hx hy => ?_, fun hn => ?_⟩
  · have hx' : x.neg.isFinite = true := (isFinite_neg x).trans hx
    have hy' : y.neg.isFinite = true := (isFinite_neg y).trans hy
    refine ⟨hone (exec_fadd h d a b p) (addVal_finite _ hx hy), hone (exec_fsub h d a b p) ?_,
      hone (exec_fmul h d a b p) (mulVal_finite hx hy), fun hz => ?_, fun hw => hone (exec_fmac h a b p) ?_⟩
    · simpa [sub_eq_add_neg] using addVal_finite s.curSlot.th.rm hx hy'
    · have hz' : z.neg.isFinite = true := (isFinite_neg z).trans hz
      refine ⟨hone (exec_fma h d a b p) (fmaVal_finite _ hx hy hz), hone (exec_fms h d a b p) ?_,
        hone (exec_fnma h d a b p) ?_, hone (exec_fnms h d a b p) ?_⟩
      · simpa [sub_eq_add_neg] using fmaVal_finite s.curSlot.th.rm hx hy hz'
      · simpa using fmaVal_finite s.curSlot.th.rm hx' hy hz
      · simpa [sub_eq_add_neg] using fmaVal_finite s.curSlot.th.rm hx' hy hz'
    · simpa [add_comm] using fmaVal_finite s.curSlot.th.rm hx hy hw
  · have hx' : (x.neg.isNan || y.isNan) = true := by rwa [isNan_neg]
    have hy' : (x.isNan || y.neg.isNan) = true := by rwa [isNan_neg]
    refine ⟨writes_nan (exec_fadd h d a b p) (addVal_nan _ hn), writes_nan (exec_fsub h d a b p) ?_,
      writes_nan (exec_fmul h d a b p) (mulVal_nan hn), fun hz => ?_, fun hw => writes_nan (exec_fmac h a b p) (fmaVal_nan _ hn hw)⟩
    · simpa using addVal_nan s.curSlot.th.rm hy'
    · have hz' : z.neg.isNan = false := (isNan_neg z).trans hz
      refine ⟨writes_nan (exec_fma h d a b p) (fmaVal_nan _ hn hz), writes_nan (exec_fms h d a b p) (fmaVal_nan _ hn hz'),
        writes_nan (exec_fnma h d a b p) ?_, writes_nan (exec_fnms h d a b p) ?_⟩
      · simpa using fmaVal_nan s.curSlot.th.rm hx' hz
      · simpa using fmaVal_nan s.curSlot.th.rm hx' hz'

end Sys2Proof.Machine
end

section
/-! SUPPORT. Quotients and square roots: how far the value that is rounded lies from the exact one (R91). -/

namespace Sys2Proof.Machine

/-! ### Quotients -/

/-- A quotient doubled, its last bit recording a remainder, lies within half a unit of the exact one. -/
theorem sticky_quotient (M : Nat) {n : Nat} (hn : 0 < n) :
    |((2 * (M / n) + if M / n * n = M then 0 else 1 : Nat) : ℚ) * n - 2 * M| ≤ n := by
  have hdiv : M = M / n * n + M % n := (Nat.div_add_mod' M n).symm
  have hmod : M % n < n := Nat.mod_lt M hn
  split
  · rename_i h
    have h' : ((M / n : Nat) : ℚ) * n = M := by exact_mod_cast h
    rw [add_zero, Nat.cast_mul, mul_assoc, h']
    simp
  · have hM : (M : ℚ) = (M / n : Nat) * n + (M % n : Nat) := by exact_mod_cast hdiv
    have hlt : ((M % n : Nat) : ℚ) < n := by exact_mod_cast hmod
    have h0 : (0 : ℚ) ≤ (M % n : Nat) := Nat.cast_nonneg _
    rw [abs_le, hM]
    push_cast
    constructor <;> nlinarith

/-- A divisor lies within the extra bits that its quotient keeps. -/
theorem divisor_le (n : Nat) : (n : ℚ) * 2 ^ 199 ≤ 2 ^ (extraBits + Nat.log2 n + 1) := by
  have h : n ≤ 2 ^ (Nat.log2 n + 1) := Nat.lt_log2_self.le
  have h' : (n : ℚ) ≤ 2 ^ (Nat.log2 n + 1) := by exact_mod_cast h
  calc (n : ℚ) * 2 ^ 199 ≤ 2 ^ (Nat.log2 n + 1) * 2 ^ 200 := by gcongr <;> norm_num
    _ = 2 ^ (extraBits + Nat.log2 n + 1) := by rw [← pow_add]; congr 1; simp only [extraBits]; omega

/-- R91: the quotient of nonzero values is within 2^-199 of the exact one. -/
theorem divFin_close (a : Bool) {m : Nat} (e : Int) (b : Bool) {n : Nat} (f : Int) (hm : m ≠ 0) (hn : n ≠ 0) :
    |(divFin a m e b n f).rat * (Val.fin b n f).rat - (Val.fin a m e).rat| * 2 ^ 199 ≤ |(Val.fin a m e).rat| := by
  set k := extraBits + Nat.log2 n with hk
  set W : Nat := 2 * (m <<< k / n) + if m <<< k / n * n = m <<< k then 0 else 1 with hW
  have hv : divFin a m e b n f = .fin (a != b) W (e - f - k - 1) := rfl
  have hclose : |(W : ℚ) * n - 2 * (m * 2 ^ k)| ≤ n := by
    have := sticky_quotient (m <<< k) (Nat.pos_of_ne_zero hn)
    rwa [Nat.shiftLeft_eq, Nat.cast_mul, Nat.cast_pow, Nat.cast_ofNat, ← Nat.shiftLeft_eq] at this
  have hexp : (2 : ℚ) ^ e = 2 ^ (e - k - 1) * 2 ^ (k + 1) := by
    rw [← zpow_natCast, ← zpow_add₀ two_ne_zero]; congr 1; push_cast; ring
  have hdiff : (divFin a m e b n f).rat * (Val.fin b n f).rat - (Val.fin a m e).rat =
      signOf a * (2 ^ (e - k - 1) * (W * n - 2 * (m * 2 ^ k))) := by
    have hpow : (2 : ℚ) ^ (e - f - k - 1) * 2 ^ f = 2 ^ (e - k - 1) := by
      rw [← zpow_add₀ two_ne_zero]; congr 1; ring
    rw [hv, rat_fin, rat_fin, rat_fin, signOf_bne]
    calc signOf a * signOf b * (W * 2 ^ (e - f - k - 1)) * (signOf b * (n * 2 ^ f)) - signOf a * (m * 2 ^ e)
        = signOf a * ((signOf b * signOf b) * (2 ^ (e - f - k - 1) * 2 ^ f) * (W * n) - m * 2 ^ e) := by ring
      _ = _ := by rw [signOf_mul_self, hpow, hexp]; ring
  have hm1 : (1 : ℚ) ≤ m := by exact_mod_cast Nat.one_le_iff_ne_zero.2 hm
  rw [hdiff, abs_mul, abs_signOf, one_mul, abs_mul, abs_of_pos (by positivity), abs_rat_fin]
  calc (2 : ℚ) ^ (e - k - 1) * |(W : ℚ) * n - 2 * (m * 2 ^ k)| * 2 ^ 199
      ≤ (2 : ℚ) ^ (e - k - 1) * n * 2 ^ 199 := by gcongr
    _ = (2 : ℚ) ^ (e - k - 1) * (n * 2 ^ 199) := by ring
    _ ≤ (2 : ℚ) ^ (e - k - 1) * 2 ^ (k + 1) := by gcongr; exact divisor_le n
    _ = 1 * 2 ^ e := by rw [hexp, one_mul]
    _ ≤ m * 2 ^ e := by gcongr

/-! ### Square roots -/

/-- The bits tried from `k - 1` down keep the square below and close in on it. -/
theorem isqrtFrom_spec (n k r : Nat) (h1 : r * r ≤ n) (h2 : n < (r + 2 ^ k) * (r + 2 ^ k)) :
    isqrtFrom n k r * isqrtFrom n k r ≤ n ∧ n < (isqrtFrom n k r + 1) * (isqrtFrom n k r + 1) := by
  induction k generalizing r with
  | zero => exact ⟨h1, h2⟩
  | succ k ih =>
    rw [isqrtFrom]
    split
    · rename_i h
      exact ih _ h (by rwa [add_assoc, ← two_mul, ← pow_succ'])
    · exact ih _ h1 (by omega)

theorem isqrt_spec (n : Nat) : isqrt n * isqrt n ≤ n ∧ n < (isqrt n + 1) * (isqrt n + 1) := by
  refine isqrtFrom_spec n _ 0 (by simp) ?_
  rw [zero_add, ← pow_add]
  exact Nat.lt_log2_self.trans_le (Nat.pow_le_pow_right two_pos (by omega))

/-- The root of a radicand doubled, its last bit recording a remainder. -/
def stickyRoot (n : Nat) : Nat := 2 * isqrt n + if isqrt n * isqrt n = n then 0 else 1

/-- Its square is within twice itself of four times the radicand. -/
theorem stickyRoot_sq (n : Nat) : |(stickyRoot n : ℚ) * stickyRoot n - 4 * n| ≤ 4 * (isqrt n : ℚ) := by
  obtain ⟨hle, hlt⟩ := isqrt_spec n
  rw [stickyRoot]
  split
  · rename_i h
    have h' : (isqrt n : ℚ) * isqrt n = n := by exact_mod_cast h
    rw [← h', abs_le]
    push_cast
    constructor <;> nlinarith
  · have hle' : (isqrt n : ℚ) * isqrt n + 1 ≤ n := by exact_mod_cast lt_of_le_of_ne hle ‹_›
    have hlt' : (n : ℚ) + 1 ≤ (isqrt n + 1) * (isqrt n + 1) := by exact_mod_cast hlt
    rw [abs_le]
    push_cast
    constructor <;> nlinarith

/-- A root is small beside a radicand of `2 * k` bits. -/
theorem isqrt_small {n k : Nat} (h : 2 ^ (2 * k) ≤ n) : (isqrt n : ℚ) * 2 ^ (k - 1) ≤ n := by
  obtain ⟨hle, hlt⟩ := isqrt_spec n
  have hroot : 2 ^ k ≤ isqrt n := by
    by_contra hs
    have hsq : n < 2 ^ k * 2 ^ k := hlt.trans_le (Nat.mul_self_le_mul_self (by omega))
    rw [← pow_add, ← two_mul] at hsq
    omega
  have hpow : 2 ^ (k - 1) ≤ isqrt n := (Nat.pow_le_pow_right two_pos (by omega)).trans hroot
  exact_mod_cast (Nat.mul_le_mul_left (isqrt n) hpow).trans hle

/-- R91: the root of a magnitude over an even exponent, with `k` extra bits, against the exact one. -/
theorem root_close {m : Nat} (hm : m ≠ 0) (g : Int) (k : Nat) {v : ℚ} (hv : v = stickyRoot (m * 2 ^ (2 * k)) * 2 ^ (g - k - 1)) :
    |v * v - m * 2 ^ (2 * g)| * 2 ^ (k - 1) ≤ m * 2 ^ (2 * g) := by
  obtain ⟨n, hn⟩ : ∃ n, n = m * 2 ^ (2 * k) := ⟨_, rfl⟩
  have hnm : (n : ℚ) = m * 2 ^ (2 * k) := by rw [hn]; push_cast; rfl
  have hbig : 2 ^ (2 * k) ≤ n := hn ▸ Nat.le_mul_of_pos_left _ (Nat.pos_of_ne_zero hm)
  have hexp : (2 : ℚ) ^ (2 * g) = 2 ^ (2 * (g - k - 1)) * (4 * 2 ^ (2 * k)) := by
    rw [show (4 : ℚ) * 2 ^ (2 * k) = 2 ^ (2 * k + 2) by rw [pow_add]; ring, ← zpow_natCast, ← zpow_add₀ two_ne_zero]
    congr 1; push_cast; ring
  have hx : (m : ℚ) * 2 ^ (2 * g) = 2 ^ (2 * (g - k - 1)) * (4 * n) := by rw [hexp, hnm]; ring
  have hdiff : v * v - m * 2 ^ (2 * g) = 2 ^ (2 * (g - k - 1)) * ((stickyRoot n : ℚ) * stickyRoot n - 4 * n) := by
    have hpow : (2 : ℚ) ^ (2 * (g - k - 1)) = 2 ^ (g - k - 1) * 2 ^ (g - k - 1) := by rw [two_mul, zpow_add₀ two_ne_zero]
    rw [hx, hv, ← hn, hpow]; ring
  rw [hdiff, hx, abs_mul, abs_of_pos (by positivity)]
  calc (2 : ℚ) ^ (2 * (g - k - 1)) * |(stickyRoot n : ℚ) * stickyRoot n - 4 * n| * 2 ^ (k - 1)
      ≤ (2 : ℚ) ^ (2 * (g - k - 1)) * (4 * isqrt n) * 2 ^ (k - 1) := by gcongr; exact stickyRoot_sq n
    _ = (2 : ℚ) ^ (2 * (g - k - 1)) * (4 * (isqrt n * 2 ^ (k - 1))) := by ring
    _ ≤ (2 : ℚ) ^ (2 * (g - k - 1)) * (4 * n) := by gcongr; exact isqrt_small hbig

/-- A magnitude is brought to an even exponent before its root is taken. -/
theorem sqrtMag_even {m : Nat} (hm : m ≠ 0) (e : Int) : ∃ (m' : Nat) (g : Int), m' ≠ 0 ∧ (m' : ℚ) * 2 ^ (2 * g) = m * 2 ^ e ∧
    sqrtMag m e = .fin false (stickyRoot (m' * 2 ^ (2 * extraBits))) (g - extraBits - 1) := by
  by_cases he : e % 2 = 0
  · refine ⟨m, e / 2, hm, by rw [Int.mul_ediv_cancel' (Int.dvd_of_emod_eq_zero he)], ?_⟩
    simp only [sqrtMag, if_pos he, stickyRoot, Nat.shiftLeft_eq]
  · refine ⟨2 * m, (e - 1) / 2, Nat.mul_ne_zero two_ne_zero hm, ?_, ?_⟩
    · rw [Int.mul_ediv_cancel' (by omega), zpow_sub_one₀ two_ne_zero]
      push_cast
      ring
    · simp only [sqrtMag, if_neg he, stickyRoot, Nat.shiftLeft_eq]

/-- R91: the root of a nonzero magnitude is within 2^-199 of the exact one. -/
theorem sqrtMag_close {m : Nat} (hm : m ≠ 0) (e : Int) : (sqrtMag m e).isFinite = true ∧
    |(sqrtMag m e).rat * (sqrtMag m e).rat - m * 2 ^ e| * 2 ^ 199 ≤ m * 2 ^ e := by
  obtain ⟨m', g, hm', hx, hv⟩ := sqrtMag_even hm e
  rw [hv, ← hx]
  exact ⟨rfl, root_close hm' g extraBits (by rw [rat_fin, signOf_false, one_mul])⟩

/-! ### The two forms -/

/-- The quotient of finite values by a divisor that is not zero. -/
theorem divVal_finite {x y : Val} (hx : x.isFinite = true) (hy : y.isFinite = true) (h : y.rat ≠ 0) :
    ∃ v, v.isFinite = true ∧ |v.rat * y.rat - x.rat| * 2 ^ 199 ≤ |x.rat| ∧ divVal x y = (v, Flags.none) := by
  obtain ⟨a, m, e, rfl⟩ := eq_fin_of_isFinite hx
  obtain ⟨b, n, f, rfl⟩ := eq_fin_of_isFinite hy
  have hn : n ≠ 0 := mt (rat_fin_eq_zero b n f).2 h
  by_cases hm : m = 0
  · subst hm
    exact ⟨.fin (a != b) 0 0, rfl, by simp, by simp [divVal, hn]⟩
  · exact ⟨divFin a m e b n f, rfl, divFin_close a e b f hm hn, by simp [divVal, hn, hm]⟩

/-- R91: by a zero: an infinity with DZ, or for zero by zero an invalid NaN. -/
theorem divVal_zero {x y : Val} (hx : x.isFinite = true) (hy : y.isFinite = true) (h : y.rat = 0) :
    divVal x y = if x.rat = 0 then (.nan true, Flags.none) else (.inf (x.sign != y.sign), Flags.dz) := by
  obtain ⟨a, m, e, rfl⟩ := eq_fin_of_isFinite hx
  obtain ⟨b, n, f, rfl⟩ := eq_fin_of_isFinite hy
  have hn : n = 0 := (rat_fin_eq_zero b n f).1 h
  simp only [divVal, hn, if_true, rat_fin_eq_zero, Val.sign]

theorem sqrtVal_finite {x : Val} (hx : x.isFinite = true) (h : 0 ≤ x.rat) :
    (sqrtVal x).isFinite = true ∧ |(sqrtVal x).rat * (sqrtVal x).rat - x.rat| * 2 ^ 199 ≤ x.rat := by
  obtain ⟨a, m, e, rfl⟩ := eq_fin_of_isFinite hx
  by_cases hm : m = 0
  · subst hm
    simp [sqrtVal, Val.isFinite]
  · have ha : a = false := by
      by_contra ha
      have hpos : (0 : ℚ) < m * 2 ^ e := by positivity
      rw [Bool.not_eq_false] at ha
      rw [ha, rat_fin, signOf_true] at h
      linarith
    subst ha
    rw [rat_fin, signOf_false, one_mul, sqrtVal, if_neg hm]
    exact sqrtMag_close hm e

theorem sqrtVal_negative {x : Val} (hx : x.isFinite = true) (h : x.rat < 0) : sqrtVal x = .nan true := by
  obtain ⟨a, m, e, rfl⟩ := eq_fin_of_isFinite hx
  have hm : m ≠ 0 := fun h0 => absurd ((rat_fin_eq_zero a m e).2 h0) h.ne
  have ha : a = true := by
    by_contra ha
    rw [Bool.not_eq_true] at ha
    rw [ha, rat_fin, signOf_false] at h
    have : (0 : ℚ) ≤ m * 2 ^ e := by positivity
    linarith
  simp [sqrtVal, hm, ha]

section
variable {s : State} (h : s.issuing = true)
include h

theorem exec_fdiv (d a b : Reg) (p : Bool) : exec (.fdiv d a b p) s =
    .next (s.wroteRounded p d (regCode d) (divVal (fpVal p (s.rd a)) (fpVal p (s.rd b))).1
      (divVal (fpVal p (s.rd a)) (fpVal p (s.rd b))).2) :=
  fp2_rounded h d a b p (fun _ x y => divVal x y)

theorem exec_fsqrt (d a : Reg) (p : Bool) : exec (.fsqrt d a p) s =
    .next (s.wroteRounded p d (regCode d) (sqrtVal (fpVal p (s.rd a))) Flags.none) :=
  fp2_rounded h d a .zr p (fun _ x _ => (sqrtVal x, Flags.none))

end

/-- Settles O6: the exact quotient or root is approached by `divFin` and `sqrtMag`; the other operands are cases of their own. -/
theorem floatQuotients : Obligations.FloatQuotients := by
  intro s d a b p h x y put
  have hdiv {v : Val} {fl : Flags} (hv : divVal x y = (v, fl)) : exec (.fdiv d a b p) s = .next (put v fl) :=
    (exec_fdiv h d a b p).trans (by rw [show divVal (fpVal p (s.rd a)) (fpVal p (s.rd b)) = (v, fl) from hv])
  refine ⟨fun hx hy h0 => ?_, fun hx hy h0 hx0 => hdiv (by rw [divVal_zero hx hy h0, if_neg hx0]), fun hx hy h0 hx0 => ?_,
    fun hx h0 => ?_, fun hx h0 => writes_nan (sig := true) (exec_fsqrt h d a p) (sqrtVal_negative hx h0), fun hx => ?_⟩
  · obtain ⟨v, hfin, hclose, hv⟩ := divVal_finite hx hy h0
    exact ⟨v, hfin, hclose, hdiv hv⟩
  · exact writes_nan (sig := true) (hdiv (by rw [divVal_zero hx hy h0, if_pos hx0])) rfl
  · obtain ⟨hfin, hclose⟩ := sqrtVal_finite hx h0
    exact ⟨_, hfin, hclose, exec_fsqrt h d a p⟩
  · refine writes_nan (exec_fsqrt h d a p) ?_
    rw [show fpVal p (s.rd a) = .nan x.isSig from eq_nan_of_isNan hx, sqrtVal]

end Sys2Proof.Machine
end

section
/-! SUPPORT. The rounding function on values that a format represents (R29, R30, R41). -/

namespace Sys2Proof.Machine

/-! ### The fields of a code (R29, R30) -/

namespace Fmt

/-- Exponent field, mantissa field and sign of a code. -/
def exField (f : Fmt) (c : Nat) : Nat := c / 2 ^ f.manBits % 2 ^ f.expBits
def manField (f : Fmt) (c : Nat) : Nat := c % 2 ^ f.manBits
def signField (f : Fmt) (c : Nat) : Bool := decide (c / 2 ^ (f.expBits + f.manBits) % 2 = 1)

/-- R30: the value of a code whose exponent is ordinary. -/
def plainValue (f : Fmt) (c : Nat) : Val :=
  if f.exField c = 0 then .fin (f.signField c) (f.manField c) (1 - (f.bias : Int) - f.manBits)
  else .fin (f.signField c) (f.manField c + 2 ^ f.manBits) ((f.exField c : Int) - f.bias - f.manBits)

theorem manField_lt (f : Fmt) (c : Nat) : f.manField c < 2 ^ f.manBits := Nat.mod_lt _ (Nat.two_pow_pos _)
theorem exField_lt (f : Fmt) (c : Nat) : f.exField c < 2 ^ f.expBits := Nat.mod_lt _ (Nat.two_pow_pos _)

/-- A code is its sign bit, its exponent field and its mantissa field. -/
theorem code_eq (f : Fmt) {c : Nat} (h : c < 2 ^ f.width) :
    f.signBit (f.signField c) + (f.exField c * 2 ^ f.manBits + f.manField c) = c := by
  have hlow : c % 2 ^ (f.expBits + f.manBits) = f.exField c * 2 ^ f.manBits + f.manField c := by
    rw [Nat.add_comm f.expBits, pow_add, Nat.mod_mul, exField, manField]
    ring
  have hhigh : c / 2 ^ (f.expBits + f.manBits) < 2 := by
    rw [Nat.div_lt_iff_lt_mul (Nat.two_pow_pos _), ← pow_succ']
    rwa [width, Nat.add_comm 1, Nat.add_right_comm] at h
  have hsign : f.signBit (f.signField c) = c / 2 ^ (f.expBits + f.manBits) * 2 ^ (f.expBits + f.manBits) := by
    rw [signField, signBit, Nat.mod_eq_of_lt hhigh]
    rcases Nat.le_one_iff_eq_zero_or_eq_one.1 (Nat.le_of_lt_succ hhigh) with h0 | h1
    · simp [h0]
    · simp [h1]
  rw [hsign, ← hlow, Nat.div_add_mod']

/-- A finite code has an ordinary exponent and lies at or below the greatest magnitude. -/
theorem value_plain {f : Fmt} {c : Nat} (htop : f.top = .e4m3 → f = e4m3) (hfin : (f.value c).isFinite = true) :
    f.value c = f.plainValue c ∧ f.exField c * 2 ^ f.manBits + f.manField c ≤ f.maxCode := by
  have hm := f.manField_lt c
  have he := f.exField_lt c
  cases ht : f.top with
  | ieee =>
    simp only [value, ht] at hfin ⊢
    have hne : f.exField c ≠ 2 ^ f.expBits - 1 := by
      intro htop
      rw [exField] at htop
      rw [if_pos htop] at hfin
      split at hfin <;> cases hfin
    refine ⟨if_neg hne, ?_⟩
    rw [maxCode, ht]
    have : f.exField c * 2 ^ f.manBits ≤ (2 ^ f.expBits - 2) * 2 ^ f.manBits := Nat.mul_le_mul_right _ (by omega)
    show _ ≤ (2 ^ f.expBits - 2) * 2 ^ f.manBits + (2 ^ f.manBits - 1)
    omega
  | e4m3 =>
    simp only [value, ht] at hfin ⊢
    have hne : ¬(f.exField c = 15 ∧ f.manField c = 7) := by
      intro hnan
      rw [exField, manField] at hnan
      rw [if_pos hnan] at hfin
      cases hfin
    refine ⟨if_neg hne, ?_⟩
    rw [htop ht] at he hm hne ⊢
    simp only [e4m3, maxCode] at he hm hne ⊢
    omega
  | plain =>
    simp only [value, ht] at hfin ⊢
    refine ⟨rfl, ?_⟩
    rw [maxCode, ht, pow_add]
    have : (f.exField c + 1) * 2 ^ f.manBits ≤ 2 ^ f.expBits * 2 ^ f.manBits := Nat.mul_le_mul_right _ he
    rw [Nat.add_mul] at this
    show _ ≤ 2 ^ f.expBits * 2 ^ f.manBits - 1
    omega

end Fmt

/-! ### Rounding on the grid -/

/-- The lowest exponent of a format, and the binade in which a magnitude is rounded. -/
def Fmt.emin (f : Fmt) : Int := 1 - f.bias
def Fmt.binade (f : Fmt) (m : Nat) (e : Int) : Int := max (leadOf m e) f.emin

/-- A magnitude on a grid is its own floor there. -/
@[simp] theorem floorAt_self (m : Nat) (e : Int) : floorAt m e e = (m, false) := by simp [floorAt]

@[simp] theorem roundAt_self (r : Rnd) (neg : Bool) (m : Nat) (e : Int) : roundAt r neg m e e = (m, false) := by simp [roundAt]

/-- R41: a magnitude on the grid of its binade, within the format's range, is delivered unchanged and without a flag. -/
theorem roundTo_exact {f : Fmt} (r : Rnd) (neg : Bool) {m k : Nat} {e : Int} (hm : m ≠ 0) (hgrid : f.binade m e - f.manBits = e)
    (hk : (f.binade m e - f.emin) * 2 ^ f.manBits + m = k) (hmax : k ≤ f.maxCode) :
    roundTo f r (.fin neg m e) = (f.signBit neg + k, Flags.none) := by
  simp only [Fmt.binade, Fmt.emin] at hgrid hk
  by_cases hlow : max (leadOf m e) (1 - f.bias) = 1 - f.bias
  · rw [hlow] at hgrid
    rw [hlow, sub_self, zero_mul, zero_add, Nat.cast_inj] at hk
    subst hk
    simp [roundTo, hm, hgrid, hlow, hmax]
  · simp [roundTo, hm, hgrid, hlow, hk, hmax]

theorem roundTo_zero (f : Fmt) (r : Rnd) (neg : Bool) (e : Int) : roundTo f r (.fin neg 0 e) = (f.signBit neg, Flags.none) := rfl

theorem log2_add_two_pow {m k : Nat} (h : m < 2 ^ k) : Nat.log2 (m + 2 ^ k) = k := by
  have hpos := Nat.two_pow_pos k
  rw [Nat.log2_eq_iff (by omega), pow_succ]
  omega

/-- R30, R41: the value of a code with an ordinary exponent rounds to that code. -/
theorem roundTo_plainValue {f : Fmt} (r : Rnd) {c : Nat} (hmax : f.exField c * 2 ^ f.manBits + f.manField c ≤ f.maxCode) :
    roundTo f r (f.plainValue c) = (f.signBit (f.signField c) + (f.exField c * 2 ^ f.manBits + f.manField c), Flags.none) := by
  have hman := f.manField_lt c
  unfold Fmt.plainValue
  split
  · rename_i hex
    rw [hex] at hmax ⊢
    by_cases hm : f.manField c = 0
    · rw [hm, roundTo_zero]; simp
    · have hbinade : f.binade (f.manField c) (1 - f.bias - f.manBits) = f.emin := by
        have := (Nat.log2_lt hm).2 hman
        simp only [Fmt.binade, Fmt.emin, leadOf]
        omega
      exact roundTo_exact r _ hm (by rw [hbinade, Fmt.emin]) (by rw [hbinade]; push_cast; ring) hmax
  · rename_i hex
    have hbinade : f.binade (f.manField c + 2 ^ f.manBits) (f.exField c - f.bias - f.manBits) = f.exField c - f.bias := by
      simp only [Fmt.binade, Fmt.emin, leadOf, log2_add_two_pow hman]
      omega
    exact roundTo_exact r _ (by positivity) (by rw [hbinade]) (by rw [hbinade, Fmt.emin]; push_cast; ring) hmax

/-- Settles O7: a finite code has an ordinary exponent, and the value that its fields stand for lies on the grid of its binade. -/
theorem roundingKeepsRepresentable : Obligations.RoundingKeepsRepresentable := by
  intro f r c hf hc hfin
  have htop : f.top = .e4m3 → f = e4m3 := by
    simp only [List.mem_cons, List.not_mem_nil, or_false] at hf
    rcases hf with rfl | rfl | rfl | rfl | rfl | rfl | rfl | rfl | rfl <;> decide
  obtain ⟨hvalue, hmax⟩ := Fmt.value_plain htop hfin
  rw [hvalue, roundTo_plainValue r hmax, f.code_eq hc]

end Sys2Proof.Machine
end

section
/-! SUPPORT. Conversions: rounding onto the integers (R34, R41, R43, R44, R96). -/

namespace Sys2Proof.Machine

/-! ### Floors -/

/-- A magnitude finer than the grid is divided by the grid's unit. -/
theorem floorAt_fine {m : Nat} {e q : Int} (h : e < q) :
    floorAt m e q = (m / 2 ^ (q - e).toNat, m / 2 ^ (q - e).toNat * 2 ^ (q - e).toNat != m) := by
  simp only [floorAt, if_neg (not_le.2 h), Nat.shiftRight_eq_div_pow, Nat.shiftLeft_eq]
  split
  · rename_i hlog
    have hlt : m < 2 ^ (q - e).toNat := by
      by_cases hm : m = 0
      · rw [hm]; positivity
      · exact (Nat.log2_lt hm).1 hlog
    rw [Nat.div_eq_of_lt hlt, Nat.zero_mul]
    rw [bne_comm]
  · rfl

/-- R41: the magnitude in units of the grid lies between its floor and the next unit; it is cut where it is not the floor. -/
theorem floorAt_spec (m : Nat) (e q : Int) :
    ((floorAt m e q).1 : ℚ) ≤ m * 2 ^ (e - q) ∧ (m : ℚ) * 2 ^ (e - q) < (floorAt m e q).1 + 1 ∧
      ((floorAt m e q).2 = true ↔ ((floorAt m e q).1 : ℚ) ≠ m * 2 ^ (e - q)) := by
  by_cases h : q ≤ e
  · have hx : (m : ℚ) * 2 ^ (e - q) = (m * 2 ^ (e - q).toNat : Nat) := by
      rw [Nat.cast_mul, Nat.cast_pow, ← zpow_natCast, Int.toNat_of_nonneg (by omega)]
      rfl
    rw [hx, floorAt, if_pos h]
    exact ⟨le_rfl, lt_add_one _, by simp⟩
  · rw [floorAt_fine (not_le.1 h)]
    obtain ⟨j, hj⟩ : ∃ j, j = (q - e).toNat := ⟨_, rfl⟩
    have hx : (m : ℚ) * 2 ^ (e - q) = m / (2 ^ j : Nat) := by
      rw [show e - q = -(j : Int) by omega, zpow_neg, zpow_natCast, Nat.cast_pow, div_eq_mul_inv]
      rfl
    rw [hx, ← hj]
    have hpos : (0 : ℚ) < (2 ^ j : Nat) := by positivity
    refine ⟨Nat.cast_div_le, ?_, ?_⟩
    · rw [div_lt_iff₀ hpos]
      rw [mul_comm]
      exact_mod_cast Nat.lt_mul_div_succ m (Nat.two_pow_pos j)
    · rw [bne_iff_ne, ne_eq, ne_eq, eq_div_iff hpos.ne']
      exact_mod_cast Iff.rfl

/-- A magnitude that is a whole number of units is not cut. -/
theorem floorAt_integer {m n : Nat} {e : Int} (h : (m : ℚ) * 2 ^ e = n) : floorAt m e 0 = (n, false) := by
  obtain ⟨hle, hlt, hcut⟩ := floorAt_spec m e 0
  rw [sub_zero, h] at hle hlt hcut
  have hn : (floorAt m e 0).1 = n := by
    have h1 : (floorAt m e 0).1 ≤ n := by exact_mod_cast hle
    have h2 : n < (floorAt m e 0).1 + 1 := by exact_mod_cast hlt
    omega
  exact Prod.ext hn (Bool.eq_false_iff.2 fun hc => hcut.1 hc (by rw [hn]))

/-- The leading bit of a nonzero magnitude. -/
theorem two_pow_leadOf_le {m : Nat} (hm : m ≠ 0) (e : Int) : (2 : ℚ) ^ leadOf m e ≤ m * 2 ^ e := by
  rw [leadOf, zpow_add₀ two_ne_zero, zpow_natCast]
  have h : 2 ^ Nat.log2 m ≤ m := Nat.log2_self_le hm
  gcongr
  exact_mod_cast h

/-- A magnitude below 2^71 has its leading bit there. -/
theorem leadOf_le_of_lt {m : Nat} {e : Int} (hm : m ≠ 0) (h : (m : ℚ) * 2 ^ e < 2 ^ (71 : Int)) : leadOf m e ≤ 70 := by
  have := (zpow_lt_zpow_iff_right₀ (one_lt_two (α := ℚ))).1 ((two_pow_leadOf_le hm e).trans_lt h)
  omega

/-! ### Rounding onto the integers -/

/-- A magnitude with a sign. -/
def withSign (neg : Bool) (n : Nat) : Int := if neg then -n else n

theorem withSign_cast (neg : Bool) (n : Nat) : ((withSign neg n : Int) : ℚ) = signOf neg * n := by
  cases neg <;> simp [withSign]

theorem clampInt_within {lo hi k : Int} (h1 : lo ≤ k) (h2 : k ≤ hi) : clampInt lo hi k = (k, Flags.none) := by
  rw [clampInt, if_neg (not_lt.2 h1), if_neg (not_lt.2 h2)]

theorem clampInt_below {lo hi k : Int} (h : k < lo) : clampInt lo hi k = (lo, Flags.nv) := if_pos h

theorem clampInt_above {lo hi k : Int} (hle : lo ≤ hi) (h : hi < k) : clampInt lo hi k = (hi, Flags.nv) := by
  rw [clampInt, if_neg (by omega), if_pos h]

/-- R43: a NaN becomes zero with NV. -/
theorem roundInt_nan {lo hi : Int} {r : Rnd} {v : Val} (h : v.isNan = true) : roundInt lo hi r v = (0, Flags.nv) := by
  cases v with
  | nan => rfl
  | inf => cases h
  | fin => cases h

/-- A magnitude below 2^71 is rounded on the integer grid and then limited. -/
theorem roundInt_near {lo hi : Int} {r : Rnd} {neg : Bool} {m n : Nat} {e : Int} {cut : Bool} (hfar : ¬(m ≠ 0 ∧ leadOf m e > 70))
    (hround : roundAt r neg m e 0 = (n, cut)) :
    roundInt lo hi r (.fin neg m e) = ((clampInt lo hi (withSign neg n)).1,
      if (clampInt lo hi (withSign neg n)).2 = Flags.none ∧ cut = true then Flags.nx else (clampInt lo hi (withSign neg n)).2) := by
  rw [roundInt, if_neg hfar, hround]
  rfl

section
variable {lo hi : Int} (hlo : -2 ^ 64 ≤ lo) (hle : lo ≤ hi) (hhi : hi ≤ 2 ^ 64)
include hlo hle hhi

/-- A magnitude beyond 2^70 is beyond every range. -/
theorem clampInt_far {m : Nat} {e k : Int} {neg : Bool} (hm : m ≠ 0) (hfar : leadOf m e > 70)
    (hk : (Val.fin neg m e).rat = k) : clampInt lo hi k = (if neg then lo else hi, Flags.nv) := by
  have hbig : (2 : ℚ) ^ (71 : Int) ≤ m * 2 ^ e :=
    (zpow_le_zpow_right₀ one_le_two (by omega)).trans (two_pow_leadOf_le hm e)
  rw [rat_fin] at hk
  cases neg with
  | true =>
    have : (k : ℚ) ≤ ((-2 ^ 71 : Int) : ℚ) := by rw [← hk]; push_cast; rw [signOf_true]; norm_num at hbig ⊢; linarith
    have : k ≤ -2 ^ 71 := by exact_mod_cast this
    exact clampInt_below (by omega)
  | false =>
    have : ((2 ^ 71 : Int) : ℚ) ≤ k := by rw [← hk]; push_cast; rw [signOf_false]; norm_num at hbig ⊢; linarith
    have : 2 ^ 71 ≤ k := by exact_mod_cast this
    exact clampInt_above hle (by omega)

/-- R44, R96: an integer is limited to the range and not otherwise changed. -/
theorem roundInt_integer (r : Rnd) {v : Val} (hv : v.isFinite = true) {k : Int} (hk : v.rat = k) :
    roundInt lo hi r v = clampInt lo hi k := by
  obtain ⟨neg, m, e, rfl⟩ := eq_fin_of_isFinite hv
  by_cases hfar : m ≠ 0 ∧ leadOf m e > 70
  · rw [roundInt, if_pos hfar, clampInt_far hlo hle hhi hfar.1 hfar.2 hk]
  · have hmag : (m : ℚ) * 2 ^ e = k.natAbs := by
      rw [← abs_rat_fin neg, hk, Nat.cast_natAbs, Int.cast_abs]
    have hx : withSign neg k.natAbs = k := by
      rw [← Int.cast_inj (α := ℚ), withSign_cast, ← hmag, ← rat_fin, hk]
    have hround : roundAt r neg m e 0 = (k.natAbs, false) := by rw [roundAt, floorAt_integer hmag]; rfl
    rw [roundInt_near hfar hround, hx]
    simp

omit hle in
/-- R41, R96: under RTZ a fraction within the range loses what follows the point, and NX is set. -/
theorem roundInt_fraction {r : Rnd} (hr : r.rm = 1) {v : Val} (hv : v.isFinite = true) (h1 : (lo : ℚ) < v.rat) (h2 : v.rat < hi)
    (hfrac : ∀ k : Int, v.rat ≠ k) :
    ∃ k : Int, |v.rat - k| < 1 ∧ |(k : ℚ)| < |v.rat| ∧ roundInt lo hi r v = (k, Flags.nx) := by
  obtain ⟨neg, m, e, rfl⟩ := eq_fin_of_isFinite hv
  obtain ⟨hfloor, hnext, hcut⟩ := floorAt_spec m e 0
  obtain ⟨n, hn⟩ : ∃ n, n = (floorAt m e 0).1 := ⟨_, rfl⟩
  rw [sub_zero, ← hn] at hfloor hnext hcut
  have hne : (n : ℚ) ≠ m * 2 ^ e := by
    intro h
    refine hfrac (withSign neg n) ?_
    rw [rat_fin, withSign_cast, h]
  have hround : roundAt r neg m e 0 = (n, true) := by
    rw [roundAt, show floorAt m e 0 = (n, true) from Prod.ext hn.symm (hcut.2 hne)]
    simp [pickAway, hr]
  have hbelow : |((withSign neg n : Int) : ℚ)| < |(Val.fin neg m e).rat| := by
    rw [abs_rat_fin, withSign_cast, abs_mul, abs_signOf, one_mul, Nat.abs_cast]
    exact lt_of_le_of_ne hfloor hne
  have hclose : |(Val.fin neg m e).rat - (withSign neg n : Int)| < 1 := by
    rw [rat_fin, withSign_cast, ← mul_sub, abs_mul, abs_signOf, one_mul, abs_lt]
    constructor <;> linarith
  have hfar : ¬(m ≠ 0 ∧ leadOf m e > 70) := by
    rintro ⟨hm, hlead⟩
    have hmag : (m : ℚ) * 2 ^ e < 2 ^ (71 : Int) := by
      have hlo' : ((-2 ^ 64 : Int) : ℚ) ≤ lo := by exact_mod_cast hlo
      have hhi' : (hi : ℚ) ≤ ((2 ^ 64 : Int) : ℚ) := by exact_mod_cast hhi
      rw [← abs_rat_fin neg, abs_lt]
      norm_num at hlo' hhi' ⊢
      constructor <;> linarith
    exact absurd (leadOf_le_of_lt hm hmag) (by omega)
  have hin : clampInt lo hi (withSign neg n) = (withSign neg n, Flags.none) := by
    obtain ⟨hleft, hright⟩ := abs_lt.1 hclose
    have hlow : lo < withSign neg n + 1 := by
      have : (lo : ℚ) < ((withSign neg n + 1 : Int) : ℚ) := by push_cast; linarith
      exact_mod_cast this
    have hhigh : withSign neg n - 1 < hi := by
      have : ((withSign neg n - 1 : Int) : ℚ) < hi := by push_cast; linarith
      exact_mod_cast this
    exact clampInt_within (by omega) (by omega)
  exact ⟨_, hclose, hbelow, by rw [roundInt_near hfar hround, hin]; simp⟩

end

/-! ### The instruction -/

/-- R66: the limits of an integer type of `n` bits. -/
def intLow (n : Nat) (sg : Bool) : Int := if sg then -(2 ^ (n - 1)) else 0
def intHigh (n : Nat) (sg : Bool) : Int := if sg then 2 ^ (n - 1) - 1 else 2 ^ n - 1

/-- R66: the integer types have 32 or 64 bits, so their limits lie within 2^64. -/
theorem intLimits {t : CvtType} {n : Nat} {sg : Bool} (h : cvtKind t = .inr (n, sg)) :
    -2 ^ 64 ≤ intLow n sg ∧ intLow n sg ≤ intHigh n sg ∧ intHigh n sg ≤ 2 ^ 64 := by
  cases t <;> cases h <;> decide

theorem cvtResult_float {t : CvtType} {f : Fmt} (h : cvtKind t = .inl f) (r : Rnd) (v : Val) : cvtResult t r v = roundTo f r v := by
  rw [cvtResult, h]

theorem cvtResult_int {t : CvtType} {n : Nat} {sg : Bool} (h : cvtKind t = .inr (n, sg)) (r : Rnd) (v : Val) {k : Int} {fl : Flags}
    (hround : roundInt (intLow n sg) (intHigh n sg) r v = (k, fl)) : cvtResult t r v = ((k % 2 ^ n).toNat, fl) := by
  rw [intLow, intHigh] at hround
  rw [cvtResult, h]
  simp only [hround, toField]

/-- R96: `cvt` writes the one rounding of its source. -/
theorem exec_cvt {s : State} (hs : s.issuing = true) (d a : Reg) (t u : CvtType) {c : Nat} {fl : Flags}
    (h : cvtResult t (s.curSlot.th.rnd (s.srkey s.cur.1 s.cur.2) true (regCode d)) (cvtSource u (s.rd a)) = (c, fl)) :
    exec (.cvt d a t u) s = .next (s.wroteFlags d (fromNat c) fl) := by
  have hexec := onThread_wroteFlags s d
    (fun sl => fromNat (cvtResult t (sl.th.rnd (s.srkey s.cur.1 s.cur.2) true (regCode d)) (cvtSource u (sl.th.reg a))).1)
    (fun sl => (cvtResult t (sl.th.rnd (s.srkey s.cur.1 s.cur.2) true (regCode d)) (cvtSource u (sl.th.reg a))).2) hs
  obtain ⟨rfl, rfl⟩ := Prod.mk.inj h
  exact hexec

/-- Settles O9: the integer limits lie within 2^64, where `roundInt` limits an integer exactly and truncates a fraction under RTZ. -/
theorem conversions : Obligations.Conversions := by
  intro s d a t u hs _
  refine ⟨fun f hf => exec_cvt hs d a t u (cvtResult_float hf _ _), fun n sg hk => ?_⟩
  obtain ⟨hlo, hle, hhi⟩ := intLimits hk
  have hint (k : Int) (fl : Flags) (hround : roundInt (intLow n sg) (intHigh n sg)
      (s.curSlot.th.rnd (s.srkey s.cur.1 s.cur.2) true (regCode d)) (cvtSource u (s.rd a)) = (k, fl)) :
      exec (.cvt d a t u) s = .next (s.wroteFlags d (fromNat (k % 2 ^ n).toNat) fl) :=
    exec_cvt hs d a t u (cvtResult_int hk _ _ hround)
  refine ⟨fun hnan => hint 0 _ (roundInt_nan hnan), fun hfin k hrat => ?_, fun hfin hrm h1 h2 hfrac => ?_⟩
  · have hclamp := roundInt_integer hlo hle hhi (s.curSlot.th.rnd (s.srkey s.cur.1 s.cur.2) true (regCode d)) hfin hrat
    exact ⟨fun h1 h2 => hint _ _ (hclamp.trans (clampInt_within h1 h2)), fun h => hint _ _ (hclamp.trans (clampInt_below h)),
      fun h => hint _ _ (hclamp.trans (clampInt_above hle h))⟩
  · obtain ⟨k, hclose, hbelow, hround⟩ :=
      roundInt_fraction hlo hhi (r := s.curSlot.th.rnd (s.srkey s.cur.1 s.cur.2) true (regCode d)) hrm hfin h1 h2 hfrac
    exact ⟨k, hclose, hbelow, hint k _ hround⟩

end Sys2Proof.Machine
end

section
/-! SUPPORT. A pass of the vector unit that writes no element: a reduction whose form carries a destination pointer. -/

namespace Sys2Proof.Machine

/-! ### E4M3 codes of finite values (R29, R41) -/

/-- R41: where overflow delivers the greatest magnitude, no magnitude lies beyond it. -/
theorem saturated_magnitude (sign top : Nat) (base : Int) (fl1 fl2 : Flags) :
    ∃ k, (if base > top then (sign + top, fl1) else (sign + base.toNat, fl2)).1 = sign + k ∧ k ≤ top := by
  split
  · exact ⟨top, rfl, le_rfl⟩
  · exact ⟨base.toNat, rfl, by omega⟩

/-- R41: E4M3 saturates, so a finite value is delivered at or below the greatest finite magnitude. -/
theorem roundTo_e4m3_finite (r : Rnd) {x : Val} (hx : x.isFinite = true) :
    ∃ neg k, (roundTo e4m3 r x).1 = e4m3.signBit neg + k ∧ k ≤ e4m3.maxCode := by
  obtain ⟨neg, m, e, rfl⟩ := eq_fin_of_isFinite hx
  have htop : (e4m3.top != .ieee) = true := rfl
  by_cases hm : m = 0
  · subst hm
    exact ⟨neg, 0, by rw [roundTo_zero]; rfl, Nat.zero_le _⟩
  · simp only [roundTo, if_neg hm, htop, Bool.or_true, Bool.true_or, if_true]
    exact ⟨neg, saturated_magnitude _ _ _ _ _⟩

/-- R29: the code 0x7F of E4M3 is a NaN, which no finite value rounds to. -/
theorem roundTo_e4m3_ne_nan (r : Rnd) {x : Val} (hx : x.isFinite = true) : (roundTo e4m3 r x).1 ≠ 0x7F := by
  obtain ⟨neg, k, heq, hk⟩ := roundTo_e4m3_finite r hx
  rw [heq]
  have hmax : e4m3.maxCode = 126 := rfl
  cases neg with
  | true =>
    have : e4m3.signBit true = 128 := rfl
    omega
  | false =>
    have : e4m3.signBit false = 0 := rfl
    omega

/-! ### A field of one tile -/

/-- Every tile but the one listed is fresh. -/
theorem tile_of_single {s : State} {x : Tile} (h : s.tiles = [(0, x)]) (u : Nat) :
    s.tile u = if 0 = u then x else { Tile.fresh with extents := s.freshExtents } := by
  rw [State.tile, h]
  by_cases hu : 0 = u
  · simp [Map.lookD, Map.look, hu]
  · simp [Map.lookD, Map.look, hu]

/-- No line is cached: no cached word holds an error. -/
theorem sound_of_single {s : State} {x : Tile} (h : s.tiles = [(0, x)]) (hweak : s.mem.weak = []) (hsoft : s.mem.soft = [])
    (hl1 : x.l1 = []) (hslices : x.slices = []) : s.Sound := by
  refine ⟨hweak, hsoft, fun u l hl => ?_⟩
  rw [tile_of_single h] at hl
  split at hl
  · simp [hl1, hslices] at hl
  · simp [Tile.fresh] at hl

/-- No thread waits at a word of a tile without waiters. -/
theorem quiet_of_nil {x : Tile} (hw : x.waiters = []) (hs : x.spilled = []) : ∀ w, w ∉ x.waiters ∧ w ∉ x.spilled := by
  simp [hw, hs]

/-! ### The state -/

/-- `vrsum` of one position, its form carrying a destination pointer, which VecForm allows and no encoding has. -/
def strayRun : VecRun :=
  { slot := 0, form := { op := .rsum, d := some (0, false), l := 0 }, n := 1, len := 64, at_ := 0, begun := true, fmts := [(0, 4, 0)],
    due := 0, rm := 0, sat := false }

/-- Tile 0 with one thread of team 0, which owns one of the tile's macros, in format E4M3, and that instruction in its pass. -/
def strayTile : Tile :=
  { Tile.fresh with
    slots := [{ state := .ready, budget := 65536 }], teams := [(0, { kin := 1, ctx := 1, nmac := 1 })],
    macros := [{ owner := some 0, fmt := 4 }], vec := some strayRun }

/-- Element 0 of the destination holds a NaN before the pass. -/
def strayPass : State :=
  { State.reset with siteOf := [], tiles := [(0, strayTile)], mem := { State.reset.mem with cells := [(spadKey 0 0 0, 0x7F)] } }

def strayOps : VecOps := { d := [(0, 0, 1, 0)] }

/-- The code of element 0 after an outcome. -/
def codeAfter : Out → Option Nat
  | .next t => some (t.elemCode 0 0 0)
  | _ => none

theorem codeAfter_strayPass : codeAfter (exec (.vectorPassEnd 0) strayPass) = some 0x7F := by decide +kernel

theorem strayPass_writes : strayPass.WritesPass 0 strayRun strayOps 0 0 where
  standing := by decide +kernel
  running := by decide +kernel
  begun := rfl
  due := by decide +kernel
  wf := show strayPass.mem.wf = true by decide +kernel
  clean := by decide +kernel
  sound := sound_of_single rfl rfl rfl rfl rfl
  slot := by decide +kernel
  checked := by rfl
  formats := by decide +kernel
  more := by decide
  quiet := quiet_of_nil rfl rfl
  going := by decide +kernel
  dest := rfl
  room := by decide +kernel
  open_ := by decide +kernel

/-- Refutes O29: a form of a reduction with a destination pointer meets every hypothesis of the claim about elements, which does not
exclude reductions; its pass writes `acc` alone, and the element keeps the code 0x7F, to which no finite value rounds. -/
theorem not_vectorPass : ¬ Obligations.VectorPass := by
  rintro ⟨-, helements, -⟩
  obtain ⟨t, ht, hgives, -⟩ := helements strayPass 0 0 0 0 0 0 0 strayRun strayOps strayPass_writes
    (by decide +kernel) (by decide +kernel) (by decide +kernel) (by decide) (by intro g hg; cases hg) (by intro g hg; cases hg)
    (by decide)
  obtain ⟨hvalue, -⟩ := hgives 0 (by decide) (by decide)
  obtain ⟨x, hx, hcode⟩ := hvalue rfl rfl rfl (by decide) trivial
  have hkept : t.elemCode 0 0 (0 + 0) = 0x7F := by
    have := codeAfter_strayPass
    rw [ht] at this
    exact Option.some.inj this
  have hfmt : strayPass.fmtAt 0 0 = 4 := by decide +kernel
  rw [hkept, hfmt] at hcode
  exact roundTo_e4m3_ne_nan _ hx.1 hcode.symm

end Sys2Proof.Machine
end

section
/-! SUPPORT. A row of the copy engine whose status word lies among the bytes that it writes. -/

namespace Sys2Proof.Machine

/-! ### The state -/

/-- The last row of a `cpy` of eight bytes from address 0x4000 to address 0x4030. Its block at 0x3FF8, which the issue of a command
would have refused as misaligned (R165), reaches over the end of the first 16 KiB: its status word lies at 0x4030. -/
def strayCopy : Run :=
  { pos := 0, cmd := { op := .cpy, ticket := 1, block := 16376, kin := 1, key := 0#32 },
    blocks := [[0x500, 8, 0x4000, 0x4030, 0, 0, 0, 0]], begun := true, raw := true }

/-- Tile 0 with that command on its copy engine, its macros RAW and zero. -/
def strayCopyTile : Tile := { Tile.fresh with cpe := some strayCopy }

def strayRow : State := { State.reset with siteOf := [], tiles := [(0, strayCopyTile)] }

/-- The byte at 0x4000 and an offset after an outcome. -/
def byteAfter (off : Nat) : Out → Option (BitVec 8)
  | .next t => some (t.mem.byte (spadKey 0 1 off))
  | _ => none

/-- R166: the status word has its done and consumed bits set. -/
theorem byteAfter_strayRow : byteAfter 51 (exec (.copyRowEnd 0) strayRow) = some 3#8 := by decide +kernel

theorem strayRow_plain : strayRow.Plain 0 where
  wf := show strayRow.mem.wf = true by decide +kernel
  clean := by decide +kernel
  sound := sound_of_single rfl rfl rfl rfl rfl
  quiet := quiet_of_nil rfl rfl

theorem strayRow_ends : strayRow.RowEnds 0 strayCopy where
  running := by decide +kernel
  turn := by decide +kernel
  wait := rfl
  err := rfl
  killed := rfl
  row := rfl
  busy := rfl
  begun := rfl
  asked := rfl
  slot := rfl
  more := by decide +kernel
  plain := by decide +kernel
  formats := by intro f hf; cases hf

/-- Refutes O45: the claim about rows within the scratchpad asks only that a command's block begins outside the 16 KiB of the
destination. The status word of a misaligned block that ends among them overwrites bytes of the row: byte 3 of the source is 0, byte 3
of the destination is 3. -/
theorem not_enginesRun : ¬ Obligations.EnginesRun := by
  rintro ⟨-, -, hrows, -⟩
  obtain ⟨u, hu, hraw, -⟩ := hrows strayRow 0 1 0 1 48 strayCopy strayRow_plain strayRow_ends (by decide +kernel) (by decide +kernel)
    (.inl rfl) (by decide) (by rfl) (by rfl)
  have hcopied := hraw rfl rfl 3 (by decide +kernel)
  have hstatus : u.mem.byte (spadKey 0 1 (48 + 3)) = 3#8 := by
    have := byteAfter_strayRow
    rw [hu] at this
    exact Option.some.inj this
  have hsource : strayRow.mem.byte (spadKey 0 1 (0 + 3)) = 0#8 := by decide +kernel
  rw [hstatus, hsource] at hcopied
  exact absurd hcopied (by decide)

end Sys2Proof.Machine
end

section
/-! SUPPORT. Words and their fields: a word of a format is told by its fields, a field by its parts, an operand by its code (R54-R58). -/

namespace Sys2Proof

/-! ### Strings of bits and their parts -/

/-- A run of bits is two strings joined exactly if its upper bits are the one and its lower bits the other. -/
theorem extract_eq_append {k m n : Nat} (s : Nat) (w : BitVec k) (x : BitVec m) (y : BitVec n) :
    w.extractLsb' s (m + n) = x ++ y ↔ w.extractLsb' (s + n) m = x ∧ w.extractLsb' s n = y := by
  constructor
  · intro h
    constructor <;> ext i hi
    · have := congrArg (·.getLsbD (i + n)) h
      simpa [BitVec.getElem_append, hi, Nat.add_comm, Nat.add_left_comm, show n + i < m + n by omega] using this
    · have := congrArg (·.getLsbD i) h
      simpa [BitVec.getElem_append, hi, show i < m + n by omega] using this
  · rintro ⟨rfl, rfl⟩
    ext i hi
    simp only [BitVec.getElem_extractLsb', BitVec.getElem_append]
    split
    · rfl
    · congr 1; omega

theorem eq_append_iff {m n : Nat} (w : BitVec (m + n)) (x : BitVec m) (y : BitVec n) :
    w = x ++ y ↔ w.extractLsb' n m = x ∧ w.extractLsb' 0 n = y := by
  simpa using extract_eq_append 0 w x y

/-- One bit of a word as a field of its own. -/
theorem extract_eq_ofBool (w : BitVec 32) (n : Nat) (b : Bool) : w.extractLsb' n 1 = BitVec.ofBool b ↔ bitAt w n = b := by
  constructor
  · intro h
    simpa [bitAt] using congrArg (·.getLsbD 0) h
  · rintro rfl
    ext i hi
    simp [bitAt, show i = 0 by omega]

theorem extract_eq_zero_bit (w : BitVec 32) (n : Nat) : w.extractLsb' n 1 = 0#1 ↔ bitAt w n = false := extract_eq_ofBool w n false

theorem extract_eq_one_bit (w : BitVec 32) (n : Nat) : w.extractLsb' n 1 = 1#1 ↔ bitAt w n = true := extract_eq_ofBool w n true

/-! ### A word is a word of a format exactly if its fields are those (R55) -/

section
variable (w : BitVec 32) (maj : BitVec 6)

theorem eq_fmtA_iff (x y z : BitVec 4) (fn : BitVec 14) : w = fmtA maj x y z fn ↔
    w.extractLsb' 26 6 = maj ∧ fieldD w = x ∧ fieldA w = y ∧ fieldB w = z ∧ fieldF w = fn := by
  refine (eq_append_iff (m := 6 + 4 + 4 + 4) w _ fn).trans ?_
  simp only [extract_eq_append, and_assoc]
  rfl

theorem eq_fmtI_iff (d a : BitVec 4) (i : BitVec 18) : w = fmtI maj d a i ↔
    w.extractLsb' 26 6 = maj ∧ fieldD w = d ∧ fieldA w = a ∧ fieldI w = i := by
  refine (eq_append_iff (m := 6 + 4 + 4) w _ i).trans ?_
  simp only [extract_eq_append, and_assoc]
  rfl

theorem eq_fmtI22_iff (d : BitVec 4) (i : BitVec 22) : w = fmtI22 maj d i ↔
    w.extractLsb' 26 6 = maj ∧ fieldD w = d ∧ w.extractLsb' 0 22 = i := by
  refine (eq_append_iff (m := 6 + 4) w _ i).trans ?_
  simp only [extract_eq_append, and_assoc]
  rfl

theorem eq_fmtM_iff (d b : BitVec 4) (z : BitVec 2) (sp : BitVec 1) (m o c : BitVec 2) (f : BitVec 9) :
    w = fmtM maj d b z sp m o c f ↔ w.extractLsb' 26 6 = maj ∧ fieldD w = d ∧ fieldA w = b ∧ w.extractLsb' 16 2 = z ∧
      w.extractLsb' 15 1 = sp ∧ w.extractLsb' 13 2 = m ∧ w.extractLsb' 11 2 = o ∧ w.extractLsb' 9 2 = c ∧
      w.extractLsb' 0 9 = f := by
  refine (eq_append_iff (m := 6 + 4 + 4 + 2 + 1 + 2 + 2 + 2) w _ f).trans ?_
  simp only [extract_eq_append, and_assoc]
  rfl

theorem eq_fmtB_iff (a b : BitVec 4) (cond : BitVec 3) (f : BitVec 15) : w = fmtB maj a b cond f ↔
    w.extractLsb' 26 6 = maj ∧ fieldD w = a ∧ fieldA w = b ∧ w.extractLsb' 15 3 = cond ∧ fieldO w = f := by
  refine (eq_append_iff (m := 6 + 4 + 4 + 3) w _ f).trans ?_
  simp only [extract_eq_append, and_assoc]
  rfl

theorem eq_fmtJ_iff (f : BitVec 26) : w = fmtJ maj f ↔ w.extractLsb' 26 6 = maj ∧ w.extractLsb' 0 26 = f :=
  eq_append_iff (m := 6) w maj f

theorem eq_fmtV_iff (d a b : BitVec 4) (l : Ptr) (x y z : Bool) (fn : BitVec 8) : w = fmtV maj d a b l x y z fn ↔
    w.extractLsb' 26 6 = maj ∧ fieldD w = d ∧ fieldA w = a ∧ fieldB w = b ∧ w.extractLsb' 11 3 = l ∧ bitAt w 10 = x ∧
      bitAt w 9 = y ∧ bitAt w 8 = z ∧ w.extractLsb' 0 8 = fn := by
  refine (eq_append_iff (m := 6 + 4 + 4 + 4 + 3 + 1 + 1 + 1) w _ fn).trans ?_
  simp only [extract_eq_append, and_assoc, extract_eq_ofBool]
  rfl

theorem eq_fmtXW_iff (kind : BitVec 1) (payload : BitVec 25) : w = fmtXW kind payload ↔
    w.extractLsb' 26 6 = 0x3F#6 ∧ w.extractLsb' 25 1 = kind ∧ w.extractLsb' 0 25 = payload := by
  refine (eq_append_iff (m := 6 + 1) w _ payload).trans ?_
  simp only [extract_eq_append, and_assoc]

/-! ### The parts of a func field (R65-R70) -/

theorem fieldF_eq_fnW_iff (p : Bool) (op : BitVec 6) : fieldF w = fnW p op ↔
    w.extractLsb' 7 7 = 0#7 ∧ bitAt w 6 = p ∧ w.extractLsb' 0 6 = op := by
  refine (extract_eq_append (m := 7 + 1) 0 w _ op).trans ?_
  simp only [extract_eq_append, and_assoc, extract_eq_ofBool]

theorem fieldF_eq_fnX_iff (z : BitVec 2) (sp : BitVec 1) (o c : BitVec 2) : fieldF w = fnX z sp o c ↔
    w.extractLsb' 12 2 = z ∧ w.extractLsb' 11 1 = sp ∧ w.extractLsb' 9 2 = o ∧ w.extractLsb' 7 2 = c ∧ w.extractLsb' 0 7 = 0#7 := by
  refine (extract_eq_append (m := 2 + 1 + 2 + 2) 0 w _ 0#7).trans ?_
  simp only [extract_eq_append, and_assoc]

theorem fieldF_eq_fnT_iff (op : BitVec 4) (n : Bool) (o c : BitVec 2) (z : Bool) : fieldF w = fnT op n o c z ↔
    w.extractLsb' 10 4 = op ∧ bitAt w 9 = n ∧ w.extractLsb' 7 2 = o ∧ w.extractLsb' 5 2 = c ∧ bitAt w 4 = z ∧
      w.extractLsb' 0 4 = 0#4 := by
  refine (extract_eq_append (m := 4 + 1 + 2 + 2 + 1) 0 w _ 0#4).trans ?_
  simp only [extract_eq_append, and_assoc, extract_eq_ofBool]

/-- R69: a fence's func, its parts as the decoder groups them. -/
theorem fieldF_eq_fence_iff (op : BitVec 4) (o c : BitVec 2) : fieldF w = fnT op false o c false ↔
    w.extractLsb' 9 5 = op ++ 0#1 ∧ w.extractLsb' 7 2 = o ∧ w.extractLsb' 5 2 = c ∧ w.extractLsb' 0 5 = 0#5 := by
  have hop := extract_eq_append 9 w op 0#1
  have hlow : w.extractLsb' 0 5 = 0#5 ↔ _ := extract_eq_append 0 w 0#1 0#4
  rw [fieldF_eq_fnT_iff, hop, hlow, extract_eq_zero_bit, extract_eq_zero_bit]
  tauto

theorem fieldI_eq_shift_iff (op : BitVec 2) (k : BitVec 6) : fieldI w = 0#10 ++ op ++ k ↔
    w.extractLsb' 8 10 = 0#10 ∧ w.extractLsb' 6 2 = op ∧ w.extractLsb' 0 6 = k := by
  refine (extract_eq_append (m := 10 + 2) 0 w _ k).trans ?_
  simp only [extract_eq_append, and_assoc]

theorem fieldF_eq_cvt_iff (t u : BitVec 4) : fieldF w = 0#6 ++ t ++ u ↔
    w.extractLsb' 8 6 = 0#6 ∧ w.extractLsb' 4 4 = t ∧ w.extractLsb' 0 4 = u := by
  refine (extract_eq_append (m := 6 + 4) 0 w _ u).trans ?_
  simp only [extract_eq_append, and_assoc]

theorem fieldF_eq_bitfield_iff (op : BitVec 2) (p l : BitVec 6) : fieldF w = op ++ p ++ l ↔
    w.extractLsb' 12 2 = op ∧ w.extractLsb' 6 6 = p ∧ w.extractLsb' 0 6 = l := by
  refine (extract_eq_append (m := 2 + 6) 0 w _ l).trans ?_
  simp only [extract_eq_append, and_assoc]

theorem fieldF_eq_seam_iff (m : BitVec 9) (u c : BitVec 2) : fieldF w = m ++ u ++ c ++ 0#1 ↔
    w.extractLsb' 5 9 = m ∧ w.extractLsb' 3 2 = u ∧ w.extractLsb' 1 2 = c ∧ w.extractLsb' 0 1 = 0#1 := by
  refine (extract_eq_append (m := 9 + 2 + 2) 0 w _ 0#1).trans ?_
  simp only [extract_eq_append, and_assoc]

theorem fieldF_eq_timeline_iff (op : BitVec 12) (e : BitVec 2) : fieldF w = op ++ e ↔
    w.extractLsb' 2 12 = op ∧ w.extractLsb' 0 2 = e := extract_eq_append 0 w op e

theorem fieldF_eq_special_iff (op : BitVec 4) (n : BitVec 6) : fieldF w = op ++ 0#4 ++ n ↔
    w.extractLsb' 10 4 = op ∧ w.extractLsb' 6 4 = 0#4 ∧ w.extractLsb' 0 6 = n := by
  refine (extract_eq_append (m := 4 + 4) 0 w _ n).trans ?_
  simp only [extract_eq_append, and_assoc]

theorem fieldF_eq_mfs_iff (n : BitVec 6) : fieldF w = 0#8 ++ n ↔
    w.extractLsb' 10 4 = 0#4 ∧ w.extractLsb' 6 4 = 0#4 ∧ w.extractLsb' 0 6 = n := fieldF_eq_special_iff w 0#4 n

theorem fieldF_eq_trap_iff (op : BitVec 4) (c : BitVec 10) : fieldF w = op ++ c ↔
    w.extractLsb' 10 4 = op ∧ w.extractLsb' 0 10 = c := extract_eq_append 0 w op c

theorem modifier_iff (n x : Bool) : w.extractLsb' 0 25 = 0#23 ++ BitVec.ofBool n ++ BitVec.ofBool x ↔
    w.extractLsb' 2 23 = 0#23 ∧ bitAt w 1 = n ∧ bitAt w 0 = x := by
  refine (extract_eq_append (m := 23 + 1) 0 w _ (BitVec.ofBool x)).trans ?_
  simp only [extract_eq_append, and_assoc, extract_eq_ofBool]

/-- R67: the four counting forms, told apart by the place of their field. -/
theorem fieldF_eq_count_iff :
    (fieldF w = 0x3000#14 ↔ w.extractLsb' 12 2 = 3#2 ∧ w.extractLsb' 6 6 = 0#6 ∧ w.extractLsb' 0 6 = 0#6) ∧
    (fieldF w = 0x3040#14 ↔ w.extractLsb' 12 2 = 3#2 ∧ w.extractLsb' 6 6 = 1#6 ∧ w.extractLsb' 0 6 = 0#6) ∧
    (fieldF w = 0x3080#14 ↔ w.extractLsb' 12 2 = 3#2 ∧ w.extractLsb' 6 6 = 2#6 ∧ w.extractLsb' 0 6 = 0#6) ∧
    (fieldF w = 0x30C0#14 ↔ w.extractLsb' 12 2 = 3#2 ∧ w.extractLsb' 6 6 = 3#6 ∧ w.extractLsb' 0 6 = 0#6) :=
  ⟨fieldF_eq_bitfield_iff w 3#2 0#6 0#6, fieldF_eq_bitfield_iff w 3#2 1#6 0#6, fieldF_eq_bitfield_iff w 3#2 2#6 0#6,
    fieldF_eq_bitfield_iff w 3#2 3#6 0#6⟩

/-! ### Several fields at once -/

theorem zero_DA_iff : w.extractLsb' 18 8 = 0#8 ↔ fieldD w = 0#4 ∧ fieldA w = 0#4 := extract_eq_append 18 w 0#4 0#4

theorem zero_DAB_iff : w.extractLsb' 14 12 = 0#12 ↔ fieldD w = 0#4 ∧ fieldA w = 0#4 ∧ fieldB w = 0#4 := by
  refine (extract_eq_append (m := 4 + 4) 14 w (0#4 ++ 0#4) 0#4).trans ?_
  simp only [extract_eq_append, and_assoc]
  rfl

theorem zero_DABF_iff : w.extractLsb' 0 26 = 0#26 ↔ fieldD w = 0#4 ∧ fieldA w = 0#4 ∧ fieldB w = 0#4 ∧ fieldF w = 0#14 := by
  refine (extract_eq_append (m := 4 + 4 + 4) 0 w (0#4 ++ 0#4 ++ 0#4) 0#14).trans ?_
  simp only [extract_eq_append, and_assoc]
  rfl

end

/-! ### Codes of operands (R56, R58, R66, R72) -/

theorem regOf_ok {c : BitVec 4} {r : Reg} : regOf c = .ok r ↔ c = r.code := by
  cases r with
  | w n => revert n c; decide
  | acc => revert c; decide
  | zr => revert c; decide

theorem ptrOf_ok {c : BitVec 4} {p : Ptr} : ptrOf c = .ok p ↔ c = Ptr.code p := by
  revert c p
  decide

theorem modeOf_ok {c : BitVec 2} {m : Mode} : modeOf c = .ok m ↔ c = m.code := by
  cases m <;> revert c <;> decide

theorem engOf_ok {c : BitVec 2} {e : Eng} : engOf c = .ok e ↔ c = e.code := by
  cases e <;> revert c <;> decide

theorem cvtOf_ok {c : BitVec 4} {t : CvtType} : cvtOf c = .ok t ↔ c = t.code := by
  cases t <;> revert c <;> decide

theorem sizeOf2_eq {c : BitVec 2} {z : Size} : sizeOf2 c = z ↔ c = z.code := by
  cases z <;> revert c <;> decide

theorem orderOf_eq {c : BitVec 2} {o : Order} : orderOf c = o ↔ c = o.code := by
  cases o <;> revert c <;> decide

theorem scopeOf_eq {c : BitVec 2} {x : Scope} : scopeOf c = x ↔ c = x.code := by
  cases x <;> revert c <;> decide

@[simp] theorem ptrOf_code (p : Ptr) : ptrOf (Ptr.code p) = .ok p := ptrOf_ok.2 rfl
@[simp] theorem modeOf_code (m : Mode) : modeOf m.code = .ok m := modeOf_ok.2 rfl
@[simp] theorem engOf_code (e : Eng) : engOf e.code = .ok e := engOf_ok.2 rfl
@[simp] theorem cvtOf_code (t : CvtType) : cvtOf t.code = .ok t := cvtOf_ok.2 rfl
@[simp] theorem sizeOf2_code (z : Size) : sizeOf2 z.code = z := sizeOf2_eq.2 rfl
@[simp] theorem orderOf_code (o : Order) : orderOf o.code = o := orderOf_eq.2 rfl
@[simp] theorem scopeOf_code (x : Scope) : scopeOf x.code = x := scopeOf_eq.2 rfl
@[simp] theorem code_d : Size.d.code = 3#2 := rfl
@[simp] theorem code_plain : Order.plain.code = 0#2 := rfl
@[simp] theorem code_acq : Order.acq.code = 1#2 := rfl
@[simp] theorem code_rel : Order.rel.code = 2#2 := rfl
@[simp] theorem code_ar : Order.ar.code = 3#2 := rfl
@[simp] theorem code_tile : Scope.tile.code = 0#2 := rfl

@[simp] theorem orderOf_zero : orderOf 0#2 = .plain := rfl
@[simp] theorem orderOf_one : orderOf 1#2 = .acq := rfl
@[simp] theorem orderOf_two : orderOf 2#2 = .rel := rfl
@[simp] theorem orderOf_three : orderOf 3#2 = .ar := rfl
@[simp] theorem scopeOf_zero : scopeOf 0#2 = .tile := rfl

@[simp] theorem code_sizeOf2 (c : BitVec 2) : (sizeOf2 c).code = c := (sizeOf2_eq.1 rfl).symm
@[simp] theorem code_orderOf (c : BitVec 2) : (orderOf c).code = c := (orderOf_eq.1 rfl).symm
@[simp] theorem code_scopeOf (c : BitVec 2) : (scopeOf c).code = c := (scopeOf_eq.1 rfl).symm

end Sys2Proof
end

section
/-! SUPPORT. What the decoder answers is named by the word it read (R56, R57, R59, R64). -/

namespace Sys2Proof

/-! ### What a decoder answers is named by its word (R57, R59, R64) -/

/-- Whatever a reading of a word answers is well-formed and has that word. -/
def Sound (w : BitVec 32) (r : Except Reject Instr) : Prop := ∀ i, r = .ok i → i.wellFormed = true ∧ encode i = some w

section
variable {w : BitVec 32}

@[simp] theorem sound_error (e : Reject) : Sound w (.error e) := fun _ h => by cases h

@[simp] theorem sound_ok (i : Instr) : Sound w (.ok i) ↔ i.wellFormed = true ∧ encode i = some w :=
  ⟨fun h => h i rfl, fun h j e => by cases e; exact h⟩

@[simp] theorem sound_pure (i : Instr) : Sound w (pure i) ↔ i.wellFormed = true ∧ encode i = some w := sound_ok i

theorem sound_ite {c : Prop} [Decidable c] {x y : Except Reject Instr} :
    Sound w (if c then x else y) ↔ (c → Sound w x) ∧ (¬c → Sound w y) := by
  split <;> simp [*]

@[simp] theorem sound_noWidth (p : Bool) (i : Instr) : Sound w (noWidth p i) ↔
    (p = false → i.wellFormed = true ∧ encode i = some w) := by
  simp [noWidth, sound_ite]

/-- A combination that is checked is well-formed, so only its word is in question. -/
@[simp] theorem sound_combine (i : Instr) : Sound w (combine i) ↔ (i.wellFormed = true → encode i = some w) := by
  simp +contextual [combine, sound_ite]

/-- A field that is read first: the rest answers for every value whose code the field holds. -/
theorem sound_bind {α : Type} {x : Except Reject α} {f : α → Except Reject Instr} : Sound w (x >>= f) ↔
    ∀ a, x = .ok a → Sound w (f a) := by
  cases x with
  | error e => simp [bind, Except.bind]
  | ok a => simp [bind, Except.bind]

@[simp] theorem sound_map {α : Type} {x : Except Reject α} {f : α → Instr} :
    Sound w (f <$> x) ↔ ∀ a, x = .ok a → (f a).wellFormed = true ∧ encode (f a) = some w := by
  cases x with
  | error e => simp [Functor.map, Except.map]
  | ok a => simp [Functor.map, Except.map]

theorem zeroField_ok {n : Nat} {f : BitVec n} {u : Unit} : zeroField f = .ok u ↔ f = 0#n := by
  unfold zeroField
  split <;> simp [*]

theorem unusedPtr_ok {f : BitVec 4} {x : Bool} {u : Unit} : unusedPtr f x = .ok u ↔ f = 15#4 ∧ x = false := by
  unfold unusedPtr
  split <;> simp [*]

theorem eq_ofNat_of_toNat {n k : Nat} {x : BitVec n} (h : x.toNat = k) : x = BitVec.ofNat n k := by
  rw [← h, BitVec.ofNat_toNat, BitVec.setWidth_eq]

/-! One lemma for each decoder of the coding tables. -/

theorem sound_alu (hm : w.extractLsb' 26 6 = 0x1#6) : Sound w (decodeAlu w) := by
  simp only [decodeAlu, sound_bind, zeroField_ok, regOf_ok]
  intro _ hz d hd a ha b hb
  split <;> rename_i hop <;> simp only [BitVec.toNat_eq_nat] at hop <;>
    simp +contextual [Instr.wellFormed, encode, @eq_comm _ _ w, eq_fmtA_iff, fieldF_eq_fnW_iff, *]

theorem sound_fp (hm : w.extractLsb' 26 6 = 0xB#6) : Sound w (decodeFp w) := by
  simp only [decodeFp, sound_bind, zeroField_ok, regOf_ok]
  intro _ hz d hd a ha b hb
  split <;> rename_i hop <;> simp only [BitVec.toNat_eq_nat] at hop <;>
    simp +contextual [Instr.wellFormed, encode, @eq_comm _ _ w, eq_fmtA_iff, fieldF_eq_fnW_iff, sound_bind, zeroField_ok, *]

theorem sound_fma (hm : w.extractLsb' 26 6 = 0xC#6) : Sound w (decodeFma w) := by
  simp only [decodeFma, sound_bind, zeroField_ok, regOf_ok]
  intro _ hz d hd a ha b hb
  split <;> rename_i hop <;> simp only [BitVec.toNat_eq_nat] at hop <;>
    simp +contextual [Instr.wellFormed, encode, @eq_comm _ _ w, eq_fmtA_iff, fieldF_eq_fnW_iff, *]

theorem sound_shift (hm : w.extractLsb' 26 6 = 0x6#6) : Sound w (decodeShift w) := by
  simp only [decodeShift, sound_bind, zeroField_ok, regOf_ok]
  intro _ hz d hd a ha
  split <;> rename_i hop <;> simp only [BitVec.toNat_eq_nat] at hop <;>
    simp [Instr.wellFormed, encode, @eq_comm _ _ w, eq_fmtI_iff, fieldI_eq_shift_iff, -BitVec.reduceAppend, *]

theorem sound_acc (hm : w.extractLsb' 26 6 = 0xA#6) : Sound w (decodeAcc w) := by
  simp only [decodeAcc, sound_bind, zeroField_ok, regOf_ok]
  intro _ hz a ha b hb
  split <;> rename_i hop <;> simp only [BitVec.toNat_eq_nat] at hop <;>
    simp [Instr.wellFormed, encode, @eq_comm _ _ w, eq_fmtA_iff, *]

theorem sound_cvt (hm : w.extractLsb' 26 6 = 0xD#6) : Sound w (decodeCvt w) := by
  simp only [decodeCvt, sound_bind, zeroField_ok, regOf_ok, cvtOf_ok]
  intro _ hb _ hz d hd a ha t ht u hu
  simp [encode, @eq_comm _ _ w, eq_fmtA_iff, fieldF_eq_cvt_iff, *]

theorem sound_bitfield (hm : w.extractLsb' 26 6 = 0xE#6) : Sound w (decodeBitfield w) := by
  simp only [decodeBitfield, sound_bind, zeroField_ok, regOf_ok]
  intro _ hb d hd a ha
  split
  case h_4 h0 h1 h2 =>
    have hop : w.extractLsb' 12 2 = 3#2 := by
      have hlt := (w.extractLsb' 12 2).isLt
      simp only [imp_false] at h0 h1 h2
      exact eq_ofNat_of_toNat (k := 3) (by omega)
    simp only [sound_bind, zeroField_ok]
    intro _ hl
    split <;> rename_i hp <;> simp only [BitVec.toNat_eq_nat] at hp <;>
      simp [Instr.wellFormed, encode, @eq_comm _ _ w, eq_fmtA_iff, fieldF_eq_count_iff, *]
  all_goals
    rename_i hop
    simp only [BitVec.toNat_eq_nat] at hop
    simp [encode, @eq_comm _ _ w, eq_fmtA_iff, fieldF_eq_bitfield_iff, *]

theorem sound_branch (hm : w.extractLsb' 26 6 = 0x10#6) : Sound w (decodeBranch w) := by
  simp only [decodeBranch, sound_bind, regOf_ok]
  intro a ha b hb
  split <;> rename_i hop <;> simp only [BitVec.toNat_eq_nat] at hop <;>
    simp [Instr.wellFormed, encode, @eq_comm _ _ w, eq_fmtB_iff, *]

theorem sound_branchZ (hm : w.extractLsb' 26 6 = 0x11#6) : Sound w (decodeBranchZ w) := by
  simp only [decodeBranchZ, sound_bind, zeroField_ok, regOf_ok]
  intro _ hz a ha
  split <;> rename_i hop <;> simp only [BitVec.toNat_eq_nat] at hop <;>
    simp [Instr.wellFormed, encode, @eq_comm _ _ w, eq_fmtB_iff, *]

theorem sound_jr (hm : w.extractLsb' 26 6 = 0x14#6) : Sound w (decodeJr w) := by
  simp only [decodeJr, sound_bind, zeroField_ok, regOf_ok]
  intro _ hb a ha
  split <;> rename_i hop <;> simp only [BitVec.toNat_eq_nat] at hop <;>
    simp +contextual [Instr.wellFormed, encode, @eq_comm _ _ w, eq_fmtA_iff, sound_bind, zeroField_ok, regOf_ok, *]

theorem sound_dbnz (hm : w.extractLsb' 26 6 = 0x15#6) : Sound w (decodeDbnz w) := by
  simp only [decodeDbnz, sound_bind, zeroField_ok]
  intro _ hz
  simp +contextual [sound_ite, regOf_ok, Instr.wellFormed, encode, @eq_comm _ _ w, eq_fmtB_iff, *]

theorem sound_mem (load : Bool) (hm : w.extractLsb' 26 6 = if load then 0x18#6 else 0x19#6) : Sound w (decodeMem load w) := by
  simp only [decodeMem, sound_bind, regOf_ok, ptrOf_ok, modeOf_ok]
  intro d hd b hb m hmode
  cases load <;> cases hsp : bitAt w 15 <;>
    simp_all [encode, @eq_comm _ _ w, eq_fmtM_iff, extract_eq_zero_bit, extract_eq_one_bit]

theorem sound_indexed (load : Bool) (hm : w.extractLsb' 26 6 = if load then 0x1A#6 else 0x1B#6) : Sound w (decodeIndexed load w) := by
  simp only [decodeIndexed, sound_bind, zeroField_ok, regOf_ok, ptrOf_ok]
  intro _ hz d hd a ha b hb
  cases load <;> cases hsp : bitAt w 11 <;>
    simp_all [encode, @eq_comm _ _ w, eq_fmtA_iff, fieldF_eq_fnX_iff, extract_eq_zero_bit, extract_eq_one_bit]

theorem sound_full (hm : w.extractLsb' 26 6 = 0x1C#6) : Sound w (decodeFull w) := by
  simp only [decodeFull, sound_bind, regOf_ok, ptrOf_ok]
  intro d hd b hb
  split <;> rename_i hop hsp <;> simp only [BitVec.toNat_eq_nat] at hop <;>
    simp +contextual [sound_ite, sizeOf2_eq, encode, @eq_comm _ _ w, eq_fmtM_iff, extract_eq_zero_bit, extract_eq_one_bit, *]

theorem sound_atomic (hm : w.extractLsb' 26 6 = 0x1D#6) : Sound w (decodeAtomic w) := by
  simp only [decodeAtomic, sound_bind, zeroField_ok, regOf_ok, ptrOf_ok]
  intro _ hz d hd a ha b hb
  split <;> rename_i hop <;> simp only [BitVec.toNat_eq_nat] at hop <;>
    simp +contextual [sound_ite, encode, @eq_comm _ _ w, eq_fmtA_iff, fieldF_eq_fnT_iff, *]

theorem sound_acas (hm : w.extractLsb' 26 6 = 0x1E#6) : Sound w (decodeAcas w) := by
  have hop : w.extractLsb' 9 5 = 0#5 ↔ _ := extract_eq_append 9 w 0#4 0#1
  simp only [decodeAcas, sound_bind, zeroField_ok, regOf_ok, ptrOf_ok, hop, extract_eq_zero_bit]
  intro _ hlow _ hhigh d hd a ha b hb
  simp [Instr.wellFormed, encode, @eq_comm _ _ w, eq_fmtA_iff, fieldF_eq_fnT_iff, *]

theorem sound_fence (hm : w.extractLsb' 26 6 = 0x1F#6) : Sound w (decodeFence w) := by
  simp only [decodeFence, sound_bind, zeroField_ok, zero_DAB_iff]
  rintro _ ⟨hd, ha, hb⟩ _ hlow
  split <;> rename_i hop ho <;> simp only [BitVec.toNat_eq_nat] at hop <;> simp only [orderOf_eq] at ho <;>
    simp_all [sound_ite, Instr.wellFormed, encode, @eq_comm _ _ w, eq_fmtA_iff, fieldF_eq_fence_iff, scopeOf_eq]

theorem sound_spawn (hm : w.extractLsb' 26 6 = 0x20#6) : Sound w (decodeSpawn w) := by
  simp only [decodeSpawn, sound_bind, regOf_ok]
  intro d hd a ha b hb
  split <;> rename_i hop <;> simp only [BitVec.toNat_eq_nat] at hop <;>
    simp [Instr.wellFormed, encode, @eq_comm _ _ w, eq_fmtA_iff, *]

theorem sound_thread (hm : w.extractLsb' 26 6 = 0x21#6) : Sound w (decodeThread w) := by
  simp only [decodeThread, sound_bind, zeroField_ok]
  intro _ hd _ hb
  split <;> rename_i hop <;> simp only [BitVec.toNat_eq_nat] at hop <;>
    simp +contextual [sound_bind, zeroField_ok, regOf_ok, ptrOf_ok, Instr.wellFormed, encode, @eq_comm _ _ w, eq_fmtA_iff, *]

theorem sound_join (hm : w.extractLsb' 26 6 = 0x22#6) : Sound w (decodeJoin w) := by
  simp only [decodeJoin, sound_bind, zeroField_ok, regOf_ok, ptrOf_ok]
  intro _ hd a ha b hb
  split <;> rename_i hop <;> simp only [BitVec.toNat_eq_nat] at hop <;>
    simp [Instr.wellFormed, encode, @eq_comm _ _ w, eq_fmtA_iff, *]

theorem sound_seam (hm : w.extractLsb' 26 6 = 0x23#6) : Sound w (decodeSeam w) := by
  simp only [decodeSeam, sound_bind, zeroField_ok, ptrOf_ok]
  intro _ hd _ hb _ hz a ha
  simp [Instr.wellFormed, encode, @eq_comm _ _ w, eq_fmtA_iff, fieldF_eq_seam_iff, *]

theorem sound_bar (hm : w.extractLsb' 26 6 = 0x24#6) : Sound w (decodeBar w) := by
  simp only [decodeBar, sound_bind, zeroField_ok, zero_DABF_iff]
  rintro _ ⟨hd, ha, hb, hf⟩
  simp [Instr.wellFormed, encode, @eq_comm _ _ w, eq_fmtA_iff, *]

theorem sound_vector : Sound w (decodeVector w) := by
  unfold decodeVector vec3 vec2 vecR
  split <;> rename_i hm hop <;> simp only [BitVec.toNat_eq_nat] at hm hop <;>
    simp +contextual [sound_bind, unusedPtr_ok, ptrOf_ok, Instr.wellFormed, encode, @eq_comm _ _ w, eq_fmtV_iff, *]

theorem sound_timeline (hm : w.extractLsb' 26 6 = 0x35#6) : Sound w (decodeTimeline w) := by
  simp only [decodeTimeline, sound_bind, zeroField_ok]
  intro _ hb
  split <;> rename_i hop <;> simp only [BitVec.toNat_eq_nat] at hop <;>
    simp +contextual [sound_bind, zeroField_ok, regOf_ok, ptrOf_ok, engOf_ok, Instr.wellFormed, encode, @eq_comm _ _ w, eq_fmtA_iff,
      fieldF_eq_timeline_iff, *]

theorem sound_engine : Sound w (decodeEngine w) := by
  unfold decodeEngine
  split
  case h_20 hm => exact sound_timeline (eq_ofNat_of_toNat hm)
  all_goals
    rename_i hm hop
    simp only [BitVec.toNat_eq_nat] at hm hop
    simp +contextual [eng0, eng1, eng2, sound_bind, zeroField_ok, regOf_ok, ptrOf_ok, Instr.wellFormed, encode, @eq_comm _ _ w,
      eq_fmtA_iff, *]

theorem sound_system (hm : w.extractLsb' 26 6 = 0x38#6) : Sound w (decodeSystem w) := by
  simp only [decodeSystem, sound_bind, zeroField_ok]
  intro _ hb
  split <;> rename_i hop <;> simp only [BitVec.toNat_eq_nat] at hop <;>
    simp +contextual [sound_bind, zeroField_ok, regOf_ok, zero_DA_iff, Instr.wellFormed, encode, @eq_comm _ _ w, eq_fmtA_iff,
      fieldF_eq_mfs_iff, fieldF_eq_special_iff, fieldF_eq_trap_iff, -BitVec.reduceAppend, *]

theorem sound_service (hm : w.extractLsb' 26 6 = 0x39#6) : Sound w (decodeService w) := by
  simp only [decodeService, sound_bind, regOf_ok]
  intro d hd a ha b hb
  split <;> rename_i hop <;> simp only [BitVec.toNat_eq_nat] at hop <;>
    simp +contextual [sound_bind, zeroField_ok, Instr.wellFormed, encode, @eq_comm _ _ w, eq_fmtA_iff, *]

theorem sound_xw (hm : w.extractLsb' 26 6 = 0x3F#6) : Sound w (decodeXw w) := by
  simp +contextual [decodeXw, sound_ite, Instr.wellFormed, encode, @eq_comm _ _ w, eq_fmtXW_iff, modifier_iff, extract_eq_zero_bit,
    extract_eq_one_bit, hm]

/-! ### The whole decoder -/

/-- R63: the major chooses the decoder. -/
theorem sound_decode (w : BitVec 32) : Sound w (decode w) := by
  unfold decode
  split
  case h_1 hm => exact sound_alu (eq_ofNat_of_toNat hm)
  case h_2 hm | h_3 hm | h_4 hm | h_5 hm | h_6 hm | h_8 hm | h_9 hm | h_17 hm | h_18 hm =>
    simp +contextual [sound_bind, regOf_ok, Instr.wellFormed, encode, @eq_comm _ _ w, eq_fmtI_iff, eq_fmtI22_iff, eq_fmtJ_iff,
      eq_ofNat_of_toNat hm]
  case h_7 hm => exact sound_shift (eq_ofNat_of_toNat hm)
  case h_10 hm => exact sound_acc (eq_ofNat_of_toNat hm)
  case h_11 hm => exact sound_fp (eq_ofNat_of_toNat hm)
  case h_12 hm => exact sound_fma (eq_ofNat_of_toNat hm)
  case h_13 hm => exact sound_cvt (eq_ofNat_of_toNat hm)
  case h_14 hm => exact sound_bitfield (eq_ofNat_of_toNat hm)
  case h_15 hm => exact sound_branch (eq_ofNat_of_toNat hm)
  case h_16 hm => exact sound_branchZ (eq_ofNat_of_toNat hm)
  case h_19 hm => exact sound_jr (eq_ofNat_of_toNat hm)
  case h_20 hm => exact sound_dbnz (eq_ofNat_of_toNat hm)
  case h_21 hm => exact sound_mem true (eq_ofNat_of_toNat hm)
  case h_22 hm => exact sound_mem false (eq_ofNat_of_toNat hm)
  case h_23 hm => exact sound_indexed true (eq_ofNat_of_toNat hm)
  case h_24 hm => exact sound_indexed false (eq_ofNat_of_toNat hm)
  case h_25 hm => exact sound_full (eq_ofNat_of_toNat hm)
  case h_26 hm => exact sound_atomic (eq_ofNat_of_toNat hm)
  case h_27 hm => exact sound_acas (eq_ofNat_of_toNat hm)
  case h_28 hm => exact sound_fence (eq_ofNat_of_toNat hm)
  case h_29 hm => exact sound_spawn (eq_ofNat_of_toNat hm)
  case h_30 hm => exact sound_thread (eq_ofNat_of_toNat hm)
  case h_31 hm => exact sound_join (eq_ofNat_of_toNat hm)
  case h_32 hm => exact sound_seam (eq_ofNat_of_toNat hm)
  case h_33 hm => exact sound_bar (eq_ofNat_of_toNat hm)
  case h_34 | h_35 | h_36 | h_37 | h_38 => exact sound_vector
  case h_39 | h_40 | h_41 | h_42 | h_43 | h_44 => exact sound_engine
  case h_45 hm => exact sound_system (eq_ofNat_of_toNat hm)
  case h_46 hm => exact sound_service (eq_ofNat_of_toNat hm)
  case h_47 hm => exact sound_xw (eq_ofNat_of_toNat hm)
  case h_48 => exact sound_error _

end

/-- Settles O54: every decoder answers only forms whose word it was given. -/
theorem encodeOfDecode : Obligations.EncodeOfDecode := fun w i h => sound_decode w i h

end Sys2Proof
end

section
/-! SUPPORT. The word of a form is read back (R54-R72). -/

namespace Sys2Proof

/-! ### The word of a form is read back (R54-R72) -/

/-- R63: the decoder of each major. -/
theorem decode_at {w : BitVec 32} :
    (w.extractLsb' 26 6 = 0x1#6 → decode w = decodeAlu w) ∧
    (w.extractLsb' 26 6 = 0x6#6 → decode w = decodeShift w) ∧
    (w.extractLsb' 26 6 = 0xA#6 → decode w = decodeAcc w) ∧
    (w.extractLsb' 26 6 = 0xB#6 → decode w = decodeFp w) ∧
    (w.extractLsb' 26 6 = 0xC#6 → decode w = decodeFma w) ∧
    (w.extractLsb' 26 6 = 0xD#6 → decode w = decodeCvt w) ∧
    (w.extractLsb' 26 6 = 0xE#6 → decode w = decodeBitfield w) ∧
    (w.extractLsb' 26 6 = 0x10#6 → decode w = decodeBranch w) ∧
    (w.extractLsb' 26 6 = 0x11#6 → decode w = decodeBranchZ w) ∧
    (w.extractLsb' 26 6 = 0x14#6 → decode w = decodeJr w) ∧
    (w.extractLsb' 26 6 = 0x15#6 → decode w = decodeDbnz w) ∧
    (w.extractLsb' 26 6 = 0x18#6 → decode w = decodeMem true w) ∧
    (w.extractLsb' 26 6 = 0x19#6 → decode w = decodeMem false w) ∧
    (w.extractLsb' 26 6 = 0x1A#6 → decode w = decodeIndexed true w) ∧
    (w.extractLsb' 26 6 = 0x1B#6 → decode w = decodeIndexed false w) ∧
    (w.extractLsb' 26 6 = 0x1C#6 → decode w = decodeFull w) ∧
    (w.extractLsb' 26 6 = 0x1D#6 → decode w = decodeAtomic w) ∧
    (w.extractLsb' 26 6 = 0x1E#6 → decode w = decodeAcas w) ∧
    (w.extractLsb' 26 6 = 0x1F#6 → decode w = decodeFence w) ∧
    (w.extractLsb' 26 6 = 0x20#6 → decode w = decodeSpawn w) ∧
    (w.extractLsb' 26 6 = 0x21#6 → decode w = decodeThread w) ∧
    (w.extractLsb' 26 6 = 0x22#6 → decode w = decodeJoin w) ∧
    (w.extractLsb' 26 6 = 0x23#6 → decode w = decodeSeam w) ∧
    (w.extractLsb' 26 6 = 0x24#6 → decode w = decodeBar w) ∧
    (w.extractLsb' 26 6 = 0x28#6 → decode w = decodeVector w) ∧
    (w.extractLsb' 26 6 = 0x29#6 → decode w = decodeVector w) ∧
    (w.extractLsb' 26 6 = 0x2A#6 → decode w = decodeVector w) ∧
    (w.extractLsb' 26 6 = 0x2B#6 → decode w = decodeVector w) ∧
    (w.extractLsb' 26 6 = 0x2C#6 → decode w = decodeVector w) ∧
    (w.extractLsb' 26 6 = 0x30#6 → decode w = decodeEngine w) ∧
    (w.extractLsb' 26 6 = 0x31#6 → decode w = decodeEngine w) ∧
    (w.extractLsb' 26 6 = 0x32#6 → decode w = decodeEngine w) ∧
    (w.extractLsb' 26 6 = 0x33#6 → decode w = decodeEngine w) ∧
    (w.extractLsb' 26 6 = 0x34#6 → decode w = decodeEngine w) ∧
    (w.extractLsb' 26 6 = 0x35#6 → decode w = decodeEngine w) ∧
    (w.extractLsb' 26 6 = 0x38#6 → decode w = decodeSystem w) ∧
    (w.extractLsb' 26 6 = 0x39#6 → decode w = decodeService w) ∧
    (w.extractLsb' 26 6 = 0x3F#6 → decode w = decodeXw w) := by
  and_intros <;> intro h <;> rw [decode, h] <;> rfl

/-- Settles O53: the fields of a form's word are those that the decoder of its major reads. -/
theorem decodeOfEncode : Obligations.DecodeOfEncode := by
  intro i w hw h
  cases i <;> injection h <;> rename_i h <;> replace h := h.symm
  case add | sub | and | or | xor | sll | srl | sra | slt | sltu | min | max | minu | maxu | mul | mulh | mulhu | div | divu |
       rem | remu =>
    simp only [eq_fmtA_iff, fieldF_eq_fnW_iff] at h
    simp [decode_at, decodeAlu, noWidth, zeroField, h, bind, Except.bind]
  case addi | andi | ori | xori | slti | movi | movhi | jmp | jal =>
    simp only [eq_fmtI_iff, eq_fmtI22_iff, eq_fmtJ_iff] at h
    simp [decode, h, bind, Except.bind, pure, Except.pure]
  case slli | srli | srai =>
    simp only [eq_fmtI_iff, fieldI_eq_shift_iff] at h
    simp [decode_at, decodeShift, zeroField, h, bind, Except.bind]
  case fadd | fsub | fmul | fdiv | fsqrt | fmin | fmax | fabs | fneg | feq | flt | fle | fclass | fma | fms | fnma | fnms | mac
       | msb | fmacS | fmacD =>
    simp only [eq_fmtA_iff, fieldF_eq_fnW_iff] at h
    simp [decode_at, decodeFp, decodeFma, decodeAcc, zeroField, h, bind, Except.bind]
  case cvt | bext | bexts | bins | clz | ctz | popc | bswap =>
    simp only [eq_fmtA_iff, fieldF_eq_cvt_iff, fieldF_eq_bitfield_iff, fieldF_eq_count_iff] at h
    simp [decode_at, decodeCvt, decodeBitfield, combine, zeroField, h, hw, bind, Except.bind]
  case beq | bne | blt | bge | bltu | bgeu | bz | bnz | bltz | bgez | bgtz | blez =>
    simp only [eq_fmtB_iff] at h
    simp [decode_at, decodeBranch, decodeBranchZ, zeroField, h, bind, Except.bind]
  case jr | jalr | dbnz =>
    simp only [eq_fmtA_iff, eq_fmtB_iff] at h
    simp [decode_at, decodeJr, decodeDbnz, zeroField, h, bind, Except.bind, pure, Except.pure]
  case ld | lds | st | sts | ldx | ldsx | stx | stsx | ldf | ldfs | stf | stfs | ldr =>
    simp only [eq_fmtA_iff, eq_fmtM_iff, fieldF_eq_fnX_iff, extract_eq_zero_bit, extract_eq_one_bit] at h
    simp [decode_at, decodeMem, decodeIndexed, decodeFull, combine, sizeOf2_eq, zeroField, h, hw, bind, Except.bind]
  case aadd | aand | aor | axor | amin | amax | aminu | amaxu | aswp | afadd | afmax | afmin | acas =>
    have hop (w : BitVec 32) : w.extractLsb' 9 5 = 0#5 ↔ _ := extract_eq_append 9 w 0#4 0#1
    simp only [eq_fmtA_iff, fieldF_eq_fnT_iff] at h
    simp [decode_at, decodeAtomic, decodeAcas, combine, hop, extract_eq_zero_bit, zeroField, h, hw, bind, Except.bind, pure,
      Except.pure]
  case fenceAcq | fenceRel | fenceAr | fenceAll | trkw =>
    simp only [eq_fmtA_iff, fieldF_eq_fence_iff] at h
    simp [decode_at, decodeFence, zero_DAB_iff, zeroField, h, bind, Except.bind]
  case spawn | spawnM | exit | exitJ | yield | hop | pin | unpin | hbeat | join | waitwEq | waitwNe | waitwGe | seam | bar =>
    simp only [eq_fmtA_iff, fieldF_eq_seam_iff] at h
    simp [decode_at, decodeSpawn, decodeThread, decodeJoin, decodeSeam, decodeBar, zero_DABF_iff, zeroField, h, bind,
      Except.bind, pure, Except.pure]
  case vadd | vsub | vmul | vmin | vmax | vcmpeq | vcmplt | vcmple | vfma | vfms | vfnma | vaxpy | vsel =>
    simp only [eq_fmtV_iff] at h
    simp [decode_at, decodeVector, vec3, combine, h, hw, bind, Except.bind]
  case vabs | vneg | vrcp | vrsqrt | vsqrt | vexp2 | vlog2 | vtanh | vsigm | vscal | vcvt | vcopy | vrsum | vrmax | vrmin |
       vrsumsq | vrdot | vfill =>
    simp only [eq_fmtV_iff] at h
    simp [decode_at, decodeVector, vec2, vecR, unusedPtr, combine, h, hw, bind, Except.bind, pure, Except.pure]
  case bfly | bchain | stn | unstn | mfmt | cpy | cring | csend | cred | cbcast | cbcfg | cbwait | cbfree | cbstat | nrcopy |
       nrzero | nbcopy | nexpr | ngemv =>
    simp only [eq_fmtA_iff] at h
    simp [decode_at, decodeEngine, eng0, eng1, eng2, zeroField, h, bind, Except.bind, pure, Except.pure]
  case tlread | tlwait =>
    have hop (op e : BitVec 2) : fieldF w = 0#10 ++ op ++ e ↔ _ := fieldF_eq_timeline_iff w (0#10 ++ op) e
    simp only [eq_fmtA_iff, hop] at h
    simp [decode_at, decodeEngine, decodeTimeline, zeroField, h, bind, Except.bind, pure, Except.pure]
  case mfs | mts | trap | brk | svc | xwExtension | xwModifier =>
    simp only [eq_fmtA_iff, eq_fmtXW_iff, fieldF_eq_mfs_iff, fieldF_eq_special_iff, fieldF_eq_trap_iff, modifier_iff,
      extract_eq_zero_bit, extract_eq_one_bit] at h
    simp [decode_at, decodeSystem, decodeXw, zero_DA_iff, zeroField, h, bind, Except.bind, pure, Except.pure]
  case reply | replaya | xmap | xunmap | xdrain | dinval | msend | mrecv | dstop | dresume =>
    simp only [eq_fmtA_iff] at h
    simp [decode_at, decodeService, combine, zeroField, h, hw, bind, Except.bind]

/-- Settles O52: each word evaluates. -/
theorem wordsDecode : Obligations.WordsDecode :=
  ⟨by decide, by decide, by decide, by decide, by decide, by decide, by decide, by decide, by decide, by decide, by decide, by decide⟩

end Sys2Proof
end

section
/-! SUPPORT. Immediates as pending XW words extend them, and the XW words themselves (R54, R60-R62, R84-R87). -/

namespace Sys2Proof.Machine

/-! ### Extended immediates (R54, R60) -/

/-- R60: one payload and the immediate joined. -/
theorem extField_one (e : BitVec 25) {k : Nat} (f : BitVec k) : extField [e] k f.toNat = ((e ++ f).toNat, k + 25) := by
  simp [extField, BitVec.toNat_append, Nat.shiftLeft_eq, ← Nat.two_pow_add_eq_or_of_lt f.isLt, mul_comm]

theorem extField_cons (e : BitVec 25) (es : List (BitVec 25)) (k v : Nat) :
    extField (e :: es) k v = (e.toNat * 2 ^ (extField es k v).2 + (extField es k v).1, (extField es k v).2 + 25) := rfl

/-- R60: two payloads and the immediate joined. -/
theorem extField_two (e e' : BitVec 25) {k : Nat} (f : BitVec k) :
    extField [e, e'] k f.toNat = ((e ++ e' ++ f).toNat, k + 25 + 25) := by
  have hlow : (e' ++ f).toNat = e'.toNat * 2 ^ k + f.toNat := (congrArg Prod.fst (extField_one e' f)).symm
  have hhigh : (e ++ e').toNat = e.toNat * 2 ^ 25 + e'.toNat := (congrArg Prod.fst (extField_one e e')).symm
  have hall : (e ++ e' ++ f).toNat = (e ++ e').toNat * 2 ^ k + f.toNat := by
    rw [BitVec.toNat_append, Nat.shiftLeft_eq, mul_comm, ← Nat.two_pow_add_eq_or_of_lt f.isLt]
  rw [extField_cons, extField_one, hall, hhigh, hlow]
  refine Prod.ext ?_ rfl
  ring

variable {ext : List (BitVec 25)} {k : Nat}

/-- R84: the unsigned reading of an extended immediate. -/
theorem immUnsigned_eq (h : ext.length ≤ 2) (f : BitVec k) : immUnsigned ext f = fromNat (extNat ext f) := by
  match ext, h with
  | [], _ => rfl
  | [e], _ => rw [immUnsigned, extUnsigned, extField_one]; rfl
  | [e, e'], _ => rw [immUnsigned, extUnsigned, extField_two]; rfl

/-- A field of width `w` read as two's complement. -/
theorem toInt_of_field {w : Nat} (x : BitVec w) :
    (if x.toNat < 2 ^ (w - 1) then (x.toNat : Int) else (x.toNat : Int) - 2 ^ w) = x.toInt := by
  rw [BitVec.toInt_eq_msb_cond, BitVec.msb_eq_decide]
  by_cases hlow : x.toNat < 2 ^ (w - 1) <;> simp [hlow, Nat.not_le.mpr, Nat.le_of_not_lt]

/-- R54, R60: the signed reading of an extended immediate. -/
theorem immWord_eq (h : ext.length ≤ 2) (f : BitVec k) : immWord ext f = fromInt (extInt ext f) := by
  refine congrArg (BitVec.ofInt 64) ?_
  match ext, h with
  | [], _ => exact toInt_of_field f
  | [e], _ =>
    rw [extSigned, extField_one, Nat.add_comm k 25]
    exact toInt_of_field (e ++ f)
  | [e, e'], _ =>
    rw [extSigned, extField_two, show k + 25 + 25 = 25 + 25 + k by omega]
    exact toInt_of_field (e ++ e' ++ f)

/-! ### Results of the immediate forms (R84-R87) -/

/-- A word as the integer it reads as. -/
theorem add_fromInt (x : Word) (v : Int) : x + fromInt v = fromInt (x.toInt + v) := by simp [fromInt, BitVec.ofInt_add]

theorem shiftLeft_fromNat (x : Word) (n : Nat) : x <<< n = fromNat (x.toNat * 2 ^ n) :=
  BitVec.eq_of_toNat_eq (by simp [fromNat, Nat.shiftLeft_eq])

theorem ushiftRight_fromNat (x : Word) (n : Nat) : x >>> n = fromNat (x.toNat / 2 ^ n) := by
  refine BitVec.eq_of_toNat_eq ?_
  rw [BitVec.toNat_ushiftRight, Nat.shiftRight_eq_div_pow, fromNat, BitVec.toNat_ofNat]
  exact (Nat.mod_eq_of_lt (lt_of_le_of_lt (Nat.div_le_self _ _) x.isLt)).symm

theorem sshiftRight_fromInt (x : Word) (n : Nat) : x.sshiftRight n = fromInt (x.toInt / 2 ^ n) := by
  rw [BitVec.sshiftRight_eq, Int.shiftRight_eq_div_pow]
  rfl

theorem boolWord_slt (x y : Word) : boolWord (x.slt y) = if x.toInt < y.toInt then 1#64 else 0#64 := by
  simp [boolWord, BitVec.slt_iff_toInt_lt]

/-- R87: the two halves of `movhi` do not overlap, so that joining them adds them. -/
theorem movhi_fromInt (w : Int) (x : Word) : (fromInt w <<< 32) ||| (x.extractLsb' 0 32).zeroExtend 64 =
    fromInt (w % 2 ^ 32 * 2 ^ 32 + (x.toNat % 2 ^ 32 : Nat)) := by
  have hdisjoint : (fromInt w <<< 32) &&& (x.extractLsb' 0 32).zeroExtend 64 = 0#64 := by
    ext i hi
    by_cases hlow : i < 32 <;> simp [hlow, BitVec.getElem_setWidth]
  rw [← BitVec.add_eq_or_of_and_eq_zero _ _ hdisjoint]
  refine BitVec.eq_of_toNat_eq ?_
  simp only [fromInt, BitVec.toNat_add, BitVec.toNat_shiftLeft, BitVec.toNat_ofInt, BitVec.truncate_eq_setWidth, BitVec.toNat_setWidth,
    BitVec.extractLsb'_toNat, Nat.shiftLeft_eq, Nat.shiftRight_zero]
  omega

/-- R84: without extension `xori` takes its immediate unsigned. -/
theorem xoriWord (ext : List (BitVec 25)) {k : Nat} (i : BitVec k) :
    (if ext.isEmpty then immUnsigned ext i else immWord ext i) = if ext = [] then fromNat i.toNat else immWord ext i := by
  cases ext <;> rfl

/-- Settles O2: each form writes one register, so that what is left is the extended immediate and the operation's value. -/
theorem immediateResults : Obligations.ImmediateResults := by
  intro s d a i j k hs
  refine ⟨?_, ?_, ?_, fun hext => ?_⟩
  · rw [← shiftLeft_fromNat]
    exact op1_wrote s d a (· <<< k.toNat) hs
  · rw [← ushiftRight_fromNat]
    exact op1_wrote s d a (· >>> k.toNat) hs
  · rw [← sshiftRight_fromInt]
    exact op1_wrote s d a (·.sshiftRight k.toNat) hs
  have hi : immWord s.curSlot.ext i = fromInt (extInt s.curSlot.ext i) := immWord_eq hext i
  have hj : immWord s.curSlot.ext j = fromInt (extInt s.curSlot.ext j) := immWord_eq hext j
  have hn : immUnsigned s.curSlot.ext i = fromNat (extNat s.curSlot.ext i) := immUnsigned_eq hext i
  simp only [← movhi_fromInt, ← hi, ← hj, ← hn, ← add_fromInt, ← boolWord_slt, ← xoriWord]
  exact ⟨opImm_wrote s d a (fun e x => x + immWord e i) hs, opImm_wrote s d a (fun e x => x &&& immWord e i) hs,
    opImm_wrote s d a (fun e x => x ||| immUnsigned e i) hs,
    opImm_wrote s d a (fun e x => x ^^^ (if e.isEmpty then immUnsigned e i else immWord e i)) hs,
    opImm_wrote s d a (fun e x => boolWord (x.slt (immWord e i))) hs, onThread_wrote s d (fun sl => immWord sl.ext j) hs,
    onThread_wrote s d (fun sl => (immWord sl.ext j <<< 32) ||| ((sl.th.reg d).extractLsb' 0 32).zeroExtend 64) hs⟩

/-! ### XW words (R60-R62) -/

theorem execXwExtension_takes {s : State} (e : BitVec 25) (hs : s.issuing = true) (ht : s.curSlot.takesXw = true) :
    exec (.xwExtension e) s = .next (s.modCur (fun sl => sl.withExt e)) := by
  change execXwExtension e s = _
  simp only [execXwExtension, ht, Bool.not_true, Bool.false_eq_true, if_false]
  exact onIssue_next s _ hs

theorem execXwModifier_takes {s : State} (n x : Bool) (hs : s.issuing = true) (ht : s.curSlot.takesXw = true) :
    exec (.xwModifier n x) s = .next (s.modCur (fun sl => sl.withMod n x)) := by
  change execXwModifier n x s = _
  simp only [execXwModifier, ht, Bool.not_true, Bool.false_eq_true, if_false]
  exact onIssue_next s _ hs

/-- R62: a run that takes no further word fails with its first word. -/
theorem execXw_fails {s : State} (e : BitVec 25) (n x : Bool) {v : BitVec 32} (hs : s.issuing = true)
    (ht : s.curSlot.takesXw = false) (hv : ∀ w, s.curSlot.firstXw w = v) :
    exec (.xwExtension e) s = .next (s.raise s.cur.1 s.cur.2 0x01 0#64 (v.zeroExtend 64)) ∧
    exec (.xwModifier n x) s = .next (s.raise s.cur.1 s.cur.2 0x01 0#64 (v.zeroExtend 64)) := by
  change execXwExtension e s = _ ∧ execXwModifier n x s = _
  simp only [execXwExtension, execXwModifier, ht, Bool.not_false, if_true, hv]
  exact ⟨raiseCur_next s _ _ _ hs, raiseCur_next s _ _ _ hs⟩

/-- Settles O11: a word is taken where fewer than two are pending and none is a modifier. -/
theorem xwWords : Obligations.XwWords := by
  intro s e n x hs
  refine ⟨fun hlen hipc => ?_, fun e0 e1 hext => ?_, fun hext hipc => ?_⟩
  · have ht : s.curSlot.takesXw = true := by
      rw [fromNat] at hipc
      simp [Slot.takesXw, Slot.hasMod, ← hipc, hlen]
    exact ⟨execXwExtension_takes e hs ht, execXwModifier_takes n x hs ht⟩
  · exact execXw_fails e n x hs (by simp [Slot.takesXw, hext]) (fun w => by simp [Slot.firstXw, hext, xwExtWord])
  · have hmod : s.curSlot.hasMod = true := by simp [Slot.hasMod, hext, hipc]
    exact execXw_fails e n x hs (by simp [Slot.takesXw, hmod]) (fun w => by simp [Slot.firstXw, hext, hmod, xwModWord])

end Sys2Proof.Machine
end

section
/-! SUPPORT. Taking a fault: what is sent, what the service tile is told, and the faults taken in place of an instruction
(R64, R193, R195, R256-R258). -/

namespace Sys2Proof.Machine

section
variable (s : State) (t k : Nat)

/-! ### What leaves with a trace record (R357) -/

theorem traceSend_net (ph : Nat) : ∃ rest, (s.traceSend t ph).net = s.net ++ rest := by
  unfold State.traceSend
  split
  · exact ⟨[], by simp⟩
  · dsimp only
    split
    all_goals
      obtain ⟨n, o, r, g, q, h⟩ := send_net s _
      exact ⟨_, h⟩

theorem pushTrace_net (ctx : Nat) (ws : List Word) : ∃ rest, (s.pushTrace t ctx ws).net = s.net ++ rest := by
  unfold State.pushTrace
  dsimp only
  split
  · exact ⟨[], by simp⟩
  · split
    · exact traceSend_net _ t 10
    · exact ⟨[], by simp⟩

/-- R357: a record adds packets behind those of the fabric. -/
theorem emit_net (kind : Nat) (x : Word) : ∃ rest, (s.emit t k kind x).net = s.net ++ rest := by
  unfold State.emit
  dsimp only
  split
  · exact ⟨[], by simp⟩
  · split
    · exact pushTrace_net s t _ _
    · exact ⟨[], by simp⟩

/-! ### The message of a fault (R257) -/

theorem faultWord0_fields (code tpos ctx slot : Nat) (tid : BitVec 32) :
    bits (faultWord0 code tpos ctx slot tid) 63 56 = code % 256 ∧ bits (faultWord0 code tpos ctx slot tid) 51 40 = ctx % 4096 ∧
    bits (faultWord0 code tpos ctx slot tid) 39 36 = slot % 16 ∧ bits (faultWord0 code tpos ctx slot tid) 31 0 = tid.toNat := by
  have htid := tid.isLt
  simp only [bits, faultWord0, BitVec.toNat_ofNat, Nat.shiftRight_eq_div_pow]
  omega

/-- R257: the message for a fault that stands in a slot. -/
def State.faultMsg (f : FaultRec) : Msg :=
  { kind := 1, seq := (s.slot t k).fseq + 1#8, slot := k, tile := s.name t,
    w0 := faultWord0 f.code (s.slot t k).team (s.slot t k).th.ctx k (s.slot t k).th.tid, w1 := f.pc, w2 := f.addr, w3 := f.extra }

/-- R256: the message leaves on VC0 for the service tile of the field, ahead of the trace record. -/
theorem postFault_net {s : State} {t k : Nat} (f : FaultRec) (hk : k < (s.tile t).slots.length) :
    ∃ p rest, (s.postFault t k f).net = s.net ++ p :: rest ∧ p.vc = 0 ∧ p.src = t ∧ p.dst = (s.field (s.fieldOf t)).tile ∧
      p.body = .faultMsg (s.faultMsg t k f) t k := by
  have hmod := slot_modSlot_same s t k (fun sl => { sl with fseq := sl.fseq + 1#8 }) hk
  unfold State.postFault
  dsimp only
  rw [hmod]
  obtain ⟨n, o, r, g, q, hsend⟩ := send_net (s.modSlot t k (fun sl => { sl with fseq := sl.fseq + 1#8 })) _
  obtain ⟨rest, hemit⟩ := emit_net (State.send _ _) t k 3 _
  exact ⟨_, rest, by rw [hemit, hsend, List.append_assoc]; rfl, rfl, rfl, rfl, rfl⟩

end

section
variable {s : State} {t k : Nat}

theorem postFault_mem (f : FaultRec) : (s.postFault t k f).mem = s.mem := by
  unfold State.postFault
  dsimp only
  rw [emit_mem, send_mem]
  rfl

/-- R354: a step given up changes its slot and what the host is told, and nothing else. -/
theorem stepLeft_shape : s.stepLeft t k = { s with tiles := (s.stepLeft t k).tiles, hostOut := (s.stepLeft t k).hostOut } := by
  unfold State.stepLeft
  split <;> rfl

/-! ### The two ways of a fault (R195, R256) -/

theorem raise_user (h : s.atService t k = false) (code : Nat) (a x : Word) :
    let f : FaultRec := { code := code, pc := (s.slot t k).th.pc, addr := a, extra := x }
    s.raise t k code a x = ((s.modSlot t k (fun sl => sl.block f)).stepLeft t k).postFault t k f := by
  simp [State.raise, State.raiseRec, h]

/-- R195: a fault of the service thread stops it, and the host is notified. -/
theorem raise_service (h : s.atService t k = true) (code : Nat) (a x : Word) :
    let f : FaultRec := { code := code, pc := (s.slot t k).th.pc, addr := a, extra := x }
    s.raise t k code a x = (s.modSlot t k (fun sl => { sl.block f with state := .stopped .service })).notify 3
      (BitVec.ofNat 64 code) f.pc a (BitVec.ofNat 64 (s.fieldOf t)) := by
  simp only [State.raise, State.raiseRec, h, if_true]
  rfl

theorem raise_mem (h : s.atService t k = false) (code : Nat) (a x : Word) : (s.raise t k code a x).mem = s.mem := by
  rw [raise_user h, postFault_mem, stepLeft_shape]
  rfl

/-- R256, R257: the message of a fault of a kernel's thread. -/
theorem raise_net (h : s.atService t k = false) (hk : k < (s.tile t).slots.length) (code : Nat) (a x : Word) :
    ∃ p rest, (s.raise t k code a x).net = s.net ++ p :: rest ∧ p.vc = 0 ∧ p.src = t ∧ p.dst = (s.field (s.fieldOf t)).tile ∧
      p.body = .faultMsg (s.faultMsg t k { code := code, pc := (s.slot t k).th.pc, addr := a, extra := x }) t k := by
  let f : FaultRec := { code := code, pc := (s.slot t k).th.pc, addr := a, extra := x }
  let u := (s.modSlot t k (fun sl => sl.block f)).stepLeft t k
  have hmod : (s.modSlot t k (fun sl => sl.block f)).slot t k = (s.slot t k).block f := slot_modSlot_same s t k _ hk
  have hlen : k < (u.tile t).slots.length := by
    rw [stepLeft_slots_length, State.modSlot, tile_modTile_same]
    exact (modifyAt_length _ _ _).symm ▸ hk
  have hshape : u = { s with tiles := u.tiles, hostOut := u.hostOut } := stepLeft_shape
  have hfields : u.fields = s.fields := (congrArg State.fields hshape).trans rfl
  have hsites : u.siteOf = s.siteOf := (congrArg State.siteOf hshape).trans rfl
  have hgen : u.gen = s.gen := (congrArg State.gen hshape).trans rfl
  have hmsg : u.faultMsg t k f = s.faultMsg t k f := by
    obtain ⟨r, b, hleft⟩ := stepLeft_slot (s.modSlot t k (fun sl => sl.block f)) t k
    rw [hmod] at hleft
    simp only [State.faultMsg, State.name, hgen, u, hleft]
    rfl
  obtain ⟨p, rest, hnet, hvc, hsrc, hdst, hbody⟩ := postFault_net f hlen
  refine ⟨p, rest, ?_, hvc, hsrc, ?_, ?_⟩
  · rw [raise_user h, hnet, stepLeft_net]
    rfl
  · rw [hdst]
    simp only [State.field, State.fieldOf, State.site, hfields, hsites]
  · rw [hbody, hmsg]

/-- Settles O35: a kernel's thread through `raise_slot`, `raise_mem` and `raise_net`, the service thread through `raise_service`. -/
theorem faultEntry : Obligations.FaultEntry := by
  intro s u k code addr extra sl t hk hcode hk16
  refine ⟨fun huser => ?_, fun hserv => ?_⟩
  · obtain ⟨r, b, q, hslot⟩ := raise_slot huser hk code addr extra
    obtain ⟨p, rest, hnet, hvc, hsrc, hdst, hbody⟩ := raise_net huser hk code addr extra
    obtain ⟨hwcode, hwctx, hwslot, hwtid⟩ := faultWord0_fields code sl.team sl.th.ctx k sl.th.tid
    rw [Nat.mod_eq_of_lt hcode] at hwcode
    rw [Nat.mod_eq_of_lt hk16] at hwslot
    have hmem : s.SameMem t := by
      intro a
      rw [show t.mem = s.mem from raise_mem huser code addr extra]
      exact ⟨rfl, rfl, rfl⟩
    exact ⟨congrArg Slot.state hslot, (congrArg Slot.th hslot).trans rfl, congrArg Slot.ipc hslot, congrArg Slot.ext hslot,
      congrArg Slot.fault hslot, congrArg Slot.fseq hslot, hmem, p, rest, _, hnet, hvc, hsrc, hdst, hbody, rfl, rfl, rfl, rfl,
      hwcode, hwctx, hwslot, hwtid, rfl, rfl, rfl⟩
  · let f : FaultRec := { code := code, pc := sl.th.pc, addr := addr, extra := extra }
    have hraise := raise_service hserv code addr extra
    have hslot : t.slot u k = { sl.block f with state := .stopped .service } :=
      (congrArg (State.slot · u k) hraise).trans (slot_modSlot_same s u k (fun sl => { sl.block f with state := .stopped .service }) hk)
    exact ⟨congrArg Slot.state hslot, (congrArg Slot.th hslot).trans rfl, (congrArg State.net hraise).trans rfl, _,
      (congrArg State.hostOut hraise).trans (toHost_sends _ _ rfl), rfl, rfl⟩

end

/-! ### The software traps (R193, R258) -/

theorem callsTakeFaults : Claim.callsTakeFaults := by
  intro s c hs
  have call (form code : Nat) : raiseCur s code 0#64 (callWord form c) =
      .next (s.raise s.cur.1 s.cur.2 code 0#64 (fromNat (form * 1024 + c.toNat))) := raiseCur_next s _ _ _ hs
  exact ⟨call 2 0x10, call 3 0x0F, call 4 0x10⟩

/-! ### Faults in place of an instruction (R64, R141, R355) -/

/-- The first element that meets a test, where it stands and nothing before it meets the test. -/
theorem firstIdx_eq_some {α : Type} {p : α → Bool} {l : List α} {j : Nat} {x : α} (hj : l[j]? = some x) (hp : p x = true)
    (hmin : ∀ i y, i < j → l[i]? = some y → p y = false) : firstIdx p l = some j := by
  induction l generalizing j with
  | nil => simp at hj
  | cons y ys ih =>
    cases j with
    | zero =>
      obtain rfl : y = x := by simpa using hj
      simp [firstIdx, hp]
    | succ n =>
      have hy : p y = false := hmin 0 y (Nat.succ_pos n) rfl
      have hys := ih (by simpa using hj) fun i z hi hz => hmin (i + 1) z (Nat.succ_lt_succ hi) (by simpa using hz)
      simp [firstIdx, hy, hys]

section
variable {s : State} {t k : Nat}

theorem atBoundary_iff (sl : Slot) : sl.atBoundary = true ↔ sl.ext = [] ∧ sl.sx = false ∧ sl.nt = false ∧ sl.ipc = sl.th.pc := by
  simp [Slot.atBoundary, and_assoc]

/-- R61, R62: an instruction itself follows no run at a boundary. -/
theorem runOk_boundary {sl : Slot} (h : sl.atBoundary = true) (i : Instr) : sl.runOk i = true := by
  obtain ⟨hext, hsx, hnt, hipc⟩ := (atBoundary_iff sl).mp h
  have hmod : sl.hasMod = false := by simp [Slot.hasMod, hext, hipc]
  simp [Slot.runOk, hext, hsx, hnt, hmod]

/-- R266: an ordinary word at a boundary raises no fault before it issues. -/
theorem runBad_ordinary {w : BitVec 32} {i : Instr} {n : Nat} (hb : (s.slot t k).atBoundary = true)
    (hf : s.fetch t (s.slot t k).th.ctx (s.slot t k).th.pc = .ok w) (hd : decode w = .ok i) (hm : w.toNat / 2 ^ 26 ≠ 0x39)
    (hx : Instr.isXw i = false) : s.runBad t k (n + 1) (s.slot t k) = false := by
  obtain ⟨-, -, -, hipc⟩ := (atBoundary_iff _).mp hb
  have hpriv : s.privWord t k w = false := privWord_eq_false fun h => absurd h hm
  have hrun := runOk_boundary hb i
  rw [State.runBad, Slot.codeCtx, hipc, hf]
  simp only [hpriv, hd, hrun, Bool.not_true, Bool.false_or]
  split
  · cases hx
  · cases hx
  · rfl

/-- R141: the budget of a thread that may issue is spent. -/
theorem hbeatDue_spent (hr : (s.slot t k).state = .ready) (hb : (s.slot t k).atBoundary = true) (hbar : s.barred t k = false)
    (hretry : (s.slot t k).retry = false) (hbud : (s.slot t k).budget = 0) (hu : s.atService t k = false)
    (hbad : s.runBad t k 4 (s.slot t k) = false) : s.hbeatDue t k = true := by
  simp [State.hbeatDue, hr, hb, hbar, hretry, hbud, hu, hbad]

end

theorem boundaryFaults : Claim.boundaryFaults := by
  intro s u k j w i c next starts
  refine ⟨fun hs => raiseCur_next s _ _ _ hs, ?_, ?_⟩
  · rintro ⟨hready, hbound, hbar⟩ hretry hbud huser hinst hfetch hdec hmajor hxw
    have hdue := hbeatDue_spent hready hbound hbar hretry hbud huser (runBad_ordinary hbound hfetch hdec hmajor hxw)
    change execHbeatExpiry u k s = _
    rw [execHbeatExpiry, hdue, onEvent_next, State.hkOf, hinst]
    rfl
  · rintro ⟨hready, hbound, hbar⟩ hskip hctx hbrk hpc hmin
    have hfirst : firstIdx (fun a => a != 0#64 && a == (s.slot u k).th.pc) c.brk = some j := by
      refine firstIdx_eq_some hbrk (by simp [hpc]) fun l y hl hy => ?_
      have hne : y ≠ (s.slot u k).th.pc := fun h => hmin l hl (h ▸ hy)
      simp [hne]
    change execBreakpointMatch u k s = _
    simp only [execBreakpointMatch, hctx, hfirst, hready, hbar, hbound, hskip]
    rw [Nat.add_comm j]
    rfl

/-- Settles O36. -/
theorem faultsTaken : Obligations.FaultsTaken := ⟨callsTakeFaults, boundaryFaults⟩

end Sys2Proof.Machine
end

section
/-! SUPPORT. Lines in a tile's caches: what is found after a line has been placed, met or written (R235-R239, R385). -/

namespace Sys2Proof.Machine

/-! ### Words of a line (R111, R237) -/

@[simp] theorem meet_data (w : LWord) : w.meet.data = w.data := rfl
@[simp] theorem meet_valid (w : LWord) : w.meet.valid = w.valid := rfl
@[simp] theorem meet_dirty (w : LWord) : w.meet.dirty = w.dirty := rfl
@[simp] theorem meet_is (l : Line) : l.meet.is = l.is := rfl
@[simp] theorem meet_length (l : Line) : l.meet.words.length = l.words.length := List.length_map _

@[simp] theorem word_meet (l : Line) (i : Nat) : l.meet.word i = (l.word i).meet := by
  simp only [Line.word, Line.meet, List.getD_eq_getElem?_getD, List.getElem?_map]
  cases l.words[i]? <;> rfl

theorem word_mod {l : Line} {i : Nat} (h : i < l.words.length) (f : LWord → LWord) : (l.mod i f).word i = f (l.word i) :=
  modifyAt_getD_same l.words i f {} h

@[simp] theorem mod_length (l : Line) (i : Nat) (f : LWord → LWord) : (l.mod i f).words.length = l.words.length :=
  modifyAt_length _ _ _

@[simp] theorem mod_is (l : Line) (i : Nat) (f : LWord → LWord) : (l.mod i f).is = l.is := rfl

@[simp] theorem write_data (w : LWord) (mask : BitVec 8) (v : Word) : (w.write mask v).data = mergeBytes mask v w.data := by
  unfold LWord.write
  dsimp only
  split <;> rfl

@[simp] theorem write_dirty (w : LWord) (mask : BitVec 8) (v : Word) : (w.write mask v).dirty = w.dirty ||| mask := by
  unfold LWord.write
  dsimp only
  split <;> rfl

/-! ### Lines by their names -/

theorem lineIs_iff {l : Line} {c o n : Nat} : l.is c o n = true ↔ l.ctx = c ∧ l.obj = o ∧ l.ln = n := by
  simp [Line.is, and_assoc]

theorem lineIs_self (l : Line) : l.is l.ctx l.obj l.ln = true := lineIs_iff.mpr ⟨rfl, rfl, rfl⟩

/-- R385: a line whose errors have been met where it is the one accessed. -/
def Line.met (c o n : Nat) (l : Line) : Line := if l.is c o n then l.meet else l

@[simp] theorem met_is (c o n : Nat) (l : Line) : (l.met c o n).is = l.is := by
  unfold Line.met
  split <;> rfl

@[simp] theorem met_length (c o n : Nat) (l : Line) : (l.met c o n).words.length = l.words.length := by
  unfold Line.met
  split <;> simp

theorem met_of_is {c o n : Nat} {l : Line} (h : l.is c o n = true) : l.met c o n = l.meet := if_pos h
theorem met_of_not {c o n : Nat} {l : Line} (h : l.is c o n = false) : l.met c o n = l := by simp [Line.met, h]

/-- R385: a word without an error is as it was. -/
theorem meet_word_of_clean {w : LWord} (hs : w.soft = false) (hw : w.weak = false) : w.meet = w := by
  cases w
  simp_all [LWord.meet]

theorem meet_of_clean {l : Line} (hs : l.softs = 0) (hw : l.weaks = 0) : l.meet = l := by
  simp only [Line.softs, Line.weaks, List.length_eq_zero_iff, List.filter_eq_nil_iff, Bool.not_eq_true] at hs hw
  have hwords : l.words.map LWord.meet = l.words :=
    (List.map_congr_left (g := id) fun w hm => meet_word_of_clean (hs w hm) (hw w hm)).trans (List.map_id _)
  simp [Line.meet, hwords]

variable {ls : List Line} {c o n : Nat} {l : Line}

theorem findLine_is (h : findLine ls c o n = some l) : l.is c o n = true := by simpa using List.find?_some h

theorem findLine_mem (h : findLine ls c o n = some l) : l ∈ ls := List.mem_of_find?_eq_some h

/-- A change of the lines that keeps their names. -/
theorem findLine_map {g : Line → Line} (hg : ∀ l, (g l).is = l.is) : findLine (ls.map g) c o n = (findLine ls c o n).map g := by
  simp only [findLine, List.find?_map, Function.comp_def, hg]

/-! ### A line placed (R235, R239) -/

variable (setOf : Line → Nat)

/-- The line that gives way to another is one of those that stood there under another name. -/
theorem placeLine_out {v : Line} (h : (placeLine setOf ls l).2 = some v) : v ∈ ls ∧ v.is l.ctx l.obj l.ln = false := by
  unfold placeLine at h
  dsimp only at h
  split at h
  · cases h
  · split at h
    · cases h
    · rename_i u hlast
      cases h
      have hmem := List.mem_of_getLast? hlast
      simp only [List.mem_filter, Bool.not_eq_true'] at hmem
      exact hmem.1

theorem placeLine_mem {m : Line} (h : m ∈ (placeLine setOf ls l).1) : m = l ∨ m ∈ ls := by
  unfold placeLine at h
  dsimp only at h
  split at h
  · simp only [List.mem_cons, List.mem_filter] at h
    exact h.imp id And.left
  · split at h
    · simp only [List.mem_cons, List.mem_filter] at h
      exact h.imp id And.left
    · simp only [List.mem_cons, List.mem_filter] at h
      exact h.imp id fun h => h.1.1

theorem placeLine_find (ls : List Line) (l : Line) : findLine (placeLine setOf ls l).1 l.ctx l.obj l.ln = some l := by
  unfold placeLine
  dsimp only
  split
  · exact List.find?_cons_of_pos (lineIs_self l)
  · split <;> exact List.find?_cons_of_pos (lineIs_self l)

end Sys2Proof.Machine
end

section
/-! SUPPORT. What the caches of a tile leave alone: fills, write-backs and their notices keep all that a home decides by
(R235-R240, R292). -/

namespace Sys2Proof.Machine

/-! ### What a home decides by (R292) -/

/-- A tile but for its caches, its translations and directory records, its numbers, its error counts and its slots. -/
def Tile.home (x : Tile) : Tile :=
  { x with slots := [], seqTo := [], ordN := 0, l1 := [], slices := [], tlb := [], odc := [], errs := {}, corrRow := [], uncRows := [] }

/-- What the caches of tile `t` leave alone. -/
structure State.KeepsHome (t : Nat) (s u : State) : Prop where
  tile : (u.tile t).home = (s.tile t).home
  others : u.tiles.filter (fun e => e.1 != t) = s.tiles.filter (fun e => e.1 != t)
  objects : u.objects = s.objects
  homeMap : u.homeMap = s.homeMap

/-- What leaves the lines of tile `t` alone as well. -/
structure State.Quiet (t : Nat) (s u : State) : Prop extends s.KeepsHome t u where
  l1 : (u.tile t).l1 = (s.tile t).l1
  slices : (u.tile t).slices = (s.tile t).slices

theorem filter_put {α : Type} (m : Map α) (k : Nat) (v : α) :
    (m.put k v).filter (fun e => e.1 != k) = m.filter (fun e => e.1 != k) := by
  induction m with
  | nil => simp [Map.put]
  | cons e m ih =>
    obtain ⟨j, u⟩ := e
    simp only [Map.put]
    split
    · simp
    · split
      · rename_i hjk
        subst hjk
        simp
      · simp [List.filter_cons, ih]

namespace State.KeepsHome
variable {t : Nat} {s u v : State}

theorem refl (s : State) : s.KeepsHome t s := ⟨rfl, rfl, rfl, rfl⟩

theorem trans (h : s.KeepsHome t u) (h' : u.KeepsHome t v) : s.KeepsHome t v :=
  ⟨h'.tile.trans h.tile, h'.others.trans h.others, h'.objects.trans h.objects, h'.homeMap.trans h.homeMap⟩

theorem foldl {α : Type} {f : State → α → State} (h : ∀ (s : State) a, s.KeepsHome t (f s a)) (l : List α) (s : State) :
    s.KeepsHome t (l.foldl f s) := by
  induction l generalizing s with
  | nil => exact refl s
  | cons a l ih => exact (h s a).trans (ih _)

theorem setTile {x : Tile} (h : x.home = (s.tile t).home) : s.KeepsHome t (s.setTile t x) :=
  ⟨by rw [tile_setTile_same, h], filter_put _ _ _, rfl, rfl⟩

theorem modTile {f : Tile → Tile} (h : ∀ x, (f x).home = x.home) : s.KeepsHome t (s.modTile t f) := setTile (h _)

theorem modSlot (k : Nat) (f : Slot → Slot) : s.KeepsHome t (s.modSlot t k f) := modTile fun _ => rfl

end State.KeepsHome

namespace State.Quiet
variable {t : Nat} {s u v : State}

theorem refl (s : State) : s.Quiet t s := ⟨.refl s, rfl, rfl⟩

theorem trans (h : s.Quiet t u) (h' : u.Quiet t v) : s.Quiet t v :=
  ⟨h.toKeepsHome.trans h'.toKeepsHome, h'.l1.trans h.l1, h'.slices.trans h.slices⟩

theorem foldl {α : Type} {f : State → α → State} (h : ∀ (s : State) a, s.Quiet t (f s a)) (l : List α) (s : State) :
    s.Quiet t (l.foldl f s) := by
  induction l generalizing s with
  | nil => exact refl s
  | cons a l ih => exact (h s a).trans (ih _)

theorem modTile {f : Tile → Tile} (h : ∀ x, (f x).home = x.home) (hl : ∀ x, (f x).l1 = x.l1) (hs : ∀ x, (f x).slices = x.slices) :
    s.Quiet t (s.modTile t f) :=
  ⟨.modTile h, by rw [tile_modTile_same, hl], by rw [tile_modTile_same, hs]⟩

theorem modMem (f : Mem → Mem) : s.Quiet t (s.modMem f) := ⟨⟨rfl, rfl, rfl, rfl⟩, rfl, rfl⟩

theorem modSlot (k : Nat) (f : Slot → Slot) : s.Quiet t (s.modSlot t k f) := modTile (fun _ => rfl) (fun _ => rfl) (fun _ => rfl)

end State.Quiet

theorem send_others (s : State) (p : Packet) :
    (s.send p).tiles.filter (fun e => e.1 != p.src) = s.tiles.filter (fun e => e.1 != p.src) := by
  unfold State.send
  dsimp only
  split
  · exact filter_put _ _ _
  · rfl

section
variable (s : State) (t : Nat)

theorem quiet_send {p : Packet} (h : p.src = t) : s.Quiet t (s.send p) := by
  subst h
  have hshape := send_shape s p
  have hobjects : (s.send p).objects = s.objects := (congrArg State.objects hshape).trans rfl
  have hhomes : (s.send p).homeMap = s.homeMap := (congrArg State.homeMap hshape).trans rfl
  rcases send_tile s p p.src with htile | ⟨-, m, n, f, -, htile⟩
  · exact ⟨⟨congrArg _ htile, send_others s p, hobjects, hhomes⟩, congrArg _ htile, congrArg _ htile⟩
  · exact ⟨⟨(congrArg Tile.home htile).trans rfl, send_others s p, hobjects, hhomes⟩, (congrArg Tile.l1 htile).trans rfl,
      (congrArg Tile.slices htile).trans rfl⟩

theorem quiet_mergeNotice (l : Line) (i : Nat) : s.Quiet t (s.mergeNotice t l i) := quiet_send s t rfl

theorem quiet_countDram (soft weak : List Nat) : s.Quiet t (s.countDram t soft weak) :=
  .modTile (fun _ => rfl) (fun _ => rfl) (fun _ => rfl)

theorem quiet_countSram (soft weak : Nat) : s.Quiet t (s.countSram t soft weak) :=
  .modTile (fun _ => rfl) (fun _ => rfl) (fun _ => rfl)

theorem quiet_meetDram (key n : Nat) : s.Quiet t (s.meetDram t key n) := by
  unfold State.meetDram
  split
  · exact .refl s
  · exact (quiet_countDram s t _ _).trans (.modMem _)

/-- R291: a use of the extent TLB. -/
theorem tlbUse_eq (x : Tile) (l : Line) : ∃ T, x.tlbUse l = { x with tlb := T } := by
  unfold Tile.tlbUse
  split
  · exact ⟨_, rfl⟩
  · exact ⟨_, rfl⟩

theorem quiet_modTlb {f : Tile → Tile} (h : ∀ x, ∃ T, f x = { x with tlb := T }) : s.Quiet t (s.modTile t f) :=
  .modTile (fun x => by obtain ⟨T, h⟩ := h x; rw [h]; rfl) (fun x => by obtain ⟨T, h⟩ := h x; rw [h])
    (fun x => by obtain ⟨T, h⟩ := h x; rw [h])

/-- R239: a line written to DRAM leaves the lines of its tile. -/
theorem quiet_sliceOut (l : Line) : s.Quiet t (s.sliceOut t l) := by
  unfold State.sliceOut
  split
  · exact .refl s
  · refine State.Quiet.trans ?_ (.foldl (fun s i => quiet_mergeNotice s t l i) _ _)
    refine State.Quiet.trans ?_ (.modMem _)
    refine State.Quiet.trans ?_ (quiet_modTlb _ t fun x => ?_)
    · split
      · exact .refl s
      · exact quiet_countDram s t _ _
    · split
      · exact tlbUse_eq x l
      · exact ⟨x.tlb, rfl⟩

/-- R239: a line read from DRAM likewise. -/
theorem quiet_readLine (l : Line) : s.Quiet t (s.readLine t l).1 := by
  have hmet (key : Nat) : s.Quiet t ((s.modTile t (fun x => x.tlbUse l)).meetDram t key 8) :=
    (quiet_modTlb s t (tlbUse_eq · l)).trans (quiet_meetDram _ t _ _)
  unfold State.readLine
  split
  · exact .refl s
  · dsimp only
    split
    · split <;> exact hmet _
    · exact hmet _

end

end Sys2Proof.Machine
end

section
/-! SUPPORT. What the caches of a tile hold after a fill, a write-back or a store, and the word that the home reads (R235-R239). -/

namespace Sys2Proof.Machine

section
variable (s : State) (t c o n : Nat)

/-! ### Errors met (R385) -/

theorem meetLine_tile : ∃ E, (s.meetLine t c o n).tile t =
    { s.tile t with errs := E, l1 := (s.tile t).l1.map (Line.met c o n), slices := (s.tile t).slices.map (Line.met c o n) } := by
  unfold State.meetLine
  dsimp only
  split
  · rename_i hnone
    have hmet {l : Line} (hl : l ∈ (s.tile t).l1 ++ (s.tile t).slices) : l.met c o n = l := by
      cases his : l.is c o n with
      | false => exact met_of_not his
      | true =>
        have hclean := List.filter_eq_nil_iff.mp (List.isEmpty_iff.mp hnone) l hl
        simp only [his, Bool.true_and, Bool.or_eq_true, bne_iff_ne, not_or, not_not] at hclean
        rw [met_of_is his, meet_of_clean hclean.1 hclean.2]
    have hall {ls : List Line} (h : ∀ l ∈ ls, l.met c o n = l) : ls.map (Line.met c o n) = ls :=
      (List.map_congr_left (g := id) h).trans (List.map_id _)
    refine ⟨(s.tile t).errs, ?_⟩
    rw [hall fun l hl => hmet (List.mem_append_left _ hl), hall fun l hl => hmet (List.mem_append_right _ hl)]
  · exact ⟨_, by rw [tile_modTile_same, State.countSram, tile_modTile_same]; rfl⟩

theorem meetLine_l1 : ((s.meetLine t c o n).tile t).l1 = (s.tile t).l1.map (Line.met c o n) := by
  obtain ⟨E, h⟩ := meetLine_tile s t c o n
  rw [h]

theorem meetLine_slices : ((s.meetLine t c o n).tile t).slices = (s.tile t).slices.map (Line.met c o n) := by
  obtain ⟨E, h⟩ := meetLine_tile s t c o n
  rw [h]

theorem meetLine_shape : s.meetLine t c o n = { s with tiles := (s.meetLine t c o n).tiles } := by
  unfold State.meetLine
  dsimp only
  split <;> rfl

theorem meetLine_keepsHome : s.KeepsHome t (s.meetLine t c o n) := by
  unfold State.meetLine
  dsimp only
  split
  · exact .refl s
  · exact (quiet_countSram s t _ _).toKeepsHome.trans (.modTile fun _ => rfl)

/-! ### A line in its slice (R239) -/

/-- The words of a line as DRAM holds them. -/
def State.dramWords (l : Line) : List LWord :=
  match s.lineKey t l with
  | none => List.replicate 8 {}
  | some key => match s.object l.ctx l.obj with
    | some ob => if ob.place = 3 then
        (s.mem.lineWords key).zipIdx.map fun e => { e.1 with data := s.mem.word (codeKey l.ctx l.obj (l.ln * 64 + 8 * e.2)) }
      else s.mem.lineWords key
    | none => s.mem.lineWords key

theorem dramWords_length (l : Line) : (s.dramWords t l).length = 8 := by
  have hwords (key : Nat) : (s.mem.lineWords key).length = 8 := by simp [Mem.lineWords]
  unfold State.dramWords
  split
  · rfl
  · split
    · split
      · simp [hwords]
      · exact hwords _
    · exact hwords _

theorem word_of_cells {m m' : Mem} (h : m.cells = m'.cells) (a : Nat) : m.word a = m'.word a := by
  simp only [Mem.word, Mem.byte, h]

theorem meet_cells (m : Mem) (a k : Nat) : (m.meet a k).cells = m.cells := by
  have hfold (l : List Nat) (m : Mem) : (l.foldl (fun m c => m.setPoison c true) m).cells = m.cells := by
    induction l generalizing m with
    | nil => rfl
    | cons c l ih => exact (ih _).trans rfl
  exact hfold _ _

theorem meetDram_cells (key k : Nat) : (s.meetDram t key k).mem.cells = s.mem.cells := by
  unfold State.meetDram
  split
  · rfl
  · exact meet_cells _ _ _

theorem readLine_words (l : Line) : (s.readLine t l).2 = s.dramWords t l := by
  cases hkey : s.lineKey t l with
  | none => simp only [State.readLine, State.dramWords, hkey]
  | some key =>
    have hquiet := (quiet_modTlb s t (tlbUse_eq · l)).trans (quiet_meetDram _ t key 8)
    have hobj : ((s.modTile t (fun x => x.tlbUse l)).meetDram t key 8).object l.ctx l.obj = s.object l.ctx l.obj := by
      rw [State.object, hquiet.objects, State.object]
    have hword (a : Nat) : ((s.modTile t (fun x => x.tlbUse l)).meetDram t key 8).mem.word a = s.mem.word a :=
      word_of_cells (meetDram_cells _ t key 8) a
    simp only [State.readLine, State.dramWords, hkey, hobj, hword]
    cases s.object l.ctx l.obj with
    | none => rfl
    | some ob => dsimp only; split <;> rfl

/-- R239: the line that the slice holds once it has been brought in. -/
def State.sliceLine (uo : Bool) : Line :=
  match findLine (s.tile t).slices c o n with
  | some l => l.met c o n
  | none =>
    let l : Line := { ctx := c, obj := o, ln := n, uo := uo, words := [] }
    { l with words := (s.meetLine t c o n).dramWords t l }

theorem sliceLine_is (uo : Bool) : (s.sliceLine t c o n uo).is c o n = true := by
  unfold State.sliceLine
  split
  · rename_i l h
    rw [met_is]
    exact findLine_is h
  · exact lineIs_iff.mpr ⟨rfl, rfl, rfl⟩

/-- R239: a fill of the slice places its line; a line that gives way goes to DRAM. -/
theorem sliceIn_eq (uo : Bool) : ∃ u, (s.meetLine t c o n).Quiet t u ∧
    (u.setTile t { u.tile t with
      slices := (placeLine sliceSet (u.tile t).slices (s.sliceLine t c o n uo)).1 }).Quiet t (s.sliceIn t c o n uo) := by
  have place (u : State) (l : Line) : (u.setTile t { u.tile t with slices := (placeLine sliceSet (u.tile t).slices l).1 }).Quiet t
      (match placeLine sliceSet (u.tile t).slices l with
       | (ls, out) => match out with
         | none => u.setTile t { u.tile t with slices := ls }
         | some v => (u.setTile t { u.tile t with slices := ls }).sliceOut t v) := by
    cases placeLine sliceSet (u.tile t).slices l with
    | mk ls out => cases out with
      | none => exact .refl _
      | some v => exact quiet_sliceOut _ t v
  have hfind : findLine ((s.meetLine t c o n).tile t).slices c o n = (findLine (s.tile t).slices c o n).map (Line.met c o n) := by
    rw [meetLine_slices, findLine_map (met_is c o n)]
  unfold State.sliceIn State.sliceLine
  dsimp only
  rw [hfind]
  cases findLine (s.tile t).slices c o n with
  | some l => exact ⟨s.meetLine t c o n, .refl _, place (s.meetLine t c o n) (l.met c o n)⟩
  | none =>
    have hquiet := quiet_readLine (s.meetLine t c o n) t { ctx := c, obj := o, ln := n, uo := uo, words := [] }
    dsimp only
    rw [← readLine_words]
    cases hread : (s.meetLine t c o n).readLine t { ctx := c, obj := o, ln := n, uo := uo, words := [] } with
    | mk u ws =>
      rw [hread] at hquiet
      exact ⟨u, hquiet, place u _⟩

theorem sliceIn_keepsHome (uo : Bool) : s.KeepsHome t (s.sliceIn t c o n uo) := by
  obtain ⟨u, hread, hplace⟩ := sliceIn_eq s t c o n uo
  have hset : u.KeepsHome t (u.setTile t { u.tile t with
      slices := (placeLine sliceSet (u.tile t).slices (s.sliceLine t c o n uo)).1 }) := .setTile rfl
  exact (meetLine_keepsHome s t c o n).trans (hread.toKeepsHome.trans (hset.trans hplace.toKeepsHome))

theorem sliceIn_l1 (uo : Bool) : ((s.sliceIn t c o n uo).tile t).l1 = (s.tile t).l1.map (Line.met c o n) := by
  obtain ⟨u, hread, hplace⟩ := sliceIn_eq s t c o n uo
  rw [hplace.l1, tile_setTile_same, ← meetLine_l1, ← hread.l1]

theorem sliceIn_slices (uo : Bool) : ((s.sliceIn t c o n uo).tile t).slices =
    (placeLine sliceSet ((s.tile t).slices.map (Line.met c o n)) (s.sliceLine t c o n uo)).1 := by
  obtain ⟨u, hread, hplace⟩ := sliceIn_eq s t c o n uo
  rw [hplace.slices, tile_setTile_same, ← meetLine_slices, ← hread.slices]

/-- R239: the slice holds the line that a fill brings in. -/
theorem sliceIn_find (uo : Bool) : findLine ((s.sliceIn t c o n uo).tile t).slices c o n = some (s.sliceLine t c o n uo) := by
  obtain ⟨hc, ho, hn⟩ := lineIs_iff.mp (sliceLine_is s t c o n uo)
  have hfind := placeLine_find sliceSet ((s.tile t).slices.map (Line.met c o n)) (s.sliceLine t c o n uo)
  rw [hc, ho, hn] at hfind
  rw [sliceIn_slices, hfind]

theorem sliceLine_length {uo : Bool} (h : (s.tile t).LinesOk) : (s.sliceLine t c o n uo).words.length = 8 := by
  unfold State.sliceLine
  split
  · rename_i l hfind
    rw [met_length]
    exact h l (Or.inr (findLine_mem hfind))
  · exact dramWords_length _ t _

/-! ### Lines of eight words (R235) -/

theorem quiet_linesOk {s u : State} {t : Nat} (hq : s.Quiet t u) (h : (s.tile t).LinesOk) : (u.tile t).LinesOk := by
  unfold Tile.LinesOk
  rw [hq.l1, hq.slices]
  exact h

theorem met_linesOk {ls : List Line} (h : ∀ l ∈ ls, l.words.length = 8) : ∀ l ∈ ls.map (Line.met c o n), l.words.length = 8 := by
  intro l hl
  obtain ⟨m, hm, rfl⟩ := List.mem_map.mp hl
  rw [met_length]
  exact h m hm

theorem meetLine_linesOk (h : (s.tile t).LinesOk) : ((s.meetLine t c o n).tile t).LinesOk := by
  unfold Tile.LinesOk
  rw [meetLine_l1, meetLine_slices]
  rintro l (hl | hl)
  · exact met_linesOk c o n (fun m hm => h m (Or.inl hm)) l hl
  · exact met_linesOk c o n (fun m hm => h m (Or.inr hm)) l hl

theorem sliceIn_linesOk (uo : Bool) (h : (s.tile t).LinesOk) : ((s.sliceIn t c o n uo).tile t).LinesOk := by
  unfold Tile.LinesOk
  rw [sliceIn_l1, sliceIn_slices]
  rintro l (hl | hl)
  · exact met_linesOk c o n (fun m hm => h m (Or.inl hm)) l hl
  · rcases placeLine_mem sliceSet hl with rfl | hl
    · exact sliceLine_length s t c o n h
    · exact met_linesOk c o n (fun m hm => h m (Or.inr hm)) l hl

/-! ### The L1 written back (R238) -/

/-- The words of the slice's line with the dirty bytes of the L1's. -/
def Line.takeAll (m l : Line) : Line := { m with words := (m.words.zip l.words).map (fun p => p.1.take p.2) }

/-- R238: the slice with the words of an L1 line. -/
def State.takeLine (l : Line) : State := (s.sliceIn t l.ctx l.obj l.ln l.uo).modTile t (fun x => { x with
  slices := x.slices.map (fun m => if m.is l.ctx l.obj l.ln then m.takeAll l else m) })

theorem takeLine_keepsHome (l : Line) : s.KeepsHome t (s.takeLine t l) := by
  refine (sliceIn_keepsHome s t l.ctx l.obj l.ln l.uo).trans ?_
  exact .modTile fun _ => rfl

/-- R238: the write-back of a dirty L1 line. -/
theorem l1Out_dirty (l : Line) (hd : l.isDirty = true) : (s.takeLine t l).Quiet t (s.l1Out t l) := by
  unfold State.l1Out
  simp only [hd, Bool.not_true, Bool.false_eq_true, if_false]
  exact .foldl (fun s i => quiet_mergeNotice s t l i) _ _

theorem l1Out_clean (l : Line) (hd : l.isDirty = false) : s.l1Out t l = s := by simp [State.l1Out, hd]

theorem l1Out_keepsHome (l : Line) : s.KeepsHome t (s.l1Out t l) := by
  cases hd : l.isDirty with
  | false => rw [l1Out_clean s t l hd]; exact .refl s
  | true => exact (takeLine_keepsHome s t l).trans (l1Out_dirty s t l hd).toKeepsHome

/-- R238: the write-back of a line leaves the others of the L1. -/
theorem l1Out_find {v : Line} (h : v.is c o n = false) : findLine ((s.l1Out t v).tile t).l1 c o n = findLine (s.tile t).l1 c o n := by
  cases hd : v.isDirty with
  | false => rw [l1Out_clean s t v hd]
  | true =>
    rw [(l1Out_dirty s t v hd).l1, State.takeLine, tile_modTile_same]
    dsimp only
    rw [sliceIn_l1, findLine_map (met_is _ _ _)]
    cases hfind : findLine (s.tile t).l1 c o n with
    | none => rfl
    | some l =>
      obtain ⟨rfl, rfl, rfl⟩ := lineIs_iff.mp (findLine_is hfind)
      have hother : l.is v.ctx v.obj v.ln = false := Bool.eq_false_iff.mpr fun hl => by
        obtain ⟨hc, ho, hn⟩ := lineIs_iff.mp hl
        rw [hc, ho, hn, lineIs_self] at h
        cases h
      exact congrArg some (met_of_not hother)

theorem l1Out_linesOk {l : Line} (hl : l.words.length = 8) (h : (s.tile t).LinesOk) : ((s.l1Out t l).tile t).LinesOk := by
  cases hd : l.isDirty with
  | false => rw [l1Out_clean s t l hd]; exact h
  | true =>
    have hin := sliceIn_linesOk s t l.ctx l.obj l.ln l.uo h
    refine quiet_linesOk (l1Out_dirty s t l hd) ?_
    unfold Tile.LinesOk
    rw [State.takeLine, tile_modTile_same]
    dsimp only
    rintro m (hm | hm)
    · exact hin m (Or.inl hm)
    · obtain ⟨m', hm', rfl⟩ := List.mem_map.mp hm
      have hlen := hin m' (Or.inr hm')
      split
      · simp [Line.takeAll, hlen, hl]
      · exact hlen

/-! ### A line placed in the L1 (R235) -/

theorem l1Put_eq (l : Line) : s.l1Put t l = s.setTile t { s.tile t with l1 := (placeLine l1Set (s.tile t).l1 l).1 } ∨
    ∃ v ∈ (s.tile t).l1, v.is l.ctx l.obj l.ln = false ∧
      s.l1Put t l = (s.setTile t { s.tile t with l1 := (placeLine l1Set (s.tile t).l1 l).1 }).l1Out t v := by
  have hout (v : Line) := placeLine_out (v := v) (ls := (s.tile t).l1) (l := l) l1Set
  unfold State.l1Put
  dsimp only
  cases hplace : placeLine l1Set (s.tile t).l1 l with
  | mk ls out => cases out with
    | none => exact Or.inl rfl
    | some v =>
      obtain ⟨hmem, hother⟩ := hout v (by rw [hplace])
      exact Or.inr ⟨v, hmem, hother, rfl⟩

theorem l1Put_keepsHome (l : Line) : s.KeepsHome t (s.l1Put t l) := by
  have hset : s.KeepsHome t (s.setTile t { s.tile t with l1 := (placeLine l1Set (s.tile t).l1 l).1 }) := .setTile rfl
  rcases l1Put_eq s t l with h | ⟨v, -, -, h⟩ <;> rw [h]
  · exact hset
  · exact hset.trans (l1Out_keepsHome _ t v)

/-- R235: the L1 holds the line that has been placed there. -/
theorem l1Put_find {l : Line} (hl : l.is c o n = true) : findLine ((s.l1Put t l).tile t).l1 c o n = some l := by
  obtain ⟨rfl, rfl, rfl⟩ := lineIs_iff.mp hl
  have hset : findLine ((s.setTile t { s.tile t with l1 := (placeLine l1Set (s.tile t).l1 l).1 }).tile t).l1 l.ctx l.obj l.ln = some l := by
    rw [tile_setTile_same]
    exact placeLine_find l1Set _ l
  rcases l1Put_eq s t l with h | ⟨v, -, hother, h⟩ <;> rw [h]
  · exact hset
  · exact (l1Out_find _ t _ _ _ hother).trans hset

theorem l1Put_linesOk {l : Line} (hl : l.words.length = 8) (h : (s.tile t).LinesOk) : ((s.l1Put t l).tile t).LinesOk := by
  have hset : ((s.setTile t { s.tile t with l1 := (placeLine l1Set (s.tile t).l1 l).1 }).tile t).LinesOk := by
    rw [tile_setTile_same]
    rintro m (hm | hm)
    · rcases placeLine_mem l1Set hm with rfl | hm
      · exact hl
      · exact h m (Or.inl hm)
    · exact h m (Or.inr hm)
  rcases l1Put_eq s t l with heq | ⟨v, hv, -, heq⟩ <;> rw [heq]
  · exact hset
  · exact l1Out_linesOk _ t (h v (Or.inl hv)) hset

end
end Sys2Proof.Machine
end

section
/-! SUPPORT. The word that a home reads: by its L1, filled from its slice, or in the slice (R236, R237). -/

namespace Sys2Proof.Machine

section
variable {s : State} {t ctx : Nat} {a : Word}

/-! ### A merging fill (R237) -/

/-- R237: a word of the L1 with what memory has of the bytes it lacks. -/
def LWord.filled (w v : LWord) : LWord :=
  if w.valid then w else { w with data := mergeBytes w.dirty w.data v.data, valid := true, poison := v.poison }

def Line.filled (l src : Line) : Line := { l with words := (l.words.zip src.words).map (fun p => p.1.filled p.2) }

theorem filled_word {l src : Line} {i : Nat} (hl : i < l.words.length) (hsrc : i < src.words.length) :
    (l.filled src).word i = (l.word i).filled (src.word i) := by
  simp [Line.word, Line.filled, List.getD_eq_getElem?_getD, hl, hsrc]

theorem l1Fill_find {l : Line} {uo : Bool} (h : findLine (s.tile t).l1 ctx (objOf a) (lineNo a) = some l) :
    findLine ((s.l1Fill t ctx a uo).tile t).l1 ctx (objOf a) (lineNo a) =
      some ((l.met ctx (objOf a) (lineNo a)).filled (s.sliceLine t ctx (objOf a) (lineNo a) uo)) := by
  have hl1 : findLine ((s.sliceIn t ctx (objOf a) (lineNo a) uo).tile t).l1 ctx (objOf a) (lineNo a) =
      some (l.met ctx (objOf a) (lineNo a)) := by
    rw [sliceIn_l1, findLine_map (met_is _ _ _), h]
    rfl
  unfold State.l1Fill
  dsimp only
  rw [sliceIn_find, hl1]
  have hfound := findLine_is hl1
  have his : ((l.met ctx (objOf a) (lineNo a)).filled (s.sliceLine t ctx (objOf a) (lineNo a) uo)).is ctx (objOf a) (lineNo a) = true :=
    hfound
  exact l1Put_find _ t _ _ _ his

/-! ### A read at the home (R236) -/

theorem meetLine_find (c o n : Nat) : findLine ((s.meetLine t c o n).tile t).l1 c o n = (findLine (s.tile t).l1 c o n).map Line.meet := by
  rw [meetLine_l1, findLine_map (met_is c o n)]
  cases h : findLine (s.tile t).l1 c o n with
  | none => rfl
  | some l => exact congrArg some (met_of_is (findLine_is h))

theorem view_hit {l : Line} (h : findLine (s.tile t).l1 ctx (objOf a) (lineNo a) = some l) (hv : (l.word (wordIdx a)).valid = true) :
    s.view t ctx a = (l.word (wordIdx a)).meet := by
  have hmet := meetLine_find (s := s) (t := t) ctx (objOf a) (lineNo a)
  rw [h] at hmet
  simp only [Option.map_some] at hmet
  simp only [State.view, State.homeRead, hmet, word_meet, meet_valid, hv, if_true]
  rw [l1Put_find _ t _ _ _ (findLine_is hmet)]
  exact word_meet _ _

theorem view_fill {l : Line} (h : findLine (s.tile t).l1 ctx (objOf a) (lineNo a) = some l) (hv : (l.word (wordIdx a)).valid = false) :
    s.view t ctx a = ((l.meet.met ctx (objOf a) (lineNo a)).filled
      ((s.meetLine t ctx (objOf a) (lineNo a)).sliceLine t ctx (objOf a) (lineNo a) l.uo)).word (wordIdx a) := by
  have hmet := meetLine_find (s := s) (t := t) ctx (objOf a) (lineNo a)
  rw [h] at hmet
  simp only [Option.map_some] at hmet
  simp only [State.view, State.homeRead, hmet, word_meet, meet_valid, hv, Bool.false_eq_true, if_false]
  rw [l1Fill_find hmet]
  rfl

theorem view_miss (h : findLine (s.tile t).l1 ctx (objOf a) (lineNo a) = none) :
    s.view t ctx a = ((s.meetLine t ctx (objOf a) (lineNo a)).sliceLine t ctx (objOf a) (lineNo a)
      ((s.meetLine t ctx (objOf a) (lineNo a)).uoOf ctx a)).word (wordIdx a) := by
  have hmet := meetLine_find (s := s) (t := t) ctx (objOf a) (lineNo a)
  rw [h] at hmet
  simp only [Option.map_none] at hmet
  simp only [State.view, State.homeRead, hmet, State.sliceWord, sliceIn_find]

theorem keeps_homeRead (s : State) (t ctx : Nat) (a : Word) : s.KeepsThreads (s.homeRead t ctx a).1 := by
  have hmet := keeps_meetLine s t ctx (objOf a) (lineNo a)
  cases hfind : findLine ((s.meetLine t ctx (objOf a) (lineNo a)).tile t).l1 ctx (objOf a) (lineNo a) with
  | none =>
    simp only [State.homeRead, hfind]
    exact hmet.trans (keeps_sliceIn _ t _ _ _ _)
  | some l =>
    simp only [State.homeRead, hfind]
    split
    · exact hmet.trans (keeps_l1Put _ t _)
    · exact hmet.trans (keeps_l1Fill _ t _ _ _)

/-! ### What a read depends on -/

/-- Two states in which the home `t` reads the same words. -/
structure State.SameLines (t : Nat) (s u : State) : Prop where
  l1 : (u.tile t).l1 = (s.tile t).l1
  slices : (u.tile t).slices = (s.tile t).slices
  tlb : (u.tile t).tlb = (s.tile t).tlb
  extents : (u.tile t).extents = (s.tile t).extents
  mem : u.mem = s.mem
  objects : u.objects = s.objects

variable {u : State}

theorem object_same (h : s.SameLines t u) (c o : Nat) : u.object c o = s.object c o := by rw [State.object, h.objects, State.object]

theorem dramWords_same (h : s.SameLines t u) (l : Line) : u.dramWords t l = s.dramWords t l := by
  have hkey : u.lineKey t l = s.lineKey t l := by
    simp only [State.lineKey, Tile.translate, Tile.extent, h.tlb, h.extents]
  simp only [State.dramWords, hkey, object_same h, h.mem]

theorem meetLine_same (h : s.SameLines t u) (c o n : Nat) : (s.meetLine t c o n).SameLines t (u.meetLine t c o n) := by
  obtain ⟨E, hs⟩ := meetLine_tile s t c o n
  obtain ⟨F, hu⟩ := meetLine_tile u t c o n
  refine ⟨?_, ?_, ?_, ?_, ?_, ?_⟩
  · simp only [hs, hu, h.l1]
  · simp only [hs, hu, h.slices]
  · simp only [hs, hu, h.tlb]
  · simp only [hs, hu, h.extents]
  · rw [meetLine_shape s, meetLine_shape u]; exact h.mem
  · rw [meetLine_shape s, meetLine_shape u]; exact h.objects

theorem sliceLine_same (h : s.SameLines t u) (c o n : Nat) (uo : Bool) : u.sliceLine t c o n uo = s.sliceLine t c o n uo := by
  simp only [State.sliceLine, h.slices, dramWords_same (meetLine_same h c o n)]

/-- R236, R237: the word that the home reads depends on its lines, its translations, memory and the objects alone. -/
theorem view_same (h : s.SameLines t u) (ctx : Nat) (a : Word) : u.view t ctx a = s.view t ctx a := by
  have hmet := meetLine_same h ctx (objOf a) (lineNo a)
  cases hfind : findLine (s.tile t).l1 ctx (objOf a) (lineNo a) with
  | none =>
    have hfind' : findLine (u.tile t).l1 ctx (objOf a) (lineNo a) = none := by rw [h.l1, hfind]
    rw [view_miss hfind, view_miss hfind', sliceLine_same hmet, State.uoOf, object_same hmet, State.uoOf]
  | some l =>
    have hfind' : findLine (u.tile t).l1 ctx (objOf a) (lineNo a) = some l := by rw [h.l1, hfind]
    cases hv : (l.word (wordIdx a)).valid with
    | true => rw [view_hit hfind hv, view_hit hfind' hv]
    | false => rw [view_fill hfind hv, view_fill hfind' hv, sliceLine_same hmet]

end

end Sys2Proof.Machine
end

section
/-! SUPPORT. Accesses of a thread at its own tile: where they go, when they are performed, and what loads leave (R58, R102-R104,
R111, R292). -/

namespace Sys2Proof.Machine

/-! ### Addresses and values (R58, R102, R111) -/

theorem fromInt_mul (x : Int) (n : Nat) : fromInt x * BitVec.ofNat 64 n = fromInt (x * n) := by
  simp [fromInt, BitVec.ofInt_mul]

/-- R102: the address of a format M access. -/
theorem addrM_fst {ext : List (BitVec 25)} (h : ext.length ≤ 2) (th : Thread) (b : Ptr) (m : Mode) (n : Nat) (f : BitVec 9) :
    (addrM th b m n ext f).1 = (memPlace th b m n (extInt ext f)).1 := by
  cases m <;> simp [addrM, memPlace, immWord_eq h, fromInt_mul]

/-- R102: the base that a format M access leaves. -/
theorem addrM_setBase {ext : List (BitVec 25)} (h : ext.length ≤ 2) (th : Thread) (b : Ptr) (m : Mode) (n : Nat) (f : BitVec 9) :
    th.setBase (addrM th b m n ext f).2 = (memPlace th b m n (extInt ext f)).2 := by
  cases m <;> simp [addrM, memPlace, Thread.setBase, immWord_eq h, fromInt_mul]

/-- R102: the address of an indexed form. -/
theorem addrX_eq (th : Thread) (b : Ptr) (x : Reg) (n : Nat) : addrX th b x n = th.regs.get b + fromInt ((th.reg x).toInt * n) := by
  rw [addrX, ← fromInt_mul, fromInt, BitVec.ofInt_toInt]

theorem offOf_mod (a : Word) : offOf a % 8 = a.toNat % 8 := by
  simp only [offOf, bits, Nat.shiftRight_zero]
  omega

theorem takeBytes_eq (a : Word) (n : Nat) (w : Word) : takeBytes (offOf a) n w = bytesAt a n w := by
  rw [takeBytes, offOf_mod, Nat.shiftRight_eq_div_pow, bytesAt]

/-- R111: a loaded number extended. -/
theorem extendLoad_eq (z : Size) (sx : Bool) {v : Nat} (h : v < 2 ^ (8 * sizeBytes z)) : extendLoad z sx v = loadedWord z sx v := by
  have hmod : v % 2 ^ (8 * sizeBytes z) = v := Nat.mod_eq_of_lt h
  cases sx with
  | false => simp [extendLoad, loadedWord, fromNat, hmod]
  | true =>
    by_cases hneg : 2 ^ (8 * sizeBytes z - 1) ≤ v
    · simp [extendLoad, loadedWord, fromInt, sext, hmod, hneg, Nat.not_lt.mpr hneg]
    · simp [extendLoad, loadedWord, fromInt, sext, hmod, hneg, Nat.lt_of_not_le hneg]

/-! ### Where an access goes (R103, R104, R292) -/

section
variable {s u : State} {t k ctx n : Nat} {a : Word} {ob : Object}

/-- R103: the checks of an access at its own tile raise nothing. -/
theorem reach_own (h : s.AtHome t ctx a n ob) {write : Bool} (hw : write = true → ob.isCode = false ∧ ob.writable = true)
    (peerOk : Bool) : s.reach t ctx a n write peerOk = .own ob := by
  have hin : ¬ ob.size < offOf a + n := Nat.not_lt.mpr h.inside
  have hperm : (write && (ob.isCode || !ob.writable)) = false := by
    cases write with
    | false => rfl
    | true => simp [hw rfl]
  rcases h.named with hhome | ⟨g, hhome⟩ <;> simp [State.reach, hhome, h.aligned, hin, hperm]

theorem access_own (h : s.AtHome t (s.memCtx t k) a n ob) {write : Bool}
    (hw : write = true → ob.isCode = false ∧ ob.writable = true) (peerOk : Bool) (own : Object → State → State)
    (remote : Object → Nat → Nat → State → State) (peer : Object → State → State) :
    s.access t k a n write peerOk own remote peer = own ob (s.odcUse t (s.memCtx t k) a) := by
  simp only [State.access, reach_own h hw]

/-- R292: a home takes accesses of a mapped granule and of replicated code. -/
theorem resid_of_gate {p : Bool} (h : s.gate t ctx a p = .go) : s.resid t ctx a = .code ∨ ∃ q, s.resid t ctx a = .page q := by
  cases hr : s.resid t ctx a with
  | code => exact Or.inl rfl
  | page q => exact Or.inr ⟨q, rfl⟩
  | draining => simp [State.gate, hr] at h
  | lost =>
    simp only [State.gate, hr] at h
    split at h <;> cases h
  | elsewhere =>
    simp only [State.gate, hr] at h
    split at h <;> cases h
  | absent =>
    simp only [State.gate, hr] at h
    split_ifs at h

/-- R292: an access that its home takes is taken too where it has been let go. -/
theorem gate_pass (h : s.gate t ctx a = .go) (p : Bool) : s.gate t ctx a p = .go := by
  cases p with
  | false => exact h
  | true => rcases resid_of_gate h with hr | ⟨q, hr⟩ <;> simp [State.gate, hr, Tile.holds]

/-- R292: what the caches leave alone decides how a home takes an access. -/
theorem gate_keepsHome (h : s.KeepsHome t u) (ctx : Nat) (a : Word) (p : Bool) : u.gate t ctx a p = s.gate t ctx a p := by
  have field {α : Type} (f : Tile → α) (hf : ∀ x, f x.home = f x) : f (u.tile t) = f (s.tile t) := by
    rw [← hf, h.tile, hf]
  have hobj (c o : Nat) : u.object c o = s.object c o := by rw [State.object, h.objects, State.object]
  have htrue : u.trueHome ctx a t = s.trueHome ctx a t := by
    unfold State.trueHome
    rw [hobj, h.homeMap]
  have hresid : u.resid t ctx a = s.resid t ctx a := by
    simp only [State.resid, hobj, htrue, field (·.extent ctx (objOf a) (granOf a)) fun _ => rfl, field Tile.lossy fun _ => rfl,
      field Tile.remapped fun _ => rfl]
  simp only [State.gate, hresid, field (·.holds ctx a p) fun _ => rfl, field (·.pendingOf ctx a) fun _ => rfl,
    field Tile.pendings fun _ => rfl]

theorem atHome_go (h : s.gate t ctx a = .go) (go : State → State) : s.atHome t k ctx a go = go s := by
  simp only [State.atHome, gate_pass h]

/-! ### The directory cache in use (R203) -/

theorem odcUse_keepsHome (s : State) (t ctx : Nat) (a : Word) : s.KeepsHome t (s.odcUse t ctx a) := .modTile fun _ => rfl

theorem odcUse_tile (s : State) (t ctx : Nat) (a : Word) : ∃ l, (s.odcUse t ctx a).tile t = { s.tile t with odc := l } :=
  ⟨_, tile_modTile_same s t _⟩

theorem odcUse_sameLines (s : State) (t ctx : Nat) (a : Word) : s.SameLines t (s.odcUse t ctx a) := by
  obtain ⟨l, h⟩ := odcUse_tile s t ctx a
  exact ⟨by rw [h], by rw [h], by rw [h], by rw [h], rfl, rfl⟩

theorem odcUse_slot (s : State) (t ctx : Nat) (a : Word) (j : Nat) : (s.odcUse t ctx a).slot t j = s.slot t j := by
  obtain ⟨l, h⟩ := odcUse_tile s t ctx a
  simp only [State.slot, Tile.slot, h]

theorem odcUse_slots (s : State) (t ctx : Nat) (a : Word) : ((s.odcUse t ctx a).tile t).slots = (s.tile t).slots := by
  obtain ⟨l, h⟩ := odcUse_tile s t ctx a
  rw [h]

theorem odcUse_memCtx (s : State) (t ctx : Nat) (a : Word) (k : Nat) : (s.odcUse t ctx a).memCtx t k = s.memCtx t k := by
  rw [State.memCtx, odcUse_slot]
  rfl

/-! ### Loads (R104, R111, R113) -/

/-- R104, R236: a load at its own tile takes the word that the home reads. -/
theorem loadHere_loaded (o : Object) (d : Reg) (z : Size) (sx : Bool) {nt : Bool} (base : Option (Ptr × Word))
    (hg : s.gate t (s.memCtx t k) a = .go) (hp : (s.view t (s.memCtx t k) a).poison = false)
    (hl : nt = true ∨ s.l1Has t (s.memCtx t k) a = true) :
    s.loadHere t k o a d z sx nt base =
      (s.homeRead t (s.memCtx t k) a).1.modSlot t k (fun sl => sl.loaded d z sx base a (s.view t (s.memCtx t k) a).data) := by
  have hhit : (!nt && !s.l1Has t (s.memCtx t k) a) = false := by rcases hl with h | h <;> simp [h]
  rw [State.view] at hp
  simp only [State.loadHere, atHome_go hg, hhit, hp, Bool.false_eq_true, if_false]
  rfl

/-- What a load leaves in its slot. -/
theorem loadHere_slot (o : Object) (d : Reg) (z : Size) (sx : Bool) {nt : Bool} (base : Option (Ptr × Word))
    (h : s.AtHome t (s.memCtx t k) a (sizeBytes z) ob) (hp : (s.view t (s.memCtx t k) a).poison = false)
    (hl : nt = true ∨ s.l1Has t (s.memCtx t k) a = true) (hk : k < (s.tile t).slots.length) :
    let u := (s.odcUse t (s.memCtx t k) a).loadHere t k o a d z sx nt base
    (u.slot t k).state = .ready ∧ (u.slot t k).th = { ((s.slot t k).th.setBase base).setReg d
      (loadedWord z sx (bytesAt a (sizeBytes z) (s.view t (s.memCtx t k) a).data)) with pc := (s.slot t k).ipc + 4#64 } := by
  have hview := view_same (odcUse_sameLines s t (s.memCtx t k) a) (s.memCtx t k) a
  have hread := keeps_homeRead (s.odcUse t (s.memCtx t k) a) t (s.memCtx t k) a t
  obtain ⟨hth, hipc⟩ := hread.2 k
  have hload := loadHere_loaded (s := s.odcUse t (s.memCtx t k) a) (t := t) (k := k) (a := a) o d z sx (nt := nt) base
  rw [odcUse_memCtx, hview, gate_keepsHome (odcUse_keepsHome s t _ a)] at hload
  have hhas : (s.odcUse t (s.memCtx t k) a).l1Has t (s.memCtx t k) a = s.l1Has t (s.memCtx t k) a := by
    simp only [State.l1Has, (odcUse_sameLines s t (s.memCtx t k) a).l1]
  intro u
  have hu : u = _ := hload h.resident hp (by rw [hhas]; exact hl)
  have hlt : bytesAt a (sizeBytes z) (s.view t (s.memCtx t k) a).data < 2 ^ (8 * sizeBytes z) := Nat.mod_lt _ (Nat.two_pow_pos _)
  rw [hu, slot_modSlot_same _ t k _ (by rw [hread.1, odcUse_slots]; exact hk)]
  refine ⟨rfl, ?_⟩
  simp only [Slot.loaded, Slot.finish, Slot.goto, hth, hipc, odcUse_slot, takeBytes_eq, extendLoad_eq z sx hlt]

end

/-! ### The forms (R102, R104) -/

section
variable {s : State} {a : Word} {ob : Object} {z : Size}

theorem load_own {t k : Nat} (h : s.AtHome t (s.memCtx t k) a (sizeBytes z) ob) (d : Reg) (sx nt : Bool) (base : Option (Ptr × Word)) :
    s.load t k a d z sx nt base = (s.odcUse t (s.memCtx t k) a).loadHere t k ob a d z sx nt base :=
  access_own (write := false) h nofun _ _ _ _

/-- An issued load that its own tile performs at once. -/
structure State.LoadsHere (s : State) (a : Word) (z : Size) (nt : Bool) (ob : Object) : Prop where
  home : s.AtHome s.cur.1 (s.memCtx s.cur.1 s.cur.2) a (sizeBytes z) ob
  clean : (s.view s.cur.1 (s.memCtx s.cur.1 s.cur.2) a).poison = false
  hit : nt = true ∨ s.l1Has s.cur.1 (s.memCtx s.cur.1 s.cur.2) a = true

/-- An issued load has ended: its slot goes on and thread `th` has the word in `d`. -/
def State.LoadEnds (s : State) (r : Out) (d : Reg) (z : Size) (a : Word) (th : Thread) : Prop :=
  ∃ t, r = .next t ∧ (t.slot s.cur.1 s.cur.2).state = .ready ∧ s.then_ t = { th.setReg d (loadedWord z s.curSlot.sx
    (bytesAt a (sizeBytes z) (s.view s.cur.1 (s.memCtx s.cur.1 s.cur.2) a).data)) with pc := s.following }

theorem loadHere_ends (hs : s.issuing = true) {nt : Bool} (h : s.LoadsHere a z nt ob) (d : Reg) (base : Option (Ptr × Word)) :
    s.LoadEnds (.next ((s.odcUse s.cur.1 (s.memCtx s.cur.1 s.cur.2) a).loadHere s.cur.1 s.cur.2 ob a d z s.curSlot.sx nt base))
      d z a (s.curSlot.th.setBase base) :=
  ⟨_, rfl, loadHere_slot ob d z s.curSlot.sx base h.home h.clean h.hit (issuing_slot hs).2.2⟩

theorem ld_ends (hs : s.issuing = true) (hext : s.curSlot.ext.length ≤ 2) (d : Reg) (b : Ptr) (m : Mode) (o : Sys2Proof.Order)
    (c : Scope) (f : BitVec 9) {a : Word} {th : Thread}
    (hp : memPlace s.curSlot.th b m (sizeBytes z) (extInt s.curSlot.ext f) = (a, th)) (h : s.LoadsHere a z s.curSlot.nt ob) :
    s.LoadEnds (exec (.ld d b z m o c f) s) d z a th := by
  have hexec : exec (.ld d b z m o c f) s = .next (s.load s.cur.1 s.cur.2 (addrM s.curSlot.th b m (sizeBytes z) s.curSlot.ext f).1 d z
    s.curSlot.sx s.curSlot.nt (addrM s.curSlot.th b m (sizeBytes z) s.curSlot.ext f).2) := by
    change execLd d b z m o c f s = _
    rw [execLd, onIssue_next s _ hs]
  have hbase := addrM_setBase hext s.curSlot.th b m (sizeBytes z) f
  rw [hp] at hbase
  dsimp only at hbase
  rw [hexec, addrM_fst hext, hp, load_own h.home, ← hbase]
  exact loadHere_ends hs h d _

theorem ldx_ends (hs : s.issuing = true) (d : Reg) (b : Ptr) (x : Reg) (o : Sys2Proof.Order) (c : Scope)
    (h : s.LoadsHere (s.curSlot.th.regs.get b + fromInt ((s.rd x).toInt * sizeBytes z)) z s.curSlot.nt ob) :
    s.LoadEnds (exec (.ldx d b x z o c) s) d z (s.curSlot.th.regs.get b + fromInt ((s.rd x).toInt * sizeBytes z)) s.curSlot.th := by
  have hexec : exec (.ldx d b x z o c) s = .next (s.load s.cur.1 s.cur.2 (addrX s.curSlot.th b x (sizeBytes z)) d z
    s.curSlot.sx s.curSlot.nt none) := by
    change execLdx d b x z o c s = _
    rw [execLdx, onIssue_next s _ hs]
  rw [hexec, addrX_eq, ← State.rd, load_own h.home]
  exact loadHere_ends hs h d none

theorem ldr_ends (hs : s.issuing = true) (hext : s.curSlot.ext.length ≤ 2) (d : Reg) (b : Ptr) (o : Sys2Proof.Order) (c : Scope)
    (f : BitVec 9) (h : s.LoadsHere (s.curSlot.th.regs.get b + fromInt (extInt s.curSlot.ext f * sizeBytes z)) z false ob) :
    s.LoadEnds (exec (.ldr d b z o c f) s) d z (s.curSlot.th.regs.get b + fromInt (extInt s.curSlot.ext f * sizeBytes z))
      s.curSlot.th := by
  let place := s.curSlot.th.regs.get b + immWord s.curSlot.ext f * BitVec.ofNat 64 (sizeBytes z)
  have hexec : exec (.ldr d b z o c f) s = .next (s.access s.cur.1 s.cur.2 place (sizeBytes z) false false
    (fun o s' => s'.loadHere s.cur.1 s.cur.2 o place d z s.curSlot.sx false none)
    (fun _ t' g s' => s'.remoteRead s.cur.1 s.cur.2 t' g place d z s.curSlot.sx none false) (fun _ s' => s')) := by
    change execLdr d b z o c f s = _
    rw [execLdr, onIssue_next s _ hs]
  rw [← fromInt_mul, ← immWord_eq hext] at h ⊢
  rw [hexec, access_own (write := false) h.home nofun]
  exact loadHere_ends hs h d none

/-- Settles O13: the access is the thread's own tile's, whose gate takes it, so that each form ends with the word the home reads. -/
theorem loadResults : Obligations.LoadResults := by
  intro s d b x z m o c f ob hs hext
  exact ⟨fun ⟨hhome, hclean, hhit⟩ => ld_ends hs hext d b m o c f rfl ⟨hhome, hclean, hhit⟩,
    fun ⟨hhome, hclean, hhit⟩ => ldx_ends hs d b x o c ⟨hhome, hclean, hhit⟩,
    fun ⟨hhome, hclean, hhit⟩ => ldr_ends hs hext d b o c f ⟨hhome, hclean, hhit⟩⟩

end

end Sys2Proof.Machine
end

section
/-! SUPPORT. The bytes of a word after a store (R102, R111, R237). -/

namespace Sys2Proof.Machine

/-! ### Bytes under a mask (R111) -/

theorem byteOnes_bit {m i : Nat} (hi : i < 64) : (0xFF#64 <<< (8 * m)).getLsbD i = decide (i / 8 = m) := by
  have hones (j : Nat) : (0xFF#64).getLsbD j = decide (j < 8) := by
    have h : (0xFF#64 : Word) = BitVec.ofNat 64 (2 ^ 8 - 1) := rfl
    rw [h, BitVec.getLsbD_ofNat, Nat.testBit_two_pow_sub_one]
    by_cases hj : j < 8 <;> simp [hj]
    omega
  rw [BitVec.getLsbD_shiftLeft, hones, Bool.eq_iff_iff]
  simp only [hi, decide_true, Bool.true_and, Bool.and_eq_true, Bool.not_eq_true', decide_eq_false_iff_not, decide_eq_true_eq]
  omega

theorem mergeByte_bit (m : Nat) (new old : Word) {i : Nat} (hi : i < 64) :
    ((old &&& ~~~(0xFF#64 <<< (8 * m))) ||| (new &&& (0xFF#64 <<< (8 * m)))).getLsbD i =
      if i / 8 = m then new.getLsbD i else old.getLsbD i := by
  rw [BitVec.getLsbD_or, BitVec.getLsbD_and, BitVec.getLsbD_and, BitVec.getLsbD_not, byteOnes_bit hi]
  by_cases hm : i / 8 = m <;> simp [hm, hi]

/-- R111: a byte under the mask is the new one, any other the old one. -/
theorem mergeBytes_bit (mask : BitVec 8) (new old : Word) {i : Nat} (hi : i < 64) :
    (mergeBytes mask new old).getLsbD i = if mask.getLsbD (i / 8) then new.getLsbD i else old.getLsbD i := by
  have upto (m : Nat) : ((List.range m).foldl (fun (acc : Word) j =>
      if mask.getLsbD j then (acc &&& ~~~(0xFF#64 <<< (8 * j))) ||| (new &&& (0xFF#64 <<< (8 * j))) else acc) old).getLsbD i =
      if i / 8 < m ∧ mask.getLsbD (i / 8) = true then new.getLsbD i else old.getLsbD i := by
    induction m with
    | zero => simp
    | succ m ih =>
      rw [List.range_succ, List.foldl_append, List.foldl_cons, List.foldl_nil]
      rw [apply_ite (BitVec.getLsbD · i), mergeByte_bit m new _ hi, ih]
      by_cases hm : i / 8 = m
      · subst hm
        cases mask.getLsbD (i / 8) <;> simp
      · have hlt : i / 8 < m + 1 ↔ i / 8 < m := by omega
        simp [hm, hlt]
  have hbyte : i / 8 < 8 := by omega
  rw [mergeBytes, upto 8]
  simp [hbyte]

/-- A mask that has every byte of an access. -/
def Covers (mask : BitVec 8) (a : Word) (n : Nat) : Prop := ∀ j, a.toNat % 8 ≤ j → j < a.toNat % 8 + n → mask.getLsbD j = true

theorem bytesAt_bit (a : Word) (n : Nat) (w : Word) (i : Nat) :
    (bytesAt a n w).testBit i = (decide (i < 8 * n) && w.getLsbD (8 * (a.toNat % 8) + i)) := by
  rw [bytesAt, Nat.testBit_mod_two_pow, Nat.testBit_div_two_pow]
  simp [BitVec.getLsbD, Nat.add_comm]

variable {mask : BitVec 8} {a : Word} {n : Nat}

/-- R111: the bytes of an access whose mask has them are the new ones. -/
theorem bytesAt_merge (hc : Covers mask a n) (hn : a.toNat % 8 + n ≤ 8) (new old : Word) :
    bytesAt a n (mergeBytes mask new old) = bytesAt a n new := by
  refine Nat.eq_of_testBit_eq fun i => ?_
  rw [bytesAt_bit, bytesAt_bit]
  by_cases hi : i < 8 * n
  · rw [mergeBytes_bit mask new old (by omega), hc _ (by omega) (by omega), if_pos rfl]
  · simp [hi]

/-- R102: an aligned access lies within a word. -/
theorem aligned_within {z : Size} (h : a.toNat % sizeBytes z = 0) : a.toNat % 8 + sizeBytes z ≤ 8 := by
  cases z <;> simp only [sizeBytes] at h ⊢ <;> omega

theorem placeBytes_bytesAt (hn : a.toNat % 8 + n ≤ 8) (v : Word) : bytesAt a n (placeBytes (offOf a) v) = v.toNat % 2 ^ (8 * n) := by
  refine Nat.eq_of_testBit_eq fun i => ?_
  rw [bytesAt_bit, placeBytes, offOf_mod, Nat.testBit_mod_two_pow, BitVec.getLsbD_shiftLeft]
  by_cases hi : i < 8 * n
  · have hlt : 8 * (a.toNat % 8) + i < 64 := by omega
    simp [hi, hlt, BitVec.getLsbD]
  · simp [hi]

theorem byteMask_covers (hn : a.toNat % 8 + n ≤ 8) : Covers (byteMask (offOf a) n) a n := by
  intro j hj hjn
  rw [byteMask, offOf_mod, BitVec.getLsbD_ofNat, Nat.testBit_shiftLeft, Nat.testBit_two_pow_sub_one]
  simp only [Bool.and_eq_true, decide_eq_true_eq]
  omega

theorem covers_or (h : Covers mask a n) (dirty : BitVec 8) : Covers (dirty ||| mask) a n := by
  intro j hj hjn
  rw [BitVec.getLsbD_or, h j hj hjn, Bool.or_true]

end Sys2Proof.Machine
end

section
/-! SUPPORT. Stores of a thread at its own tile: the release before them, the write at the home and the word that it leaves
(R102, R106, R108, R237, R240). -/

namespace Sys2Proof.Machine

/-! ### Steps of a tile's caches -/

/-- A step of the caches of tile `t`: it leaves alone what the home decides by, the threads and the size of every line. -/
structure State.CacheStep (t : Nat) (s u : State) : Prop extends s.KeepsHome t u where
  threads : s.KeepsThreads u
  lines : (u.tile t).LinesOk

section
variable {s u v : State} {t : Nat}

theorem State.CacheStep.refl (h : (s.tile t).LinesOk) : s.CacheStep t s := ⟨.refl s, .refl s, h⟩

theorem State.CacheStep.andThen (h : s.CacheStep t u) (h' : (u.tile t).LinesOk → u.CacheStep t v) : s.CacheStep t v :=
  have h' := h' h.lines
  ⟨h.toKeepsHome.trans h'.toKeepsHome, h.threads.trans h'.threads, h'.lines⟩

theorem State.CacheStep.foldl {α : Type} {f : State → α → State} {l : List α}
    (h : ∀ (s : State), ∀ a ∈ l, (s.tile t).LinesOk → s.CacheStep t (f s a)) (hs : (s.tile t).LinesOk) :
    s.CacheStep t (l.foldl f s) := by
  induction l generalizing s with
  | nil => exact .refl hs
  | cons a l ih =>
    have hfirst := h s a List.mem_cons_self hs
    exact hfirst.andThen fun hu => ih (fun s b hb => h s b (List.mem_cons_of_mem _ hb)) hu

theorem meetLine_step (c o n : Nat) (h : (s.tile t).LinesOk) : s.CacheStep t (s.meetLine t c o n) :=
  ⟨meetLine_keepsHome s t c o n, keeps_meetLine s t c o n, meetLine_linesOk s t c o n h⟩

theorem sliceIn_step (c o n : Nat) (uo : Bool) (h : (s.tile t).LinesOk) : s.CacheStep t (s.sliceIn t c o n uo) :=
  ⟨sliceIn_keepsHome s t c o n uo, keeps_sliceIn s t c o n uo, sliceIn_linesOk s t c o n uo h⟩

theorem l1Out_step {l : Line} (hl : l.words.length = 8) (h : (s.tile t).LinesOk) : s.CacheStep t (s.l1Out t l) :=
  ⟨l1Out_keepsHome s t l, keeps_l1Out s t l, l1Out_linesOk s t hl h⟩

theorem l1Put_step {l : Line} (hl : l.words.length = 8) (h : (s.tile t).LinesOk) : s.CacheStep t (s.l1Put t l) :=
  ⟨l1Put_keepsHome s t l, keeps_l1Put s t l, l1Put_linesOk s t hl h⟩

theorem sliceOut_step (l : Line) (h : (s.tile t).LinesOk) : s.CacheStep t (s.sliceOut t l) :=
  ⟨(quiet_sliceOut s t l).toKeepsHome, keeps_sliceOut s t l, quiet_linesOk (quiet_sliceOut s t l) h⟩

theorem odcUse_step (ctx : Nat) (a : Word) (h : (s.tile t).LinesOk) : s.CacheStep t (s.odcUse t ctx a) := by
  refine ⟨odcUse_keepsHome s t ctx a, keeps_modTile fun _ => rfl, ?_⟩
  obtain ⟨l, hl⟩ := odcUse_tile s t ctx a
  rw [hl]
  exact h

/-- Lines changed one by one, none in its size. -/
theorem mapLines_step {g : Line → Line} (hg : ∀ l, (g l).words.length = l.words.length) (h : (s.tile t).LinesOk) :
    s.CacheStep t (s.modTile t (fun x => { x with l1 := x.l1.map g })) ∧
    s.CacheStep t (s.modTile t (fun x => { x with slices := x.slices.map g })) := by
  have hmap {ls : List Line} (hls : ∀ l ∈ ls, l.words.length = 8) : ∀ l ∈ ls.map g, l.words.length = 8 := fun l hl => by
    obtain ⟨m, hm, rfl⟩ := List.mem_map.mp hl
    rw [hg]
    exact hls m hm
  constructor
  · refine ⟨.modTile fun _ => rfl, keeps_modTile fun _ => rfl, ?_⟩
    rw [tile_modTile_same]
    exact fun l hl => hl.elim (hmap (fun m hm => h m (Or.inl hm)) l) fun hl => h l (Or.inr hl)
  · refine ⟨.modTile fun _ => rfl, keeps_modTile fun _ => rfl, ?_⟩
    rw [tile_modTile_same]
    exact fun l hl => hl.elim (fun hl => h l (Or.inl hl)) (hmap (fun m hm => h m (Or.inr hm)) l)

/-! ### The release before a store (R108, R223, R240) -/

theorem clean_length (l : Line) : l.clean.words.length = l.words.length := List.length_map _

/-- R240: a write-back. -/
theorem writeBack_step (want : Line → Bool) (h : (s.tile t).LinesOk) : s.CacheStep t (s.writeBack t want) := by
  have hclean (l : Line) : (if want l then l.clean else l).words.length = l.words.length := by
    split
    · exact clean_length l
    · rfl
  unfold State.writeBack
  refine State.CacheStep.andThen ?_ fun h => (mapLines_step hclean h).2
  refine State.CacheStep.andThen ?_ fun h => .foldl (fun s l _ hs => sliceOut_step l hs) h
  refine State.CacheStep.andThen ?_ fun h => (mapLines_step hclean h).1
  refine State.CacheStep.andThen ?_ fun h =>
    .foldl (fun s l hl hs => l1Out_step (h l (Or.inl (List.mem_of_mem_filter hl))) hs) h
  refine .foldl (fun s l _ hs => ?_) h
  split
  · exact meetLine_step _ _ _ hs
  · exact .refl hs

/-- R108, R223: where a release has nothing to wait for, the access goes on with the caches written back. -/
theorem releaseIf_goes {k : Nat} {rel : Bool} {c : Scope} (h : (s.tile t).LinesOk)
    (hc : rel = true → c = .tile ∨ c = .stack ∨ (s.slot t k).th.NoHandles ∧ (c = .host → s.linkBound t k = false))
    (cont : State → State) : ∃ u, s.CacheStep t u ∧ s.releaseIf t k rel c cont = cont u := by
  have hback (ctxs : List Nat) : s.CacheStep t (s.releaseLines t ctxs false) := writeBack_step _ h
  cases rel with
  | false => exact ⟨s, .refl h, rfl⟩
  | true =>
    cases c with
    | tile => exact ⟨s, .refl h, rfl⟩
    | stack => exact ⟨_, hback _, rfl⟩
    | wafer =>
      have hnone : (s.slot t k).th.NoHandles := by simpa using hc rfl
      refine ⟨s.releaseLines t (s.memCtxs t k) false, hback _, ?_⟩
      simp only [State.releaseIf, if_true, State.release, drain_noHandles hnone]
    | host =>
      obtain ⟨hnone, hlink⟩ : (s.slot t k).th.NoHandles ∧ s.linkBound t k = false := by simpa using hc rfl
      refine ⟨s.releaseLines t (s.memCtxs t k) false, hback _, ?_⟩
      simp only [State.releaseIf, if_true, State.release, drain_noHandles hnone, hlink, Bool.false_eq_true, if_false]

/-! ### The write at the home (R106, R237) -/

theorem wordIdx_lt (a : Word) : wordIdx a < 8 := Nat.mod_lt _ (by decide)

/-- R237: the bytes that an L1 line holds dirty are those that the home reads. -/
theorem view_bytes_of_l1 {ctx n : Nat} {a : Word} {l : Line} (hl : findLine (s.tile t).l1 ctx (objOf a) (lineNo a) = some l)
    (h : (s.tile t).LinesOk) (hc : Covers (l.word (wordIdx a)).dirty a n) (hn : a.toNat % 8 + n ≤ 8) :
    bytesAt a n (s.view t ctx a).data = bytesAt a n (l.word (wordIdx a)).data := by
  have hlen : wordIdx a < l.words.length := by rw [h l (Or.inl (findLine_mem hl))]; exact wordIdx_lt a
  cases hv : (l.word (wordIdx a)).valid with
  | true => rw [view_hit hl hv, meet_data]
  | false =>
    have his : l.is ctx (objOf a) (lineNo a) = true := findLine_is hl
    have hsrc := sliceLine_length (s.meetLine t ctx (objOf a) (lineNo a)) t ctx (objOf a) (lineNo a) (uo := l.uo)
      (meetLine_linesOk s t _ _ _ h)
    rw [view_fill hl hv, met_of_is (l := l.meet) his, filled_word (by simpa using hlen) (by rw [hsrc]; exact wordIdx_lt a)]
    simp only [LWord.filled, word_meet, meet_valid, hv, Bool.false_eq_true, if_false, meet_dirty, meet_data]
    exact bytesAt_merge hc hn _ _

/-- R236: a word that the L1 lacks is read in the slice. -/
theorem view_data_of_slice {ctx : Nat} {a : Word} {l : Line} (hmiss : findLine (s.tile t).l1 ctx (objOf a) (lineNo a) = none)
    (hl : findLine (s.tile t).slices ctx (objOf a) (lineNo a) = some l) : (s.view t ctx a).data = (l.word (wordIdx a)).data := by
  have hfind : findLine ((s.meetLine t ctx (objOf a) (lineNo a)).tile t).slices ctx (objOf a) (lineNo a) =
      some (l.met ctx (objOf a) (lineNo a)) := by
    rw [meetLine_slices, findLine_map (met_is _ _ _), hl]
    rfl
  have his : l.is ctx (objOf a) (lineNo a) = true := findLine_is hl
  rw [view_miss hmiss, State.sliceLine, hfind]
  simp [met_of_is his, met_of_is (l := l.meet) his]

/-- R236, R237: a word written in the slice. -/
theorem sliceMod_step {ctx : Nat} {a : Word} (f : LWord → LWord) (h : (s.tile t).LinesOk) : s.CacheStep t (s.sliceMod t ctx a f) :=
  (mapLines_step (fun l => by split <;> simp) h).2

theorem sliceMod_find {ctx : Nat} {a : Word} {l : Line} (f : LWord → LWord)
    (hl : findLine (s.tile t).slices ctx (objOf a) (lineNo a) = some l) :
    findLine ((s.sliceMod t ctx a f).tile t).slices ctx (objOf a) (lineNo a) = some (l.mod (wordIdx a) f) := by
  rw [State.sliceMod, tile_modTile_same]
  dsimp only
  rw [findLine_map (fun l => by split <;> rfl), hl, Option.map_some, if_pos (findLine_is hl)]

theorem sliceMod_l1 {ctx : Nat} {a : Word} (f : LWord → LWord) : ((s.sliceMod t ctx a f).tile t).l1 = (s.tile t).l1 := by
  rw [State.sliceMod, tile_modTile_same]

/-- R237: what a write performed at the home leaves in the word: the caches' step, and the bytes of the access. -/
theorem homePut_bytes {ctx n : Nat} {a : Word} {mask : BitVec 8} (v : Word) (alloc uo : Bool) (h : (s.tile t).LinesOk)
    (hc : Covers mask a n) (hn : a.toNat % 8 + n ≤ 8) : s.CacheStep t (s.homePut t ctx a mask v alloc uo) ∧
      bytesAt a n ((s.homePut t ctx a mask v alloc uo).view t ctx a).data = bytesAt a n v := by
  have hmeet := meetLine_step ctx (objOf a) (lineNo a) h
  have written {l : Line} (his : l.is ctx (objOf a) (lineNo a) = true) (hlen : l.words.length = 8) (u : State) (hu : s.CacheStep t u) :
      s.CacheStep t (u.l1Put t (l.mod (wordIdx a) (fun w => w.write mask v))) ∧
      bytesAt a n ((u.l1Put t (l.mod (wordIdx a) (fun w => w.write mask v))).view t ctx a).data = bytesAt a n v := by
    have hput := l1Put_step (s := u) (t := t) (l := l.mod (wordIdx a) (fun w => w.write mask v)) (by simpa using hlen) hu.lines
    have hword := word_mod (l := l) (i := wordIdx a) (by rw [hlen]; exact wordIdx_lt a) (fun w => w.write mask v)
    refine ⟨hu.andThen fun _ => hput, ?_⟩
    have hfind := l1Put_find u t ctx (objOf a) (lineNo a) (l := l.mod (wordIdx a) (fun w => w.write mask v)) his
    rw [view_bytes_of_l1 hfind hput.lines (by rw [hword, write_dirty]; exact covers_or hc _) hn, hword, write_data,
      bytesAt_merge hc hn]
  unfold State.homePut
  dsimp only
  split
  · rename_i l hl
    exact written (findLine_is hl) (hmeet.lines l (Or.inl (findLine_mem hl))) _ hmeet
  · rename_i hmiss
    split
    · exact written (lineIs_iff.mpr ⟨rfl, rfl, rfl⟩) rfl _ hmeet
    · have hin := sliceIn_step ctx (objOf a) (lineNo a) uo hmeet.lines
      have hmod := sliceMod_step (ctx := ctx) (a := a) (fun w => w.write mask v) hin.lines
      have hfind := sliceIn_find (s.meetLine t ctx (objOf a) (lineNo a)) t ctx (objOf a) (lineNo a) uo
      have hlen := hin.lines _ (Or.inr (findLine_mem hfind))
      refine ⟨hmeet.andThen fun _ => hin.andThen fun _ => hmod, ?_⟩
      have hnone : findLine ((((s.meetLine t ctx (objOf a) (lineNo a)).sliceIn t ctx (objOf a) (lineNo a) uo).sliceMod t ctx a
          (fun w => w.write mask v)).tile t).l1 ctx (objOf a) (lineNo a) = none := by
        rw [sliceMod_l1, sliceIn_l1, findLine_map (met_is _ _ _), hmiss]
        rfl
      rw [view_data_of_slice hnone (sliceMod_find _ hfind), word_mod (by rw [hlen]; exact wordIdx_lt a), write_data,
        bytesAt_merge hc hn]

/-! ### Waiters (R137) -/

theorem waitersAt_keepsHome (h : s.KeepsHome t u) (key : Nat) : u.waitersAt t key = s.waitersAt t key := by
  have htile : (u.tile t).waitersAt key = (s.tile t).waitersAt key :=
    (show (u.tile t).home.waitersAt key = (s.tile t).home.waitersAt key by rw [h.tile])
  rw [State.waitersAt, State.waitersAt, htile, h.others]

/-- R137: a write to a word at which nobody waits wakes nobody. -/
theorem homeStore_quiet {ctx n : Nat} {a : Word} {mask : BitVec 8} (v : Word) (alloc uo : Bool) (h : (s.tile t).LinesOk)
    (hc : Covers mask a n) (hn : a.toNat % 8 + n ≤ 8) (hw : s.waitersAt t (objWordKey ctx a) = []) :
    s.CacheStep t (s.homeStore t ctx a mask v alloc uo) ∧
      bytesAt a n ((s.homeStore t ctx a mask v alloc uo).view t ctx a).data = bytesAt a n v := by
  have hput := homePut_bytes (ctx := ctx) v alloc uo h hc hn
  have hnone := (waitersAt_keepsHome hput.1.toKeepsHome (objWordKey ctx a)).trans hw
  simp only [State.homeStore, hnone, List.isEmpty_nil, if_true]
  exact hput

/-! ### Writes bound for the link (R226) -/

theorem any_put {α : Type} {p : Nat × α → Bool} {m : Map α} {k : Nat} {x : α} (h : (m.put k x).any p = true) :
    m.any p = true ∨ p (k, x) = true := by
  induction m with
  | nil => simpa [Map.put] using h
  | cons e m ih =>
    obtain ⟨j, y⟩ := e
    simp only [Map.put] at h
    split at h
    · simp only [List.any_cons, Bool.or_eq_true] at h ⊢
      tauto
    · split at h
      · simp only [List.any_cons, Bool.or_eq_true] at h ⊢
        tauto
      · simp only [List.any_cons, Bool.or_eq_true] at h ⊢
        have := fun h => ih h
        tauto

theorem any_of_look {α : Type} {p : Nat × α → Bool} {m : Map α} {k : Nat} {x : α} (h : m.look k = some x) (hp : p (k, x) = true) :
    m.any p = true := by
  induction m with
  | nil => cases h
  | cons e m ih =>
    obtain ⟨j, y⟩ := e
    simp only [Map.look] at h
    split at h
    · rename_i hjk
      cases h
      subst hjk
      simp [hp]
    · simp [ih h]

/-- R226: a use of the directory cache starts no copy. -/
theorem linkBound_odcUse {k ctx : Nat} {a : Word} (h : s.linkBound t k = false) : (s.odcUse t ctx a).linkBound t k = false := by
  let p (e : Nat × Tile) : Bool := e.2.copies.any (fun r => r.cmd.kin == (s.slot t k).th.kin && r.peers && r.left > 0)
  have heq : (s.odcUse t ctx a).linkBound t k = (!s.atService t k && (s.odcUse t ctx a).tiles.any p) := by
    rw [State.linkBound, odcUse_slot]
    rfl
  rw [heq]
  have h' : (!s.atService t k && s.tiles.any p) = false := h
  refine Bool.eq_false_iff.mpr fun hany => ?_
  simp only [Bool.and_eq_true] at hany
  obtain ⟨hserv, hany⟩ := hany
  rw [hserv, Bool.true_and] at h'
  rcases any_put hany with hs | ht
  · rw [hs] at h'; cases h'
  · have htile : p (t, s.tile t) = true := ht
    cases hlook : s.tiles.look t with
    | some x =>
      have hx : s.tile t = x := by simp [State.tile, Map.lookD, hlook]
      rw [hx] at htile
      rw [any_of_look hlook htile] at h'
      cases h'
    | none =>
      have hx : s.tile t = { Tile.fresh with extents := s.freshExtents } := by simp [State.tile, Map.lookD, hlook]
      rw [hx] at htile
      cases htile

/-! ### A store of a thread (R102, R106) -/

theorem modSlot_sameLines (s : State) (t k : Nat) (f : Slot → Slot) : s.SameLines t (s.modSlot t k f) := by
  constructor <;> simp [State.modSlot, Tile.modSlot]

/-- R102, R106: the write of a store that its home takes. -/
def State.storeHere (s : State) (t k ctx : Nat) (a v : Word) (z : Size) (nt uo : Bool) (base : Option (Ptr × Word)) : State :=
  (s.homeStore t ctx a (byteMask (offOf a) (sizeBytes z)) (placeBytes (offOf a) v) (!nt) uo).modSlot t k (fun sl => sl.stored base)

theorem store_own {k : Nat} {a : Word} {z : Size} {ob : Object} (hhome : s.AtHome t (s.memCtx t k) a (sizeBytes z) ob)
    (hw : ob.isCode = false ∧ ob.writable = true) (v : Word) (nt rel : Bool) (c : Scope) (base : Option (Ptr × Word)) :
    s.store t k a v z nt rel c base = (s.odcUse t (s.memCtx t k) a).releaseIf t k rel c (fun u =>
      u.atHome t k (s.memCtx t k) a (fun u => u.storeHere t k (s.memCtx t k) a v z nt ob.isUO base)) := by
  rw [State.store, access_own hhome fun _ => hw]
  rfl

/-- What the write of a store leaves in its slot and in the word. -/
theorem storeHere_done {k ctx : Nat} {a : Word} {z : Size} (v : Word) (nt uo : Bool) (base : Option (Ptr × Word))
    (hn : a.toNat % 8 + sizeBytes z ≤ 8) (h : (s.tile t).LinesOk) (hnone : s.waitersAt t (objWordKey ctx a) = [])
    (hk : k < (s.tile t).slots.length) :
    ((s.storeHere t k ctx a v z nt uo base).slot t k).state = .ready ∧
    ((s.storeHere t k ctx a v z nt uo base).slot t k).th = { (s.slot t k).th.setBase base with pc := (s.slot t k).ipc + 4#64 } ∧
    bytesAt a (sizeBytes z) ((s.storeHere t k ctx a v z nt uo base).view t ctx a).data = v.toNat % 2 ^ (8 * sizeBytes z) := by
  obtain ⟨hstep, hbytes⟩ := homeStore_quiet (ctx := ctx) (placeBytes (offOf a) v) (!nt) uo h (byteMask_covers hn) hn hnone
  obtain ⟨hth, hipc⟩ := (hstep.threads t).2 k
  have hslot := slot_modSlot_same _ t k (fun sl => sl.stored base) (by rw [(hstep.threads t).1]; exact hk)
  have hlines := modSlot_sameLines (s.homeStore t ctx a (byteMask (offOf a) (sizeBytes z)) (placeBytes (offOf a) v) (!nt) uo) t k
    (fun sl => sl.stored base)
  rw [placeBytes_bytesAt hn] at hbytes
  unfold State.storeHere
  rw [hslot, view_same hlines]
  refine ⟨rfl, ?_, hbytes⟩
  simp only [Slot.stored, Slot.finish, Slot.goto, hth, hipc]

end

/-! ### The forms (R102, R106, R108) -/

section
variable {s : State} {a : Word} {z : Size} {rel : Bool} {c : Scope} {ob : Object}

/-- An issued store that its own tile performs at once. -/
structure State.StoresHere (s : State) (a : Word) (z : Size) (rel : Bool) (c : Scope) (ob : Object) : Prop where
  home : s.AtHome s.cur.1 (s.memCtx s.cur.1 s.cur.2) a (sizeBytes z) ob
  data : ob.isCode = false
  writable : ob.writable = true
  release : rel = true → s.CanRelease c
  lines : (s.tile s.cur.1).LinesOk
  alone : s.NoWaiter s.cur.1 (objWordKey (s.memCtx s.cur.1 s.cur.2) a)

/-- An issued store has ended: its slot goes on with thread `th` and the home reads the value's low bytes. -/
def State.StoreEnds (s : State) (r : Out) (v : Word) (z : Size) (a : Word) (th : Thread) : Prop :=
  ∃ t, r = .next t ∧ (t.slot s.cur.1 s.cur.2).state = .ready ∧ s.then_ t = { th with pc := s.following } ∧
    bytesAt a (sizeBytes z) (t.view s.cur.1 (s.memCtx s.cur.1 s.cur.2) a).data = v.toNat % 2 ^ (8 * sizeBytes z)

/-- R106, R108: the release goes on, the home takes the write, and the word holds it. -/
theorem store_ends (hs : s.issuing = true) (h : s.StoresHere a z rel c ob) (v : Word) (nt : Bool) (base : Option (Ptr × Word)) :
    s.StoreEnds (.next (s.store s.cur.1 s.cur.2 a v z nt rel c base)) v z a (s.curSlot.th.setBase base) := by
  have huse := odcUse_step (t := s.cur.1) (s.memCtx s.cur.1 s.cur.2) a h.lines
  obtain ⟨u, hu, hgo⟩ := releaseIf_goes (t := s.cur.1) (k := s.cur.2) (rel := rel) (c := c) huse.lines
    (fun hrel => by
      rw [odcUse_slot]
      exact (h.release hrel).imp id (Or.imp id fun hw => ⟨hw.1, fun hc => linkBound_odcUse (hw.2 hc)⟩))
    (fun u => u.atHome s.cur.1 s.cur.2 (s.memCtx s.cur.1 s.cur.2) a
      (fun u => u.storeHere s.cur.1 s.cur.2 (s.memCtx s.cur.1 s.cur.2) a v z nt ob.isUO base))
  have hready := huse.andThen fun _ => hu
  have hgate : u.gate s.cur.1 (s.memCtx s.cur.1 s.cur.2) a = .go := (gate_keepsHome hready.toKeepsHome _ a _).trans h.home.resident
  have hlen : s.cur.2 < (u.tile s.cur.1).slots.length := by
    rw [(hready.threads s.cur.1).1]
    exact (issuing_slot hs).2.2
  obtain ⟨hth, hipc⟩ := (hready.threads s.cur.1).2 s.cur.2
  have hdone := storeHere_done v nt ob.isUO base (aligned_within h.home.aligned) hready.lines
    ((waitersAt_keepsHome hready.toKeepsHome _).trans h.alone) hlen
  rw [hth, hipc] at hdone
  rw [store_own h.home ⟨h.data, h.writable⟩, hgo, atHome_go hgate]
  exact ⟨_, rfl, hdone⟩

theorem st_ends (hs : s.issuing = true) (hext : s.curSlot.ext.length ≤ 2) (d : Reg) (b : Ptr) (m : Mode) (o : Sys2Proof.Order)
    (f : BitVec 9) {th : Thread} (hp : memPlace s.curSlot.th b m (sizeBytes z) (extInt s.curSlot.ext f) = (a, th))
    (h : s.StoresHere a z (orderRel o) c ob) : s.StoreEnds (exec (.st d b z m o c f) s) (s.rd d) z a th := by
  have hexec : exec (.st d b z m o c f) s = .next (s.store s.cur.1 s.cur.2 (addrM s.curSlot.th b m (sizeBytes z) s.curSlot.ext f).1
      (s.rd d) z s.curSlot.nt (orderRel o) c (addrM s.curSlot.th b m (sizeBytes z) s.curSlot.ext f).2) := by
    change execSt d b z m o c f s = _
    rw [execSt, onIssue_next s _ hs]
    rfl
  have hbase := addrM_setBase hext s.curSlot.th b m (sizeBytes z) f
  rw [hp] at hbase
  dsimp only at hbase
  rw [hexec, addrM_fst hext, hp, ← hbase]
  exact store_ends hs h _ _ _

theorem stx_ends (hs : s.issuing = true) (d : Reg) (b : Ptr) (x : Reg) (o : Sys2Proof.Order)
    (h : s.StoresHere (s.curSlot.th.regs.get b + fromInt ((s.rd x).toInt * sizeBytes z)) z (orderRel o) c ob) :
    s.StoreEnds (exec (.stx d b x z o c) s) (s.rd d) z (s.curSlot.th.regs.get b + fromInt ((s.rd x).toInt * sizeBytes z))
      s.curSlot.th := by
  have hexec : exec (.stx d b x z o c) s = .next (s.store s.cur.1 s.cur.2 (addrX s.curSlot.th b x (sizeBytes z)) (s.rd d) z
      s.curSlot.nt (orderRel o) c none) := by
    change execStx d b x z o c s = _
    rw [execStx, onIssue_next s _ hs]
    rfl
  rw [hexec, addrX_eq]
  exact store_ends hs h _ _ _

/-- Settles O14: the release has nothing to wait for, so that the write is performed and the home reads it back. -/
theorem storeResults : Obligations.StoreResults := by
  intro s d b x z m o c f ob hs hext _
  exact ⟨fun ⟨hhome, hcode, hwr, hrel, hlines, hnone⟩ => st_ends hs hext d b m o f rfl ⟨hhome, hcode, hwr, hrel, hlines, hnone⟩,
    fun ⟨hhome, hcode, hwr, hrel, hlines, hnone⟩ => stx_ends hs d b x o ⟨hhome, hcode, hwr, hrel, hlines, hnone⟩⟩

end

end Sys2Proof.Machine
end

section
/-! SUPPORT. Integer, division and accumulator forms: what each operation on bit vectors computes as a number (R82, R83, R89). -/

namespace Sys2Proof.Machine

/-! ### Operations at a width (R82) -/

theorem ofInt_sub (n : Nat) (v w : Int) : BitVec.ofInt n (v - w) = BitVec.ofInt n v - BitVec.ofInt n w :=
  BitVec.eq_of_toInt_eq (by simp)

section
variable {n : Nat} (x y : BitVec n)

theorem add_ofInt : x + y = BitVec.ofInt n (x.toInt + y.toInt) := by simp [BitVec.ofInt_add]

theorem mul_ofInt : x * y = BitVec.ofInt n (x.toInt * y.toInt) := by simp [BitVec.ofInt_mul]

theorem sub_ofInt : x - y = BitVec.ofInt n (x.toInt - y.toInt) := by simp [ofInt_sub]

theorem shiftLeft_ofInt (k : Nat) : x <<< k = BitVec.ofInt n (x.toNat * 2 ^ k : Nat) := by
  rw [BitVec.ofInt_natCast]
  exact BitVec.eq_of_toNat_eq (by simp [Nat.shiftLeft_eq])

theorem ushiftRight_ofInt (k : Nat) : x >>> k = BitVec.ofInt n (x.toNat / 2 ^ k : Nat) := by
  rw [BitVec.ofInt_natCast, ← Nat.shiftRight_eq_div_pow, ← BitVec.toNat_ushiftRight, BitVec.ofNat_toNat, BitVec.setWidth_eq]

theorem sshiftRight_ofInt (k : Nat) : x.sshiftRight k = BitVec.ofInt n (x.toInt / 2 ^ k) := by
  rw [BitVec.sshiftRight_eq, Int.shiftRight_eq_div_pow]
  norm_num

theorem min_ofInt : (if x.slt y then x else y) = BitVec.ofInt n (min x.toInt y.toInt) := by
  rcases lt_or_ge x.toInt y.toInt with h | h
  · rw [min_eq_left h.le, if_pos (BitVec.slt_iff_toInt_lt.2 h), BitVec.ofInt_toInt]
  · rw [min_eq_right h, if_neg (mt BitVec.slt_iff_toInt_lt.1 (not_lt.2 h)), BitVec.ofInt_toInt]

theorem max_ofInt : (if x.slt y then y else x) = BitVec.ofInt n (max x.toInt y.toInt) := by
  rcases lt_or_ge x.toInt y.toInt with h | h
  · rw [max_eq_right h.le, if_pos (BitVec.slt_iff_toInt_lt.2 h), BitVec.ofInt_toInt]
  · rw [max_eq_left h, if_neg (mt BitVec.slt_iff_toInt_lt.1 (not_lt.2 h)), BitVec.ofInt_toInt]

theorem minu_ofNat : (if x.ult y then x else y) = BitVec.ofNat n (min x.toNat y.toNat) := by
  rcases lt_or_ge x.toNat y.toNat with h | h
  · rw [min_eq_left h.le, if_pos (BitVec.ult_iff_toNat_lt.2 h), BitVec.ofNat_toNat, BitVec.setWidth_eq]
  · rw [min_eq_right h, if_neg (mt BitVec.ult_iff_toNat_lt.1 (not_lt.2 h)), BitVec.ofNat_toNat, BitVec.setWidth_eq]

theorem maxu_ofNat : (if x.ult y then y else x) = BitVec.ofNat n (max x.toNat y.toNat) := by
  rcases lt_or_ge x.toNat y.toNat with h | h
  · rw [max_eq_right h.le, if_pos (BitVec.ult_iff_toNat_lt.2 h), BitVec.ofNat_toNat, BitVec.setWidth_eq]
  · rw [max_eq_left h, if_neg (mt BitVec.ult_iff_toNat_lt.1 (not_lt.2 h)), BitVec.ofNat_toNat, BitVec.setWidth_eq]

end

theorem boolWord_ult (x y : Word) : boolWord (x.ult y) = if x.toNat < y.toNat then 1#64 else 0#64 := by
  simp [boolWord, BitVec.ult_iff_toNat_lt]

/-- The upper half of a 128-bit number. -/
theorem upperHalf_ofInt (v : Int) : (BitVec.ofInt 128 v).extractLsb' 64 64 = BitVec.ofInt 64 (v / 2 ^ 64) := by
  refine BitVec.eq_of_toNat_eq ?_
  rw [BitVec.extractLsb'_toNat, Nat.shiftRight_eq_div_pow, BitVec.toNat_ofInt, BitVec.toNat_ofInt]
  omega

theorem mulh_fromInt (x y : Word) : (x.signExtend 128 * y.signExtend 128).extractLsb' 64 64 = fromInt (x.toInt * y.toInt / 2 ^ 64) := by
  rw [mul_ofInt, upperHalf_ofInt, BitVec.toInt_signExtend_of_le (by decide), BitVec.toInt_signExtend_of_le (by decide), fromInt]

theorem mulhu_fromNat (x y : Word) : (x.zeroExtend 128 * y.zeroExtend 128).extractLsb' 64 64 = fromNat (x.toNat * y.toNat / 2 ^ 64) := by
  have h : x.zeroExtend 128 * y.zeroExtend 128 = BitVec.ofInt 128 (x.toNat * y.toNat : Nat) := by
    rw [BitVec.ofInt_natCast]
    exact BitVec.eq_of_toNat_eq (by simp)
  rw [h, upperHalf_ofInt, fromNat, ← BitVec.ofInt_natCast, Int.natCast_ediv]
  rfl

/-! ### Division at a width (R83) -/

section
variable {n : Nat} (x y : BitVec n)

theorem allOnes_ofInt (n : Nat) : BitVec.allOnes n = BitVec.ofInt n (2 ^ n - 1) := by
  have h : ((2 ^ n - 1 : Nat) : Int) = 2 ^ n - 1 := by
    rw [Nat.cast_sub Nat.one_le_two_pow]
    simp
  rw [← h, BitVec.ofInt_natCast]
  exact BitVec.eq_of_toNat_eq (by simp)

theorem toInt_eq_zero_iff : y.toInt = 0 ↔ y = 0#n := by rw [← BitVec.toInt_zero (w := n), BitVec.toInt_inj]

theorem toNat_eq_zero_iff : y.toNat = 0 ↔ y = 0#n := by
  rw [← BitVec.toNat_inj, BitVec.toNat_zero]

theorem divSigned_ofInt : divSigned x y = BitVec.ofInt n (quotSigned n x.toInt y.toInt) := by
  simp only [divSigned, quotSigned, toInt_eq_zero_iff]
  split
  · exact allOnes_ofInt n
  · exact BitVec.eq_of_toInt_eq (by rw [BitVec.toInt_sdiv, BitVec.toInt_ofInt])

theorem remSigned_ofInt : remSigned x y = BitVec.ofInt n (remSigned' x.toInt y.toInt) := by
  simp only [remSigned, remSigned', toInt_eq_zero_iff]
  split
  · exact BitVec.ofInt_toInt.symm
  · rw [mul_comm, ← Int.tmod_def, ← BitVec.toInt_srem, BitVec.ofInt_toInt]

theorem divUnsigned_ofNat : divUnsigned x y = BitVec.ofNat n (quotUnsigned n x.toNat y.toNat) := by
  simp only [divUnsigned, quotUnsigned, toNat_eq_zero_iff]
  split
  · exact BitVec.eq_of_toNat_eq (by simp)
  · rw [← BitVec.toNat_udiv, BitVec.ofNat_toNat, BitVec.setWidth_eq]

theorem remUnsigned_ofNat : remUnsigned x y = BitVec.ofNat n (remUnsigned' x.toNat y.toNat) := by
  simp only [remUnsigned, remUnsigned', toNat_eq_zero_iff]
  split
  · rw [BitVec.ofNat_toNat, BitVec.setWidth_eq]
  · rw [← BitVec.toNat_umod, BitVec.ofNat_toNat, BitVec.setWidth_eq]

end

/-! ### The forms -/

section
variable {s : State} (hs : s.issuing = true) {d a b : Reg}
include hs

theorem op2_writes {f : Word → Word → Word} {v : Word} (hv : f (s.rd a) (s.rd b) = v) : op2 s d a b f = .next (s.wrote d v) :=
  hv ▸ op2_wrote s d a b f hs

/-- R82: the 64-bit form and the `.w` form. -/
theorem op2w_writes {f : Word → Word → Word} {g : BitVec 32 → BitVec 32 → BitVec 32} {v : Word} (hv : f (s.rd a) (s.rd b) = v) :
    op2w s d a b false f g = .next (s.wrote d v) := hv ▸ op2w_wrote s d a b false f g hs

theorem op2w_writes32 {f : Word → Word → Word} {g : BitVec 32 → BitVec 32 → BitVec 32} {v : Int}
    (hv : g (lo32 (s.rd a)) (lo32 (s.rd b)) = BitVec.ofInt 32 v) : op2w s d a b true f g = .next (s.wrote d (fromInt32 v)) := by
  rw [fromInt32, ← hv]
  exact op2w_wrote s d a b true f g hs

end

theorem integerResults_of_forms : Claim.integerResults := by
  intro s d a b hs x y x3 y3
  simp only [exec, execAdd, execSub, execSll, execSrl, execSra, execSlt, execSltu, execMin, execMax, execMinu, execMaxu, execMul,
    execMulh, execMulhu, execAnd, execOr, execXor]
  refine ⟨op2w_writes hs (add_ofInt x y), op2w_writes32 hs (add_ofInt x3 y3),
    op2w_writes hs (sub_ofInt x y), op2w_writes32 hs (sub_ofInt x3 y3),
    op2w_writes hs (shiftLeft_fromNat x _), op2w_writes32 hs (shiftLeft_ofInt x3 _),
    op2w_writes hs (ushiftRight_fromNat x _), op2w_writes32 hs (ushiftRight_ofInt x3 _),
    op2w_writes hs (sshiftRight_fromInt x _), op2w_writes32 hs (sshiftRight_ofInt x3 _),
    op2_writes hs (boolWord_slt x y), op2_writes hs (boolWord_ult x y),
    op2_writes hs (min_ofInt x y), op2_writes hs (max_ofInt x y), op2_writes hs (minu_ofNat x y), op2_writes hs (maxu_ofNat x y),
    op2w_writes hs (mul_ofInt x y), op2w_writes32 hs (mul_ofInt x3 y3),
    op2_writes hs (mulh_fromInt x y), op2_writes hs (mulhu_fromNat x y),
    x &&& y, x ||| y, x ^^^ y, op2_writes hs rfl, op2_writes hs rfl, op2_writes hs rfl, fun i _ => ?_⟩
  exact ⟨BitVec.getLsbD_and, BitVec.getLsbD_or, BitVec.getLsbD_xor⟩

theorem divisionResults_of_forms : Claim.divisionResults := by
  intro s d a b hs x y x3 y3
  simp only [exec, execDiv, execDivu, execRem, execRemu]
  exact ⟨op2w_writes hs (divSigned_ofInt x y), op2w_writes32 hs (divSigned_ofInt x3 y3),
    op2w_writes hs (divUnsigned_ofNat x y), op2w_writes32 hs ((divUnsigned_ofNat x3 y3).trans (BitVec.ofInt_natCast _ _).symm),
    op2w_writes hs (remSigned_ofInt x y), op2w_writes32 hs (remSigned_ofInt x3 y3),
    op2w_writes hs (remUnsigned_ofNat x y), op2w_writes32 hs ((remUnsigned_ofNat x3 y3).trans (BitVec.ofInt_natCast _ _).symm)⟩

/-- Settles O1: each form writes one register, so that what is left is the number that its operation on bit vectors computes. -/
theorem integerResults : Obligations.IntegerResults := ⟨integerResults_of_forms, divisionResults_of_forms⟩

/-- Settles O4: the accumulator is a register like another, and the product wraps with the sum. -/
theorem accumulatorResults : Obligations.AccumulatorResults := by
  intro s a b hs
  simp only [fromInt, BitVec.ofInt_add, ofInt_sub, BitVec.ofInt_mul, BitVec.ofInt_toInt]
  exact ⟨onThread_wrote s .acc (fun sl => sl.th.acc + sl.th.reg a * sl.th.reg b) hs,
    onThread_wrote s .acc (fun sl => sl.th.acc - sl.th.reg a * sl.th.reg b) hs⟩

end Sys2Proof.Machine
end

section
/-! SUPPORT. Bit fields, counts of bits and reversed bytes (R88). -/

namespace Sys2Proof.Machine

/-! ### Fields -/

section
variable {x : Word} {p n : Nat}

theorem toNat_lowMask (h : n ≤ 64) : (lowMask n).toNat = 2 ^ n - 1 := by
  have hle : 2 ^ n ≤ 2 ^ 64 := Nat.pow_le_pow_right two_pos h
  have hpos := Nat.two_pow_pos n
  rw [lowMask, BitVec.toNat_ofNat]
  exact Nat.mod_eq_of_lt (by omega)

theorem and_lowMask (x : Word) (h : n ≤ 64) : x &&& lowMask n = fromNat (x.toNat % 2 ^ n) := by
  rw [fromNat, ← Nat.and_two_pow_sub_one_eq_mod, ← toNat_lowMask h, ← BitVec.toNat_and, BitVec.ofNat_toNat, BitVec.setWidth_eq]

theorem toNat_ushiftRight_div (x : Word) (p : Nat) : (x >>> p).toNat = x.toNat / 2 ^ p := by
  rw [BitVec.toNat_ushiftRight, Nat.shiftRight_eq_div_pow]

theorem fromNat_shiftLeft (k p : Nat) : fromNat k <<< p = fromNat (k * 2 ^ p) := by
  rw [shiftLeft_fromNat]
  exact BitVec.eq_of_toNat_eq (by simp [fromNat])

/-- The field of a word at a place, left in its place. -/
theorem and_shiftLeft (x m : Word) (p : Nat) : x &&& (m <<< p) = ((x >>> p) &&& m) <<< p := by
  refine BitVec.eq_of_getLsbD_eq fun i hi => ?_
  by_cases hlow : i < p
  · simp [hlow]
  · simp [hlow, hi, Nat.add_sub_cancel' (Nat.not_lt.1 hlow)]

theorem field_fromNat (x : Word) (p : Nat) (h : n ≤ 64) : x &&& (lowMask n <<< p) = fromNat (x.toNat / 2 ^ p % 2 ^ n * 2 ^ p) := by
  rw [and_shiftLeft, and_lowMask _ h, toNat_ushiftRight_div, fromNat_shiftLeft]

/-- Bits outside a mask and bits under it do not overlap. -/
theorem outside_and_under (x z m : Word) : (x &&& ~~~m) &&& (z &&& m) = 0#64 := by
  ext i hi
  cases hm : m[i] <;> simp [hm]

theorem outside_eq_sub (x m : Word) : x &&& ~~~m = x - (x &&& m) := by
  refine eq_sub_of_add_eq ?_
  rw [BitVec.add_eq_or_of_and_eq_zero _ _ (outside_and_under x x m)]
  ext i hi
  cases hm : m[i] <;> simp [hm]

/-- R88: the field is taken out of the one word and the low bits of the other are put in its place. -/
theorem bins_fromNat (x y : Word) (p : Nat) (h : n ≤ 64) :
    (x &&& ~~~(lowMask n <<< p)) ||| ((y <<< p) &&& (lowMask n <<< p)) =
      fromNat (x.toNat - x.toNat / 2 ^ p % 2 ^ n * 2 ^ p + y.toNat % 2 ^ n * 2 ^ p) := by
  have hle : x.toNat / 2 ^ p % 2 ^ n * 2 ^ p ≤ x.toNat :=
    (Nat.mul_le_mul_right _ (Nat.mod_le _ _)).trans (Nat.div_mul_le_self _ _)
  have hkept : x - fromNat (x.toNat / 2 ^ p % 2 ^ n * 2 ^ p) = fromNat (x.toNat - x.toNat / 2 ^ p % 2 ^ n * 2 ^ p) := by
    rw [sub_eq_iff_eq_add, fromNat, fromNat, ← BitVec.ofNat_add, Nat.sub_add_cancel hle, BitVec.ofNat_toNat, BitVec.setWidth_eq]
  have hput : (y <<< p) &&& (lowMask n <<< p) = fromNat (y.toNat % 2 ^ n * 2 ^ p) := by
    rw [← BitVec.shiftLeft_and_distrib, and_lowMask y h, fromNat_shiftLeft]
  rw [← BitVec.add_eq_or_of_and_eq_zero _ _ (outside_and_under x _ _), outside_eq_sub, field_fromNat x p h, hkept, hput]
  exact (BitVec.ofNat_add _ _).symm

end

/-! ### Counts -/

theorem leadZeros_spec (x : Word) (n : Nat) : leadZeros x n ≤ n ∧ (∀ i, n - leadZeros x n ≤ i → i < n → x.getLsbD i = false) ∧
    (leadZeros x n < n → x.getLsbD (n - 1 - leadZeros x n) = true) := by
  induction n with
  | zero => simp [leadZeros]
  | succ n ih =>
    obtain ⟨hle, hzero, hone⟩ := ih
    rw [leadZeros]
    split
    · rename_i hbit
      exact ⟨by omega, fun i h1 h2 => absurd h1 (by omega), fun _ => hbit⟩
    · rename_i hbit
      refine ⟨by omega, fun i h1 h2 => ?_, fun h => ?_⟩
      · rcases Nat.lt_succ_iff_lt_or_eq.1 h2 with hlt | rfl
        · exact hzero i (by omega) hlt
        · simpa using hbit
      · rw [← hone (by omega)]
        congr 1
        omega

theorem toNat_lt_of_leadZeros (x : Word) : x.toNat < 2 ^ (64 - leadZeros x 64) := by
  refine Nat.lt_pow_two_of_testBit _ fun i hi => ?_
  rcases lt_or_ge i 64 with hlt | hge
  · exact (leadZeros_spec x 64).2.1 i hi hlt
  · exact BitVec.getLsbD_of_ge x i hge

theorem trailZeros_spec (x : Word) (n : Nat) (hn : n ≤ 64) : trailZeros x n ≤ n ∧
    (∀ i, 64 - n ≤ i → i < 64 - n + trailZeros x n → x.getLsbD i = false) ∧
    (trailZeros x n < n → x.getLsbD (64 - n + trailZeros x n) = true) := by
  induction n with
  | zero => exact ⟨le_rfl, fun i h1 h2 => absurd h1 (Nat.not_le.2 h2), fun h => absurd h (lt_irrefl 0)⟩
  | succ n ih =>
    obtain ⟨hle, hzero, hone⟩ := ih (by omega)
    have hfirst : 64 - (n + 1) = 63 - n := by omega
    rw [trailZeros, hfirst]
    split
    · rename_i hbit
      exact ⟨by omega, fun i h1 h2 => absurd h1 (by omega), fun _ => hbit⟩
    · rename_i hbit
      refine ⟨by omega, fun i h1 h2 => ?_, fun h => ?_⟩
      · rcases h1.eq_or_lt with rfl | hlt
        · simpa using hbit
        · exact hzero i (by omega) (by omega)
      · rw [← hone (by omega)]
        congr 1
        omega

theorem mod_of_trailZeros (x : Word) : x.toNat % 2 ^ trailZeros x 64 = 0 := by
  refine Nat.eq_of_testBit_eq fun i => ?_
  rw [Nat.testBit_mod_two_pow, Nat.zero_testBit]
  by_cases hi : i < trailZeros x 64
  · simp [hi, ← BitVec.getLsbD.eq_1, (trailZeros_spec x 64 le_rfl).2.1 i (by omega) (by omega)]
  · simp [hi]

theorem oneBits_eq (x : Word) (n : Nat) : oneBits x n = (List.range n).countP (fun i => x.getLsbD i) := by
  induction n with
  | zero => rfl
  | succ n ih => simp [oneBits, ih, List.range_succ, Nat.add_comm]

/-! ### Bytes -/

/-- The bits of a word put together from its bytes, the lowest first. -/
theorem foldr_bytes_bit (l : List Byte) {i : Nat} (hi : i < 64) :
    (l.foldr (fun b (acc : Word) => (acc <<< 8) ||| b.zeroExtend 64) 0#64).getLsbD i = (l.getD (i / 8) 0#8).getLsbD (i % 8) := by
  induction l generalizing i with
  | nil => simp
  | cons b l ih =>
    rw [List.foldr_cons, BitVec.getLsbD_or, BitVec.getLsbD_shiftLeft]
    rcases lt_or_ge i 8 with hlow | hhigh
    · simp [hlow, hi, Nat.div_eq_of_lt hlow, Nat.mod_eq_of_lt hlow]
    · have hdiv : i / 8 = (i - 8) / 8 + 1 := by omega
      have hmod : i % 8 = (i - 8) % 8 := by omega
      rw [ih (by omega), hdiv, List.getD_cons_succ, hmod]
      simp [hi, Nat.not_lt.2 hhigh, BitVec.getLsbD_of_ge b i hhigh]

/-- R88: byte `i` of the reversed word is byte `7 - i`. -/
theorem bswap_byte (x : Word) {i : Nat} (hi : i < 8) :
    (bytesWord (wordBytes x).reverse).extractLsb' (8 * i) 8 = x.extractLsb' (8 * (7 - i)) 8 := by
  have hbyte : (wordBytes x).reverse.getD i 0#8 = x.extractLsb' (8 * (7 - i)) 8 := by
    simp [wordBytes, hi, List.getD_eq_getElem?_getD]
  have htake : (wordBytes x).reverse.take 8 = (wordBytes x).reverse := List.take_of_length_le (by simp [wordBytes])
  refine BitVec.eq_of_getLsbD_eq fun j hj => ?_
  rw [← hbyte, BitVec.getLsbD_extractLsb', bytesWord, htake, foldr_bytes_bit _ (by omega), show (8 * i + j) / 8 = i by omega,
    show (8 * i + j) % 8 = j by omega]
  simp [hj]

/-- Settles O3: each form writes one register, with the field, the count or the bytes that the lemmas above give. -/
theorem bitfieldResults : Obligations.BitfieldResults := by
  intro s d a p l hs hfit x n
  have hn : n ≤ 64 := by omega
  have hbext : (x >>> p.toNat) &&& lowMask n = fromNat (x.toNat / 2 ^ p.toNat % 2 ^ n) := by
    rw [and_lowMask _ hn, toNat_ushiftRight_div]
  have hbins := bins_fromNat (s.rd d) x p.toNat hn
  rw [← hbext, ← hbins, ← oneBits_eq, ← toNat_ushiftRight_div]
  obtain ⟨hclz, -, hclzOne⟩ := leadZeros_spec x 64
  obtain ⟨hctz, -, hctzOne⟩ := trailZeros_spec x 64 le_rfl
  exact ⟨op1_wrote s d a (fun x => (x >>> p.toNat) &&& lowMask n) hs,
    op1_wrote s d a (fun x => fromInt (sext n (x >>> p.toNat).toNat)) hs,
    onThread_wrote s d (fun sl => (sl.th.reg d &&& ~~~(lowMask n <<< p.toNat)) |||
      ((sl.th.reg a <<< p.toNat) &&& (lowMask n <<< p.toNat))) hs,
    ⟨leadZeros x 64, op1_wrote s d a (fun x => fromNat (leadZeros x 64)) hs, hclz, toNat_lt_of_leadZeros x, fun h => hclzOne h⟩,
    ⟨trailZeros x 64, op1_wrote s d a (fun x => fromNat (trailZeros x 64)) hs, hctz, mod_of_trailZeros x,
      fun h => by simpa using hctzOne h⟩,
    op1_wrote s d a (fun x => fromNat (oneBits x 64)) hs,
    ⟨bytesWord (wordBytes x).reverse, op1_wrote s d a (fun x => bytesWord (wordBytes x).reverse) hs, fun i hi => bswap_byte x hi⟩⟩

end Sys2Proof.Machine
end

section
/-! SUPPORT. Branches and jumps (R97-R100). -/

namespace Sys2Proof.Machine

/-- R97: a relative target as a number. -/
theorem relTarget_eq {ext : List (BitVec 25)} (h : ext.length ≤ 2) (ip : Word) {k : Nat} (f : BitVec k) :
    relTarget ip ext f = fromInt (ip.toInt + 4 * extInt ext f) := by
  rw [relTarget, immWord_eq h, mul_comm, fromInt, fromInt, BitVec.ofInt_add, BitVec.ofInt_mul, BitVec.ofInt_toInt]
  rfl

/-- R99: the low two bits of an address are its remainder by 4. -/
theorem lowBits_eq_zero (x : Word) : x &&& 3#64 = 0#64 ↔ x.toNat % 4 = 0 := by
  rw [← BitVec.toNat_inj, BitVec.toNat_and]
  exact iff_of_eq (congrArg (· = 0) (Nat.and_two_pow_sub_one_eq_mod x.toNat 2))

/-- R98: the conditions of the branches as comparisons of numbers. -/
theorem not_slt_iff {v w : Word} : (!v.slt w) = true ↔ w.toInt ≤ v.toInt := by
  rw [Bool.not_eq_true', ← Bool.not_eq_true, BitVec.slt_iff_toInt_lt, not_lt]

theorem not_ult_iff {v w : Word} : (!v.ult w) = true ↔ w.toNat ≤ v.toNat := by
  rw [Bool.not_eq_true', ← Bool.not_eq_true, BitVec.ult_iff_toNat_lt, not_lt]

section
variable {s : State} (hs : s.issuing = true)
include hs

/-- R98: a branch goes to its target where its condition holds and to the next word where it does not. -/
theorem branch_goes (hext : s.curSlot.ext.length ≤ 2) {k : Nat} (f : BitVec k) {cond : Thread → Bool} {c : Prop}
    (hc : cond s.curSlot.th = true ↔ c) : ∃ t, branch s f cond = .next t ∧
      (c → t = s.ended id (fromInt (s.curSlot.ipc.toInt + 4 * extInt s.curSlot.ext f))) ∧
      (¬ c → t = s.ended id (s.curSlot.ipc + 4#64)) := by
  rw [← relTarget_eq hext]
  refine ⟨_, onFlow_ended s _ id _ hs rfl, fun h => ?_, fun h => ?_⟩
  · rw [if_pos (hc.2 h)]
  · rw [if_neg (mt hc.1 h)]

/-- R99: a register jump to a multiple of 4, and to another address. -/
theorem jumpReg_aligned (d a : Reg) (h : (s.rd a).toNat % 4 = 0) :
    jumpReg s d a = .next (s.ended (fun th => th.setReg d s.following) (s.rd a)) := by
  have haligned : ¬ s.curSlot.th.reg a &&& 3#64 ≠ 0#64 := not_not.2 ((lowBits_eq_zero _).2 h)
  rw [jumpReg, if_neg haligned]
  exact onFlow_ended s _ _ _ hs rfl

theorem jumpReg_misaligned (d a : Reg) (h : (s.rd a).toNat % 4 ≠ 0) :
    jumpReg s d a = .next (s.raise s.cur.1 s.cur.2 0x03 (s.rd a) 0#64) := by
  have hbad : s.curSlot.th.reg a &&& 3#64 ≠ 0#64 := mt (lowBits_eq_zero _).1 h
  rw [jumpReg, if_pos hbad]
  exact raiseCur_next s _ _ _ hs

end

theorem branches_go : Claim.branches := by
  intro s a b f g hs x y ip stay hext o o2 go pick br
  have hbr {i : Instr} {c : Prop} (cond : Thread → Bool) (he : exec i s = branch s f cond) (hc : cond s.curSlot.th = true ↔ c) :
      br i c := by
    show ∃ t, exec i s = .next t ∧ _
    rw [he]
    exact branch_goes hs hext f hc
  have htarget {k : Nat} (j : BitVec k) : relTarget ip s.curSlot.ext j = fromInt (ip.toInt + 4 * extInt s.curSlot.ext j) :=
    relTarget_eq hext ip j
  refine ⟨hbr (fun th => th.reg a == th.reg b) rfl beq_iff_eq, hbr (fun th => th.reg a != th.reg b) rfl bne_iff_ne,
    hbr (fun th => (th.reg a).slt (th.reg b)) rfl BitVec.slt_iff_toInt_lt, hbr (fun th => !(th.reg a).slt (th.reg b)) rfl not_slt_iff,
    hbr (fun th => (th.reg a).ult (th.reg b)) rfl BitVec.ult_iff_toNat_lt, hbr (fun th => !(th.reg a).ult (th.reg b)) rfl not_ult_iff,
    hbr (fun th => th.reg a == 0#64) rfl (beq_iff_eq.trans (toInt_eq_zero_iff x).symm),
    hbr (fun th => th.reg a != 0#64) rfl (bne_iff_ne.trans (not_congr (toInt_eq_zero_iff x)).symm),
    hbr (fun th => (th.reg a).slt 0#64) rfl BitVec.slt_iff_toInt_lt, hbr (fun th => !(th.reg a).slt 0#64) rfl not_slt_iff,
    hbr (fun th => (0#64).slt (th.reg a)) rfl BitVec.slt_iff_toInt_lt, hbr (fun th => !(0#64).slt (th.reg a)) rfl not_slt_iff,
    ?_, ?_, ?_⟩
  · rw [← htarget]
    exact onFlow_ended s (fun sl => (sl.th, relTarget sl.ipc sl.ext g)) id _ hs rfl
  · rw [← htarget]
    exact onFlow_ended s (fun sl => (sl.th.setReg (.w 7#3) (sl.ipc + 4#64), relTarget sl.ipc sl.ext g)) _ _ hs rfl
  · have hv : fromInt (x.toInt - 1) = x - 1#64 := by simp [fromInt, ofInt_sub]
    rw [hv, ← htarget]
    refine onFlow_ended s (fun sl => (sl.th.setReg a (sl.th.reg a - 1#64),
      if sl.th.reg a - 1#64 ≠ 0#64 then relTarget sl.ipc sl.ext f else sl.ipc + 4#64)) _ _ hs (Prod.ext rfl ?_)
    exact ite_not _ _ _

theorem registerJumps_go : Claim.registerJumps := by
  intro s d a hs x
  exact ⟨fun h => ⟨jumpReg_aligned hs .zr a h, jumpReg_aligned hs d a h⟩,
    fun h => ⟨jumpReg_misaligned hs .zr a h, jumpReg_misaligned hs d a h⟩⟩

/-- Settles O10: each branch by its condition, each jump by its target. -/
theorem branchesAndJumps : Obligations.BranchesAndJumps := ⟨branches_go, registerJumps_go⟩

end Sys2Proof.Machine
end

section
/-! SUPPORT. Comparisons of floating-point values, minimum and maximum, signs and classes (R29, R30, R93, R94). -/

namespace Sys2Proof.Machine

/-! ### Flags -/

@[simp] theorem orFlags_none (th : Thread) : th.orFlags Flags.none = th := by
  have h : th.st ||| (Flags.none.zeroExtend 64) <<< 4 = th.st := by simp [Flags.none]
  rw [Thread.orFlags, h]

@[simp] theorem wroteFlags_none (s : State) (d : Reg) (v : Word) : s.wroteFlags d v Flags.none = s.wrote d v := by
  simp only [State.wroteFlags, State.wrote, orFlags_none]

/-! ### The order of values (R94) -/

section
variable {x y : Val}

/-- R94: finite values compare as the rational numbers that they stand for. -/
theorem cmpVal_finite (hx : x.isFinite = true) (hy : y.isFinite = true) :
    ∃ (z k : Int), cmpVal x y = z.sign ∧ (z : ℚ) * 2 ^ k = x.rat - y.rat := by
  obtain ⟨a, m, e, rfl⟩ := eq_fin_of_isFinite hx
  obtain ⟨b, n, f, rfl⟩ := eq_fin_of_isFinite hy
  refine ⟨_, _, rfl, (addFin_rat a m e (!b) n f).trans ?_⟩
  rw [sub_eq_add_neg, ← rat_neg]
  rfl

theorem cmpVal_of_rat_lt (hx : x.isFinite = true) (hy : y.isFinite = true) (h : x.rat < y.rat) : cmpVal x y = -1 := by
  obtain ⟨z, k, hcmp, hz⟩ := cmpVal_finite hx hy
  have hneg : (z : ℚ) < 0 := by
    have : (z : ℚ) * 2 ^ k < 0 := by linarith
    exact neg_of_mul_neg_left this (by positivity)
  rw [hcmp, Int.sign_eq_neg_one_of_neg (by exact_mod_cast hneg)]

theorem cmpVal_of_rat_gt (hx : x.isFinite = true) (hy : y.isFinite = true) (h : y.rat < x.rat) : cmpVal x y = 1 := by
  obtain ⟨z, k, hcmp, hz⟩ := cmpVal_finite hx hy
  have hpos : 0 < (z : ℚ) := by
    have : 0 < (z : ℚ) * 2 ^ k := by linarith
    exact pos_of_mul_pos_left this (by positivity)
  rw [hcmp, Int.sign_eq_one_of_pos (by exact_mod_cast hpos)]

theorem cmpVal_of_rat_eq (hx : x.isFinite = true) (hy : y.isFinite = true) (h : x.rat = y.rat) : cmpVal x y = 0 := by
  obtain ⟨z, k, hcmp, hz⟩ := cmpVal_finite hx hy
  have hzero : (z : ℚ) = 0 := by
    have : (z : ℚ) * 2 ^ k = 0 := by linarith
    exact (mul_eq_zero.1 this).resolve_right (by positivity)
  rw [hcmp, Int.cast_eq_zero.1 hzero, Int.sign_zero]

/-- R94: what the comparison of two values answers: either way round where one is below the other, and where they are equal. -/
theorem cmpVal_below (h : x.Below y) : cmpVal x y = -1 ∧ cmpVal y x = 1 := by
  match x, y, h with
  | .fin _ _ _, .fin _ _ _, h => exact ⟨cmpVal_of_rat_lt rfl rfl h, cmpVal_of_rat_gt rfl rfl h⟩
  | .inf true, .inf false, _ => exact ⟨rfl, rfl⟩
  | .inf true, .fin _ _ _, _ => exact ⟨rfl, rfl⟩
  | .fin _ _ _, .inf false, _ => exact ⟨rfl, rfl⟩

theorem cmpVal_same (h : x.Same y) : cmpVal x y = 0 := by
  match x, y, h with
  | .fin _ _ _, .fin _ _ _, h => exact cmpVal_of_rat_eq rfl rfl h
  | .inf a, .inf b, h => exact if_pos h

/-! ### Minimum and maximum (R93) -/

theorem lessVal_below (h : x.Below y) : lessVal x y = true ∧ lessVal y x = false := by
  obtain ⟨hlt, hgt⟩ := cmpVal_below h
  rw [lessVal, lessVal, hlt, hgt]
  exact ⟨rfl, rfl⟩

theorem pickMinMax_ordered (isMax : Bool) (hx : x.isNan = false) (hy : y.isNan = false) :
    pickMinMax isMax x y = if (if isMax then lessVal x y else lessVal y x) then .second else .first := by
  cases isMax <;> simp [pickMinMax, hx, hy, isSig_of_isNan]

theorem pickMinMax_below (isMax : Bool) (hx : x.isNan = false) (hy : y.isNan = false) (h : x.Below y) :
    pickMinMax isMax x y = (if isMax then .second else .first) ∧ pickMinMax isMax y x = if isMax then .first else .second := by
  obtain ⟨hless, hnot⟩ := lessVal_below h
  rw [pickMinMax_ordered isMax hx hy, pickMinMax_ordered isMax hy hx, hless, hnot]
  cases isMax <;> exact ⟨rfl, rfl⟩

theorem pickMinMax_signalling (isMax : Bool) (h : (x.isSig || y.isSig) = true) : pickMinMax isMax x y = .nan true := by
  rw [pickMinMax, if_pos h]

end

/-- R93: the state after `fmin` or `fmax` of two register values, by the operand picked. -/
def State.picked (s : State) (d : Reg) (p : Bool) (u v : Word) : Pick → State
  | .first => s.wrote d (fromNat (fpBits p u))
  | .second => s.wrote d (fromNat (fpBits p v))
  | .nan nv => s.wroteFlags d (fromNat (fpFmt p).nanCode) (Flags.nvIf nv)

section
variable {s : State} (hs : s.issuing = true) {d a b : Reg} {p : Bool}
include hs

theorem fpPick_picked (isMax : Bool) : fpPick s isMax d a b p =
    .next (s.picked d p (s.rd a) (s.rd b) (pickMinMax isMax (fpVal p (s.rd a)) (fpVal p (s.rd b)))) := by
  rw [fpPick, onThread_next s _ hs]
  refine congrArg _ ?_
  have hvals : pickMinMax isMax ((fpFmt p).value (fpBits p (s.curSlot.th.reg a))) ((fpFmt p).value (fpBits p (s.curSlot.th.reg b))) =
    pickMinMax isMax (fpVal p (s.rd a)) (fpVal p (s.rd b)) := rfl
  cases hpick : pickMinMax isMax (fpVal p (s.rd a)) (fpVal p (s.rd b)) <;>
    exact modCur_congr s _ _ (by simp only [hvals, hpick]; rfl)

theorem exec_fmin : exec (.fmin d a b p) s =
    .next (s.picked d p (s.rd a) (s.rd b) (pickMinMax false (fpVal p (s.rd a)) (fpVal p (s.rd b)))) := fpPick_picked hs false

theorem exec_fmax : exec (.fmax d a b p) s =
    .next (s.picked d p (s.rd a) (s.rd b) (pickMinMax true (fpVal p (s.rd a)) (fpVal p (s.rd b)))) := fpPick_picked hs true

/-! ### The comparing forms (R94) -/

theorem fpCmp_ordered {quiet : Bool} {test : Int → Bool} {c : Int} (hx : (fpVal p (s.rd a)).isNan = false)
    (hy : (fpVal p (s.rd b)).isNan = false) (hc : cmpVal (fpVal p (s.rd a)) (fpVal p (s.rd b)) = c) :
    fpCmp s d a b p quiet test = .next (s.wrote d (boolWord (test c))) := by
  have hcompare : compareVal quiet test (fpVal p (s.rd a)) (fpVal p (s.rd b)) = (test c, Flags.none) := by
    simp [compareVal, hx, hy, hc]
  rw [← wroteFlags_none]
  refine (onThread_wroteFlags s d _ _ hs).trans ?_
  rw [← State.rd, ← State.rd, hcompare]

theorem exec_comparisons_ordered {c : Int} (hx : (fpVal p (s.rd a)).isNan = false) (hy : (fpVal p (s.rd b)).isNan = false)
    (hc : cmpVal (fpVal p (s.rd a)) (fpVal p (s.rd b)) = c) :
    exec (.flt d a b p) s = .next (s.wrote d (boolWord (c < 0))) ∧
      exec (.fle d a b p) s = .next (s.wrote d (boolWord (c ≤ 0))) ∧
      exec (.feq d a b p) s = .next (s.wrote d (boolWord (c == 0))) :=
  ⟨fpCmp_ordered hs (test := (· < 0)) hx hy hc, fpCmp_ordered hs (test := (· ≤ 0)) hx hy hc,
    fpCmp_ordered hs (test := (· == 0)) hx hy hc⟩

theorem fpCmp_nan {quiet : Bool} {test : Int → Bool} (h : ((fpVal p (s.rd a)).isNan || (fpVal p (s.rd b)).isNan) = true) :
    fpCmp s d a b p quiet test =
      .next (s.wroteFlags d 0#64 (Flags.nvIf (!quiet || (fpVal p (s.rd a)).isSig || (fpVal p (s.rd b)).isSig))) := by
  have hcompare : compareVal quiet test (fpVal p (s.rd a)) (fpVal p (s.rd b)) =
    (false, Flags.nvIf (!quiet || (fpVal p (s.rd a)).isSig || (fpVal p (s.rd b)).isSig)) := if_pos h
  refine (onThread_wroteFlags s d _ _ hs).trans ?_
  rw [← State.rd, ← State.rd, hcompare]
  rfl

theorem exec_comparisons_nan (h : ((fpVal p (s.rd a)).isNan || (fpVal p (s.rd b)).isNan) = true) :
    exec (.flt d a b p) s = .next (s.wroteFlags d 0#64 Flags.nv) ∧ exec (.fle d a b p) s = .next (s.wroteFlags d 0#64 Flags.nv) ∧
      exec (.feq d a b p) s = .next (s.wroteFlags d 0#64 (Flags.nvIf ((fpVal p (s.rd a)).isSig || (fpVal p (s.rd b)).isSig))) :=
  ⟨fpCmp_nan hs (quiet := false) (test := (· < 0)) h, fpCmp_nan hs (quiet := false) (test := (· ≤ 0)) h,
    fpCmp_nan hs (quiet := true) (test := (· == 0)) h⟩

end

/-! ### Classes (R94) -/

/-- R29: the smallest normal magnitude of a precision is two to its lowest exponent. -/
theorem leastNormal_eq (p : Bool) : leastNormal p = 2 ^ (1 - ((fpFmt p).bias : Int)) := by cases p <;> rfl

/-- R30: the magnitude of a subnormal code lies below every normal one's. -/
theorem Fmt.value_scale {f : Fmt} {c : Nat} {n : Bool} {m : Nat} {e : Int} (htop : f.top = .e4m3 → f = e4m3)
    (h : f.value c = .fin n m e) : (m < 2 ^ f.manBits ∧ e = 1 - (f.bias : Int) - f.manBits) ∨
      (2 ^ f.manBits ≤ m ∧ 1 - (f.bias : Int) - f.manBits ≤ e) := by
  have hplain := (value_plain htop (by rw [h]; rfl)).1.symm.trans h
  rw [plainValue] at hplain
  split at hplain
  · obtain ⟨-, rfl, rfl⟩ := Val.fin.inj hplain
    exact .inl ⟨f.manField_lt c, rfl⟩
  · obtain ⟨-, rfl, rfl⟩ := Val.fin.inj hplain
    exact .inr ⟨by omega, by omega⟩

theorem fpVal_subnormal {p : Bool} {x : Word} {n : Bool} {m : Nat} {e : Int} (h : fpVal p x = .fin n m e) :
    m < 2 ^ (fpFmt p).manBits ↔ |(fpVal p x).rat| < leastNormal p := by
  have hgrid : ((2 ^ (fpFmt p).manBits : Nat) : ℚ) * 2 ^ (1 - ((fpFmt p).bias : Int) - (fpFmt p).manBits) = leastNormal p := by
    rw [leastNormal_eq, Nat.cast_pow, Nat.cast_ofNat, ← zpow_natCast, ← zpow_add₀ two_ne_zero, add_sub_cancel]
  rw [h, abs_rat_fin, ← hgrid]
  rcases Fmt.value_scale (by cases p <;> nofun) h with ⟨hm, rfl⟩ | ⟨hm, he⟩
  · exact iff_of_true hm (mul_lt_mul_of_pos_right (by exact_mod_cast hm) (by positivity))
  · refine iff_of_false (not_lt.2 hm) (not_lt.2 ?_)
    exact mul_le_mul (by exact_mod_cast hm) (zpow_le_zpow_right₀ one_le_two he) (by positivity) (by positivity)

/-- R94: `fclass` writes the bit of the class. -/
theorem exec_fclass {s : State} (hs : s.issuing = true) (d a : Reg) (p : Bool) {k : Nat}
    (h : classBit (fpFmt p) (fpBits p (s.rd a)) = k) : exec (.fclass d a p) s = .next (s.wrote d (fromNat (2 ^ k))) := by
  have hbit : 1#64 <<< k = fromNat (2 ^ k) := by rw [shiftLeft_fromNat]; simp
  rw [← hbit, ← h]
  exact op1_wrote s d a (fun x => 1#64 <<< classBit (fpFmt p) (fpBits p x)) hs

section
variable {p : Bool} {x : Word}

theorem classBit_inf {n : Bool} (h : fpVal p x = .inf n) : classBit (fpFmt p) (fpBits p x) = if n then 0 else 7 := by
  rw [classBit, show (fpFmt p).value (fpBits p x) = _ from h]

theorem classBit_nan {sig : Bool} (h : fpVal p x = .nan sig) : classBit (fpFmt p) (fpBits p x) = if sig then 8 else 9 := by
  rw [classBit, show (fpFmt p).value (fpBits p x) = _ from h]

/-- R94: zero, subnormal and normal values, told by their magnitude. -/
theorem classBit_finite (h : (fpVal p x).isFinite = true) : classBit (fpFmt p) (fpBits p x) =
    if (fpVal p x).rat = 0 then (if (fpVal p x).sign then 3 else 4)
    else if |(fpVal p x).rat| < leastNormal p then (if (fpVal p x).sign then 2 else 5)
    else if (fpVal p x).sign then 1 else 6 := by
  obtain ⟨n, m, e, hval⟩ := eq_fin_of_isFinite h
  have hzero : (fpVal p x).rat = 0 ↔ m = 0 := by rw [hval, rat_fin_eq_zero]
  simp only [hzero, ← fpVal_subnormal hval]
  rw [classBit, show (fpFmt p).value (fpBits p x) = _ from hval, hval]
  rfl

end

/-! ### Signs (R90, R94) -/

section
variable (p : Bool) (x : Word) {i : Nat}

/-- R90: the place of the sign bit. -/
def signPlace : Nat := if p then 63 else 31

theorem signMask_bit (hi : i < 64) : (signMask p).getLsbD i = decide (i = signPlace p) := by
  have hmask : signMask p = BitVec.twoPow 64 (signPlace p) := by cases p <;> rfl
  rw [hmask, BitVec.getLsbD_twoPow]
  grind

theorem fpWord_bit (hi : i < 64) : (fpWord p x).getLsbD i = (decide (i ≤ signPlace p) && x.getLsbD i) := by
  cases p with
  | false =>
    have hmask : (0xFFFFFFFF#64).getLsbD i = decide (i ≤ 31) := by
      rw [show 0xFFFFFFFF#64 = BitVec.ofNat 64 (2 ^ 32 - 1) from rfl, BitVec.getLsbD_ofNat, Nat.testBit_two_pow_sub_one, decide_eq_true hi,
        Bool.true_and]
      exact decide_eq_decide.2 Nat.lt_succ_iff
    rw [fpWord, if_neg Bool.false_ne_true, BitVec.getLsbD_and, hmask, Bool.and_comm]
    rfl
  | true => simp [fpWord, signPlace, Nat.le_of_lt_succ hi]

theorem fabs_bit (hi : i < 64) : (fpWord p x &&& ~~~signMask p).getLsbD i = (decide (i < signPlace p) && x.getLsbD i) := by
  rw [BitVec.getLsbD_and, BitVec.getLsbD_not, signMask_bit p hi, fpWord_bit p x hi]
  rcases lt_trichotomy i (signPlace p) with h | h | h
  · simp [h, h.le, h.ne, hi]
  · simp [h]
  · simp [h.not_ge, h.not_gt]

theorem fneg_bit (hi : i < 64) : (fpWord p x ^^^ signMask p).getLsbD i =
    if i = signPlace p then !x.getLsbD i else decide (i < signPlace p) && x.getLsbD i := by
  rw [BitVec.getLsbD_xor, signMask_bit p hi, fpWord_bit p x hi]
  rcases lt_trichotomy i (signPlace p) with h | h | h
  · simp [h, h.le, h.ne]
  · simp [h]
  · simp [h.not_ge, h.not_gt, h.ne']

end

/-- Settles O8: by the order of the two values, by the NaNs among them, bit by bit for the signs, and by magnitude for the class. -/
theorem floatComparisons : Obligations.FloatComparisons := by
  intro s d a b p hs cx cy x y sg bit
  have hclass {k : Nat} (h : classBit (fpFmt p) (fpBits p (s.rd a)) = k) : bit k := exec_fclass hs d a p h
  refine ⟨fun hx hy => ⟨fun h => ?_, fun h => ?_, fun h => ?_⟩, fun h => ?_, fun h => ?_, ?_, fun h => hclass (classBit_inf h),
    fun h => hclass (classBit_inf h), fun h => hclass (classBit_nan h), fun h => hclass (classBit_nan h), fun h h0 => ?_,
    fun h h0 h1 => ?_, fun h h1 => ?_⟩
  · obtain ⟨hlt, hle, heq⟩ := exec_comparisons_ordered hs (d := d) hx hy (cmpVal_below h).1
    rw [exec_fmin hs, exec_fmax hs, (pickMinMax_below false hx hy h).1, (pickMinMax_below true hx hy h).1]
    exact ⟨rfl, rfl, hlt, hle, heq⟩
  · obtain ⟨hlt, hle, heq⟩ := exec_comparisons_ordered hs (d := d) hx hy (cmpVal_below h).2
    rw [exec_fmin hs, exec_fmax hs, (pickMinMax_below false hy hx h).2, (pickMinMax_below true hy hx h).2]
    exact ⟨rfl, rfl, hlt, hle, heq⟩
  · exact exec_comparisons_ordered hs hx hy (cmpVal_same h)
  · exact exec_comparisons_nan hs h
  · rw [exec_fmin hs, exec_fmax hs, pickMinMax_signalling _ h, pickMinMax_signalling _ h]
    exact ⟨rfl, rfl⟩
  · refine ⟨fpWord p (s.rd a) &&& ~~~signMask p, fpWord p (s.rd a) ^^^ signMask p,
      op1_wrote s d a (fun x => fpWord p x &&& ~~~signMask p) hs, op1_wrote s d a (fun x => fpWord p x ^^^ signMask p) hs,
      fun i hi => ?_⟩
    exact ⟨fabs_bit p (s.rd a) hi, fneg_bit p (s.rd a) hi⟩
  · exact hclass ((classBit_finite h).trans (if_pos h0))
  · exact hclass ((classBit_finite h).trans ((if_neg h0).trans (if_pos h1)))
  · have hnonzero : x.rat ≠ 0 := by
      have hpos : 0 < leastNormal p := by
        rw [leastNormal_eq]
        positivity
      exact abs_pos.1 (hpos.trans_le h1)
    exact hclass ((classBit_finite h).trans ((if_neg hnonzero).trans (if_neg (not_lt.2 h1))))

end Sys2Proof.Machine
end

section
/-! SUPPORT. What a scalar instruction leaves unchanged: every one writes at most one register and the sticky flags (R78-R80). -/

namespace Sys2Proof.Machine

/-! ### One register and the flags of a thread -/

@[simp] theorem reg_orFlags (th : Thread) (fl : Flags) (r : Reg) : (th.orFlags fl).reg r = th.reg r := by cases r <;> rfl

@[simp] theorem st_setReg (th : Thread) (d : Reg) (v : Word) : (th.setReg d v).st = th.st := by cases d <;> rfl

theorem reg_setReg_other (th : Thread) {d r : Reg} (v : Word) (h : r ≠ d) : (th.setReg d v).reg r = th.reg r := by
  by_cases hd : d = .zr
  · rw [hd, setReg_zr]
  · rw [reg_setReg th d r v hd, if_neg h]

theorem sameSpecial_setReg (th : Thread) (d : Reg) (v : Word) : th.SameSpecial (th.setReg d v) := by
  cases d <;> exact ⟨rfl, rfl, rfl, rfl, rfl, rfl, rfl, rfl, rfl, rfl, rfl, rfl⟩

/-- R22, R40: the flags are the bits 9:4 of `st`. -/
theorem flags_outside (x : Word) (fl : Flags) : (x ||| (fl.zeroExtend 64) <<< 4) &&& ~~~0x3F0#64 = x &&& ~~~0x3F0#64 := by
  have h : (fl.zeroExtend 64 <<< 4) &&& ~~~0x3F0#64 = 0#64 := by
    revert fl
    decide
  rw [BitVec.and_comm, BitVec.and_or_distrib_left, BitVec.and_comm _ (fl.zeroExtend 64 <<< 4), h, BitVec.or_zero, BitVec.and_comm]

theorem sameSpecial_orFlags {th th' : Thread} (h : th.SameSpecial th') (fl : Flags) : th.SameSpecial (th'.orFlags fl) := by
  obtain ⟨h1, h2, h3, h4, h5, h6, h7, h8, h9, h10, h11, hst⟩ := h
  exact ⟨h1, h2, h3, h4, h5, h6, h7, h8, h9, h10, h11, (flags_outside th'.st fl).trans hst⟩

/-! ### The steps of the scalar instructions -/

section
variable {s t : State} {d : Reg} {flagged : Bool}

/-- The issuing thread got a value in register `d`, flags where the form sets any, and a new `pc`; nothing else happened. -/
def State.ScalarStep (s t : State) (d : Reg) (flagged : Bool) : Prop :=
  s.issuing = true ∧ ∃ v fl pc, (flagged = false → fl = Flags.none) ∧ t = s.ended (fun th => (th.setReg d v).orFlags fl) pc

theorem onThread_step {f : Slot → Thread} (v : Word) (fl : Flags) (h : onThread s f = .next t)
    (hf : f s.curSlot = (s.curSlot.th.setReg d v).orFlags fl) (hfl : flagged = false → fl = Flags.none) :
    s.ScalarStep t d flagged := by
  obtain ⟨hs, rfl⟩ := onThread_inv h
  exact ⟨hs, v, fl, s.following, hfl, modCur_congr s _ _ (congrArg (fun th => ({ s.curSlot with th := th } : Slot).finish) hf)⟩

/-- A form that writes one register and sets no flag. -/
theorem setReg_step (F : Slot → Word) (h : onThread s (fun sl => sl.th.setReg d (F sl)) = .next t) : s.ScalarStep t d flagged :=
  onThread_step (F s.curSlot) Flags.none h (orFlags_none _).symm (fun _ => rfl)

theorem onFlow_step {f : Slot → Thread × Word} (v : Word) (h : onFlow s f = .next t) (hf : (f s.curSlot).1 = s.curSlot.th.setReg d v) :
    s.ScalarStep t d flagged := by
  obtain ⟨hs, rfl⟩ := onFlow_inv h
  refine ⟨hs, v, Flags.none, (f s.curSlot).2, fun _ => rfl, modCur_congr s _ _ ?_⟩
  simp only [hf, orFlags_none]

theorem op1_step {d a : Reg} {f : Word → Word} (h : op1 s d a f = .next t) : s.ScalarStep t d flagged := setReg_step _ h
theorem op2_step {d a b : Reg} {f : Word → Word → Word} (h : op2 s d a b f = .next t) : s.ScalarStep t d flagged := setReg_step _ h
theorem op2w_step {d a b : Reg} {w : Bool} {f : Word → Word → Word} {g : BitVec 32 → BitVec 32 → BitVec 32}
    (h : op2w s d a b w f g = .next t) : s.ScalarStep t d flagged := op2_step h
theorem opImm_step {d a : Reg} {f : List (BitVec 25) → Word → Word} (h : opImm s d a f = .next t) : s.ScalarStep t d flagged :=
  setReg_step _ h

/-- R98: a branch writes no register. -/
theorem branch_step {k : Nat} {f : BitVec k} {cond : Thread → Bool} (h : branch s f cond = .next t) : s.ScalarStep t .zr flagged :=
  onFlow_step 0#64 h rfl

/-- R79: the forms that set flags. -/
theorem fp2_step {d a b : Reg} {p : Bool} {f : Nat → Val → Val → Val × Flags} (h : fp2 s d a b p f = .next t) :
    s.ScalarStep t d true := onThread_step _ _ h rfl (fun h => nomatch h)

theorem fused_step {d a b : Reg} {p np nz : Bool} (h : fused s d a b p np nz = .next t) : s.ScalarStep t d true :=
  onThread_step _ _ h rfl (fun h => nomatch h)

theorem accFused_step {a b : Reg} {p : Bool} (h : accFused s a b p = .next t) : s.ScalarStep t .acc true :=
  onThread_step _ _ h rfl (fun h => nomatch h)

theorem fpCmp_step {d a b : Reg} {p quiet : Bool} {test : Int → Bool} (h : fpCmp s d a b p quiet test = .next t) :
    s.ScalarStep t d true := onThread_step _ _ h rfl (fun h => nomatch h)

theorem wrote_step (hs : s.issuing = true) (v : Word) : s.ScalarStep (s.wrote d v) d flagged :=
  ⟨hs, v, Flags.none, s.following, fun _ => rfl, (wroteFlags_none s d v).symm⟩

/-- R93: an operand is written without a flag, the canonical NaN with its own. -/
theorem fpPick_step {isMax : Bool} {d a b : Reg} {p : Bool} (h : fpPick s isMax d a b p = .next t) : s.ScalarStep t d true := by
  obtain ⟨hs, -⟩ := onThread_inv h
  rw [fpPick_picked hs] at h
  cases h
  cases pickMinMax isMax (fpVal p (s.rd a)) (fpVal p (s.rd b)) with
  | first => exact wrote_step hs _
  | second => exact wrote_step hs _
  | nan nv => exact ⟨hs, fromNat (fpFmt p).nanCode, Flags.nvIf nv, s.following, fun h => (nomatch h), rfl⟩

/-- R78-R80: a scalar instruction with one destination takes such a step. -/
theorem exec_scalarStep {i : Instr} (hd : scalarDest i = some d) (h : exec i s = .next t) : s.ScalarStep t d (setsFlags i) := by
  cases i with
  | add | sub | sll | srl | sra | mul | div | divu | rem | remu =>
    cases hd
    simp only [exec, execAdd, execSub, execSll, execSrl, execSra, execMul, execDiv, execDivu, execRem, execRemu] at h
    exact op2w_step h
  | and | or | xor | slt | sltu | min | max | minu | maxu | mulh | mulhu =>
    cases hd
    simp only [exec, execAnd, execOr, execXor, execSlt, execSltu, execMin, execMax, execMinu, execMaxu, execMulh, execMulhu] at h
    exact op2_step h
  | addi | andi | ori | xori | slti =>
    cases hd
    simp only [exec, execAddi, execAndi, execOri, execXori, execSlti] at h
    exact opImm_step h
  | slli | srli | srai | clz | ctz | popc | bswap | bext | bexts | fabs | fneg | fclass =>
    cases hd
    simp only [exec, execSlli, execSrli, execSrai, execClz, execCtz, execPopc, execBswap, execBext, execBexts, execFabs, execFneg,
      execFclass] at h
    exact op1_step h
  | movi | movhi | bins | mac | msb =>
    cases hd
    simp only [exec, execMovi, execMovhi, execBins, execMac, execMsb] at h
    exact setReg_step _ h
  | fadd | fsub | fmul | fdiv | fsqrt =>
    cases hd
    simp only [exec, execFadd, execFsub, execFmul, execFdiv, execFsqrt] at h
    exact fp2_step h
  | fma | fms | fnma | fnms =>
    cases hd
    simp only [exec, execFma, execFms, execFnma, execFnms] at h
    exact fused_step h
  | fmacS | fmacD =>
    cases hd
    simp only [exec, execFmacS, execFmacD] at h
    exact accFused_step h
  | fmin | fmax =>
    cases hd
    simp only [exec, execFmin, execFmax] at h
    exact fpPick_step h
  | feq | flt | fle =>
    cases hd
    simp only [exec, execFeq, execFlt, execFle] at h
    exact fpCmp_step h
  | cvt =>
    cases hd
    simp only [exec, execCvt] at h
    exact onThread_step _ _ h rfl (fun h => nomatch h)
  | beq | bne | blt | bge | bltu | bgeu | bz | bnz | bltz | bgez | bgtz | blez =>
    cases hd
    simp only [exec, execBeq, execBne, execBlt, execBge, execBltu, execBgeu, execBz, execBnz, execBltz, execBgez, execBgtz,
      execBlez] at h
    exact branch_step h
  | jmp =>
    cases hd
    simp only [exec, execJmp] at h
    exact onFlow_step 0#64 h rfl
  | jal =>
    cases hd
    simp only [exec, execJal] at h
    exact onFlow_step _ h rfl
  | dbnz =>
    cases hd
    simp only [exec, execDbnz] at h
    exact onFlow_step _ h rfl
  | _ => cases hd

end

/-! ### The frame -/

/-- Settles O12: nothing but the issuing thread changes, and of it one register, the sticky flags and `pc`. -/
theorem scalarFrame : Obligations.ScalarFrame := by
  intro i d s t hd h
  obtain ⟨hs, v, fl, pc, hfl, rfl⟩ := exec_scalarStep hd h
  rw [then_ended hs]
  refine ⟨ended_onlySlot s _ _, fun _ => ⟨rfl, rfl, rfl⟩, fun r hr => ?_, ?_, fun hflag => ?_, fun n hn => ?_⟩
  · exact (reg_orFlags _ fl r).trans (reg_setReg_other _ v hr)
  · exact sameSpecial_orFlags (sameSpecial_setReg _ d v) fl
  · rw [hfl hflag, orFlags_none]
    exact st_setReg _ d v
  · show ((s.curSlot.th.setReg d v).st ||| (fl.zeroExtend 64) <<< 4).getLsbD n = true
    rw [st_setReg, BitVec.getLsbD_or, hn, Bool.true_or]

end Sys2Proof.Machine
end

section
/-! SUPPORT. A load that drops from the extent TLB a translation which the extent table does not bear out (R239, R291). -/

namespace Sys2Proof.Machine

/-! ### The state -/

/-- A writable data object of 128 MiB on tile 0 (R284). -/
def staleObject : Object := { desc := (134217727#512 <<< 64) ||| 0xAA#512 }

/-- One thread READY with `.nt` pending. Granule 0 of the object lies in page 5. The set of the extent TLB that granule 0 falls into is
full of other granules of the object, of which the extent table knows none. -/
def staleTile : Tile :=
  { Tile.fresh with
    slots := [{ state := .ready, th := { regs := { w0 := BitVec.ofNat 64 (2 ^ 40) }, kin := 1, ctx := 1 }, budget := 65536, nt := true }]
    odc := [{ key := ⟨1, 1, .desc⟩, stamp := 0 }]
    extents := [(5, { ctx := 1, obj := 1, gran := 0, page := 5 })]
    tlb := [1, 2, 3, 4, 5, 6, 7, 8].map (fun i => (granKey 1 1 (128 * i), 8)) }

/-- The page that those translations name begins with a byte of 0x7F. -/
def staleTlb : State :=
  { State.reset with
    siteOf := [], fields := [(10, { tile := 200 })], tiles := [(0, staleTile)], objects := [(objKey 1 1, staleObject)]
    mem := { State.reset.mem with cells := [(dramKey 0 8 0, 0x7F)] } }

/-- Byte 0 of the object, which the thread loads, and the first byte of granule 1024, whose translation is the least recently used. -/
def loadedPlace : Word := BitVec.ofNat 64 (2 ^ 40)
def stalePlace : Word := BitVec.ofNat 64 (2 ^ 40 + 1024 * 65536)

/-- What the home reads at that place after an outcome. -/
def staleWord : Out → Option Word
  | .next t => some (t.view 0 1 stalePlace).data
  | _ => none

/-- The load at granule 0 takes the place of the oldest translation, without which granule 1024 is nowhere. -/
theorem staleWord_load : staleWord (exec (.ld (.w 5) 0 .d .offset .plain .tile 0) staleTlb) = some 0#64 := by decide +kernel

theorem staleTlb_view : (staleTlb.view 0 1 stalePlace).data = 0x7F#64 := by decide +kernel

theorem staleTlb_home : staleTlb.AtHome 0 1 loadedPlace 8 staleObject where
  aligned := by decide +kernel
  named := .inr ⟨0, by decide +kernel⟩
  inside := by decide +kernel
  resident := by decide +kernel

theorem staleTlb_linesOk : (staleTlb.tile 0).LinesOk := by
  rintro l (hl | hl) <;> cases hl

/-- Refutes O60: the extent TLB is part of what a home reads by, and the statement does not ask that it agree with the extent table.
A load that fills its slice drops the oldest translation of a full set; the granule of that translation read 0x7F before and
reads 0 after. -/
theorem not_memoryFrames : ¬ Obligations.MemoryFrames := by
  intro h
  have hnext : ∃ t, exec (.ld (.w 5) 0 .d .offset .plain .tile 0) staleTlb = .next t := by
    have hload := staleWord_load
    cases hexec : exec (.ld (.w 5) 0 .d .offset .plain .tile 0) staleTlb with
    | next t => exact ⟨t, rfl⟩
    | fault r => rw [hexec] at hload; cases hload
    | refused r => rw [hexec] at hload; cases hload
  obtain ⟨t, ht⟩ := hnext
  obtain ⟨hload, -⟩ := h staleTlb t (.w 5) 0 .zr .d .offset .plain .tile 0 .add false false staleObject
    (.ld (.w 5) 0 .d .offset .plain .tile 0) loadedPlace 8 (by decide +kernel) (sound_of_single rfl rfl rfl rfl rfl)
    staleTlb_linesOk staleTlb_home ht
  obtain ⟨-, hsame⟩ := hload (.inl ⟨rfl, by decide +kernel⟩) rfl
    (.inr ⟨show _ = _ by decide +kernel, show _ < 8 by decide +kernel⟩)
  have hafter := staleWord_load
  rw [ht] at hafter
  have hdata := (hsame 1 stalePlace).1.trans staleTlb_view
  exact absurd ((Option.some.inj hafter).symm.trans hdata) (by decide)

end Sys2Proof.Machine
end

section
/-! SUPPORT. What an access of a thread leaves alone beside its own slot and the caches of its tile (R112, R203, R249). -/

namespace Sys2Proof.Machine

/-! ### Memory, the other tiles and the other slots -/

namespace State.AsideSame
variable {s u v : State} {t k : Nat}

theorem refl (s : State) : s.AsideSame s t k := ⟨rfl, fun _ _ => rfl, fun _ _ => rfl⟩

theorem trans (h : s.AsideSame u t k) (h' : u.AsideSame v t k) : s.AsideSame v t k := by
  obtain ⟨hmem, htiles, hslots⟩ := h
  obtain ⟨hmem', htiles', hslots'⟩ := h'
  exact ⟨hmem'.trans hmem, fun x hx => (htiles' x hx).trans (htiles x hx), fun j hj => (hslots' j hj).trans (hslots j hj)⟩

theorem modSlot (s : State) (t k : Nat) (f : Slot → Slot) : s.AsideSame (s.modSlot t k f) t k :=
  ⟨rfl, fun _ hv => tile_modTile_other s t _ hv, fun _ hj => slot_modSlot_slot s t k f hj⟩

theorem modTile {f : Tile → Tile} (h : ∀ x, (f x).slots = x.slots) : s.AsideSame (s.modTile t f) t k :=
  ⟨rfl, fun _ hv => tile_modTile_other s t _ hv, fun j _ => by simp [State.slot, Tile.slot, h]⟩

theorem odcUse (s : State) (t k ctx : Nat) (a : Word) : s.AsideSame (s.odcUse t ctx a) t k := modTile fun _ => rfl

/-- R354: a step given up is told to the host. -/
theorem stepLeft (s : State) (t k : Nat) : s.AsideSame (s.stepLeft t k) t k := by
  unfold State.stepLeft
  split
  · exact refl s
  · exact modSlot s t k _

/-- R112, R249: a packet of a slot changes the numbers of its tile and of the slot. -/
theorem send {p : Packet} (hsrc : p.src = t) (hslot : p.slot = k) : s.AsideSame (s.send p) t k := by
  subst hsrc hslot
  refine ⟨send_mem s p, fun v hv => ?_, fun j hj => ?_⟩
  · rcases send_tile s p v with h | ⟨h, -⟩
    · exact h
    · exact absurd h hv
  · rcases send_tile s p p.src with h | ⟨-, m, n, f, -, h⟩
    · rw [State.slot, h, State.slot]
    · rw [State.slot, h]
      exact modifyAt_getD_other _ _ _ _ hj

end State.AsideSame

/-! ### The forms as accesses (R102) -/

section
variable {s : State} (hs : s.issuing = true) (d : Reg) (b : Ptr) (x : Reg) (z : Size) (o : Sys2Proof.Order) (c : Scope)
include hs

theorem exec_ldx : exec (.ldx d b x z o c) s = .next (s.load s.cur.1 s.cur.2
    (s.curSlot.th.regs.get b + fromInt ((s.rd x).toInt * sizeBytes z)) d z s.curSlot.sx s.curSlot.nt none) := by
  change execLdx d b x z o c s = _
  rw [execLdx, onIssue_next s _ hs, addrX_eq]
  rfl

theorem exec_stx : exec (.stx d b x z o c) s = .next (s.store s.cur.1 s.cur.2
    (s.curSlot.th.regs.get b + fromInt ((s.rd x).toInt * sizeBytes z)) (s.rd d) z s.curSlot.nt (orderRel o) c none) := by
  change execStx d b x z o c s = _
  rw [execStx, onIssue_next s _ hs, addrX_eq]
  rfl

variable (hext : s.curSlot.ext.length ≤ 2) (m : Mode) (f : BitVec 9)
include hext

theorem exec_ld : exec (.ld d b z m o c f) s = .next (s.load s.cur.1 s.cur.2
    (memPlace s.curSlot.th b m (sizeBytes z) (extInt s.curSlot.ext f)).1 d z s.curSlot.sx s.curSlot.nt
    (addrM s.curSlot.th b m (sizeBytes z) s.curSlot.ext f).2) := by
  change execLd d b z m o c f s = _
  rw [execLd, onIssue_next s _ hs, ← addrM_fst hext]

theorem exec_st : exec (.st d b z m o c f) s = .next (s.store s.cur.1 s.cur.2
    (memPlace s.curSlot.th b m (sizeBytes z) (extInt s.curSlot.ext f)).1 (s.rd d) z s.curSlot.nt (orderRel o) c
    (addrM s.curSlot.th b m (sizeBytes z) s.curSlot.ext f).2) := by
  change execSt d b z m o c f s = _
  rw [execSt, onIssue_next s _ hs, ← addrM_fst hext]
  rfl

theorem exec_ldr : let a := s.curSlot.th.regs.get b + fromInt (extInt s.curSlot.ext f * sizeBytes z)
    exec (.ldr d b z o c f) s = .next (s.access s.cur.1 s.cur.2 a (sizeBytes z) false false
      (fun o u => u.loadHere s.cur.1 s.cur.2 o a d z s.curSlot.sx false none)
      (fun _ v g u => u.remoteRead s.cur.1 s.cur.2 v g a d z s.curSlot.sx none false) (fun _ u => u)) := by
  intro a
  change execLdr d b z o c f s = _
  rw [execLdr, onIssue_next s _ hs]
  dsimp only
  rw [immWord_eq hext, fromInt_mul]

end

end Sys2Proof.Machine
end

section
/-! SUPPORT. The checks of an access of a thread, and the poison that its load meets (R103, R113, R203). -/

namespace Sys2Proof.Machine

section
variable {s : State} {t k ctx n : Nat} {a : Word} {ob : Object}

/-! ### The checks (R103, R203) -/

/-- The tile has the records of an address, and they name an object of this module. -/
def State.Finds (s : State) (t ctx : Nat) (a : Word) (ob : Object) : Prop :=
  s.homeOf t ctx a = .here ob ∨ ∃ v g, s.homeOf t ctx a = .tile ob v g

theorem reach_misaligned (ha : a.toNat % n ≠ 0) (hm : ∀ key, s.homeOf t ctx a ≠ .miss key) (write peerOk : Bool) :
    s.reach t ctx a n write peerOk = .fault 0x03 0#64 := by
  cases hhome : s.homeOf t ctx a with
  | miss key => exact absurd hhome (hm key)
  | _ => simp only [State.reach, hhome, if_pos ha]; rfl

theorem reach_noObj (ha : a.toNat % n = 0) (h : objOf a = 0) (write peerOk : Bool) :
    s.reach t ctx a n write peerOk = .fault 0x05 0#64 := by
  have hhome : s.homeOf t ctx a = .noObj := by simp [State.homeOf, h]
  simp only [State.reach, hhome, ha, ne_eq, not_true_eq_false, if_false]
  rfl

theorem reach_bounds (ha : a.toNat % n = 0) (h : s.Finds t ctx a ob) (hout : ob.size < offOf a + n) (write peerOk : Bool) :
    s.reach t ctx a n write peerOk = .fault 0x04 0#64 := by
  rcases h with hhome | ⟨v, g, hhome⟩ <;>
    simp only [State.reach, hhome, ha, ne_eq, not_true_eq_false, if_false, if_pos hout] <;> rfl

theorem reach_perm (ha : a.toNat % n = 0) (h : s.Finds t ctx a ob) (hin : offOf a + n ≤ ob.size)
    (hp : ob.isCode = true ∨ ob.writable = false) (peerOk : Bool) : s.reach t ctx a n true peerOk = .fault 0x06 0#64 := by
  have hout : ¬ ob.size < offOf a + n := Nat.not_lt.mpr hin
  have hperm : (true && (ob.isCode || !ob.writable)) = true := by rcases hp with hp | hp <;> simp [hp]
  rcases h with hhome | ⟨v, g, hhome⟩ <;>
    simp only [State.reach, hhome, ha, ne_eq, not_true_eq_false, if_false, if_neg hout, if_pos hperm] <;> rfl

theorem reach_remote {v g : Nat} (ha : a.toNat % n = 0) (h : s.homeOf t ctx a = .tile ob v g) (hv : v ≠ t)
    (hin : offOf a + n ≤ ob.size) {write : Bool} (hw : write = true → ob.isCode = false ∧ ob.writable = true) (peerOk : Bool) :
    s.reach t ctx a n write peerOk = .remote ob v g := by
  have hout : ¬ ob.size < offOf a + n := Nat.not_lt.mpr hin
  have hperm : (write && (ob.isCode || !ob.writable)) = false := by
    cases write with
    | false => rfl
    | true => simp [hw rfl]
  simp [State.reach, h, ha, hout, hperm, hv]

section
variable (own : Object → State → State) (remote : Object → Nat → Nat → State → State) (peer : Object → State → State)

theorem access_fault {write peerOk : Bool} {code : Nat} {x : Word}
    (h : s.reach t (s.memCtx t k) a n write peerOk = .fault code x) :
    s.access t k a n write peerOk own remote peer = (s.odcUse t (s.memCtx t k) a).raise t k code a x := by
  simp only [State.access, h]

theorem access_remote {write peerOk : Bool} {v g : Nat} (h : s.reach t (s.memCtx t k) a n write peerOk = .remote ob v g) :
    s.access t k a n write peerOk own remote peer = remote ob v g (s.odcUse t (s.memCtx t k) a) := by
  simp only [State.access, h]

end

end

/-- R103: a fault of the checks of an issued load or store. -/
theorem load_fault {s : State} {t k code : Nat} {a : Word} {z : Size}
    (h : s.reach t (s.memCtx t k) a (sizeBytes z) false false = .fault code 0#64) (d : Reg) (sx nt : Bool)
    (base : Option (Ptr × Word)) : s.load t k a d z sx nt base = (s.odcUse t (s.memCtx t k) a).raise t k code a 0#64 :=
  access_fault _ _ _ h

theorem store_fault {s : State} {t k code : Nat} {a : Word} {z : Size}
    (h : s.reach t (s.memCtx t k) a (sizeBytes z) true false = .fault code 0#64) (v : Word) (nt rel : Bool) (c : Scope)
    (base : Option (Ptr × Word)) : s.store t k a v z nt rel c base = (s.odcUse t (s.memCtx t k) a).raise t k code a 0#64 := by
  rw [State.store, access_fault _ _ _ h]

theorem accessFaults_checked : Claim.accessFaults := by
  intro s d b z m o c f ob hs hext
  have both {code : Nat} (h : ∀ write, s.reach s.cur.1 (s.memCtx s.cur.1 s.cur.2)
      (memPlace s.curSlot.th b m (sizeBytes z) (extInt s.curSlot.ext f)).1 (sizeBytes z) write false = .fault code 0#64) :=
    And.intro (exec_ld hs d b z o c hext m f |>.trans (congrArg _ (load_fault (h false) ..)))
      (exec_st hs d b z o c hext m f |>.trans (congrArg _ (store_fault (h true) ..)))
  exact ⟨fun ha hm => both (reach_misaligned ha hm · _), fun ha h => both (reach_noObj ha h · _),
    fun ha h hout => both (reach_bounds ha h hout · _), fun ha h hin hp =>
      exec_st hs d b z o c hext m f |>.trans (congrArg _ (store_fault (reach_perm ha h hin hp _) ..))⟩

end Sys2Proof.Machine
end

section
/-! SUPPORT. The caches of a tile beside its lines: their fills and write-backs change no slot, and where no error stands in DRAM
they send nothing (R235-R240, R264, R385). -/

namespace Sys2Proof.Machine

/-- A step of the caches changes tiles, memory and the fabric alone, no tile's slots, and the fabric only where a write-back
meets an uncorrectable word. -/
structure State.CacheFrame (s u : State) : Prop where
  shape : u = { s with tiles := u.tiles, mem := u.mem, net := u.net }
  slots : ∀ v, (u.tile v).slots = (s.tile v).slots
  calm : s.mem.weak = [] → u.mem.weak = [] ∧ u.net = s.net

namespace State.CacheFrame
variable {s u v : State}

theorem refl (s : State) : s.CacheFrame s := ⟨rfl, fun _ => rfl, fun h => ⟨h, rfl⟩⟩

theorem trans (h : s.CacheFrame u) (h' : u.CacheFrame v) : s.CacheFrame v := by
  refine ⟨?_, fun t => (h'.slots t).trans (h.slots t), fun hw => ?_⟩
  · rw [h'.shape, h.shape]
  · obtain ⟨hweak, hnet⟩ := h.calm hw
    obtain ⟨hweak', hnet'⟩ := h'.calm hweak
    exact ⟨hweak', hnet'.trans hnet⟩

theorem foldl {α : Type} {f : State → α → State} (h : ∀ (s : State) a, s.CacheFrame (f s a)) (l : List α) (s : State) :
    s.CacheFrame (l.foldl f s) := by
  induction l generalizing s with
  | nil => exact refl s
  | cons a l ih => exact (h s a).trans (ih _)

theorem setTile {t : Nat} {x : Tile} (h : x.slots = (s.tile t).slots) : s.CacheFrame (s.setTile t x) := by
  refine ⟨rfl, fun v => ?_, fun hw => ⟨hw, rfl⟩⟩
  by_cases hv : v = t
  · rw [hv, tile_setTile_same, h]
  · rw [tile_setTile_other s t x hv]

theorem modTile {t : Nat} {f : Tile → Tile} (h : ∀ x, (f x).slots = x.slots) : s.CacheFrame (s.modTile t f) := setTile (h _)

theorem modMem {f : Mem → Mem} (h : ∀ m, m.weak = [] → (f m).weak = []) : s.CacheFrame (s.modMem f) :=
  ⟨rfl, fun _ => rfl, fun hw => ⟨h _ hw, rfl⟩⟩

/-- R112: a packet of the tile itself takes no slot's request number. -/
theorem send_slots (s : State) {p : Packet} (h : 16 ≤ p.slot) (v : Nat) : ((s.send p).tile v).slots = (s.tile v).slots := by
  have hput (c : Bool) (x : Tile) (y : State) (hx : x.slots = (s.tile p.src).slots) :
      ({ (if c = true then s.setTile p.src x else s) with net := y.net }.tile v).slots = (s.tile v).slots := by
    cases c with
    | true => exact (setTile hx).slots v
    | false => rfl
  have hasks : ((p.vc == 0 || p.vc == 2) && decide (p.slot < 16)) = false := by simp [Nat.not_lt.mpr h]
  unfold State.send
  dsimp only
  rw [hasks]
  split
  · exact hput true _ { s with net := _ } rfl
  · rfl

/-- R264: the notices of a write-back that meets uncorrectable words. -/
theorem andNotices (h : s.CacheFrame u) (t : Nat) (l : Line) {met : List Nat} (hmet : s.mem.weak = [] → met = []) :
    s.CacheFrame (met.foldl (fun s i => s.mergeNotice t l i) u) := by
  have hone (s : State) (i : Nat) : s.mergeNotice t l i = { s with
      tiles := (s.mergeNotice t l i).tiles, mem := (s.mergeNotice t l i).mem, net := (s.mergeNotice t l i).net } :=
    send_shape s _
  have hshape : met.foldl (fun s i => s.mergeNotice t l i) u = { u with
      tiles := (met.foldl (fun s i => s.mergeNotice t l i) u).tiles, mem := (met.foldl (fun s i => s.mergeNotice t l i) u).mem,
      net := (met.foldl (fun s i => s.mergeNotice t l i) u).net } := by
    clear hmet h
    induction met generalizing u with
    | nil => rfl
    | cons i met ih => rw [List.foldl_cons, ih, hone u i]
  have hslots : ∀ v, ((met.foldl (fun s i => s.mergeNotice t l i) u).tile v).slots = (u.tile v).slots := by
    intro v
    clear hmet h hshape
    induction met generalizing u with
    | nil => rfl
    | cons i met ih => exact ih.trans (send_slots u (le_refl 16) v)
  refine ⟨?_, fun v => (hslots v).trans (h.slots v), fun hw => ?_⟩
  · rw [hshape, h.shape]
  · rw [hmet hw]
    exact h.calm hw

end State.CacheFrame

open State.CacheFrame

section
variable (s : State) (t : Nat)

/-! ### Uncorrectable words of memory (R113, R385) -/

theorem weak_setPoison {m : Mem} (h : m.weak = []) (a : Nat) (on : Bool) : (m.setPoison a on).weak = [] := by
  simp [Mem.setPoison, h, eraseNat]

theorem weak_foldl {α : Type} {f : Mem → α → Mem} (hf : ∀ m a, m.weak = [] → (f m a).weak = []) (l : List α) {m : Mem}
    (h : m.weak = []) : (l.foldl f m).weak = [] := by
  induction l generalizing m with
  | nil => exact h
  | cons a l ih => exact ih (hf m a h)

theorem weak_merge {m : Mem} (h : m.weak = []) (a : Nat) (mask : BitVec 8) (v : Word) : (m.merge a mask v).weak = [] :=
  weak_foldl (fun m i hm => by split <;> exact hm) _ h

theorem weak_putLine {m : Mem} (h : m.weak = []) (key : Nat) (l : Line) : (m.putLine key l).weak = [] := by
  refine weak_foldl (fun m i hm => ?_) _ h
  have hmerge := weak_merge hm (key + 8 * i) (l.word i).dirty (l.word i).data
  show (Mem.putPoison _ _ _).weak = []
  unfold Mem.putPoison
  split
  · exact weak_setPoison hmerge _ _
  · split
    · exact weak_setPoison hmerge _ _
    · exact hmerge

theorem weak_meet {m : Mem} (h : m.weak = []) (a n : Nat) : (m.meet a n).weak = [] :=
  weak_foldl (fun _ c hm => weak_setPoison hm c true) _ h

theorem isWeak_of_weak {m : Mem} (h : m.weak = []) (a : Nat) : m.isWeak a = false := by simp [Mem.isWeak, h]

/-! ### The steps of the caches (R235-R240) -/

theorem frame_meetLine (c o n : Nat) : s.CacheFrame (s.meetLine t c o n) := by
  unfold State.meetLine
  dsimp only
  split
  · exact refl s
  · exact (modTile fun _ => rfl : s.CacheFrame (s.countSram t _ _)).trans (modTile fun _ => rfl)

theorem frame_countDram (soft weak : List Nat) : s.CacheFrame (s.countDram t soft weak) := modTile fun _ => rfl

theorem frame_meetDram (key n : Nat) : s.CacheFrame (s.meetDram t key n) := by
  unfold State.meetDram
  split
  · exact refl s
  · exact (frame_countDram s t _ _).trans (modMem fun m h => weak_meet h _ _)

/-- R239: a line written to DRAM. -/
theorem frame_sliceOut (l : Line) : s.CacheFrame (s.sliceOut t l) := by
  unfold State.sliceOut
  split
  · exact refl s
  · rename_i key _
    dsimp only
    refine State.CacheFrame.andNotices ?_ t l fun hw => by simp [isWeak_of_weak hw]
    refine State.CacheFrame.trans ?_ (modMem fun m h => weak_putLine h key l)
    refine State.CacheFrame.trans ?_ (modTile fun x => ?_)
    · split
      · exact refl s
      · exact frame_countDram s t _ _
    · split
      · exact tlbUse_slots x l
      · rfl

theorem frame_readLine (l : Line) : s.CacheFrame (s.readLine t l).1 := by
  have hmet (key : Nat) : s.CacheFrame ((s.modTile t (fun x => x.tlbUse l)).meetDram t key 8) :=
    (modTile (tlbUse_slots · l)).trans (frame_meetDram _ t _ _)
  unfold State.readLine
  split
  · exact refl s
  · dsimp only
    split
    · split <;> exact hmet _
    · exact hmet _

theorem frame_sliceIn (c o n : Nat) (uo : Bool) : s.CacheFrame (s.sliceIn t c o n uo) := by
  have hmet := frame_meetLine s t c o n
  have place (u : State) (l : Line) : u.CacheFrame
      (match placeLine sliceSet (u.tile t).slices l with
       | (ls, out) => match out with
         | none => u.setTile t { u.tile t with slices := ls }
         | some v => (u.setTile t { u.tile t with slices := ls }).sliceOut t v) := by
    have hset (ls : List Line) : u.CacheFrame (u.setTile t { u.tile t with slices := ls }) := setTile rfl
    cases placeLine sliceSet (u.tile t).slices l with
    | mk ls out => cases out with
      | none => exact hset ls
      | some v => exact (hset ls).trans (frame_sliceOut _ t v)
  unfold State.sliceIn
  dsimp only
  cases findLine ((s.meetLine t c o n).tile t).slices c o n with
  | some l => exact hmet.trans (place _ l)
  | none => exact (hmet.trans (frame_readLine _ t _)).trans (place _ _)

theorem l1Meets_of_weak {s : State} (h : s.mem.weak = []) (t : Nat) (l : Line) : s.l1Meets t l = [] := by
  unfold State.l1Meets
  split
  · rfl
  · split
    · rfl
    · simp [isWeak_of_weak h]

theorem frame_l1Out (l : Line) : s.CacheFrame (s.l1Out t l) := by
  unfold State.l1Out
  split
  · exact refl s
  · refine State.CacheFrame.andNotices ?_ t l fun hw => l1Meets_of_weak hw t l
    exact (frame_sliceIn s t _ _ _ _).trans (modTile fun _ => rfl)

theorem frame_l1Put (l : Line) : s.CacheFrame (s.l1Put t l) := by
  have hset : s.CacheFrame (s.setTile t { s.tile t with l1 := (placeLine l1Set (s.tile t).l1 l).1 }) := setTile rfl
  rcases l1Put_eq s t l with h | ⟨v, -, -, h⟩ <;> rw [h]
  · exact hset
  · exact hset.trans (frame_l1Out _ t v)

theorem frame_l1Fill (c : Nat) (a : Word) (uo : Bool) : s.CacheFrame (s.l1Fill t c a uo) := by
  unfold State.l1Fill
  exact (frame_sliceIn s t _ _ _ _).trans (frame_l1Put _ t _)

theorem frame_l1Drop (c : Nat) (a : Word) : s.CacheFrame (s.l1Drop t c a) := by
  unfold State.l1Drop
  split
  · exact refl s
  · have hdrop : s.CacheFrame (s.modTile t (fun x => { x with l1 := x.l1.filter (fun m => !m.is c (objOf a) (lineNo a)) })) :=
      modTile fun _ => rfl
    exact hdrop.trans (frame_l1Out _ t _)

theorem frame_slicePrep (c : Nat) (a : Word) (uo : Bool) : s.CacheFrame (s.slicePrep t c a uo) :=
  ((frame_meetLine s t _ _ _).trans (frame_l1Drop _ t c a)).trans (frame_sliceIn _ t _ _ _ _)

theorem frame_sliceMod (c : Nat) (a : Word) (f : LWord → LWord) : s.CacheFrame (s.sliceMod t c a f) := modTile fun _ => rfl

/-! ### Reads and writes at the home (R236, R237) -/

theorem frame_homeRead (c : Nat) (a : Word) : s.CacheFrame (s.homeRead t c a).1 := by
  have hmet := frame_meetLine s t c (objOf a) (lineNo a)
  cases hfind : findLine ((s.meetLine t c (objOf a) (lineNo a)).tile t).l1 c (objOf a) (lineNo a) with
  | none =>
    simp only [State.homeRead, hfind]
    exact hmet.trans (frame_sliceIn _ t _ _ _ _)
  | some l =>
    simp only [State.homeRead, hfind]
    split
    · exact hmet.trans (frame_l1Put _ t _)
    · exact hmet.trans (frame_l1Fill _ t _ _ _)

theorem frame_homePut (c : Nat) (a : Word) (mask : BitVec 8) (v : Word) (alloc uo : Bool) :
    s.CacheFrame (s.homePut t c a mask v alloc uo) := by
  have hmet := frame_meetLine s t c (objOf a) (lineNo a)
  unfold State.homePut
  dsimp only
  split
  · exact hmet.trans (frame_l1Put _ t _)
  · split
    · exact hmet.trans (frame_l1Put _ t _)
    · exact (hmet.trans (frame_sliceIn _ t _ _ _ _)).trans (frame_sliceMod _ t _ _ _)

theorem frame_homePoison (c : Nat) (a : Word) : s.CacheFrame (s.homePoison t c a) := by
  unfold State.homePoison
  split
  · dsimp only
    split
    · exact frame_l1Put _ t _
    · exact (frame_l1Fill _ t _ _ _).trans (frame_l1Put _ t _)
  · exact (frame_sliceIn _ t _ _ _ _).trans (frame_sliceMod _ t _ _ _)

/-- R240: a write-back. -/
theorem frame_writeBack (want : Line → Bool) : s.CacheFrame (s.writeBack t want) := by
  unfold State.writeBack
  refine State.CacheFrame.trans ?_ (modTile fun _ => rfl)
  refine State.CacheFrame.trans ?_ (foldl (fun s l => frame_sliceOut s t l) _ _)
  refine State.CacheFrame.trans ?_ (modTile fun _ => rfl)
  refine State.CacheFrame.trans ?_ (foldl (fun s l => frame_l1Out s t l) _ _)
  refine foldl (fun s l => ?_) _ _
  split
  · exact frame_meetLine s t _ _ _
  · exact refl s

end

/-! ### What a frame leaves -/

section
variable {s u : State} (h : s.CacheFrame u)
include h

theorem frame_slot (t k : Nat) : u.slot t k = s.slot t k := by simp [State.slot, Tile.slot, h.slots]

theorem frame_fields : u.fields = s.fields :=
  (congrArg State.fields h.shape).trans rfl

theorem frame_gen : u.gen = s.gen :=
  (congrArg State.gen h.shape).trans rfl

theorem frame_atService (t k : Nat) : u.atService t k = s.atService t k := by
  simp only [State.atService, State.isService, frame_fields h]

end

end Sys2Proof.Machine
end

section
/-! SUPPORT. The poison that a load of a thread meets at its own tile (R113, R203). -/

namespace Sys2Proof.Machine

section
variable {s : State} {t k : Nat} {a : Word}

/-- R113: the address of the word that an access lies in. -/
theorem wordAddr_eq (a : Word) : a &&& ~~~7#64 = fromNat (a.toNat / 8 * 8) := by
  refine BitVec.eq_of_getLsbD_eq fun i hi => ?_
  have hseven : (7#64).getLsbD i = decide (i < 3) := by
    rw [show (7#64 : Word) = BitVec.ofNat 64 (2 ^ 3 - 1) from rfl, BitVec.getLsbD_ofNat, Nat.testBit_two_pow_sub_one]
    simp [hi]
  have hshift : (a.toNat / 8 * 8).testBit i = (decide (3 ≤ i) && a.toNat.testBit i) := by
    rw [show a.toNat / 8 * 8 = (a.toNat >>> 3) <<< 3 by rw [Nat.shiftRight_eq_div_pow, Nat.shiftLeft_eq], Nat.testBit_shiftLeft,
      Nat.testBit_shiftRight]
    by_cases h3 : 3 ≤ i <;> simp [h3]
  rw [BitVec.getLsbD_and, BitVec.getLsbD_not, hseven, fromNat, BitVec.getLsbD_ofNat, hshift]
  by_cases h3 : 3 ≤ i
  · simp [hi, h3, BitVec.getLsbD]
  · simp only [h3, hi, decide_true, decide_false, Bool.true_and, Bool.false_and, Bool.and_eq_false_iff]
    simp
    omega

/-- R113: a load whose word reads poisoned. -/
theorem loadHere_poisoned (o : Object) (d : Reg) (z : Size) (sx : Bool) (base : Option (Ptr × Word))
    (hg : s.gate t (s.memCtx t k) a = .go) (hp : (s.view t (s.memCtx t k) a).poison = true) :
    s.loadHere t k o a d z sx true base = (s.homeRead t (s.memCtx t k) a).1.poisoned t k a := by
  rw [State.view] at hp
  simp only [State.loadHere, atHome_go hg, Bool.not_true, Bool.false_and, hp, Bool.false_eq_true, if_false, if_true]

/-- R113, R203: UE at a kernel's slot. -/
theorem poisoned_slot (hk : k < (s.tile t).slots.length) (hserv : s.atService t k = false) :
    ((s.poisoned t k a).slot t k).state = .blocked ∧ ((s.poisoned t k a).slot t k).th = (s.slot t k).th ∧
    ((s.poisoned t k a).slot t k).fault =
      some { code := 0x0A, pc := (s.slot t k).th.pc, addr := fromNat (a.toNat / 8 * 8), extra := 0#64 } := by
  obtain ⟨r, b, q, hslot⟩ := raise_slot hserv hk FaultCode.ue (a &&& ~~~7#64) 0#64
  rw [State.poisoned, hslot, wordAddr_eq]
  exact ⟨rfl, rfl, rfl⟩

end

theorem poisonedLoad : Claim.poisonedLoad := by
  intro s d b z m o c f ob hs hext hnt u ctx a hhome hp hserv
  have hframe := frame_homeRead (s.odcUse u ctx a) u ctx a
  have hview := view_same (odcUse_sameLines s u ctx a) ctx a
  have hload : exec (.ld d b z m o c f) s = .next (((s.odcUse u ctx a).homeRead u ctx a).1.poisoned u s.cur.2 a) := by
    have hpoison := loadHere_poisoned (s := s.odcUse u ctx a) (t := u) (k := s.cur.2) (a := a) ob d z s.curSlot.sx
      (addrM s.curSlot.th b m (sizeBytes z) s.curSlot.ext f).2
    rw [odcUse_memCtx] at hpoison
    rw [exec_ld hs d b z o c hext m f, load_own hhome, hnt]
    exact congrArg _ (hpoison ((gate_keepsHome (odcUse_keepsHome s u ctx a) ctx a _).trans hhome.resident) (hview ▸ hp))
  have hslot : ((s.odcUse u ctx a).homeRead u ctx a).1.slot u s.cur.2 = s.curSlot :=
    (frame_slot hframe u _).trans (odcUse_slot s u ctx a _)
  have hdone := poisoned_slot (s := ((s.odcUse u ctx a).homeRead u ctx a).1) (t := u) (k := s.cur.2) (a := a)
    (by rw [hframe.slots, odcUse_slots]; exact (issuing_slot hs).2.2) ((frame_atService hframe u _).trans hserv)
  rw [hslot] at hdone
  exact ⟨_, hload, hdone⟩

/-- Settles O16: the checks of an access end it before anything is read, and a poisoned word raises UE in the slot that reads it. -/
theorem accessFaults : Obligations.AccessFaults := ⟨accessFaults_checked, poisonedLoad⟩

end Sys2Proof.Machine
end

section
/-! SUPPORT. Loads and plain stores whose home is another tile (R104-R106, R112, R204). -/

namespace Sys2Proof.Machine

/-- A change of the slot `k` alone, whatever else of its tile changes with it. -/
theorem State.AsideSame.modTileSlot {t k : Nat} {f : Tile → Tile} (s : State) (h : ∀ x j, j ≠ k → (f x).slot j = x.slot j) :
    s.AsideSame (s.modTile t f) t k :=
  ⟨rfl, fun _ hv => tile_modTile_other s t _ hv, fun j hj => by
    rw [State.slot, tile_modTile_same, h _ j hj, State.slot]⟩

section
variable {s : State} {t k : Nat}

/-! ### Reads (R104, R112) -/

theorem memCtx_user (h : s.atService t k = false) : s.memCtx t k = (s.slot t k).th.ctx := by simp [State.memCtx, h]

theorem remoteRead_aside (dst gen : Nat) (a : Word) (d : Reg) (z : Size) (sx : Bool) (base : Option (Ptr × Word)) (pin : Bool) :
    s.AsideSame (s.remoteRead t k dst gen a d z sx base pin) t k :=
  ((State.AsideSame.modSlot s t k _).trans (.stepLeft _ t k)).trans (.send rfl rfl)

/-! ### Departures (R105, R204, R213) -/

/-- R104, R213: a load of a thread that is not pinned and came from nowhere departs. -/
theorem loadAway_departs (hserv : s.atService t k = false) (hpin : (s.slot t k).th.pinned = false) (hprev : (s.slot t k).prev = none)
    (hh : (s.slot t k).th.NoHandles) (dst gen : Nat) (a : Word) (d : Reg) (z : Size) (sx : Bool) (base : Option (Ptr × Word)) :
    s.loadAway t k dst gen a d z sx base = s.depart t k 0 dst gen := by
  have hbounce : ((s.slot t k).bounceTo dst).1 ≠ 4 := by simp [Slot.bounceTo, hprev]
  simp only [State.loadAway, hserv, hpin, Bool.false_eq_true, if_false, if_neg hbounce, drain_noHandles hh]

/-- R104: a load of a pinned thread asks the home. -/
theorem loadAway_asks (hserv : s.atService t k = false) (hpin : (s.slot t k).th.pinned = true) (dst gen : Nat) (a : Word) (d : Reg)
    (z : Size) (sx : Bool) (base : Option (Ptr × Word)) :
    s.loadAway t k dst gen a d z sx base = s.remoteRead t k dst gen a d z sx base true := by
  simp only [State.loadAway, hserv, hpin, Bool.false_eq_true, if_false, if_true]

/-! ### Writes (R24, R106) -/

/-- R102: the base is written by what the registers hold, and nothing else of the thread changes. -/
theorem setBase_regs {th th' : Thread} (h : th'.regs = th.regs) (base : Option (Ptr × Word)) :
    th'.setBase base = { th' with regs := (th.setBase base).regs } := by
  cases base with
  | none => simp [Thread.setBase, ← h]
  | some e => simp [Thread.setBase, h]

theorem send_tracker (s : State) (p : Packet) (u i : Nat) : ((s.send p).tile u).tracker i = (s.tile u).tracker i := by
  rcases send_tile s p u with h | ⟨-, m, n, f, -, h⟩ <;> rw [h]
  rfl

/-- R106: a thread without a handle takes the lowest free tracker of its tile. -/
theorem countOn_free {th : Thread} {i : Nat} (hh : th.NoHandles) (hi : i < (s.tile t).trackers.length)
    (hfree : ((s.tile t).tracker i).open_ = false) (hmin : ∀ j, j < i → ((s.tile t).tracker j).open_ = true) :
    s.countOn t th = .on i { th.setHandle false (handle (s.name t) i) with bOlder := false } := by
  obtain ⟨hA, hB⟩ := hh
  have hget {j : Nat} {y : Tracker} (hj : (s.tile t).trackers[j]? = some y) : (s.tile t).tracker j = y := by
    simp [Tile.tracker, List.getD_eq_getElem?_getD, hj]
  have hfirst : firstIdx (fun (tr : Tracker) => !tr.open_) (s.tile t).trackers = some i := by
    have hsome := List.getElem?_eq_getElem hi
    refine firstIdx_eq_some hsome ?_ fun j y hj hy => ?_
    · rw [← hget hsome, hfree]
      rfl
    · rw [← hget hy, hmin j hj]
      rfl
  have hsecond : handleValid (th.setHandle false (handle (s.name t) i)).trkB = false := by simp [Thread.setHandle, hB]
  have hmine {x : Bool} (y z : Bool) (h : x = false) : ¬ (x && y && z) = true := by simp [h]
  have hfirstH : handleValid (th.handle false) = false := hA
  have hsecondH : handleValid (th.handle true) = false := hB
  unfold State.countOn
  dsimp only
  rw [if_neg (hmine _ _ hfirstH), if_neg (hmine _ _ hsecondH), if_neg (by simp [hA]), hfirst]
  simp only [hA, hsecond, Bool.false_eq_true, if_false]

/-- R106: the tracker counts a write of the slot, whose thread has its handle. -/
def State.countedBy (s : State) (t k i : Nat) (th : Thread) : State :=
  s.modTile t (fun x => (x.modTracker i (fun tr => { tr with open_ := true, count := tr.count + 1 })).modSlot k
    (fun sl => { sl with th := th }))

theorem counted_on {i : Nat} {th : Thread} (h : s.countOn t (s.slot t k).th = .on i th) (go : State → Nat → State) :
    s.counted t k go = go (s.countedBy t k i th) i := by
  simp only [State.counted, h, State.countedBy]

theorem countedBy_slot (hk : k < (s.tile t).slots.length) (i : Nat) (th : Thread) :
    (s.countedBy t k i th).slot t k = { s.slot t k with th := th } := by
  rw [State.countedBy, State.slot, tile_modTile_same]
  exact modifyAt_getD_same _ _ _ _ hk

theorem countedBy_tracker {i : Nat} (hi : i < (s.tile t).trackers.length) (th : Thread) :
    ((s.countedBy t k i th).tile t).tracker i = { (s.tile t).tracker i with open_ := true, count := ((s.tile t).tracker i).count + 1 } := by
  rw [State.countedBy, tile_modTile_same]
  exact modifyAt_getD_same _ _ _ _ hi

theorem countedBy_slots_length (i : Nat) (th : Thread) : ((s.countedBy t k i th).tile t).slots.length = (s.tile t).slots.length := by
  rw [State.countedBy, tile_modTile_same]
  exact modifyAt_length _ _ _

theorem countedBy_aside (i : Nat) (th : Thread) : s.AsideSame (s.countedBy t k i th) t k :=
  .modTileSlot s fun _ _ hj => modifyAt_getD_other _ _ _ _ hj

end

/-! ### The forms -/

theorem loadsElsewhere : Claim.loadsElsewhere := by
  intro s d b x z m o c f ob v g hs hext u k th n away mb left asked hserv a ax ar
  have hctx : s.memCtx u k = th.ctx := memCtx_user hserv
  have hk : k < (s.tile u).slots.length := (issuing_slot hs).2.2
  have husek (a : Word) : k < ((s.odcUse u th.ctx a).tile u).slots.length := by rw [odcUse_slots]; exact hk
  have huse (a : Word) : (s.odcUse u th.ctx a).slot u k = s.curSlot := odcUse_slot s u th.ctx a k
  have hreach {a : Word} (h : away a) : s.reach u (s.memCtx u k) a n false false = .remote ob v g := by
    obtain ⟨halign, hhome, hv, hin⟩ := h
    exact reach_remote halign (hctx ▸ hhome) hv hin (write := false) nofun false
  have hload {a : Word} (h : away a) (base : Option (Ptr × Word)) : s.load u k a d z s.curSlot.sx s.curSlot.nt base =
      (s.odcUse u th.ctx a).loadAway u k v g a d z s.curSlot.sx base := by
    rw [State.load, access_remote _ _ _ (hreach h), hctx]
  have hleft {i : Instr} {a : Word} {base : Option (Ptr × Word)} (h : away a)
      (hexec : exec i s = .next (s.load u k a d z s.curSlot.sx s.curSlot.nt base)) (hpin : th.pinned = false)
      (hprev : s.curSlot.prev = none) (hh : th.NoHandles) : left i := by
    have hgo := loadAway_departs (s := s.odcUse u th.ctx a) (t := u) (k := k) hserv ((huse a).symm ▸ hpin) ((huse a).symm ▸ hprev)
      ((huse a).symm ▸ hh) v g a d z s.curSlot.sx base
    have hslot : ((s.odcUse u th.ctx a).depart u k 0 v g).slot u k = { s.curSlot with
        th := s.curSlot.th.drainedBoth, state := .wait (.departure mb 0 v g), retry := true } := by
      rw [State.depart, slot_modSlot_same _ u k _ (husek a), huse]
      rfl
    have hstate := congrArg Slot.state hslot
    have hth : s.then_ ((s.odcUse u th.ctx a).depart u k 0 v g) = s.curSlot.th.drainedBoth := congrArg Slot.th hslot
    rw [hload h, hgo] at hexec
    exact ⟨_, hexec, hstate, by rw [hth]; rfl, by rw [hth]; rfl, by rw [hth]; rfl,
      (State.AsideSame.odcUse s u k th.ctx a).trans (.modSlot _ u k _)⟩
  have hasked {i : Instr} {a : Word} {sx pin : Bool} {base : Option (Ptr × Word)}
      (hexec : exec i s = .next ((s.odcUse u th.ctx a).remoteRead u k v g a d z sx base pin)) : asked i a := by
    obtain ⟨p, hnet, hvc, hsrc, hdst, hgen, hpk, hbody⟩ :=
      remoteRead_net (s := s.odcUse u th.ctx a) (t := u) (k := k) (dst := v) (gen := g) a d z sx base pin
    obtain ⟨hstate, hth⟩ := remoteRead_slot (husek a) v g a d z sx base pin
    rw [huse] at hth
    rw [odcUse_memCtx, hctx] at hbody
    exact ⟨_, p, hexec, hstate, hth, hnet, hvc, hsrc, hdst, hgen, hpk, hbody,
      (State.AsideSame.odcUse s u k th.ctx a).trans (remoteRead_aside v g a d z sx base pin)⟩
  have hpinned {i : Instr} {a : Word} {base : Option (Ptr × Word)} (h : away a)
      (hexec : exec i s = .next (s.load u k a d z s.curSlot.sx s.curSlot.nt base)) (hpin : th.pinned = true) : asked i a := by
    rw [hload h, loadAway_asks (s := s.odcUse u th.ctx a) hserv ((huse a).symm ▸ hpin)] at hexec
    exact hasked hexec
  refine ⟨fun h => hleft h (exec_ld hs d b z o c hext m f), fun h => hleft h (exec_ldx hs d b x z o c),
    fun h => hpinned h (exec_ld hs d b z o c hext m f), fun h => hpinned h (exec_ldx hs d b x z o c),
    fun h => hasked (sx := s.curSlot.sx) (pin := false) (base := none) ?_⟩
  · rw [exec_ldr hs d b z o c hext f, access_remote _ _ _ (hreach h), hctx]

theorem storeElsewhere : Claim.storeElsewhere := by
  intro s d b z m o c f ob v g i hs hext hrel u k th n
  have hbase := addrM_setBase hext th b m n f
  have hexec := exec_st hs d b z o c hext m f
  generalize hplace : memPlace th b m n (extInt s.curSlot.ext f) = place at hbase ⊢
  rw [show memPlace s.curSlot.th b m (sizeBytes z) (extInt s.curSlot.ext f) = place from hplace] at hexec
  obtain ⟨a, th'⟩ := place
  intro halign hhome hv _ hin hcode hwr hso hserv hh hi hfree hmin
  have hctx : s.memCtx u k = th.ctx := memCtx_user hserv
  have hk : k < (s.tile u).slots.length := (issuing_slot hs).2.2
  let w := s.odcUse u th.ctx a
  have hslot : w.slot u k = s.curSlot := odcUse_slot s u th.ctx a k
  have hw : k < (w.tile u).slots.length := by rw [odcUse_slots]; exact hk
  obtain ⟨odc, htile⟩ := odcUse_tile s u th.ctx a
  have htracker (j : Nat) : (w.tile u).tracker j = (s.tile u).tracker j := by
    show ((s.odcUse u th.ctx a).tile u).tracker j = _
    rw [htile]
    rfl
  have htrackers : (w.tile u).trackers = (s.tile u).trackers := by
    show ((s.odcUse u th.ctx a).tile u).trackers = _
    rw [htile]
  obtain ⟨own, hown⟩ : ∃ own, own = handle (s.name u) i := ⟨_, rfl⟩
  have hcount : w.countOn u (w.slot u k).th = .on i { th.setHandle false own with bOlder := false } := by
    rw [hslot, hown]
    exact countOn_free hh (htrackers ▸ hi) ((congrArg Tracker.open_ (htracker i)).trans hfree) fun j hj =>
      (congrArg Tracker.open_ (htracker j)).trans (hmin j hj)
  let base := (addrM th b m n s.curSlot.ext f).2
  let p : Packet := { vc := 2, src := u, dst := v, gen := g, slot := k, body := .store th.ctx a z (s.rd d) s.curSlot.nt (some i) }
  let y := w.countedBy u k i { th.setHandle false own with bOlder := false }
  have hdone : exec (.st d b z m o c f) s = .next ((y.modSlot u k (fun sl => sl.stored base)).send p) := by
    rw [hexec, State.store, access_remote _ _ _ (reach_remote halign (hctx ▸ hhome) hv hin (fun _ => ⟨hcode, hwr⟩) false), hrel, hctx]
    dsimp only
    rw [State.releaseIf, if_neg Bool.false_ne_true, State.sendWrite, hso, if_neg Bool.false_ne_true, counted_on hcount]
  obtain ⟨n', o', r', g', q', hnet⟩ := send_net (y.modSlot u k (fun sl => sl.stored base)) p
  obtain ⟨q, hsent⟩ := slot_send (y.modSlot u k (fun sl => sl.stored base)) p u k
  rw [slot_modSlot_same y u k _ (by rw [countedBy_slots_length]; exact hw), countedBy_slot hw, hslot] at hsent
  have hth : s.then_ ((y.modSlot u k (fun sl => sl.stored base)).send p) =
      { th.setHandle false own with bOlder := false, regs := th'.regs, pc := s.following } := by
    refine (congrArg Slot.th hsent).trans ?_
    have hset := setBase_regs (th := th) (th' := { th.setHandle false own with bOlder := false }) rfl base
    rw [show th.setBase base = th' from hbase] at hset
    exact congrArg (fun w : Thread => { w with pc := s.following }) hset
  have hafter : ((((y.modSlot u k (fun sl => sl.stored base)).send p).tile u).tracker i) =
      { (s.tile u).tracker i with open_ := true, count := ((s.tile u).tracker i).count + 1 } := by
    rw [send_tracker, ← htracker i, ← countedBy_tracker (k := k) (htrackers ▸ hi), State.modSlot, tile_modTile_same]
    rfl
  refine ⟨_, _, hdone, hnet, rfl, rfl, rfl, rfl, rfl, congrArg Slot.state hsent, (congrArg Thread.pc hth).trans rfl,
    (congrArg Thread.regs hth).trans rfl, (congrArg Thread.acc hth).trans rfl, (congrArg Thread.st hth).trans rfl,
    (congrArg Thread.trkA hth).trans hown, ?_, ?_, ?_⟩
  · rw [hafter]
  · rw [hafter]
  · exact ((State.AsideSame.odcUse s u k th.ctx a).trans (countedBy_aside i _)).trans
      ((State.AsideSame.modSlot _ u k _).trans (.send rfl rfl))

/-- Settles O17: the checks lead to the home; a load departs for it or asks it, and a store takes the lowest free tracker. -/
theorem remoteAccess : Obligations.RemoteAccess := ⟨loadsElsewhere, storeElsewhere⟩

end Sys2Proof.Machine
end

section
/-! SUPPORT. Releases: where they go on, and the lines that they leave clean (R108, R126, R223, R240). -/

namespace Sys2Proof.Machine

section
variable {s : State} {t k : Nat}

/-! ### Lines after a write-back (R240) -/

theorem clean_clean (l : Line) : l.clean.isDirty = false := by
  simp [Line.isDirty, Line.clean]

/-- R240: the lines of a tile after a write-back are those of before it, cleaned where they were selected. -/
theorem writeBack_lines (want : Line → Bool) {l : Line}
    (h : l ∈ ((s.writeBack t want).tile t).l1 ∨ l ∈ ((s.writeBack t want).tile t).slices) :
    ∃ m : Line, l = if want m then m.clean else m := by
  have mem {ls : List Line} (hl : l ∈ ls.map (fun m => if want m then m.clean else m)) :
      ∃ m : Line, l = if want m then m.clean else m := by
    obtain ⟨m, -, hm⟩ := List.mem_map.mp hl
    exact ⟨m, hm.symm⟩
  unfold State.writeBack at h
  dsimp only at h
  rw [tile_modTile_same] at h
  rcases h with hl | hl
  · dsimp only at hl
    rw [(State.Quiet.foldl (fun s l => quiet_sliceOut s t l) _ _).l1, tile_modTile_same] at hl
    exact mem hl
  · exact mem hl

theorem releaseLines_clean {ctxs : List Nat} {all : Bool} {l : Line}
    (h : l ∈ ((s.releaseLines t ctxs all).tile t).l1 ∨ l ∈ ((s.releaseLines t ctxs all).tile t).slices)
    (hctx : l.ctx ∈ ctxs) (huo : all = true ∨ l.uo = false) : l.isDirty = false := by
  obtain ⟨m, hm⟩ := writeBack_lines _ h
  cases hwant : (ctxs.contains m.ctx && (all || !m.uo)) with
  | true =>
    rw [hwant, if_pos rfl] at hm
    rw [hm]
    exact clean_clean m
  | false =>
    rw [hwant, if_neg Bool.false_ne_true] at hm
    subst hm
    rcases huo with h | h <;> simp [hctx, h] at hwant

/-! ### Releases that have nothing to wait for (R108, R223) -/

theorem memCtx_mem (s : State) (t k : Nat) : s.memCtx t k ∈ s.memCtxs t k := by
  unfold State.memCtx State.memCtxs
  split
  · exact (mem_insertNat _ _ _).mpr (.inl rfl)
  · exact List.mem_singleton_self _

/-- R108, R223: a release goes on at once, after a write-back at `.stack` and wider. -/
theorem release_goes {c : Scope} (hc : c = .tile ∨ c = .stack ∨ (s.slot t k).th.NoHandles ∧ (c = .host → s.linkBound t k = false))
    (all : Bool) (cont : State → State) :
    s.release t k c all cont = cont (if c = .tile then s else s.releaseLines t (s.memCtxs t k) all) := by
  cases c with
  | tile => rfl
  | stack => rfl
  | wafer =>
    have hnone : (s.slot t k).th.NoHandles := by simpa using hc
    simp [State.release, drain_noHandles hnone]
  | host =>
    obtain ⟨hnone, hlink⟩ : (s.slot t k).th.NoHandles ∧ s.linkBound t k = false := by simpa using hc
    simp [State.release, drain_noHandles hnone, hlink]

end

/-! ### The forms (R126) -/

theorem finishSlot_ended (s : State) : s.finishSlot s.cur.1 s.cur.2 = s.ended id s.following := modCur_congr s _ _ rfl

section
variable {s : State} (hs : s.issuing = true)
include hs

/-- R126: a fence whose release goes on at once. -/
theorem release_finishes {c : Scope} (hc : s.CanRelease c) (all : Bool) :
    let t := s.release s.cur.1 s.cur.2 c all (fun s' => s'.finishSlot s.cur.1 s.cur.2)
    (s.then_ t = { s.curSlot.th with pc := s.following } ∧ (t.slot s.cur.1 s.cur.2).state = .ready) ∧
    (c ≠ .tile → ∀ l, l ∈ (t.tile s.cur.1).l1 ∨ l ∈ (t.tile s.cur.1).slices → l.ctx = s.memCtx s.cur.1 s.cur.2 →
      (all = true ∨ l.uo = false) → l.isDirty = false) := by
  obtain ⟨-, hready, hlen⟩ := issuing_slot hs
  intro t
  let u := if c = .tile then s else s.releaseLines s.cur.1 (s.memCtxs s.cur.1 s.cur.2) all
  have hu : s.CacheFrame u := by
    by_cases h : c = .tile
    · simp only [u, h, if_true]
      exact .refl s
    · simp only [u, h, if_false]
      exact frame_writeBack s _ _
  have ht : t = u.finishSlot s.cur.1 s.cur.2 := release_goes hc all _
  have hslot : t.slot s.cur.1 s.cur.2 = s.curSlot.finish := by
    rw [ht, State.finishSlot, slot_modSlot_same _ _ _ _ (by rw [hu.slots]; exact hlen), frame_slot hu]
    rfl
  refine ⟨⟨congrArg Slot.th hslot, (congrArg Slot.state hslot).trans hready⟩, fun htile l hl hctx huo => ?_⟩
  have hlines := modSlot_sameLines u s.cur.1 s.cur.2 Slot.finish
  rw [ht, State.finishSlot, hlines.l1, hlines.slices] at hl
  simp only [u, htile, if_false] at hl
  exact releaseLines_clean hl (hctx ▸ memCtx_mem s _ _) huo

theorem exec_fenceRel (c : Scope) : exec (.fenceRel c) s =
    .next (s.release s.cur.1 s.cur.2 c false (fun s' => s'.finishSlot s.cur.1 s.cur.2)) := by
  change execFenceRel c s = _
  exact onIssue_next s _ hs

theorem exec_fenceAr (c : Scope) : exec (.fenceAr c) s =
    .next (s.release s.cur.1 s.cur.2 c false (fun s' => s'.finishSlot s.cur.1 s.cur.2)) := by
  change execFenceAr c s = _
  exact onIssue_next s _ hs

theorem exec_fenceAll (c : Scope) : exec (.fenceAll c) s =
    .next (s.release s.cur.1 s.cur.2 c true (fun s' => s'.finishSlot s.cur.1 s.cur.2)) := by
  change execFenceAll c s = _
  exact onIssue_next s _ hs

theorem exec_trkw : exec .trkw s = .next (s.drain s.cur.1 s.cur.2 (fun s' => s'.finishSlot s.cur.1 s.cur.2)) := by
  change execTrkw s = _
  exact onIssue_next s _ hs

end

/-- R106, R107: a tracker of the thread's own tile that still counts. -/
theorem handlesWait_counting {s : State} {t k : Nat} (hv : handleValid (s.slot t k).th.trkA = true)
    (hown : handleTile (s.slot t k).th.trkA = t) (hlost : s.handleLost (s.slot t k).th.trkA = false)
    (hcount : 0 < ((s.tile t).tracker (handleIdx (s.slot t k).th.trkA)).count) : s.handlesWait t k = .wait := by
  have hA : (s.slot t k).th.handle false = (s.slot t k).th.trkA := rfl
  have hwait : s.handleWait t k false = .wait := by
    simp [State.handleWait, hA, hv, hown, hlost, hcount]
  simp only [State.handlesWait, hwait]

/-- Settles O21: a release that has nothing to wait for writes the lines back and goes on; `trkw` waits for a counting tracker. -/
theorem fences : Obligations.Fences := by
  intro s c hs u k th on clean
  refine ⟨?_, fun hc => ⟨_, exec_fenceRel hs c, release_finishes hs hc false⟩,
    fun hc => ⟨_, exec_fenceAr hs c, release_finishes hs hc false⟩,
    fun hc => ⟨_, exec_fenceAll hs c, release_finishes hs hc true⟩, fun hh => ?_, fun hv hown hlost hcount => ?_⟩
  · change execFenceAcq c s = _
    rw [execFenceAcq, onIssue_next s _ hs, finishSlot_ended]
  · rw [exec_trkw hs, drain_noHandles hh, finishSlot_ended s]
  · have hslot := slot_modSlot_same s u k (fun sl => { sl.waitFor .handles with heldWr := true }) (issuing_slot hs).2.2
    refine ⟨_, ?_, (congrArg Slot.state hslot).trans rfl, (congrArg Slot.th hslot).trans rfl⟩
    rw [exec_trkw hs, State.drain, handlesWait_counting hv hown hlost hcount]
    rfl

end Sys2Proof.Machine
end

section
/-! SUPPORT. Caches without an error: a word as its home reads it, and what a plain store changes of it (R106, R111, R235, R237,
R385). -/

namespace Sys2Proof.Machine

/-! ### Lines without an error (R385) -/

theorem meet_sound {l : Line} (h : l.Sound) : l.meet = l := by
  refine meet_of_clean ?_ ?_ <;> simp only [Line.softs, Line.weaks, List.length_eq_zero_iff, List.filter_eq_nil_iff]
  · exact fun w hw => by simp [(h w hw).1]
  · exact fun w hw => by simp [(h w hw).2]

theorem write_soft (w : LWord) (mask : BitVec 8) (v : Word) : (w.write mask v).soft = w.soft := by
  unfold LWord.write
  dsimp only
  split <;> rfl

theorem write_weak (w : LWord) (mask : BitVec 8) (v : Word) : (w.write mask v).weak = w.weak := by
  unfold LWord.write
  dsimp only
  split <;> rfl

section
variable {s u : State} {t : Nat}

theorem sound_lines (h : s.Sound) {l : Line} (hl : l ∈ (s.tile t).l1 ∨ l ∈ (s.tile t).slices) : l.Sound := h.2.2 t l hl

/-- R385: an access of a line meets nothing. -/
theorem meetLine_sound (h : s.Sound) (c o n : Nat) : s.meetLine t c o n = s := by
  have hnone : ((s.tile t).l1 ++ (s.tile t).slices).filter (fun l => l.is c o n && (l.softs != 0 || l.weaks != 0)) = [] := by
    refine List.filter_eq_nil_iff.mpr fun l hl => ?_
    have hmem := sound_lines h (List.mem_append.mp hl)
    have hzero : l.softs = 0 ∧ l.weaks = 0 := by
      simp only [Line.softs, Line.weaks, List.length_eq_zero_iff, List.filter_eq_nil_iff]
      exact ⟨fun w hw => by simp [(hmem w hw).1], fun w hw => by simp [(hmem w hw).2]⟩
    simp [hzero]
  simp only [State.meetLine, hnone, List.isEmpty_nil, if_true]

theorem sound_same (h : s.Sound) (hl : s.SameLines t u) (hother : ∀ v, v ≠ t → u.tile v = s.tile v) : u.Sound := by
  obtain ⟨hweak, hsoft, hlines⟩ := h
  refine ⟨hl.mem ▸ hweak, hl.mem ▸ hsoft, fun v l hv => ?_⟩
  by_cases hvt : v = t
  · subst hvt
    rw [hl.l1, hl.slices] at hv
    exact hlines v l hv
  · rw [hother v hvt] at hv
    exact hlines v l hv

/-! ### The word that the home reads (R236, R237) -/

/-- R239: a word as the slice and memory behind it have it. -/
def State.backWord (s : State) (t ctx : Nat) (a : Word) : LWord :=
  match findLine (s.tile t).slices ctx (objOf a) (lineNo a) with
  | some l => l.word (wordIdx a)
  | none => (s.dramWords t { ctx := ctx, obj := objOf a, ln := lineNo a, uo := false, words := [] }).getD (wordIdx a) {}

/-- R237: the L1 line of a word, or an empty one as a store allocates it. -/
def State.l1Line (s : State) (t ctx : Nat) (a : Word) (uo : Bool) : Line :=
  (findLine (s.tile t).l1 ctx (objOf a) (lineNo a)).getD
    { ctx := ctx, obj := objOf a, ln := lineNo a, uo := uo, words := List.replicate 8 { valid := false } }

theorem l1Line_is (s : State) (t ctx : Nat) (a : Word) (uo : Bool) : (s.l1Line t ctx a uo).is ctx (objOf a) (lineNo a) = true := by
  cases h : findLine (s.tile t).l1 ctx (objOf a) (lineNo a) with
  | none => simp [State.l1Line, h, Line.is]
  | some l => simpa [State.l1Line, h] using findLine_is h

theorem l1Line_length (h : (s.tile t).LinesOk) (ctx : Nat) (a : Word) (uo : Bool) : (s.l1Line t ctx a uo).words.length = 8 := by
  cases hl : findLine (s.tile t).l1 ctx (objOf a) (lineNo a) with
  | none => simp [State.l1Line, hl]
  | some l => simpa [State.l1Line, hl] using h l (.inl (findLine_mem hl))

theorem sliceLine_word (h : s.Sound) (ctx : Nat) (a : Word) (uo : Bool) :
    (s.sliceLine t ctx (objOf a) (lineNo a) uo).word (wordIdx a) = s.backWord t ctx a := by
  cases hfind : findLine (s.tile t).slices ctx (objOf a) (lineNo a) with
  | some l =>
    have hsound := sound_lines h (.inr (findLine_mem hfind))
    simp only [State.sliceLine, State.backWord, hfind, met_of_is (findLine_is hfind), meet_sound hsound]
  | none =>
    simp only [State.sliceLine, State.backWord, hfind, meetLine_sound h]
    rfl

theorem filled_empty (v : LWord) : (LWord.filled { valid := false } v).data = v.data ∧
    (LWord.filled { valid := false } v).poison = v.poison := by
  refine ⟨?_, rfl⟩
  refine BitVec.eq_of_getLsbD_eq fun i hi => ?_
  show (mergeBytes 0#8 0#64 v.data).getLsbD i = _
  rw [mergeBytes_bit _ _ _ hi, BitVec.getLsbD_zero, if_neg Bool.false_ne_true]

/-- R236, R237: the home reads the L1 over the slice over DRAM. -/
theorem view_over (h : s.Sound) (hok : (s.tile t).LinesOk) (ctx : Nat) (a : Word) (uo : Bool) :
    (s.view t ctx a).data = (((s.l1Line t ctx a uo).word (wordIdx a)).filled (s.backWord t ctx a)).data ∧
    (s.view t ctx a).poison = (((s.l1Line t ctx a uo).word (wordIdx a)).filled (s.backWord t ctx a)).poison := by
  cases hfind : findLine (s.tile t).l1 ctx (objOf a) (lineNo a) with
  | none =>
    have hword : (s.l1Line t ctx a uo).word (wordIdx a) = { valid := false } := by
      simp only [State.l1Line, hfind, Option.getD_none, Line.word, List.getD_eq_getElem?_getD, List.getElem?_replicate,
        if_pos (wordIdx_lt a), Option.getD_some]
    rw [view_miss hfind, meetLine_sound h, sliceLine_word h, hword]
    exact ⟨(filled_empty _).1.symm, (filled_empty _).2.symm⟩
  | some l =>
    have hline : s.l1Line t ctx a uo = l := by simp [State.l1Line, hfind]
    have hsound := sound_lines h (.inl (findLine_mem hfind))
    have hmeet := meet_sound hsound
    have hview : s.view t ctx a = (l.word (wordIdx a)).filled (s.backWord t ctx a) := by
      cases hv : (l.word (wordIdx a)).valid with
      | true =>
        rw [view_hit hfind hv, ← word_meet, hmeet]
        simp [LWord.filled, hv]
      | false =>
        have hlen := hok l (.inl (findLine_mem hfind))
        have hback := sliceLine_word (t := t) h ctx a l.uo
        rw [view_fill hfind hv, hmeet, met_of_is (findLine_is hfind), hmeet, meetLine_sound h, filled_word, hback]
        · rw [hlen]
          exact wordIdx_lt a
        · rw [sliceLine_length _ _ _ _ _ hok]
          exact wordIdx_lt a
    rw [hline, hview]
    exact ⟨rfl, rfl⟩

end

/-! ### A plain store where the L1 has room (R106, R235, R237) -/

theorem mem_modifyAt {α : Type} {l : List α} {i : Nat} {f : α → α} {x : α} (h : x ∈ modifyAt l i f) :
    x ∈ l ∨ ∃ y ∈ l, x = f y := by
  induction l generalizing i with
  | nil => cases h
  | cons y l ih =>
    cases i with
    | zero =>
      rcases List.mem_cons.mp h with rfl | h
      · exact .inr ⟨y, List.mem_cons_self, rfl⟩
      · exact .inl (List.mem_cons_of_mem _ h)
    | succ i =>
      rcases List.mem_cons.mp h with rfl | h
      · exact .inl List.mem_cons_self
      · rcases ih h with h | ⟨z, hz, hx⟩
        · exact .inl (List.mem_cons_of_mem _ h)
        · exact .inr ⟨z, List.mem_cons_of_mem _ hz, hx⟩

theorem findLine_filter {ls : List Line} {c o n c' o' n' : Nat} (h : (c', o', n') ≠ (c, o, n)) :
    findLine (ls.filter (fun m => !m.is c o n)) c' o' n' = findLine ls c' o' n' := by
  rw [findLine, List.find?_filter]
  refine List.find?_congr fun l _ => ?_
  cases hl : l.is c' o' n' with
  | false => simp
  | true =>
    obtain ⟨rfl, rfl, rfl⟩ := lineIs_iff.mp hl
    have hother : l.is c o n = false := Bool.eq_false_iff.mpr fun his => h (by
      obtain ⟨rfl, rfl, rfl⟩ := lineIs_iff.mp his
      rfl)
    simp [hother]

theorem byteMask_outside {a : Word} {n j : Nat} (h : j < a.toNat % 8 ∨ a.toNat % 8 + n ≤ j) :
    (byteMask (offOf a) n).getLsbD j = false := by
  rw [byteMask, offOf_mod, BitVec.getLsbD_ofNat, Nat.testBit_shiftLeft, Nat.testBit_two_pow_sub_one]
  simp only [Bool.and_eq_false_iff, decide_eq_false_iff_not]
  omega

/-- R237: a byte that a write does not name stays what the home reads. -/
theorem filled_write_bit {mask : BitVec 8} {i : Nat} (hi : i < 64) (hm : mask.getLsbD (i / 8) = false) (w v : LWord) (x : Word) :
    ((w.write mask x).filled v).data.getLsbD i = (w.filled v).data.getLsbD i := by
  have hne : mask ≠ 0xFF#8 := by
    rintro rfl
    have hall : ∀ j, j < 8 → (0xFF#8).getLsbD j = true := by decide
    rw [hall _ (by omega)] at hm
    cases hm
  have hvalid : (w.write mask x).valid = w.valid := by
    unfold LWord.write
    dsimp only
    rw [if_neg hne]
  cases hv : w.valid with
  | true =>
    simp only [LWord.filled, hvalid, hv, if_true, write_data, mergeBytes_bit _ _ _ hi, hm, Bool.false_eq_true, if_false]
  | false =>
    simp only [LWord.filled, hvalid, hv, Bool.false_eq_true, if_false, write_data, write_dirty, mergeBytes_bit _ _ _ hi, hm,
      BitVec.getLsbD_or, Bool.or_false]

/-- A tile changed beside its slots. -/
theorem State.AsideSame.setTile {s : State} {t k : Nat} {x : Tile} (h : x.slots = (s.tile t).slots) : s.AsideSame (s.setTile t x) t k :=
  ⟨rfl, fun _ hv => tile_setTile_other s t x hv, fun j _ => by rw [State.slot, tile_setTile_same, Tile.slot, h]; rfl⟩

section
variable {s : State} {t ctx : Nat} {a : Word}

/-- The tile after a word of its L1 has been written without another line's leaving it. -/
def State.l1Written (s : State) (t ctx : Nat) (a : Word) (uo : Bool) (mask : BitVec 8) (v : Word) : State :=
  s.setTile t { s.tile t with
    l1 := ((s.l1Line t ctx a uo).mod (wordIdx a) (fun w => w.write mask v) ::
      (s.tile t).l1.filter (fun m => !m.is ctx (objOf a) (lineNo a))) }

theorem l1Put_room (hroom : (s.tile t).L1Room ctx a) {l : Line} (hl : l.is ctx (objOf a) (lineNo a) = true) :
    s.l1Put t l = s.setTile t { s.tile t with l1 := (l :: (s.tile t).l1.filter (fun m => !m.is ctx (objOf a) (lineNo a))) } := by
  obtain ⟨hctx, hobj, hln⟩ := lineIs_iff.mp hl
  have hset : l1Set l = l1Set { ctx := ctx, obj := objOf a, ln := lineNo a, uo := false, words := [] } := by
    rw [l1Set, hobj, hln, l1Set]
  unfold Tile.L1Room at hroom
  rw [← hset] at hroom
  unfold State.l1Put placeLine
  rw [hctx, hobj, hln]
  dsimp only
  rw [if_pos hroom]

theorem homePut_room (h : s.Sound) (hroom : (s.tile t).L1Room ctx a) (uo : Bool) (mask : BitVec 8) (v : Word) :
    s.homePut t ctx a mask v true uo = s.l1Written t ctx a uo mask v := by
  have hput := l1Put_room hroom (l := (s.l1Line t ctx a uo).mod (wordIdx a) (fun w => w.write mask v)) (l1Line_is s t ctx a uo)
  rw [State.l1Written, ← hput]
  unfold State.homePut
  rw [meetLine_sound h]
  cases hfind : findLine (s.tile t).l1 ctx (objOf a) (lineNo a) with
  | none => simp only [State.l1Line, hfind, if_true, Option.getD_none]
  | some l => simp only [State.l1Line, hfind, Option.getD_some]

variable (uo : Bool) (mask : BitVec 8) (v : Word)

theorem l1Line_sound (h : s.Sound) : (s.l1Line t ctx a uo).Sound := by
  cases hfind : findLine (s.tile t).l1 ctx (objOf a) (lineNo a) with
  | none =>
    intro w hw
    simp only [State.l1Line, hfind, Option.getD_none] at hw
    rw [List.eq_of_mem_replicate hw]
    exact ⟨rfl, rfl⟩
  | some l =>
    simp only [State.l1Line, hfind, Option.getD_some]
    exact sound_lines h (.inl (findLine_mem hfind))

theorem l1Written_aside (k : Nat) : s.AsideSame (s.l1Written t ctx a uo mask v) t k := .setTile rfl

theorem l1Written_line (l : Line) (hl : l ∈ ((s.l1Written t ctx a uo mask v).tile t).l1) :
    l = (s.l1Line t ctx a uo).mod (wordIdx a) (fun w => w.write mask v) ∨ l ∈ (s.tile t).l1 := by
  rw [State.l1Written, tile_setTile_same] at hl
  exact (List.mem_cons.mp hl).imp id fun h => (List.mem_filter.mp h).1

theorem l1Written_linesOk (h : (s.tile t).LinesOk) : ((s.l1Written t ctx a uo mask v).tile t).LinesOk := by
  rintro l (hl | hl)
  · rcases l1Written_line uo mask v l hl with rfl | hl
    · rw [mod_length]
      exact l1Line_length h ctx a uo
    · exact h l (.inl hl)
  · rw [State.l1Written, tile_setTile_same] at hl
    exact h l (.inr hl)

theorem l1Written_sound (h : s.Sound) : (s.l1Written t ctx a uo mask v).Sound := by
  refine ⟨h.1, h.2.1, fun x l hx => ?_⟩
  by_cases hxt : x = t
  · subst hxt
    rcases hx with hl | hl
    · rcases l1Written_line uo mask v l hl with rfl | hl
      · intro w hw
        rcases mem_modifyAt hw with hw | ⟨w', hw', rfl⟩
        · exact l1Line_sound uo h w hw
        · rw [write_soft, write_weak]
          exact l1Line_sound uo h w' hw'
      · exact sound_lines h (.inl hl)
    · rw [State.l1Written, tile_setTile_same] at hl
      exact sound_lines h (.inr hl)
  · rw [State.l1Written, tile_setTile_other _ _ _ hxt] at hx
    exact sound_lines h hx

/-- R235: the L1 line of another word is as it was. -/
theorem l1Written_other {a' : Word} (hn : (objOf a', lineNo a') ≠ (objOf a, lineNo a)) :
    (s.l1Written t ctx a uo mask v).l1Line t ctx a' uo = s.l1Line t ctx a' uo := by
  have hkey : (ctx, objOf a', lineNo a') ≠ (ctx, objOf a, lineNo a) := fun h => hn (Prod.mk.inj h).2
  have hfind : findLine ((s.l1Written t ctx a uo mask v).tile t).l1 ctx (objOf a') (lineNo a') =
      findLine (s.tile t).l1 ctx (objOf a') (lineNo a') := by
    rw [State.l1Written, tile_setTile_same]
    refine (List.find?_cons_of_neg fun his => hkey ?_).trans (findLine_filter hkey)
    obtain ⟨-, hobj, hln⟩ := lineIs_iff.mp his
    obtain ⟨-, hobj', hln'⟩ := lineIs_iff.mp (l1Line_is s t ctx a uo)
    rw [← hobj, ← hln]
    exact congrArg₂ (fun o n => (ctx, o, n)) hobj' hln'
  rw [State.l1Line, hfind, State.l1Line]

theorem l1Written_same {a' : Word} (hn : (objOf a', lineNo a') = (objOf a, lineNo a)) :
    (s.l1Written t ctx a uo mask v).l1Line t ctx a' uo =
      (s.l1Line t ctx a uo).mod (wordIdx a) (fun w => w.write mask v) := by
  obtain ⟨hobj, hline⟩ := Prod.mk.inj hn
  have hfind : findLine ((s.l1Written t ctx a uo mask v).tile t).l1 ctx (objOf a') (lineNo a') =
      some ((s.l1Line t ctx a uo).mod (wordIdx a) (fun w => w.write mask v)) := by
    rw [State.l1Written, tile_setTile_same, hobj, hline]
    exact List.find?_cons_of_pos (l1Line_is s t ctx a uo)
  rw [State.l1Line, hfind, Option.getD_some]

theorem l1Written_back (a' : Word) : (s.l1Written t ctx a uo mask v).backWord t ctx a' = s.backWord t ctx a' := by
  have hdram (l : Line) : (s.l1Written t ctx a uo mask v).dramWords t l = s.dramWords t l := by
    simp only [State.dramWords, State.lineKey, Tile.translate, Tile.extent, State.l1Written, tile_setTile_same]
    rfl
  simp only [State.backWord, hdram]
  rw [State.l1Written, tile_setTile_same]

/-- R106, R111: what a store to the L1 leaves of the words that it does not name, and of the bytes beside its own. -/
theorem l1Written_frame (h : s.Sound) (hok : (s.tile t).LinesOk) {n : Nat} (v : Word) :
    let r := s.l1Written t ctx a uo (byteMask (offOf a) n) v
    (∀ a', (objOf a', offOf a' / 8) ≠ (objOf a, offOf a / 8) →
      (r.view t ctx a').data = (s.view t ctx a').data ∧ (r.view t ctx a').poison = (s.view t ctx a').poison) ∧
    (∀ k, k < 8 → (k < a.toNat % 8 ∨ a.toNat % 8 + n ≤ k) →
      (r.view t ctx a).data.extractLsb' (8 * k) 8 = (s.view t ctx a).data.extractLsb' (8 * k) 8) := by
  intro r
  have hr := view_over (s := r) (t := t) (l1Written_sound uo _ v h) (l1Written_linesOk uo _ v hok) ctx
  have hs := view_over h hok ctx
  refine ⟨fun a' hne => ?_, fun k hk hout => ?_⟩
  · have hword : (r.l1Line t ctx a' uo).word (wordIdx a') = (s.l1Line t ctx a' uo).word (wordIdx a') := by
      by_cases hn : (objOf a', lineNo a') = (objOf a, lineNo a)
      · obtain ⟨hobj, hline⟩ := Prod.mk.inj hn
        have hidx : wordIdx a' ≠ wordIdx a := fun hidx => hne (by
          simp only [lineNo, wordIdx] at hline hidx
          rw [hobj]
          congr 1
          omega)
        have hbase : s.l1Line t ctx a' uo = s.l1Line t ctx a uo := by rw [State.l1Line, hobj, hline, State.l1Line]
        rw [l1Written_same uo _ v hn, hbase]
        exact modifyAt_getD_other _ _ _ _ hidx
      · rw [l1Written_other uo _ v hn]
    rw [(hr a' uo).1, (hr a' uo).2, (hs a' uo).1, (hs a' uo).2, l1Written_back, hword]
    exact ⟨rfl, rfl⟩
  · rw [(hr a uo).1, (hs a uo).1, l1Written_back, l1Written_same uo _ v rfl,
      word_mod (by rw [l1Line_length hok]; exact wordIdx_lt a)]
    refine BitVec.eq_of_getLsbD_eq fun i hi => ?_
    rw [BitVec.getLsbD_extractLsb', BitVec.getLsbD_extractLsb']
    rw [filled_write_bit (by omega) (byteMask_outside (by rw [show (8 * k + i) / 8 = k by omega]; exact hout))]

end

/-! ### The forms (R106) -/

section
variable {s : State} {a : Word} {z : Size} {ob : Object}

/-- A plain store at the own tile is the write of its word in the L1. -/
theorem store_written {t k : Nat} (hsound : s.Sound) (hhome : s.AtHome t (s.memCtx t k) a (sizeBytes z) ob)
    (hcode : ob.isCode = false) (hwr : ob.writable = true) (halone : s.waitersAt t (objWordKey (s.memCtx t k) a) = [])
    (hroom : (s.tile t).L1Room (s.memCtx t k) a) (v : Word) (c : Scope) (base : Option (Ptr × Word)) :
    s.store t k a v z false false c base = ((s.odcUse t (s.memCtx t k) a).l1Written t (s.memCtx t k) a ob.isUO
      (byteMask (offOf a) (sizeBytes z)) (placeBytes (offOf a) v)).modSlot t k (fun sl => sl.stored base) := by
  have hsame := odcUse_sameLines s t (s.memCtx t k) a
  have hkeep := odcUse_keepsHome s t (s.memCtx t k) a
  have hgate := (gate_keepsHome hkeep (s.memCtx t k) a false).trans hhome.resident
  have hput := homePut_room (sound_same hsound hsame fun v hv => tile_modTile_other s t _ hv)
    (a := a) (ctx := s.memCtx t k) (t := t) (by rw [Tile.L1Room, hsame.l1]; exact hroom) ob.isUO (byteMask (offOf a) (sizeBytes z))
    (placeBytes (offOf a) v)
  have hkept : s.KeepsHome t ((s.odcUse t (s.memCtx t k) a).l1Written t (s.memCtx t k) a ob.isUO
      (byteMask (offOf a) (sizeBytes z)) (placeBytes (offOf a) v)) := hkeep.trans (.setTile rfl)
  have hnone := (waitersAt_keepsHome hkept (objWordKey (s.memCtx t k) a)).trans halone
  rw [store_own hhome ⟨hcode, hwr⟩, State.releaseIf, if_neg Bool.false_ne_true, atHome_go hgate]
  simp only [State.storeHere, State.homeStore, Bool.not_false, hput, hnone, List.isEmpty_nil, if_true]

end

/-- Settles O15: with room in the L1 the store is a write of one word of one line there, over which the home reads what it read. -/
theorem storeFrame : Obligations.StoreFrame := by
  intro s t d b x z m o c f ob i a hform u ctx n hext hsound hrel hnt hhome _ hcode hwr hok halone hroom hexec
  obtain ⟨base, hstore⟩ : ∃ base, exec i s = .next (s.store u s.cur.2 a (s.rd d) z false false c base) := by
    have hs : s.issuing = true := by
      rcases hform with ⟨rfl, -⟩ | ⟨rfl, -⟩
      · exact (onIssue_inv (show execSt d b z m o c f s = _ from hexec)).1
      · exact (onIssue_inv (show execStx d b x z o c s = _ from hexec)).1
    rcases hform with ⟨rfl, rfl⟩ | ⟨rfl, rfl⟩
    · exact ⟨_, by rw [exec_st hs d b z o c hext m f, hnt, hrel]⟩
    · exact ⟨_, by rw [exec_stx hs d b x z o c, hnt, hrel]⟩
  rw [hstore, store_written hsound hhome hcode hwr halone hroom] at hexec
  cases hexec
  have huse := odcUse_sameLines s u ctx a
  have hslot := modSlot_sameLines ((s.odcUse u ctx a).l1Written u ctx a ob.isUO (byteMask (offOf a) n) (placeBytes (offOf a) (s.rd d)))
    u s.cur.2 (fun sl => sl.stored base)
  have hframe := l1Written_frame (ctx := ctx) (a := a) (n := n) ob.isUO
    (sound_same hsound huse fun v hv => tile_modTile_other s u _ hv) (by rw [Tile.LinesOk, huse.l1, huse.slices]; exact hok)
    (placeBytes (offOf a) (s.rd d))
  have haside : s.AsideSame (((s.odcUse u ctx a).l1Written u ctx a ob.isUO (byteMask (offOf a) n)
      (placeBytes (offOf a) (s.rd d))).modSlot u s.cur.2 (fun sl => sl.stored base)) u s.cur.2 :=
    ((State.AsideSame.odcUse s u s.cur.2 ctx a).trans (l1Written_aside ob.isUO _ _ _)).trans (.modSlot _ u s.cur.2 _)
  obtain ⟨hmem, htiles, hslots⟩ := haside
  obtain ⟨hwords, hbytes⟩ := hframe
  simp only [view_same huse] at hwords hbytes
  refine ⟨hmem, ?_, htiles, hslots, fun a' hne => ?_, fun k hk hout => ?_⟩
  · rw [hslot.slices, State.l1Written, tile_setTile_same]
    exact huse.slices
  · rw [view_same hslot]
    exact hwords a' hne
  · rw [view_same hslot]
    exact hbytes k hk hout

end Sys2Proof.Machine
end

section
/-! SUPPORT. The scratchpad of a tile: the words of its macros, the checks of an access to them, and what loads and stores leave
(R113, R115, R116, R227). -/

namespace Sys2Proof.Machine

/-! ### Words of memory by their bytes (log 3) -/

theorem bytes_bit (f : Nat → Byte) (n j : Nat) {i : Nat} (hi : i < 64) :
    ((List.range' j n).foldr (fun m (acc : Word) => (acc <<< 8) ||| (f m).zeroExtend 64) 0#64).getLsbD i =
      (decide (i / 8 < n) && (f (j + i / 8)).getLsbD (i % 8)) := by
  induction n generalizing j i with
  | zero => simp
  | succ n ih =>
    rw [List.range'_succ, List.foldr_cons, BitVec.getLsbD_or, BitVec.getLsbD_shiftLeft, BitVec.getLsbD_setWidth]
    by_cases h8 : i < 8
    · have hdiv : i / 8 = 0 := by omega
      have hmod : i % 8 = i := by omega
      simp [h8, hi, hdiv, hmod]
    · have hdiv : (i - 8) / 8 = i / 8 - 1 := by omega
      have hmod : (i - 8) % 8 = i % 8 := by omega
      have hplace : j + 1 + (i / 8 - 1) = j + i / 8 := by omega
      have hlt : i / 8 - 1 < n ↔ i / 8 < n + 1 := by omega
      have hout : (f j).getLsbD i = false := BitVec.getLsbD_of_ge _ _ (by omega)
      rw [ih (j + 1) (by omega), hdiv, hmod, hplace, hout]
      simp [h8, hi, hlt]

theorem word_bit (m : Mem) (a : Nat) {i : Nat} (hi : i < 64) :
    (m.word a).getLsbD i = (m.byte (wordKey a + i / 8)).getLsbD (i % 8) := by
  have h := bytes_bit (fun j => m.byte (wordKey a + j)) 8 0 hi
  have hlt : i / 8 < 8 := by omega
  rw [Mem.word, List.range_eq_range', h]
  simp [hlt]

variable {m : Mem} {a : Nat} {mask : BitVec 8} {v : Word}

/-- R113: a word after a write of bytes of it. -/
theorem word_write (h : m.wf = true) (a : Nat) (mask : BitVec 8) (v : Word) :
    (m.write a mask v).word a = mergeBytes mask v (m.word a) := by
  refine BitVec.eq_of_getLsbD_eq fun i hi => ?_
  have hin : i / 8 < 8 := by omega
  rw [mergeBytes_bit mask _ _ hi, word_bit _ _ hi, byte_write _ _ _ _ _ h, word_bit _ _ hi, Nat.add_sub_cancel_left]
  cases hm : mask.getLsbD (i / 8) with
  | false => simp
  | true =>
    have hbit : 8 * (i / 8) + i % 8 = i := by omega
    simp [hin, hbit, Nat.mod_lt]

theorem mergeBytes_all (v w : Word) : mergeBytes 0xFF#8 v w = v := by
  refine BitVec.eq_of_getLsbD_eq fun i hi => ?_
  have hall : ∀ j, j < 8 → (0xFF#8).getLsbD j = true := by decide
  rw [mergeBytes_bit _ _ _ hi, hall _ (by omega), if_pos rfl]

theorem merge_empty (m : Mem) (a : Nat) (mask : BitVec 8) (v : Word) : (m.merge a mask v).empty = m.empty := by
  have hfold (l : List Nat) (m : Mem) : (l.foldl (fun m i =>
      if mask.getLsbD i then m.setByte (wordKey a + i) (v.extractLsb' (8 * i) 8) else m) m).empty = m.empty := by
    induction l generalizing m with
    | nil => rfl
    | cons i l ih =>
      rw [List.foldl_cons, ih]
      split <;> rfl
  exact hfold _ m

theorem write_empty (m : Mem) (a : Nat) (mask : BitVec 8) (v : Word) : (m.write a mask v).empty = m.empty := by
  unfold Mem.write
  dsimp only
  split <;> exact merge_empty m a mask v

/-- R113: a write of all eight bytes clears the poison of its word. -/
theorem isPoison_write (h : m.wf = true) (a : Nat) (v : Word) : (m.write a 0xFF#8 v).isPoison a = false := by
  obtain ⟨-, -, hpoison, hweak, -⟩ := (Mem.wf_iff _).mp (merge_wf m a 0xFF#8 v h)
  have hp := mem_eraseNat _ (wordKey a) (wordKey a) ((wordsWf_iff _).mp hpoison).1
  have hw := mem_eraseNat _ (wordKey a) (wordKey a) ((wordsWf_iff _).mp hweak).1
  simp only [Mem.isPoison, Mem.write, if_true, Mem.setPoison, setNat, Bool.false_eq_true, if_false, List.contains_eq_mem, hp, hw]
  simp

theorem isEmpty_setEmpty (h : m.wf = true) (a : Nat) (on : Bool) : (m.setEmpty a on).isEmpty a = on := by
  obtain ⟨-, hempty, -⟩ := (Mem.wf_iff _).mp h
  have he := mem_eraseNat _ (wordKey a) (wordKey a) ((wordsWf_iff _).mp hempty).1
  cases on with
  | false =>
    simp only [Mem.isEmpty, Mem.setEmpty, setNat, Bool.false_eq_true, if_false, List.contains_eq_mem, he]
    simp
  | true => simp [Mem.isEmpty, Mem.setEmpty, setNat, mem_insertNat]

/-! ### Addresses in the scratchpad (R115) -/

theorem spadKey_mod (t : Nat) (a : Word) : spadKey t (macroOf a) (macroOff a) % 8 = a.toNat % 8 := by
  have hoff : macroOff a % 8 = a.toNat % 8 := by
    simp only [macroOff, bits, Nat.shiftRight_zero]
    omega
  unfold spadKey
  omega

theorem byteMask_inside {a : Word} {n j : Nat} (h : (byteMask (offOf a) n).getLsbD j = true) :
    a.toNat % 8 ≤ j ∧ j < a.toNat % 8 + n := by
  by_contra hout
  rw [byteMask_outside (by omega)] at h
  cases h

/-- R111: a write of the bytes of an access changes no byte beside them. -/
theorem byte_write_outside (h : m.wf = true) {k : Nat} {a : Word} {n b : Nat} (hk : k % 8 = a.toNat % 8) (hb : b < k ∨ k + n ≤ b)
    (v : Word) :
    (m.write k (byteMask (offOf a) n) v).byte b = m.byte b := by
  rw [byte_write _ _ _ _ _ h]
  refine if_neg fun ⟨hlo, _, hmask⟩ => ?_
  have hin := byteMask_inside hmask
  have hword : wordKey k = k - k % 8 := by
    unfold wordKey
    omega
  omega

theorem partner_self (t : Nat) : partner t 0 = t := by
  simp only [partner, Nat.zero_mod, Nat.zero_div, Nat.zero_ne_one, if_false]
  omega

end Sys2Proof.Machine
end

section
/-! SUPPORT. Accesses of a thread to the macros of its own team (R115, R116, R118-R120, R227). -/

namespace Sys2Proof.Machine

/-- R115: an access of `n` bytes to a scratchpad of the issuing thread's own team and tile, which has no command due. -/
structure State.OwnMacro (s : State) (t k : Nat) (a : Word) (n : Nat) : Prop where
  aligned : a.toNat % n = 0
  place : bits a 63 22 = 0
  grid : t < s.rows * 96
  standing : (s.tile t).fenced = false
  user : s.atService t k = false
  owner : ((s.tile t).mac (macroOf a)).owner = some (s.slot t k).team
  calm : ((s.tile t).mac (macroOf a)).due = false

section
variable {s : State} {t k n : Nat} {a : Word}

/-- R115: its checks raise nothing. -/
theorem spadReach_own (h : s.OwnMacro t k a n) : s.spadReach t k a n = .own := by
  have hplace : a.toNat >>> 22 % 2 ^ 42 = 0 := h.place
  have hlow : a.toNat < 2 ^ 64 := a.isLt
  rw [Nat.shiftRight_eq_div_pow] at hplace
  have hhigh : bits a 63 24 = 0 := by
    simp only [bits, Nat.shiftRight_eq_div_pow]
    omega
  have hpeer : peerCode a = 0 := by
    simp only [peerCode, bits, Nat.shiftRight_eq_div_pow]
    omega
  simp [State.spadReach, h.aligned, hhigh, hpeer, partner_self, State.isTile, h.grid, h.standing, h.owner, State.teamOf, h.user]

theorem meetSpad_sound (h : s.Sound) (t key n : Nat) : s.meetSpad t key n = s := by
  simp [State.meetSpad, Mem.softIn, Mem.weakIn, h.1, h.2.1]

/-- R116: the states of a scratchpad in which a read, and a write, goes on. -/
theorem atSpad_go (h : s.OwnMacro t k a n) (hsound : s.Sound) {write : Bool}
    (hstate : ((s.tile t).mac (macroOf a)).state = .plain ∨ ((s.tile t).mac (macroOf a)).state = .ready ∨
      write = false ∧ ((s.tile t).mac (macroOf a)).state = .stationary) (go : State → State) : s.atSpad t k a write go = go s := by
  have hgate : (s.tile t).spadGate (macroOf a) write = .go := by
    rcases hstate with hst | hst | ⟨hw, hst⟩
    · simp [Tile.spadGate, hst, h.calm]
    · simp [Tile.spadGate, hst, h.calm]
    · simp [Tile.spadGate, hst, h.calm, hw]
  simp only [State.atSpad, hgate, meetSpad_sound hsound]

/-- R116: a write of a stationary scratchpad is refused. -/
theorem atSpad_lock (h : s.OwnMacro t k a n) (hstate : ((s.tile t).mac (macroOf a)).state = .stationary) (go : State → State) :
    s.atSpad t k a true go = s.raise t k 0x11 a (fromNat (macroOf a)) := by
  have hgate : (s.tile t).spadGate (macroOf a) true = .lock := by simp [Tile.spadGate, hstate, h.calm]
  simp only [State.atSpad, hgate]
  rfl

/-! ### Loads and stores (R116, R227) -/

theorem loadSpad_own {z : Size} (h : s.OwnMacro t k a (sizeBytes z)) (hsound : s.Sound)
    (hstate : ((s.tile t).mac (macroOf a)).state = .plain ∨ ((s.tile t).mac (macroOf a)).state = .ready ∨
      ((s.tile t).mac (macroOf a)).state = .stationary)
    (hp : s.mem.isPoison (spadKey t (macroOf a) (macroOff a)) = false) (d : Reg) (sx : Bool) (base : Option (Ptr × Word)) :
    s.loadSpad t k a d z sx base = s.modSlot t k (fun sl =>
      sl.loaded d z sx base a (s.mem.word (spadKey t (macroOf a) (macroOff a)))) := by
  rw [State.loadSpad, spadReach_own h]
  dsimp only
  rw [atSpad_go h hsound (hstate.imp id (Or.imp id fun hst => ⟨rfl, hst⟩))]
  simp only [State.spadRead, hp, Bool.false_eq_true, if_false]

/-- R137: a write of a scratchpad at whose word nobody waits. -/
theorem spadStore_quiet (hnone : s.waitersAt t (spadWordKey a) = []) (mask : BitVec 8) (v : Word) :
    s.spadStore t a mask v = s.modMem (fun m => m.write (spadKey t (macroOf a) (macroOff a)) mask v) := by
  have hwait : (s.modMem (fun m => m.write (spadKey t (macroOf a) (macroOff a)) mask v)).waitersAt t (spadWordKey a) = [] := hnone
  simp only [State.spadStore, State.wake, hwait, List.filter_nil, List.foldl_nil]

theorem storeSpad_own {z : Size} (h : s.OwnMacro t k a (sizeBytes z)) (hsound : s.Sound)
    (hstate : ((s.tile t).mac (macroOf a)).state = .plain ∨ ((s.tile t).mac (macroOf a)).state = .ready)
    (hnone : s.waitersAt t (spadWordKey a) = []) (v : Word) (c : Scope) (base : Option (Ptr × Word)) :
    s.storeSpad t k a v z false c base = (s.modMem (fun m => m.write (spadKey t (macroOf a) (macroOff a))
      (byteMask (offOf a) (sizeBytes z)) (placeBytes (offOf a) v))).modSlot t k (fun sl => sl.stored base) := by
  rw [State.storeSpad, spadReach_own h]
  dsimp only
  rw [State.releaseIf, if_neg Bool.false_ne_true, atSpad_go h hsound (hstate.imp id .inl), spadStore_quiet hnone]

theorem storeSpad_lock {z : Size} (h : s.OwnMacro t k a (sizeBytes z)) (hstate : ((s.tile t).mac (macroOf a)).state = .stationary)
    (v : Word) (c : Scope) (base : Option (Ptr × Word)) :
    s.storeSpad t k a v z false c base = s.raise t k 0x11 a (fromNat (macroOf a)) := by
  rw [State.storeSpad, spadReach_own h]
  dsimp only
  rw [State.releaseIf, if_neg Bool.false_ne_true, atSpad_lock h hstate]

end

/-! ### The forms (R115, R116) -/

section
variable {s : State} (hs : s.issuing = true) (d : Reg) (b : Ptr) (x : Reg) (z : Size) (o : Sys2Proof.Order) (c : Scope)
include hs

theorem exec_ldsx : exec (.ldsx d b x z o c) s = .next (s.loadSpad s.cur.1 s.cur.2
    (s.curSlot.th.regs.get b + fromInt ((s.rd x).toInt * sizeBytes z)) d z s.curSlot.sx none) := by
  change execLdsx d b x z o c s = _
  rw [execLdsx, onIssue_next s _ hs, addrX_eq]
  rfl

theorem exec_stsx : exec (.stsx d b x z o c) s = .next (s.storeSpad s.cur.1 s.cur.2
    (s.curSlot.th.regs.get b + fromInt ((s.rd x).toInt * sizeBytes z)) (s.rd d) z (orderRel o) c none) := by
  change execStsx d b x z o c s = _
  rw [execStsx, onIssue_next s _ hs, addrX_eq]
  rfl

variable (hext : s.curSlot.ext.length ≤ 2) (m : Mode) (f : BitVec 9)
include hext

theorem exec_lds : exec (.lds d b z m o c f) s = .next (s.loadSpad s.cur.1 s.cur.2
    (memPlace s.curSlot.th b m (sizeBytes z) (extInt s.curSlot.ext f)).1 d z s.curSlot.sx
    (addrM s.curSlot.th b m (sizeBytes z) s.curSlot.ext f).2) := by
  change execLds d b z m o c f s = _
  rw [execLds, onIssue_next s _ hs, ← addrM_fst hext]

theorem exec_sts : exec (.sts d b z m o c f) s = .next (s.storeSpad s.cur.1 s.cur.2
    (memPlace s.curSlot.th b m (sizeBytes z) (extInt s.curSlot.ext f)).1 (s.rd d) z (orderRel o) c
    (addrM s.curSlot.th b m (sizeBytes z) s.curSlot.ext f).2) := by
  change execSts d b z m o c f s = _
  rw [execSts, onIssue_next s _ hs, ← addrM_fst hext]
  rfl

end

section
variable {s : State} {a : Word} {z : Size}

/-- R116, R227: what a load of a scratchpad's word leaves. -/
theorem loadSpad_ends (hs : s.issuing = true) (h : s.OwnMacro s.cur.1 s.cur.2 a (sizeBytes z)) (hsound : s.Sound)
    (hstate : ((s.tile s.cur.1).mac (macroOf a)).state = .plain ∨ ((s.tile s.cur.1).mac (macroOf a)).state = .ready ∨
      ((s.tile s.cur.1).mac (macroOf a)).state = .stationary)
    (hp : s.mem.isPoison (spadKey s.cur.1 (macroOf a) (macroOff a)) = false) (d : Reg) (base : Option (Ptr × Word)) :
    let t := s.loadSpad s.cur.1 s.cur.2 a d z s.curSlot.sx base
    s.OnlySlot t s.cur.1 s.cur.2 ∧ s.then_ t = { (s.curSlot.th.setBase base).setReg d (loadedWord z s.curSlot.sx
      (bytesAt a (sizeBytes z) (s.mem.word (spadKey s.cur.1 (macroOf a) (macroOff a))))) with pc := s.following } := by
  intro t
  have hload : t = s.modSlot s.cur.1 s.cur.2 _ := loadSpad_own h hsound hstate hp d s.curSlot.sx base
  have hlt : bytesAt a (sizeBytes z) (s.mem.word (spadKey s.cur.1 (macroOf a) (macroOff a))) < 2 ^ (8 * sizeBytes z) :=
    Nat.mod_lt _ (Nat.two_pow_pos _)
  rw [hload]
  refine ⟨modSlot_onlySlot _, ?_⟩
  rw [State.then_, slot_modSlot_same _ _ _ _ (issuing_slot hs).2.2, ← extendLoad_eq z _ hlt, ← takeBytes_eq]
  rfl

/-- R116, R227: what a store to a scratchpad's word leaves. -/
theorem storeSpad_ends (hs : s.issuing = true) (hwf : s.MemWf) (h : s.OwnMacro s.cur.1 s.cur.2 a (sizeBytes z)) (hsound : s.Sound)
    (hstate : ((s.tile s.cur.1).mac (macroOf a)).state = .plain ∨ ((s.tile s.cur.1).mac (macroOf a)).state = .ready)
    (hnone : s.waitersAt s.cur.1 (spadWordKey a) = []) (v : Word) (c : Scope) (base : Option (Ptr × Word)) :
    let t := s.storeSpad s.cur.1 s.cur.2 a v z false c base
    let key := spadKey s.cur.1 (macroOf a) (macroOff a)
    (t.slot s.cur.1 s.cur.2).state = .ready ∧ s.then_ t = { s.curSlot.th.setBase base with pc := s.following } ∧
    bytesAt a (sizeBytes z) (t.mem.word key) = v.toNat % 2 ^ (8 * sizeBytes z) ∧ s.SameBytesBut t key (sizeBytes z) ∧
    t.mem.empty = s.mem.empty := by
  intro t key
  have hstore : t = (s.modMem (fun m => m.write key (byteMask (offOf a) (sizeBytes z)) (placeBytes (offOf a) v))).modSlot
      s.cur.1 s.cur.2 (fun sl => sl.stored base) := storeSpad_own h hsound hstate hnone v c base
  have hslot : t.slot s.cur.1 s.cur.2 = s.curSlot.stored base := by
    rw [hstore, slot_modSlot_same]
    · rfl
    · exact (issuing_slot hs).2.2
  have hmem : t.mem = s.mem.write key (byteMask (offOf a) (sizeBytes z)) (placeBytes (offOf a) v) := congrArg State.mem hstore
  have hwithin := aligned_within h.aligned
  refine ⟨congrArg Slot.state hslot, congrArg Slot.th hslot, ?_, fun b hb => ?_, ?_⟩
  · rw [hmem, word_write hwf, bytesAt_merge (byteMask_covers hwithin) hwithin, placeBytes_bytesAt hwithin]
  · rw [hmem, byte_write_outside hwf (spadKey_mod _ a) hb]
  · rw [hmem, write_empty]

end

/-- Settles O18: the access is to a scratchpad of the thread's own team, whose word in memory it reads, writes or may not write. -/
theorem scratchpadAccess : Obligations.ScratchpadAccess := by
  intro s d b x z m o c f hs hext hwf hsound u th n key mine state readable loads stores
  have hbase := addrM_setBase hext th b m n f
  have hlds := exec_lds hs d b z o c hext m f
  have hsts := exec_sts hs d b z o c hext m f
  generalize hplace : memPlace th b m n (extInt s.curSlot.ext f) = place at hbase ⊢
  rw [show memPlace s.curSlot.th b m (sizeBytes z) (extInt s.curSlot.ext f) = place from hplace] at hlds hsts
  obtain ⟨a, th'⟩ := place
  have hown {a : Word} (h : mine a) : s.OwnMacro u s.cur.2 a n := by
    obtain ⟨halign, hbits, hgrid, hfence, huser, howner, hdue⟩ := h
    exact ⟨halign, hbits, hgrid, hfence, huser, howner, hdue⟩
  have hload {i : Instr} {a : Word} {base : Option (Ptr × Word)}
      (hexec : exec i s = .next (s.loadSpad u s.cur.2 a d z s.curSlot.sx base)) : loads i a (th.setBase base) :=
    fun hmine hread hp => ⟨_, hexec, loadSpad_ends hs (hown hmine) hsound hread hp d base⟩
  have hstore {i : Instr} {a : Word} {base : Option (Ptr × Word)}
      (hexec : exec i s = .next (s.storeSpad u s.cur.2 a (s.rd d) z (orderRel o) c base)) : stores i a (th.setBase base) :=
    fun hmine hnone => ⟨fun hst hrel => ⟨_, hrel ▸ hexec, storeSpad_ends hs hwf (hown hmine) hsound hst hnone (s.rd d) c base⟩,
      fun hst hrel => (hrel ▸ hexec).trans (congrArg _ (storeSpad_lock (hown hmine) hst (s.rd d) c base))⟩
  dsimp only at hbase
  refine ⟨?_, hload (exec_ldsx hs d b x z o c), ?_, hstore (exec_stsx hs d b x z o c)⟩
  · exact hbase ▸ hload hlds
  · exact hbase ▸ hstore hsts

end Sys2Proof.Machine
end

section
/-! SUPPORT. What the steps of a tile's caches depend on: its lines, its translations, memory and the objects (R235-R240). -/

namespace Sys2Proof.Machine

/-- Two tiles with the same lines and translations. -/
structure Tile.SameCache (x y : Tile) : Prop where
  l1 : y.l1 = x.l1
  slices : y.slices = x.slices
  tlb : y.tlb = x.tlb
  extents : y.extents = x.extents

section
variable {s u v : State} {t : Nat}

theorem sameLines_iff : s.SameLines t u ↔ (s.tile t).SameCache (u.tile t) ∧ u.mem = s.mem ∧ u.objects = s.objects :=
  ⟨fun h => ⟨⟨h.l1, h.slices, h.tlb, h.extents⟩, h.mem, h.objects⟩,
    fun ⟨h, hmem, hobjects⟩ => ⟨h.l1, h.slices, h.tlb, h.extents, hmem, hobjects⟩⟩

namespace State.SameLines

theorem refl (s : State) : s.SameLines t s := ⟨rfl, rfl, rfl, rfl, rfl, rfl⟩

theorem symm (h : s.SameLines t u) : u.SameLines t s :=
  ⟨h.l1.symm, h.slices.symm, h.tlb.symm, h.extents.symm, h.mem.symm, h.objects.symm⟩

theorem trans (h : s.SameLines t u) (h' : u.SameLines t v) : s.SameLines t v :=
  ⟨h'.l1.trans h.l1, h'.slices.trans h.slices, h'.tlb.trans h.tlb, h'.extents.trans h.extents, h'.mem.trans h.mem,
    h'.objects.trans h.objects⟩

/-- Tiles that are changed alike. -/
theorem modTile (h : s.SameLines t u) {f : Tile → Tile} (hf : ∀ x y, x.SameCache y → (f x).SameCache (f y)) :
    (s.modTile t f).SameLines t (u.modTile t f) := by
  obtain ⟨htile, hmem, hobjects⟩ := sameLines_iff.mp h
  exact sameLines_iff.mpr ⟨by rw [tile_modTile_same, tile_modTile_same]; exact hf _ _ htile, hmem, hobjects⟩

theorem setTile (h : s.SameLines t u) {x y : Tile} (hxy : x.SameCache y) : (s.setTile t x).SameLines t (u.setTile t y) :=
  sameLines_iff.mpr ⟨by rw [tile_setTile_same, tile_setTile_same]; exact hxy, h.mem, h.objects⟩

theorem modMem (h : s.SameLines t u) (f : Mem → Mem) : (s.modMem f).SameLines t (u.modMem f) :=
  ⟨h.l1, h.slices, h.tlb, h.extents, congrArg f h.mem, h.objects⟩

/-- A change of a tile beside its lines. -/
theorem beside (s : State) {f : Tile → Tile} (hf : ∀ x : Tile, x.SameCache (f x)) : s.SameLines t (s.modTile t f) :=
  sameLines_iff.mpr ⟨by rw [tile_modTile_same]; exact hf _, rfl, rfl⟩

theorem countDram (s : State) (soft weak : List Nat) : s.SameLines t (s.countDram t soft weak) := by
  unfold State.countDram
  exact beside s fun x => ⟨rfl, rfl, rfl, rfl⟩

theorem send (s : State) (p : Packet) : s.SameLines t (s.send p) := by
  have hobjects : (s.send p).objects = s.objects := (congrArg State.objects (send_shape s p)).trans rfl
  refine sameLines_iff.mpr ⟨?_, send_mem s p, hobjects⟩
  rcases send_tile s p t with h | ⟨-, m, n, f, -, h⟩ <;> rw [h] <;> exact ⟨rfl, rfl, rfl, rfl⟩

/-- The same steps for a list that the lines and translations give. -/
theorem foldlOf {α : Type} {f : State → α → State} {g : Tile → List α} (h : s.SameLines t u)
    (hf : ∀ (s u : State) a, s.SameLines t u → (f s a).SameLines t (f u a)) (hg : ∀ x y : Tile, x.SameCache y → g y = g x) :
    ((g (s.tile t)).foldl f s).SameLines t ((g (u.tile t)).foldl f u) := by
  rw [hg _ _ (sameLines_iff.mp h).1]
  generalize g (s.tile t) = l
  induction l generalizing s u with
  | nil => exact h
  | cons a l ih => exact ih (hf _ _ a h)

theorem notices (s : State) (l : Line) (met : List Nat) : s.SameLines t (met.foldl (fun s i => s.mergeNotice t l i) s) := by
  induction met generalizing s with
  | nil => exact refl s
  | cons i met ih => exact (send s _).trans (ih _)

end State.SameLines

/-! ### Translations and DRAM (R239, R291, R385) -/

theorem translate_same {x y : Tile} (h : x.SameCache y) (c o g : Nat) : y.translate c o g = x.translate c o g := by
  simp only [Tile.translate, Tile.extent, h.tlb, h.extents]

theorem tlbUse_same {x y : Tile} (h : x.SameCache y) (l : Line) : (x.tlbUse l).SameCache (y.tlbUse l) := by
  simp only [Tile.tlbUse, translate_same h]
  split
  · exact h
  · exact ⟨h.l1, h.slices, by rw [h.tlb], h.extents⟩

variable (h : s.SameLines t u)
include h

theorem lineKey_same (l : Line) : u.lineKey t l = s.lineKey t l := by
  rw [State.lineKey, translate_same (sameLines_iff.mp h).1, State.lineKey]

theorem meetDram_same (key n : Nat) : (s.meetDram t key n).SameLines t (u.meetDram t key n) := by
  simp only [State.meetDram, h.mem]
  split
  · exact h
  · refine State.SameLines.modMem ?_ _
    exact (State.SameLines.countDram s _ _).symm.trans (h.trans (.countDram u _ _))

theorem sliceOut_same (l : Line) : (s.sliceOut t l).SameLines t (u.sliceOut t l) := by
  have hkey := lineKey_same h l
  cases hk : s.lineKey t l with
  | none =>
    rw [hk] at hkey
    simp only [State.sliceOut, hk, hkey]
    exact h
  | some key =>
    rw [hk] at hkey
    simp only [State.sliceOut, hk, hkey, h.mem]
    refine ((State.SameLines.notices _ l _).symm.trans ?_).trans (.notices _ l _)
    refine State.SameLines.modMem ?_ _
    refine State.SameLines.modTile ?_ fun x y hxy => ?_
    · split
      · exact h
      · exact (State.SameLines.countDram s _ _).symm.trans (h.trans (.countDram u _ _))
    · split
      · exact tlbUse_same hxy l
      · exact hxy

theorem readLine_same (l : Line) : (s.readLine t l).1.SameLines t (u.readLine t l).1 := by
  have hkey := lineKey_same h l
  have hmet (key : Nat) := meetDram_same (h.modTile fun x y hxy => tlbUse_same hxy l) key 8
  have hobj (key : Nat) (w : State) :
      ((w.modTile t (fun x => x.tlbUse l)).meetDram t key 8).object l.ctx l.obj = w.object l.ctx l.obj := by
    unfold State.meetDram
    split <;> rfl
  cases hk : s.lineKey t l with
  | none =>
    rw [hk] at hkey
    simp only [State.readLine, hk, hkey]
    exact h
  | some key =>
    rw [hk] at hkey
    simp only [State.readLine, hk, hkey, hobj, object_same h]
    cases s.object l.ctx l.obj with
    | none => exact hmet key
    | some o => dsimp only; split <;> exact hmet key

/-! ### Lines brought in, written and dropped (R235-R240) -/

/-- R239: a line placed in its slice. -/
theorem slicePlace_same (l : Line) :
    (match placeLine sliceSet (s.tile t).slices l with
      | (ls, out) => match out with
        | none => s.setTile t { s.tile t with slices := ls }
        | some v => (s.setTile t { s.tile t with slices := ls }).sliceOut t v).SameLines t
    (match placeLine sliceSet (u.tile t).slices l with
      | (ls, out) => match out with
        | none => u.setTile t { u.tile t with slices := ls }
        | some v => (u.setTile t { u.tile t with slices := ls }).sliceOut t v) := by
  rw [h.slices]
  have hset (ls : List Line) : (s.setTile t { s.tile t with slices := ls }).SameLines t (u.setTile t { u.tile t with slices := ls }) :=
    h.setTile ⟨h.l1, rfl, h.tlb, h.extents⟩
  cases placeLine sliceSet (s.tile t).slices l with
  | mk ls out => cases out with
    | none => exact hset ls
    | some v => exact sliceOut_same (hset ls) v

theorem sliceIn_same (c o n : Nat) (uo : Bool) : (s.sliceIn t c o n uo).SameLines t (u.sliceIn t c o n uo) := by
  have hmet := meetLine_same h c o n
  have hfind : findLine ((u.meetLine t c o n).tile t).slices c o n = findLine ((s.meetLine t c o n).tile t).slices c o n := by
    rw [hmet.slices]
  unfold State.sliceIn
  dsimp only
  rw [hfind]
  cases findLine ((s.meetLine t c o n).tile t).slices c o n with
  | some l => exact slicePlace_same hmet l
  | none =>
    have hread := readLine_same hmet { ctx := c, obj := o, ln := n, uo := uo, words := [] }
    have hwords : ((u.meetLine t c o n).readLine t { ctx := c, obj := o, ln := n, uo := uo, words := [] }).2 =
        ((s.meetLine t c o n).readLine t { ctx := c, obj := o, ln := n, uo := uo, words := [] }).2 := by
      rw [readLine_words, readLine_words, dramWords_same hmet]
    dsimp only
    cases hs : (s.meetLine t c o n).readLine t { ctx := c, obj := o, ln := n, uo := uo, words := [] } with
    | mk v ws => cases hu : (u.meetLine t c o n).readLine t { ctx := c, obj := o, ln := n, uo := uo, words := [] } with
      | mk w ws' =>
        rw [hs, hu] at hread hwords
        cases hwords
        exact slicePlace_same hread _

theorem takeLine_same (l : Line) : (s.takeLine t l).SameLines t (u.takeLine t l) :=
  (sliceIn_same h l.ctx l.obj l.ln l.uo).modTile fun x y hxy => ⟨hxy.l1, by rw [hxy.slices], hxy.tlb, hxy.extents⟩

theorem l1Out_same (l : Line) : (s.l1Out t l).SameLines t (u.l1Out t l) := by
  unfold State.l1Out
  split
  · exact h
  · exact ((State.SameLines.notices _ l _).symm.trans (takeLine_same h l)).trans (.notices _ l _)

theorem l1Drop_same (c : Nat) (a : Word) : (s.l1Drop t c a).SameLines t (u.l1Drop t c a) := by
  unfold State.l1Drop
  rw [h.l1]
  split
  · exact h
  · have hdrop : (s.modTile t (fun x => { x with l1 := x.l1.filter (fun m => !m.is c (objOf a) (lineNo a)) })).SameLines t
        (u.modTile t (fun x => { x with l1 := x.l1.filter (fun m => !m.is c (objOf a) (lineNo a)) })) :=
      h.modTile fun x y hxy => ⟨by rw [hxy.l1], hxy.slices, hxy.tlb, hxy.extents⟩
    exact l1Out_same hdrop _

theorem slicePrep_same (c : Nat) (a : Word) (uo : Bool) : (s.slicePrep t c a uo).SameLines t (u.slicePrep t c a uo) :=
  sliceIn_same (l1Drop_same (meetLine_same h c _ _) c a) _ _ _ uo

theorem sliceWord_same (c : Nat) (a : Word) : u.sliceWord t c a = s.sliceWord t c a := by
  rw [State.sliceWord, h.slices, State.sliceWord]

/-- R236: the word with its tag depends on the lines, translations, memory and objects alone. -/
theorem tagView_same (c : Nat) (a : Word) (uo : Bool) : u.tagView t c a uo = s.tagView t c a uo :=
  sliceWord_same (slicePrep_same h c a uo) c a

/-- R240: a write-back. -/
theorem writeBack_same (want : Line → Bool) : (s.writeBack t want).SameLines t (u.writeBack t want) := by
  have hmeet {s u : State} (h : s.SameLines t u) (l : Line) : (if want l then s.meetLine t l.ctx l.obj l.ln else s).SameLines t
      (if want l then u.meetLine t l.ctx l.obj l.ln else u) := by
    split
    · exact meetLine_same h _ _ _
    · exact h
  unfold State.writeBack
  refine State.SameLines.modTile ?_ fun x y hxy => ⟨hxy.l1, by rw [hxy.slices], hxy.tlb, hxy.extents⟩
  refine State.SameLines.foldlOf (f := fun s l => s.sliceOut t l) (g := fun x => x.slices.filter (fun l => want l)) ?_
    (fun s u l hsu => sliceOut_same hsu l) fun x y hxy => by rw [hxy.slices]
  refine State.SameLines.modTile ?_ fun x y hxy => ⟨by rw [hxy.l1], hxy.slices, hxy.tlb, hxy.extents⟩
  refine State.SameLines.foldlOf (f := fun s l => s.l1Out t l) (g := fun x => x.l1.filter want) ?_
    (fun s u l hsu => l1Out_same hsu l) fun x y hxy => by rw [hxy.l1]
  exact h.foldlOf (f := fun s l => if want l then s.meetLine t l.ctx l.obj l.ln else s) (g := fun x => x.l1 ++ x.slices)
    (fun s u l hsu => hmeet hsu l) fun x y hxy => by rw [hxy.l1, hxy.slices]

end

end Sys2Proof.Machine
end

section
/-! SUPPORT. A word in its slice with its tag, as full/empty accesses and atomics find and leave it (R118-R122, R236). -/

namespace Sys2Proof.Machine

section
variable {s : State} {t ctx : Nat} {a : Word}

/-! ### The L1 without the line (R236) -/

theorem l1Out_none (v : Line) {c o n : Nat} (h : findLine (s.tile t).l1 c o n = none) :
    findLine ((s.l1Out t v).tile t).l1 c o n = none := by
  cases hd : v.isDirty with
  | false => rwa [l1Out_clean s t v hd]
  | true =>
    rw [(l1Out_dirty s t v hd).l1, State.takeLine, tile_modTile_same]
    dsimp only
    rw [sliceIn_l1, findLine_map (met_is _ _ _), h]
    rfl

theorem l1Drop_miss : findLine ((s.l1Drop t ctx a).tile t).l1 ctx (objOf a) (lineNo a) = none := by
  unfold State.l1Drop
  split
  · assumption
  · refine l1Out_none _ ?_
    rw [tile_modTile_same]
    refine List.find?_eq_none.mpr fun m hm => ?_
    have hother := (List.mem_filter.mp hm).2
    simpa using hother

theorem l1Drop_step (h : (s.tile t).LinesOk) : s.CacheStep t (s.l1Drop t ctx a) := by
  unfold State.l1Drop
  split
  · exact .refl h
  · rename_i l hl
    have hdrop : s.CacheStep t (s.modTile t (fun x => { x with l1 := x.l1.filter (fun m => !m.is ctx (objOf a) (lineNo a)) })) := by
      refine ⟨.modTile fun _ => rfl, keeps_modTile fun _ => rfl, ?_⟩
      rw [tile_modTile_same]
      exact fun m hm => h m (hm.imp (fun hm => (List.mem_filter.mp hm).1) id)
    exact hdrop.andThen fun hu => l1Out_step (h l (.inl (findLine_mem hl))) hu

theorem slicePrep_step (uo : Bool) (h : (s.tile t).LinesOk) : s.CacheStep t (s.slicePrep t ctx a uo) :=
  ((meetLine_step _ _ _ h).andThen fun hu => l1Drop_step hu).andThen fun hu => sliceIn_step _ _ _ uo hu

theorem slicePrep_keepsHome (uo : Bool) : s.KeepsHome t (s.slicePrep t ctx a uo) := by
  have hdrop (s : State) : s.KeepsHome t (s.l1Drop t ctx a) := by
    unfold State.l1Drop
    split
    · exact .refl s
    · have hfilter : s.KeepsHome t (s.modTile t (fun x => { x with l1 := x.l1.filter (fun m => !m.is ctx (objOf a) (lineNo a)) })) :=
        .modTile fun _ => rfl
      exact hfilter.trans (l1Out_keepsHome _ t _)
  exact ((meetLine_keepsHome s t _ _ _).trans (hdrop _)).trans (sliceIn_keepsHome _ t _ _ _ uo)

theorem slicePrep_miss (uo : Bool) : findLine ((s.slicePrep t ctx a uo).tile t).l1 ctx (objOf a) (lineNo a) = none := by
  rw [State.slicePrep, sliceIn_l1, findLine_map (met_is _ _ _), l1Drop_miss]
  rfl

/-! ### The word in the slice (R236, R385) -/

@[simp] theorem meet_weak (w : LWord) : w.meet.weak = false := rfl
@[simp] theorem meet_empty (w : LWord) : w.meet.empty = w.empty := rfl

theorem meet_meet (w : LWord) : w.meet.meet = w.meet := by simp [LWord.meet]

theorem meet_of_strong {w : LWord} (h : w.weak = false) : w.meet.poison = w.poison := by simp [LWord.meet, h]

theorem dramWords_weak (l : Line) : ∀ w ∈ s.dramWords t l, w.weak = false := by
  have hwords (key : Nat) : ∀ w ∈ s.mem.lineWords key, w.weak = false := by
    intro w hw
    obtain ⟨i, -, rfl⟩ := List.mem_map.mp hw
    rfl
  unfold State.dramWords
  split
  · intro w hw
    rw [List.eq_of_mem_replicate hw]
  · split
    · split
      · intro w hw
        obtain ⟨e, he, rfl⟩ := List.mem_map.mp hw
        show e.1.weak = false
        rw [(List.mem_zipIdx he).2.2]
        exact hwords _ _ (List.getElem_mem _)
      · exact hwords _
    · exact hwords _

theorem getD_weak {ws : List LWord} (h : ∀ w ∈ ws, w.weak = false) (i : Nat) : (ws.getD i {}).weak = false := by
  by_cases hi : i < ws.length
  · rw [List.getD_eq_getElem _ _ hi]
    exact h _ (List.getElem_mem hi)
  · rw [List.getD_eq_default _ _ (Nat.le_of_not_lt hi)]

theorem sliceLine_weak (c o n : Nat) (uo : Bool) (i : Nat) : ((s.sliceLine t c o n uo).word i).weak = false := by
  unfold State.sliceLine
  split
  · rename_i l hl
    rw [met_of_is (findLine_is hl), word_meet, meet_weak]
  · exact getD_weak (dramWords_weak _) i

theorem slicePrep_find (uo : Bool) : ∃ l, findLine ((s.slicePrep t ctx a uo).tile t).slices ctx (objOf a) (lineNo a) = some l ∧
    l.word (wordIdx a) = s.tagView t ctx a uo ∧ (s.tagView t ctx a uo).weak = false := by
  have hfind := sliceIn_find ((s.meetLine t ctx (objOf a) (lineNo a)).l1Drop t ctx a) t ctx (objOf a) (lineNo a) uo
  have hword : s.tagView t ctx a uo = (((s.meetLine t ctx (objOf a) (lineNo a)).l1Drop t ctx a).sliceLine t ctx (objOf a) (lineNo a)
      uo).word (wordIdx a) := by
    rw [State.tagView, State.sliceWord, State.slicePrep, hfind]
  exact ⟨_, hfind, hword.symm, hword ▸ sliceLine_weak _ _ _ _ _⟩

/-- R236: a word whose line the slice alone holds. -/
theorem tagView_slice {l : Line} (hmiss : findLine (s.tile t).l1 ctx (objOf a) (lineNo a) = none)
    (hl : findLine (s.tile t).slices ctx (objOf a) (lineNo a) = some l) (uo : Bool) :
    s.tagView t ctx a uo = (l.word (wordIdx a)).meet := by
  have hdrop : (s.meetLine t ctx (objOf a) (lineNo a)).l1Drop t ctx a = s.meetLine t ctx (objOf a) (lineNo a) := by
    have hnone : findLine ((s.meetLine t ctx (objOf a) (lineNo a)).tile t).l1 ctx (objOf a) (lineNo a) = none := by
      rw [meetLine_find, hmiss]
      rfl
    simp only [State.l1Drop, hnone]
  have hslices : findLine ((s.meetLine t ctx (objOf a) (lineNo a)).tile t).slices ctx (objOf a) (lineNo a) = some l.meet := by
    rw [meetLine_slices, findLine_map (met_is _ _ _), hl]
    exact congrArg some (met_of_is (findLine_is hl))
  rw [State.tagView, State.sliceWord, State.slicePrep, hdrop, sliceIn_find]
  simp only [State.sliceLine, hslices]
  rw [met_of_is (findLine_is hslices), word_meet, word_meet, meet_meet]

/-- R236: a word of the slice changed where it has been brought in. -/
theorem tagView_mod (h : (s.tile t).LinesOk) (f : LWord → LWord) (uo : Bool) :
    ((s.slicePrep t ctx a uo).sliceMod t ctx a f).tagView t ctx a uo = (f (s.tagView t ctx a uo)).meet := by
  obtain ⟨l, hl, hword, -⟩ := slicePrep_find (s := s) (t := t) (ctx := ctx) (a := a) uo
  have hlen : l.words.length = 8 := (slicePrep_step uo h).lines l (.inr (findLine_mem hl))
  have hmiss : findLine (((s.slicePrep t ctx a uo).sliceMod t ctx a f).tile t).l1 ctx (objOf a) (lineNo a) = none := by
    rw [sliceMod_l1]
    exact slicePrep_miss uo
  rw [tagView_slice hmiss (sliceMod_find f hl), word_mod (by rw [hlen]; exact wordIdx_lt a), hword]

theorem tagView_weak (uo : Bool) : (s.tagView t ctx a uo).weak = false := by
  obtain ⟨-, -, -, h⟩ := slicePrep_find (s := s) (t := t) (ctx := ctx) (a := a) uo
  exact h

end

/-! ### Releases before an access (R108) -/

section
variable {s : State} {t k : Nat}

/-- R108: an access whose release has nothing to wait for goes on after it. -/
theorem releaseIf_after {rel : Bool} {c : Scope}
    (hc : rel = true → c = .tile ∨ c = .stack ∨ (s.slot t k).th.NoHandles ∧ (c = .host → s.linkBound t k = false))
    (cont : State → State) : s.releaseIf t k rel c cont = cont (s.afterRelease t (s.memCtxs t k) rel c) := by
  cases rel with
  | false => rfl
  | true =>
    rw [State.releaseIf, if_pos rfl, release_goes (hc rfl)]
    cases c <;> rfl

theorem frame_afterRelease (ctxs : List Nat) (rel : Bool) (c : Scope) : s.CacheFrame (s.afterRelease t ctxs rel c) := by
  unfold State.afterRelease
  split
  · exact frame_writeBack s t _
  · exact .refl s

theorem afterRelease_step (h : (s.tile t).LinesOk) (ctxs : List Nat) (rel : Bool) (c : Scope) :
    s.CacheStep t (s.afterRelease t ctxs rel c) := by
  unfold State.afterRelease
  split
  · exact writeBack_step _ h
  · exact .refl h

theorem afterRelease_same {u : State} (h : s.SameLines t u) (ctxs : List Nat) (rel : Bool) (c : Scope) :
    (s.afterRelease t ctxs rel c).SameLines t (u.afterRelease t ctxs rel c) := by
  unfold State.afterRelease
  split
  · exact writeBack_same h _
  · exact h

end

/-! ### Accesses of the word (R119-R122) -/

section
variable {s : State} {t k : Nat} {a : Word} {uo : Bool}

/-- The state after the word at its home has been replaced in the slice. -/
def State.tagged (s : State) (t ctx : Nat) (a : Word) (uo : Bool) (f : LWord → LWord) : State :=
  (s.slicePrep t ctx a uo).sliceMod t ctx a f

theorem frame_tagged (ctx : Nat) (f : LWord → LWord) : s.CacheFrame (s.tagged t ctx a uo f) :=
  (frame_slicePrep s t ctx a uo).trans (frame_sliceMod _ t ctx a f)

theorem tagged_keepsHome (ctx : Nat) (f : LWord → LWord) : s.KeepsHome t (s.tagged t ctx a uo f) := by
  have hmod (u : State) : u.KeepsHome t (u.sliceMod t ctx a f) := by
    unfold State.sliceMod
    exact .modTile fun _ => rfl
  exact (slicePrep_keepsHome uo).trans (hmod _)

/-- R119: a full word is taken. -/
theorem takeWord_full {o : Object} (hg : s.gate t (s.memCtx t k) a = .go) (hp : (s.tagView t (s.memCtx t k) a o.isUO).poison = false)
    (he : (s.tagView t (s.memCtx t k) a o.isUO).empty = false) (d : Reg) :
    s.takeWord t k o a d = (s.tagged t (s.memCtx t k) a o.isUO (fun w => { w with empty := true })).modSlot t k (fun sl =>
      { sl with th := sl.th.setReg d (s.tagView t (s.memCtx t k) a o.isUO).data, state := .ready }.finish) := by
  rw [State.tagView] at hp he
  simp only [State.takeWord, atHome_go hg, hp, he, Bool.false_eq_true, if_false]
  rfl

theorem takeWord_empty {o : Object} (hg : s.gate t (s.memCtx t k) a = .go) (hp : (s.tagView t (s.memCtx t k) a o.isUO).poison = false)
    (he : (s.tagView t (s.memCtx t k) a o.isUO).empty = true) (d : Reg) :
    s.takeWord t k o a d = (s.slicePrep t (s.memCtx t k) a o.isUO).park t k (objWordKey (s.memCtx t k) a) (s.memCtx t k) a (.ldf d)
      0#64 := by
  rw [State.tagView] at hp he
  simp only [State.takeWord, atHome_go hg, hp, he, Bool.false_eq_true, if_false, if_true]

/-- R120: a fill of a word at which nobody waits. -/
theorem homeFill_quiet {ctx : Nat} (hnone : s.waitersAt t (objWordKey ctx a) = []) (v : Word) :
    s.homeFill t ctx a v uo = s.tagged t ctx a uo (fun w => { w.write 0xFF#8 v with empty := false }) := by
  have hwait : (s.tagged t ctx a uo (fun w => { w.write 0xFF#8 v with empty := false })).waitersAt t (objWordKey ctx a) = [] :=
    (waitersAt_keepsHome (tagged_keepsHome ctx _) _).trans hnone
  have hwake : (s.tagged t ctx a uo (fun w => { w.write 0xFF#8 v with empty := false })).wake t (objWordKey ctx a) v =
      s.tagged t ctx a uo (fun w => { w.write 0xFF#8 v with empty := false }) := by
    simp only [State.wake, hwait, List.filter_nil, List.foldl_nil]
  unfold State.tagged at hwait hwake
  simp only [State.homeFill, hwake, State.takeWaiter, hwait, List.find?_nil]
  rfl

theorem unspill_nil {x : Tile} (h : x.spilled = []) : x.unspill = x := by
  cases x
  cases h
  simp [Tile.unspill]

theorem stepLeft_waiters (s : State) (t k : Nat) : ((s.stepLeft t k).tile t).waiters = (s.tile t).waiters := by
  unfold State.stepLeft
  split
  · rfl
  · show ((s.modSlot t k _).tile t).waiters = _
    rw [State.modSlot, tile_modTile_same]
    rfl

/-- R119, R215: a thread parks where the waiter table has room. -/
theorem park_parked {key ctx : Nat} {form : WForm} {b : Word} (hk : k < (s.tile t).slots.length)
    (hroom : (s.tile t).waiters.length < 256) (hspill : (s.tile t).spilled = []) :
    let u := s.park t k key ctx a form b
    (u.slot t k).state = .parked ∧ (u.slot t k).th = (s.slot t k).th ∧
    ∃ e, (u.tile t).waiters = (s.tile t).waiters ++ [e] ∧ e.key = key ∧ e.slot = some k ∧ e.form = form ∧
      e.next = (s.slot t k).ipc + 4#64 := by
  intro u
  have hunspill := unspill_nil hspill
  have hcan : (s.tile t).canPark = true := by simp [Tile.canPark, hunspill, hroom]
  let w : Waiter := { key := key, ctx := ctx, addr := a, form := form, b := b, seq := 0#32, slot := some k,
                      next := ((s.tile t).slot k).ipc + 4#64,
                      quiesced := match (s.tile t).teams.look ((s.tile t).slot k).team with | some tm => tm.closed | none => false }
  have hu : u = (((s.setTile t ((s.tile t).install w)).modSlot t k (fun sl => { sl.rewind with state := .parked, retry := false })).stepLeft
      t k).emit t k 7 a := by
    simp only [u, State.park, hcan, if_true]
    rfl
  have hinstall : (s.tile t).install w = { s.tile t with
      wseq := (s.tile t).wseq + 1#32, waiters := (s.tile t).waiters ++ [{ w with seq := (s.tile t).wseq }] } := by
    simp only [Tile.install, hunspill, hroom, if_true]
  let v := s.setTile t ((s.tile t).install w)
  have hv : v.tile t = { s.tile t with
      wseq := (s.tile t).wseq + 1#32, waiters := (s.tile t).waiters ++ [{ w with seq := (s.tile t).wseq }] } := by
    rw [tile_setTile_same, hinstall]
  obtain ⟨r, q, hleft⟩ := stepLeft_slot (v.modSlot t k (fun sl => { sl.rewind with state := .parked, retry := false })) t k
  have hslot : u.slot t k = { (v.slot t k).rewind with state := .parked, retry := false, stepReq := r, stopReq := q } := by
    rw [hu, emit_slot, hleft, slot_modSlot_same _ _ _ _ (by rw [hv]; exact hk)]
  have hth : (v.slot t k).th = (s.slot t k).th := by rw [State.slot, hv]; rfl
  have hwaiters : (u.tile t).waiters = (s.tile t).waiters ++ [{ w with seq := (s.tile t).wseq }] := by
    obtain ⟨T, L, htile⟩ := emit_tile ((v.modSlot t k (fun sl => { sl.rewind with state := .parked, retry := false })).stepLeft t k)
      t k 7 a t
    rw [hu, htile]
    dsimp only
    rw [stepLeft_waiters, State.modSlot, tile_modTile_same, hv]
    rfl
  exact ⟨(congrArg Slot.state hslot).trans rfl, (congrArg Slot.th hslot).trans hth, _, hwaiters, rfl, rfl, rfl, rfl⟩

end

/-! ### The scratchpad's words (R118-R120) -/

section
variable {s : State} {t k : Nat} {a : Word}

theorem spadOwn_go (h : s.OwnMacro t k a 8) (go : State → State) : s.spadOwn t k a go = go s := by
  have halign : ¬ a.toNat % 8 ≠ 0 := not_not.mpr h.aligned
  have hplace : ¬ bits a 63 22 ≠ 0 := not_not.mpr h.place
  rw [State.spadOwn, if_neg halign, if_neg hplace, spadReach_own h]

theorem takeSpad_full (h : s.OwnMacro t k a 8) (hsound : s.Sound) (hstate : ((s.tile t).mac (macroOf a)).state = .plain)
    (hp : s.mem.isPoison (spadKey t (macroOf a) (macroOff a)) = false)
    (he : s.mem.isEmpty (spadKey t (macroOf a) (macroOff a)) = false) (d : Reg) :
    s.takeSpad t k a d = (s.modMem (fun m => m.setEmpty (spadKey t (macroOf a) (macroOff a)) true)).modSlot t k (fun sl =>
      { sl with th := sl.th.setReg d (s.mem.word (spadKey t (macroOf a) (macroOff a))), state := .ready }.finish) := by
  rw [State.takeSpad, spadOwn_go h, atSpad_go h hsound (.inl hstate)]
  simp only [State.spadRead, hp, he, Bool.false_eq_true, if_false]

theorem fillSpad_quiet (h : s.OwnMacro t k a 8) (hsound : s.Sound) (hstate : ((s.tile t).mac (macroOf a)).state = .plain)
    (hnone : s.waitersAt t (spadWordKey a) = []) (v : Word) (c : Scope) :
    s.fillSpad t k a v false c = (s.modMem (fun m => (m.write (spadKey t (macroOf a) (macroOff a)) 0xFF#8 v).setEmpty
      (spadKey t (macroOf a) (macroOff a)) false)).modSlot t k (fun sl => sl.stored none) := by
  have hwait : (s.modMem (fun m => (m.write (spadKey t (macroOf a) (macroOff a)) 0xFF#8 v).setEmpty
      (spadKey t (macroOf a) (macroOff a)) false)).waitersAt t (spadWordKey a) = [] := hnone
  rw [State.fillSpad, spadOwn_go h, State.releaseIf, if_neg Bool.false_ne_true, atSpad_go h hsound (.inl hstate)]
  simp only [State.spadFill, State.takeWaiter, hwait, List.find?_nil]

end

/-! ### The forms (R118-R120) -/

section
variable {s : State} (hs : s.issuing = true) (hext : s.curSlot.ext.length ≤ 2) (d : Reg) (b : Ptr) (o : Sys2Proof.Order) (c : Scope)
  (f : BitVec 9)
include hs hext

theorem exec_ldf : let a := s.curSlot.th.regs.get b + fromInt (extInt s.curSlot.ext f * 8)
    exec (.ldf d b o c f) s = .next (s.access s.cur.1 s.cur.2 a 8 false false
      (fun ob u => u.takeWord s.cur.1 s.cur.2 ob a d)
      (fun _ v g u => u.travel s.cur.1 s.cur.2 2 v g (s.curSlot.firstXw (wordOf (.ldf d b o c f)))) (fun _ u => u)) := by
  intro a
  have ha : s.curSlot.th.regs.get b + immWord s.curSlot.ext f * 8#64 = a := by
    rw [immWord_eq hext, show (8#64 : Word) = BitVec.ofNat 64 8 from rfl, fromInt_mul]
    rfl
  change execLdf d b o c f s = _
  rw [execLdf, onIssue_next s _ hs]
  dsimp only
  rw [ha]

theorem exec_stf : exec (.stf d b o c f) s = .next (s.fillWord s.cur.1 s.cur.2
    (s.curSlot.th.regs.get b + fromInt (extInt s.curSlot.ext f * 8)) (s.rd d) (orderRel o) c) := by
  change execStf d b o c f s = _
  rw [execStf, onIssue_next s _ hs, immWord_eq hext, show (8#64 : Word) = BitVec.ofNat 64 8 from rfl, fromInt_mul]
  rfl

theorem exec_ldfs : exec (.ldfs d b o c f) s = .next (s.takeSpad s.cur.1 s.cur.2
    (s.curSlot.th.regs.get b + fromInt (extInt s.curSlot.ext f * 8)) d) := by
  change execLdfs d b o c f s = _
  rw [execLdfs, onIssue_next s _ hs, immWord_eq hext, show (8#64 : Word) = BitVec.ofNat 64 8 from rfl, fromInt_mul]
  rfl

theorem exec_stfs : exec (.stfs d b o c f) s = .next (s.fillSpad s.cur.1 s.cur.2
    (s.curSlot.th.regs.get b + fromInt (extInt s.curSlot.ext f * 8)) (s.rd d) (orderRel o) c) := by
  change execStfs d b o c f s = _
  rw [execStfs, onIssue_next s _ hs, immWord_eq hext, show (8#64 : Word) = BitVec.ofNat 64 8 from rfl, fromInt_mul]
  rfl

end

/-! ### What they leave (R118-R120, R136) -/

section
variable {s u : State} {t k : Nat} {a : Word} {o : Object}

theorem waiters_keepsHome (h : s.KeepsHome t u) :
    (u.tile t).waiters = (s.tile t).waiters ∧ (u.tile t).spilled = (s.tile t).spilled :=
  ⟨show (u.tile t).home.waiters = (s.tile t).home.waiters by rw [h.tile],
    show (u.tile t).home.spilled = (s.tile t).home.spilled by rw [h.tile]⟩

theorem takeWord_takes (hk : k < (s.tile t).slots.length) (hg : s.gate t (s.memCtx t k) a = .go) (hok : (s.tile t).LinesOk)
    (hp : (s.tagView t (s.memCtx t k) a o.isUO).poison = false) (he : (s.tagView t (s.memCtx t k) a o.isUO).empty = false) (d : Reg) :
    let v := s.takeWord t k o a d
    let w := s.tagView t (s.memCtx t k) a o.isUO
    (v.slot t k).state = .ready ∧ (v.slot t k).th = { (s.slot t k).th.setReg d w.data with pc := (s.slot t k).ipc + 4#64 } ∧
    (v.tagView t (s.memCtx t k) a o.isUO).empty = true ∧ (v.tagView t (s.memCtx t k) a o.isUO).data = w.data := by
  have hframe := frame_tagged (s := s) (t := t) (a := a) (uo := o.isUO) (s.memCtx t k) (fun w => { w with empty := true })
  have hview := tagView_mod (ctx := s.memCtx t k) (a := a) hok (fun w => { w with empty := true }) o.isUO
  dsimp only
  rw [takeWord_full hg hp he d, slot_modSlot_same _ t k _ (by rw [hframe.slots]; exact hk), frame_slot hframe,
    tagView_same (modSlot_sameLines _ t k _), State.tagged, hview]
  exact ⟨rfl, rfl, meet_empty _, by rw [meet_data]⟩

theorem takeWord_parks (hk : k < (s.tile t).slots.length) (hg : s.gate t (s.memCtx t k) a = .go)
    (hp : (s.tagView t (s.memCtx t k) a o.isUO).poison = false) (he : (s.tagView t (s.memCtx t k) a o.isUO).empty = true)
    (hroom : (s.tile t).waiters.length < 256) (hspill : (s.tile t).spilled = []) (d : Reg) :
    let v := s.takeWord t k o a d
    (v.slot t k).state = .parked ∧ (v.slot t k).th = (s.slot t k).th ∧
    ∃ e, (v.tile t).waiters = (s.tile t).waiters ++ [e] ∧ e.key = objWordKey (s.memCtx t k) a ∧ e.slot = some k ∧ e.form = .ldf d ∧
      e.next = (s.slot t k).ipc + 4#64 := by
  intro v
  have hframe := frame_slicePrep s t (s.memCtx t k) a o.isUO
  obtain ⟨hwaiters, hspilled⟩ := waiters_keepsHome (slicePrep_keepsHome (s := s) (t := t) (ctx := s.memCtx t k) (a := a) o.isUO)
  have hpark := park_parked (s := s.slicePrep t (s.memCtx t k) a o.isUO) (t := t) (k := k) (a := a)
    (key := objWordKey (s.memCtx t k) a) (ctx := s.memCtx t k) (form := .ldf d) (b := 0#64) (by rw [hframe.slots]; exact hk)
    (by rw [hwaiters]; exact hroom) (by rw [hspilled]; exact hspill)
  rw [frame_slot hframe, hwaiters] at hpark
  rw [show v = _ from takeWord_empty hg hp he d]
  exact hpark

/-- R120: what an `stf` that its home performs leaves. -/
theorem homeFill_fills {ctx : Nat} {uo : Bool} (hk : k < (s.tile t).slots.length) (hok : (s.tile t).LinesOk)
    (hnone : s.waitersAt t (objWordKey ctx a) = []) (x : Word) :
    let v := (s.homeFill t ctx a x uo).modSlot t k (fun sl => sl.stored none)
    (v.slot t k).state = .ready ∧ (v.slot t k).th = { (s.slot t k).th with pc := (s.slot t k).ipc + 4#64 } ∧
    (v.tagView t ctx a uo).empty = false ∧ (v.tagView t ctx a uo).data = x ∧ (v.tagView t ctx a uo).poison = false := by
  have hframe := frame_tagged (s := s) (t := t) (a := a) (uo := uo) ctx (fun w => { w.write 0xFF#8 x with empty := false })
  have hview := tagView_mod (ctx := ctx) (a := a) hok (fun w => { w.write 0xFF#8 x with empty := false }) uo
  have hdata : ((s.tagView t ctx a uo).write 0xFF#8 x).data = x := (write_data _ _ _).trans (mergeBytes_all x _)
  have hweak : ((s.tagView t ctx a uo).write 0xFF#8 x).weak = false := (write_weak _ _ _).trans (tagView_weak uo)
  dsimp only
  rw [homeFill_quiet hnone, slot_modSlot_same _ t k _ (by rw [hframe.slots]; exact hk), frame_slot hframe,
    tagView_same (modSlot_sameLines _ t k _), State.tagged, hview]
  refine ⟨rfl, rfl, meet_empty _, by simp only [meet_data, hdata], ?_⟩
  rw [meet_of_strong (by simp only [hweak])]
  simp [LWord.write]

theorem fillWord_own {c : Scope} {rel : Bool} (hhome : s.AtHome t (s.memCtx t k) a 8 o) (hcode : o.isCode = false)
    (hwr : o.writable = true) (x : Word) :
    s.fillWord t k a x rel c = (s.odcUse t (s.memCtx t k) a).releaseIf t k rel c (fun s' => s'.atHome t k (s.memCtx t k) a (fun s' =>
      (s'.homeFill t (s.memCtx t k) a x o.isUO).modSlot t k (fun sl => sl.stored none))) := by
  rw [State.fillWord, access_own hhome fun _ => ⟨hcode, hwr⟩]

/-- R120, R227: what an `stfs` leaves in memory. -/
theorem fill_mem {m : Mem} (h : m.wf = true) {key : Nat} (hkey : key % 8 = 0) (x : Word) :
    let m' := (m.write key 0xFF#8 x).setEmpty key false
    m'.word key = x ∧ m'.isEmpty key = false ∧ m'.isPoison key = false ∧ ∀ j, j < key ∨ key + 8 ≤ j → m'.byte j = m.byte j := by
  intro m'
  have hword : wordKey key = key := by
    unfold wordKey
    omega
  refine ⟨(word_write h key _ x).trans (mergeBytes_all x _), isEmpty_setEmpty (write_wf _ _ _ _ h) _ false, isPoison_write h key x,
    fun j hj => ?_⟩
  rw [byte_setEmpty, byte_write _ _ _ _ _ h, hword]
  exact if_neg fun hin => by omega

end

/-- R118-R120: a release before an access of the issuing slot. -/
structure State.Ready (s v : State) : Prop where
  slots : ∀ j, v.slot s.cur.1 j = s.slot s.cur.1 j
  length : (v.tile s.cur.1).slots.length = (s.tile s.cur.1).slots.length
  home : s.KeepsHome s.cur.1 v
  lines : (v.tile s.cur.1).LinesOk

section
variable {s : State} {a : Word} {n : Nat} {ob : Object}

/-- R103, R108: the issuing slot's access of its own tile after the release that its order asks for. -/
theorem afterRelease_ready (hok : (s.tile s.cur.1).LinesOk) (ctx : Nat) (a : Word) (rel : Bool) (c : Scope) :
    s.Ready ((s.odcUse s.cur.1 ctx a).afterRelease s.cur.1 (s.memCtxs s.cur.1 s.cur.2) rel c) := by
  have hframe := frame_afterRelease (s := s.odcUse s.cur.1 ctx a) (t := s.cur.1) (s.memCtxs s.cur.1 s.cur.2) rel c
  have hstep := (odcUse_step ctx a hok).andThen fun hu => afterRelease_step hu (s.memCtxs s.cur.1 s.cur.2) rel c
  exact ⟨fun j => (frame_slot hframe _ j).trans (odcUse_slot _ _ _ _ j), by rw [hframe.slots, odcUse_slots], hstep.toKeepsHome,
    hstep.lines⟩

theorem release_ready {rel : Bool} {c : Scope} (hrel : rel = true → s.CanRelease c) (ctx : Nat) (a : Word)
    (cont : State → State) : (s.odcUse s.cur.1 ctx a).releaseIf s.cur.1 s.cur.2 rel c cont =
      cont ((s.odcUse s.cur.1 ctx a).afterRelease s.cur.1 (s.memCtxs s.cur.1 s.cur.2) rel c) := by
  have hctxs : (s.odcUse s.cur.1 ctx a).memCtxs s.cur.1 s.cur.2 = s.memCtxs s.cur.1 s.cur.2 := by
    rw [State.memCtxs, odcUse_slot]
    rfl
  rw [releaseIf_after (fun h => by
    rw [odcUse_slot]
    exact (hrel h).imp id (Or.imp id fun hw => ⟨hw.1, fun hc => linkBound_odcUse (hw.2 hc)⟩)), hctxs]

end

/-- Settles O19: the word is in the slice with its tag, where it is taken or filled, or its thread parks. -/
theorem fullEmptyWords : Obligations.FullEmptyWords := by
  intro s d b o c f ob hs hext hwf hsound u k th ctx a w key spad
  have hk : k < (s.tile u).slots.length := (issuing_slot hs).2.2
  have hy : s.SameLines u (s.odcUse u ctx a) := odcUse_sameLines s u ctx a
  have hyslot : (s.odcUse u ctx a).slot u k = s.curSlot := odcUse_slot s u ctx a k
  have hyk : k < ((s.odcUse u ctx a).tile u).slots.length := by rw [odcUse_slots]; exact hk
  have hyctx : (s.odcUse u ctx a).memCtx u k = ctx := odcUse_memCtx s u ctx a k
  have hyw : (s.odcUse u ctx a).tagView u ctx a ob.isUO = w := tagView_same hy ctx a ob.isUO
  have hygate (h : s.AtHome u ctx a 8 ob) : (s.odcUse u ctx a).gate u ctx a = .go :=
    (gate_keepsHome (odcUse_keepsHome s u ctx a) ctx a _).trans h.resident
  have hldf (h : s.AtHome u ctx a 8 ob) : exec (.ldf d b o c f) s = .next ((s.odcUse u ctx a).takeWord u k ob a d) :=
    (exec_ldf hs hext d b o c f).trans (congrArg _ (access_own (write := false) h nofun _ _ _ _))
  have hown (h : spad) : s.OwnMacro u k a 8 ∧ ((s.tile u).mac (macroOf a)).state = .plain := by
    obtain ⟨halign, hbits, hgrid, hfence, huser, howner, hdue, hstate⟩ := h
    exact ⟨⟨halign, hbits, hgrid, hfence, huser, howner, hdue⟩, hstate⟩
  refine ⟨fun hhome hok hp he => ?_, fun hhome hp he hroom hspill => ?_, fun hhome hok hcode hwr hrel halone => ?_, fun h hp he => ?_,
    fun h hrel hnone => ?_⟩
  · have htakes := takeWord_takes (s := s.odcUse u ctx a) (t := u) (k := k) (a := a) (o := ob) hyk
    rw [hyctx, hyw, hyslot] at htakes
    exact ⟨_, hldf hhome, htakes (hygate hhome) (odcUse_step ctx a hok).lines hp he d⟩
  · have hparks := takeWord_parks (s := s.odcUse u ctx a) (t := u) (k := k) (a := a) (o := ob) hyk
    obtain ⟨hwaiters, hspilled⟩ := waiters_keepsHome (odcUse_keepsHome s u ctx a)
    rw [hyctx, hyw, hyslot, hwaiters, hspilled] at hparks
    obtain ⟨hstate, hth, e, he⟩ := hparks (hygate hhome) hp he hroom hspill d
    exact ⟨_, e, hldf hhome, hstate, hth, he⟩
  · have hready := afterRelease_ready hok ctx a (orderRel o) c
    have hgate := (gate_keepsHome hready.home ctx a false).trans hhome.resident
    have hfills := homeFill_fills (uo := ob.isUO) (k := k) (by rw [hready.length]; exact hk) hready.lines
      ((waitersAt_keepsHome hready.home _).trans halone) (s.rd d)
    rw [hready.slots] at hfills
    refine ⟨_, (exec_stf hs hext d b o c f).trans (congrArg _ ?_), hfills⟩
    rw [fillWord_own hhome hcode hwr, release_ready hrel, atHome_go hgate]
  · obtain ⟨hmac, hstate⟩ := hown h
    exact ⟨_, (exec_ldfs hs hext d b o c f).trans (congrArg _ (takeSpad_full hmac hsound hstate hp he d)),
      congrArg Slot.th (slot_modSlot_same (s.modMem (fun m => m.setEmpty key true)) u k _ hk), isEmpty_setEmpty hwf key true, rfl, rfl⟩
  · obtain ⟨hmac, hstate⟩ := hown h
    have hexec := exec_stfs hs hext d b o c f
    rw [hrel, fillSpad_quiet hmac hsound hstate hnone (s.rd d) c] at hexec
    exact ⟨_, hexec, congrArg Slot.th (slot_modSlot_same (s.modMem (fun m => (m.write key 0xFF#8 (s.rd d)).setEmpty key false)) u k _ hk),
      fill_mem hwf ((spadKey_mod u a).trans hmac.aligned) (s.rd d)⟩

end Sys2Proof.Machine
end

section
/-! SUPPORT. Atomics: the word that each leaves, and what one performed at the home of its word leaves (R121-R124). -/

namespace Sys2Proof.Machine

/-! ### The new word (R122-R124) -/

/-- R122: the integer atomics by their numbers. -/
theorem atomNew_int {op : AtomOp} (hop : op ∉ [.fadd, .fmax, .fmin]) {n : Nat} (old b : BitVec n) :
    atomNew op old b = atomInt op old b := by
  cases op with
  | add =>
    show old + b = BitVec.ofInt n (old.toInt + b.toInt)
    rw [BitVec.ofInt_add, BitVec.ofInt_toInt, BitVec.ofInt_toInt]
  | and => rfl
  | or => rfl
  | xor => rfl
  | min =>
    have hpick : (if b.slt old then b else old) = BitVec.ofInt n (min old.toInt b.toInt) := by
      by_cases h : b.toInt < old.toInt
      · rw [if_pos (by simpa [BitVec.slt] using h), min_eq_right (le_of_lt h), BitVec.ofInt_toInt]
      · rw [if_neg (by simpa [BitVec.slt] using h), min_eq_left (not_lt.mp h), BitVec.ofInt_toInt]
    exact hpick
  | max =>
    have hpick : (if old.slt b then b else old) = BitVec.ofInt n (max old.toInt b.toInt) := by
      by_cases h : old.toInt < b.toInt
      · rw [if_pos (by simpa [BitVec.slt] using h), max_eq_right (le_of_lt h), BitVec.ofInt_toInt]
      · rw [if_neg (by simpa [BitVec.slt] using h), max_eq_left (not_lt.mp h), BitVec.ofInt_toInt]
    exact hpick
  | minu =>
    have hpick : (if b.ult old then b else old) = BitVec.ofNat n (min old.toNat b.toNat) := by
      by_cases h : b.toNat < old.toNat
      · rw [if_pos (by simpa [BitVec.ult] using h), min_eq_right (le_of_lt h), BitVec.ofNat_toNat, BitVec.setWidth_eq]
      · rw [if_neg (by simpa [BitVec.ult] using h), min_eq_left (not_lt.mp h), BitVec.ofNat_toNat, BitVec.setWidth_eq]
    exact hpick
  | maxu =>
    have hpick : (if old.ult b then b else old) = BitVec.ofNat n (max old.toNat b.toNat) := by
      by_cases h : old.toNat < b.toNat
      · rw [if_pos (by simpa [BitVec.ult] using h), max_eq_right (le_of_lt h), BitVec.ofNat_toNat, BitVec.setWidth_eq]
      · rw [if_neg (by simpa [BitVec.ult] using h), max_eq_left (not_lt.mp h), BitVec.ofNat_toNat, BitVec.setWidth_eq]
    exact hpick
  | swp => rfl
  | fadd => simp at hop
  | fmax => simp at hop
  | fmin => simp at hop

/-- R124: the word that `acas` leaves. -/
theorem atomStep_none {n : Nat} (old b c : BitVec n) :
    (atomStep none old b c).1.toNat = if old.toNat = c.toNat then b.toNat else old.toNat := by
  by_cases h : old = c
  · simp [atomStep, h]
  · have hne : old.toNat ≠ c.toNat := fun he => h (BitVec.eq_of_toNat_eq he)
    simp [atomStep, h, hne]

/-- R124: an atomic that does not write answers what the word keeps. -/
theorem atomStep_kept {op : Option AtomOp} {n : Nat} {old b c : BitVec n} (h : (atomStep op old b c).2 = false) :
    (atomStep op old b c).1 = old := by
  cases op with
  | some op => cases h
  | none =>
    by_cases heq : old = c
    · simp [atomStep, heq] at h
    · simp [atomStep, heq]

/-- R30, R41: a finite value rounded to FP32 is a code of 32 bits. -/
theorem roundTo_fp32_lt (r : Rnd) {v : Val} (h : v.isFinite = true) : (roundTo fp32 r v).1 < 2 ^ 32 := by
  cases v with
  | nan sig => cases h
  | inf neg => cases h
  | fin neg m e =>
    have hsign : fp32.signBit neg ≤ 2 ^ 31 := by cases neg <;> decide
    have hmax : fp32.maxCode < 2 ^ 31 := by decide
    have htop : (2 ^ fp32.expBits - 1) * 2 ^ fp32.manBits < 2 ^ 31 := by decide
    have hcode (base : Int) (top : Nat) (fl fl' : Flags) (h : top < 2 ^ 31) :
        (if base > fp32.maxCode then (fp32.signBit neg + top, fl) else (fp32.signBit neg + base.toNat, fl')).1 < 2 ^ 32 := by
      split
      · show fp32.signBit neg + top < 2 ^ 32
        omega
      · show fp32.signBit neg + base.toNat < 2 ^ 32
        omega
    unfold roundTo
    dsimp only
    split
    · omega
    · refine hcode _ _ _ _ ?_
      split
      · exact hmax
      · exact htop

/-- The number of bytes of an atomic's word. -/
def atomBytes (wide : Bool) : Nat := if wide then 8 else 4

theorem atom_within {wide : Bool} {a : Word} (h : a.toNat % atomBytes wide = 0) : a.toNat % 8 + atomBytes wide ≤ 8 := by
  cases wide <;> simp only [atomBytes, Bool.false_eq_true, if_false, if_true] at h ⊢ <;> omega

/-- R122: an atomic on the bytes of its word: the old bytes, the new ones where it writes, and whether it writes. -/
theorem atomWord_bytes (op : Option AtomOp) (wide : Bool) {a : Word} (ha : a.toNat % atomBytes wide = 0) (w b c : Word) :
    let r := atomStep op (BitVec.ofNat (8 * atomBytes wide) (bytesAt a (atomBytes wide) w)) (BitVec.ofNat (8 * atomBytes wide) b.toNat)
      (BitVec.ofNat (8 * atomBytes wide) c.toNat)
    (atomWord op wide a w b c).1 = fromNat (bytesAt a (atomBytes wide) w) ∧
    bytesAt a (atomBytes wide) (atomWord op wide a w b c).2.1 = r.1.toNat ∧ (atomWord op wide a w b c).2.2 = r.2 := by
  cases wide with
  | true =>
    have hmod : a.toNat % 8 = 0 := ha
    have hall (x : Word) : bytesAt a 8 x = x.toNat := by
      have hlt : x.toNat < 2 ^ 64 := x.isLt
      rw [bytesAt, hmod]
      omega
    have hfull (x : Word) : BitVec.ofNat 64 x.toNat = x := by rw [BitVec.ofNat_toNat, BitVec.setWidth_eq]
    show let r := atomStep op (BitVec.ofNat 64 (bytesAt a 8 w)) (BitVec.ofNat 64 b.toNat) (BitVec.ofNat 64 c.toNat)
      (atomWord op true a w b c).1 = fromNat (bytesAt a 8 w) ∧ bytesAt a 8 (atomWord op true a w b c).2.1 = r.1.toNat ∧
      (atomWord op true a w b c).2.2 = r.2
    rw [hall, hall, hfull, hfull, hfull]
    exact ⟨(hfull w).symm, rfl, rfl⟩
  | false =>
    have hwithin : a.toNat % 8 + 4 ≤ 8 := atom_within (wide := false) ha
    have hlow (x : Word) : BitVec.ofNat 32 x.toNat = x.extractLsb' 0 32 := by
      refine BitVec.eq_of_toNat_eq ?_
      rw [BitVec.toNat_ofNat, BitVec.extractLsb'_toNat, Nat.shiftRight_zero]
    show let r := atomStep op (BitVec.ofNat 32 (bytesAt a 4 w)) (BitVec.ofNat 32 b.toNat) (BitVec.ofNat 32 c.toNat)
      (atomWord op false a w b c).1 = fromNat (bytesAt a 4 w) ∧ bytesAt a 4 (atomWord op false a w b c).2.1 = r.1.toNat ∧
      (atomWord op false a w b c).2.2 = r.2
    have hold : bytesAt a 4 w < 2 ^ 32 := Nat.mod_lt _ (Nat.two_pow_pos _)
    have hword : atomWord op false a w b c = ((BitVec.ofNat 32 (bytesAt a 4 w)).zeroExtend 64,
        placeBytes (offOf a) ((atomStep op (BitVec.ofNat 32 (bytesAt a 4 w)) (b.extractLsb' 0 32) (c.extractLsb' 0 32)).1.zeroExtend 64),
        (atomStep op (BitVec.ofNat 32 (bytesAt a 4 w)) (b.extractLsb' 0 32) (c.extractLsb' 0 32)).2) := by
      rw [← takeBytes_eq]
      rfl
    rw [hlow, hlow, hword]
    refine ⟨BitVec.eq_of_toNat_eq ?_, ?_, rfl⟩
    · simp only [fromNat, BitVec.toNat_setWidth, BitVec.toNat_ofNat]
      omega
    · generalize atomStep op _ (b.extractLsb' 0 32) (c.extractLsb' 0 32) = r
      have hr : r.1.toNat < 2 ^ 32 := r.1.isLt
      rw [placeBytes_bytesAt hwithin, BitVec.toNat_setWidth]
      omega

/-! ### Performed at the home (R121, R236) -/

section
variable {s : State} {t ctx : Nat} {a : Word}

/-- R121: an atomic at a home that nobody's wait concerns: the caches' frame, the old bytes answered and the new ones in the word. -/
theorem homeAtomic_done {wide uo : Bool} (op : Option AtomOp) (hok : (s.tile t).LinesOk) (ha : a.toNat % atomBytes wide = 0)
    (hnone : s.waitersAt t (objWordKey ctx a) = []) (hp : (s.tagView t ctx a uo).poison = false) (b c : Word) :
    let old := bytesAt a (atomBytes wide) (s.tagView t ctx a uo).data
    ∃ r, s.homeAtomic t ctx a op wide b c uo = (r, fromNat old, false) ∧ s.CacheFrame r ∧ s.KeepsHome t r ∧
      bytesAt a (atomBytes wide) (r.tagView t ctx a uo).data = (atomStep op (BitVec.ofNat (8 * atomBytes wide) old)
        (BitVec.ofNat (8 * atomBytes wide) b.toNat) (BitVec.ofNat (8 * atomBytes wide) c.toNat)).1.toNat := by
  intro old
  obtain ⟨hold, hnew, hwr⟩ := atomWord_bytes op wide ha (s.tagView t ctx a uo).data b c
  have hwithin := atom_within ha
  let mask := byteMask (offOf a) (atomBytes wide)
  let v := (atomWord op wide a (s.tagView t ctx a uo).data b c).2.1
  have hatom : s.homeAtomic t ctx a op wide b c uo =
      if (atomWord op wide a (s.tagView t ctx a uo).data b c).2.2 then
        ((s.tagged t ctx a uo (fun w => w.write mask v)).wake t (objWordKey ctx a)
          ((s.tagged t ctx a uo (fun w => w.write mask v)).sliceWord t ctx a).data, fromNat old, false)
      else (s.slicePrep t ctx a uo, fromNat old, false) := by
    rw [State.tagView] at hp
    simp only [State.homeAtomic, hp, Bool.false_eq_true, if_false]
    rw [← hold]
    rfl
  cases hwrites : (atomWord op wide a (s.tagView t ctx a uo).data b c).2.2 with
  | true =>
    have hkeep := tagged_keepsHome (s := s) (t := t) (a := a) (uo := uo) ctx (fun w => w.write mask v)
    have hwake (x : Word) : (s.tagged t ctx a uo (fun w => w.write mask v)).wake t (objWordKey ctx a) x =
        s.tagged t ctx a uo (fun w => w.write mask v) := by
      simp only [State.wake, (waitersAt_keepsHome hkeep _).trans hnone, List.filter_nil, List.foldl_nil]
    rw [hwrites, if_pos rfl, hwake] at hatom
    refine ⟨_, hatom, frame_tagged ctx _, hkeep, ?_⟩
    rw [State.tagged, tagView_mod hok, meet_data, write_data, bytesAt_merge (byteMask_covers hwithin) hwithin]
    exact hnew
  | false =>
    rw [hwrites, if_neg Bool.false_ne_true] at hatom
    refine ⟨_, hatom, frame_slicePrep s t ctx a uo, slicePrep_keepsHome uo, ?_⟩
    obtain ⟨l, hl, hword, -⟩ := slicePrep_find (s := s) (t := t) (ctx := ctx) (a := a) uo
    have hstep := atomStep_kept (hwr.symm.trans hwrites)
    have hlt : old < 2 ^ (8 * atomBytes wide) := Nat.mod_lt _ (Nat.two_pow_pos _)
    rw [tagView_slice (slicePrep_miss uo) hl, hword, meet_data, hstep, BitVec.toNat_ofNat, Nat.mod_eq_of_lt hlt]

end

/-! ### The forms (R121-R124) -/

section
variable {s : State} {a : Word} {ob : Object} {wide : Bool} {rel : Bool} {sc : Scope}

/-- R103, R113, R121: an atomic of the issuing slot that its own tile performs. -/
structure State.AtomHere (s : State) (a : Word) (wide rel : Bool) (sc : Scope) (ob : Object) : Prop where
  home : s.AtHome s.cur.1 (s.memCtx s.cur.1 s.cur.2) a (atomBytes wide) ob
  data : ob.isCode = false
  writable : ob.writable = true
  release : rel = true → s.CanRelease sc
  lines : (s.tile s.cur.1).LinesOk
  alone : s.waitersAt s.cur.1 (objWordKey (s.memCtx s.cur.1 s.cur.2) a) = []
  clean : ((s.afterRelease s.cur.1 (s.memCtxs s.cur.1 s.cur.2) rel sc).tagView s.cur.1 (s.memCtx s.cur.1 s.cur.2) a ob.isUO).poison = false

/-- The word as the atomic finds it, after its release. -/
def State.atomOld (s : State) (a : Word) (wide rel : Bool) (sc : Scope) (ob : Object) : Nat :=
  bytesAt a (atomBytes wide)
    ((s.afterRelease s.cur.1 (s.memCtxs s.cur.1 s.cur.2) rel sc).tagView s.cur.1 (s.memCtx s.cur.1 s.cur.2) a ob.isUO).data

/-- R121: the state in which the home performs the atomic. -/
def State.atomPlace (s : State) (a : Word) (rel : Bool) (sc : Scope) : State :=
  (s.odcUse s.cur.1 (s.memCtx s.cur.1 s.cur.2) a).afterRelease s.cur.1 (s.memCtxs s.cur.1 s.cur.2) rel sc

variable (h : s.AtomHere a wide rel sc ob)
include h

theorem atomHere_performed (op : Option AtomOp) (b c : Word) :
    ∃ r, (s.atomPlace a rel sc).homeAtomic s.cur.1 (s.memCtx s.cur.1 s.cur.2) a op wide b c ob.isUO =
        (r, fromNat (s.atomOld a wide rel sc ob), false) ∧
      (∀ j, r.slot s.cur.1 j = s.slot s.cur.1 j) ∧ (r.tile s.cur.1).slots.length = (s.tile s.cur.1).slots.length ∧
      bytesAt a (atomBytes wide) (r.tagView s.cur.1 (s.memCtx s.cur.1 s.cur.2) a ob.isUO).data =
        (atomStep op (BitVec.ofNat (8 * atomBytes wide) (s.atomOld a wide rel sc ob)) (BitVec.ofNat (8 * atomBytes wide) b.toNat)
          (BitVec.ofNat (8 * atomBytes wide) c.toNat)).1.toNat := by
  have hready := afterRelease_ready h.lines (s.memCtx s.cur.1 s.cur.2) a rel sc
  have hview := tagView_same (afterRelease_same (odcUse_sameLines s s.cur.1 (s.memCtx s.cur.1 s.cur.2) a)
    (s.memCtxs s.cur.1 s.cur.2) rel sc) (s.memCtx s.cur.1 s.cur.2) a ob.isUO
  obtain ⟨r, hatom, hframe, -, hbytes⟩ := homeAtomic_done (wide := wide) (uo := ob.isUO) op hready.lines h.home.aligned
    ((waitersAt_keepsHome hready.home _).trans h.alone) (by rw [hview]; exact h.clean) b c
  rw [hview] at hatom hbytes
  exact ⟨r, hatom, fun j => (frame_slot hframe _ j).trans (hready.slots j), by rw [hframe.slots, hready.length], hbytes⟩

theorem atomHere_gate (go : State → State) : (s.atomPlace a rel sc).atHome s.cur.1 s.cur.2 (s.memCtx s.cur.1 s.cur.2) a go =
    go (s.atomPlace a rel sc) :=
  atHome_go ((gate_keepsHome (afterRelease_ready h.lines _ a rel sc).home _ a false).trans h.home.resident) go

/-- R121, R122: a fetching atomic. -/
theorem fetchAtom_ends (hs : s.issuing = true) (op : Option AtomOp) (b c : Word) (d : Reg) :
    let t := s.fetchAtom s.cur.1 s.cur.2 op wide rel sc a b c d
    ((t.slot s.cur.1 s.cur.2).state = .ready ∧
      s.then_ t = { s.curSlot.th.setReg d (fromNat (s.atomOld a wide rel sc ob)) with pc := s.following }) ∧
    bytesAt a (atomBytes wide) (t.tagView s.cur.1 (s.memCtx s.cur.1 s.cur.2) a ob.isUO).data =
      (atomStep op (BitVec.ofNat (8 * atomBytes wide) (s.atomOld a wide rel sc ob)) (BitVec.ofNat (8 * atomBytes wide) b.toNat)
        (BitVec.ofNat (8 * atomBytes wide) c.toNat)).1.toNat := by
  intro t
  obtain ⟨r, hatom, hslots, hlen, hbytes⟩ := atomHere_performed h op b c
  have ht : t = r.modSlot s.cur.1 s.cur.2 (fun sl =>
      { sl with th := sl.th.setReg d (fromNat (s.atomOld a wide rel sc ob)), state := .ready }.finish) := by
    have hgo := atomHere_gate h
    unfold State.atomPlace at hatom hgo
    simp only [t, State.fetchAtom]
    rw [show (if wide then 8 else 4) = atomBytes wide from rfl, access_own h.home fun _ => ⟨h.data, h.writable⟩,
      release_ready h.release, hgo, hatom]
    rfl
  have hslot : t.slot s.cur.1 s.cur.2 =
      { s.curSlot with th := s.curSlot.th.setReg d (fromNat (s.atomOld a wide rel sc ob)), state := .ready }.finish := by
    rw [ht, slot_modSlot_same _ _ _ _ (by rw [hlen]; exact (issuing_slot hs).2.2), hslots]
    rfl
  refine ⟨⟨congrArg Slot.state hslot, congrArg Slot.th hslot⟩, ?_⟩
  rw [ht, tagView_same (modSlot_sameLines r s.cur.1 s.cur.2 _)]
  exact hbytes

/-- R106, R121: an atomic that writes no register. -/
theorem nrAtom_ends (hs : s.issuing = true) (op : AtomOp) (b : Word) :
    let t := s.nrAtom s.cur.1 s.cur.2 op wide rel sc a b
    ((t.slot s.cur.1 s.cur.2).state = .ready ∧ s.then_ t = { s.curSlot.th with pc := s.following }) ∧
    bytesAt a (atomBytes wide) (t.tagView s.cur.1 (s.memCtx s.cur.1 s.cur.2) a ob.isUO).data =
      (atomStep (some op) (BitVec.ofNat (8 * atomBytes wide) (s.atomOld a wide rel sc ob)) (BitVec.ofNat (8 * atomBytes wide) b.toNat)
        (BitVec.ofNat (8 * atomBytes wide) 0)).1.toNat := by
  intro t
  obtain ⟨r, hatom, hslots, hlen, hbytes⟩ := atomHere_performed h (some op) b 0#64
  have ht : t = r.modSlot s.cur.1 s.cur.2 (fun sl => sl.stored none) := by
    have hgo := atomHere_gate h
    unfold State.atomPlace at hatom hgo
    simp only [t, State.nrAtom]
    rw [show (if wide then 8 else 4) = atomBytes wide from rfl, access_own h.home fun _ => ⟨h.data, h.writable⟩,
      release_ready h.release, hgo, hatom]
    rfl
  have hslot : t.slot s.cur.1 s.cur.2 = s.curSlot.stored none := by
    rw [ht, slot_modSlot_same _ _ _ _ (by rw [hlen]; exact (issuing_slot hs).2.2), hslots]
    rfl
  refine ⟨⟨congrArg Slot.state hslot, congrArg Slot.th hslot⟩, ?_⟩
  rw [ht, tagView_same (modSlot_sameLines r s.cur.1 s.cur.2 _)]
  exact hbytes

end

/-- R121: a form of the integer group is its operation. -/
theorem exec_atomInstr {op : AtomOp} (hop : op ∉ [.fadd, .fmax, .fmin]) (s : State) (d : Reg) (p : Ptr) (b : Reg) (n : Bool)
    (o : Sys2Proof.Order) (c : Scope) (wide : Bool) : exec (atomInstr op d p b n o c wide) s = atomic s op d p b n o c wide := by
  cases op with
  | fadd => simp at hop
  | fmax => simp at hop
  | fmin => simp at hop
  | _ => rfl

theorem atomic_fetch {s : State} (hs : s.issuing = true) (op : AtomOp) (d : Reg) (p : Ptr) (b : Reg) (o : Sys2Proof.Order) (c : Scope)
    (wide : Bool) : atomic s op d p b false o c wide =
      .next (s.fetchAtom s.cur.1 s.cur.2 (some op) wide (orderRel o) c (s.curSlot.th.regs.get p) (s.rd b) 0#64 d) := by
  rw [atomic, onIssue_next s _ hs, if_neg Bool.false_ne_true]
  rfl

theorem atomic_nr {s : State} (hs : s.issuing = true) (op : AtomOp) (d : Reg) (p : Ptr) (b : Reg) (o : Sys2Proof.Order) (c : Scope)
    (wide : Bool) : atomic s op d p b true o c wide =
      .next (s.nrAtom s.cur.1 s.cur.2 op wide (orderRel o) c (s.curSlot.th.regs.get p) (s.rd b)) := by
  rw [atomic, onIssue_next s _ hs, if_pos rfl]
  rfl

theorem exec_acas {s : State} (hs : s.issuing = true) (d : Reg) (p : Ptr) (b : Reg) (o : Sys2Proof.Order) (c : Scope) (wide : Bool) :
    exec (.acas d p b o c wide) s =
      .next (s.fetchAtom s.cur.1 s.cur.2 none wide (orderRel o) c (s.curSlot.th.regs.get p) (s.rd b) (s.rd d) d) := by
  change execAcas d p b o c wide s = _
  exact onIssue_next s _ hs

theorem atomicResults_int : Claim.atomicResults := by
  intro s op d p b o c wide ob hs u th ctx a n w old put ends hhome hcode hwr hrel hok halone hp
  have h : s.AtomHere a wide (orderRel o) c ob := ⟨hhome, hcode, hwr, hrel, hok, halone, hp⟩
  have hlt : old < 2 ^ (8 * n) := Nat.mod_lt _ (Nat.two_pow_pos _)
  refine ⟨fun hop => ⟨⟨_, (exec_atomInstr hop s d p b false o c wide).trans (atomic_fetch hs op d p b o c wide), ?_⟩,
    ⟨_, (exec_atomInstr hop s .zr p b true o c wide).trans (atomic_nr hs op .zr p b o c wide), ?_⟩⟩,
    ⟨_, exec_acas hs d p b o c wide, ?_⟩⟩
  · obtain ⟨hends, hput⟩ := fetchAtom_ends h hs (some op) (s.rd b) 0#64 d
    exact ⟨hends, hput.trans (congrArg BitVec.toNat (atomNew_int hop _ _))⟩
  · obtain ⟨hends, hput⟩ := nrAtom_ends h hs op (s.rd b)
    exact ⟨hends, hput.trans (congrArg BitVec.toNat (atomNew_int hop _ _))⟩
  · obtain ⟨hends, hput⟩ := fetchAtom_ends h hs none (s.rd b) (s.rd d) d
    rw [atomStep_none, BitVec.toNat_ofNat, BitVec.toNat_ofNat, BitVec.toNat_ofNat] at hput
    rw [show s.atomOld a wide (orderRel o) c ob % 2 ^ (8 * atomBytes wide) = old from Nat.mod_eq_of_lt hlt] at hput
    exact ⟨hends, hput⟩

/-- R123: the FP32 atomics by their fixed rules. -/
theorem atomNew_fp {op : AtomOp} (hop : op ∈ [.fadd, .fmax, .fmin]) {n : Nat} (old b : BitVec n) :
    atomNew op old b = BitVec.ofNat n (atomFp op old.toNat b.toNat) := by
  simp only [List.mem_cons, List.not_mem_nil, or_false] at hop
  rcases hop with rfl | rfl | rfl <;> rfl

/-- R123: the sum of two finite values, rounded once. -/
theorem atomFp_add {old new : Nat} (hx : (fp32.value old).isFinite = true) (hy : (fp32.value new).isFinite = true) :
    ∃ v, v.isFinite = true ∧ v.rat = (fp32.value old).rat + (fp32.value new).rat ∧ atomFp .fadd old new = (roundTo fp32 rne v).1 := by
  obtain ⟨hfinite, hrat⟩ := addVal_finite 0 hx hy
  exact ⟨_, hfinite, hrat, rfl⟩

/-- R123: the greater and the lesser of two ordered operands. -/
theorem atomFp_pick {old new : Nat} (h : (fp32.value old).Below (fp32.value new)) :
    atomFp .fmax old new = new ∧ atomFp .fmin old new = old ∧ atomFp .fmax new old = new ∧ atomFp .fmin new old = old := by
  have hx : (fp32.value old).isNan = false := by
    cases hv : fp32.value old <;> rw [hv] at h <;> first | rfl | exact h.elim
  have hy : (fp32.value new).isNan = false := by
    cases hv : fp32.value new with
    | nan sig =>
      rw [hv] at h
      cases hu : fp32.value old with
      | nan sig' => rw [hu] at h; exact h.elim
      | inf neg => rw [hu] at h; cases neg <;> exact h.elim
      | fin neg m e => rw [hu] at h; exact h.elim
    | _ => rfl
  obtain ⟨hmax, hmax'⟩ := pickMinMax_below true hx hy h
  obtain ⟨hmin, hmin'⟩ := pickMinMax_below false hx hy h
  have hne : (AtomOp.fmin == AtomOp.fmax) = false := by decide
  simp [atomFp, hne, hmax, hmax', hmin, hmin']

theorem floatAtomicResults : Claim.floatAtomicResults := by
  intro s d p b o c ob hs u th ctx a w old new x y done hhome hcode hwr hrel hok halone hp
  have h : s.AtomHere a false (orderRel o) c ob := ⟨hhome, hcode, hwr, hrel, hok, halone, hp⟩
  have hold : old < 2 ^ 32 := Nat.mod_lt _ (Nat.two_pow_pos _)
  have hnew : new < 2 ^ 32 := Nat.mod_lt _ (Nat.two_pow_pos _)
  have hdone {i : Instr} {op : AtomOp} (hop : op ∈ [.fadd, .fmax, .fmin]) (hi : exec i s = atomic s op d p b false o c false)
      (hv : atomFp op old new < 2 ^ 32) : done i (atomFp op old new) := by
    obtain ⟨⟨-, hth⟩, hput⟩ := fetchAtom_ends h hs (some op) (s.rd b) 0#64 d
    refine ⟨_, hi.trans (atomic_fetch hs op d p b o c false), hth, hput.trans ?_⟩
    have hword : (atomStep (some op) (BitVec.ofNat 32 old) (BitVec.ofNat 32 (s.rd b).toNat) (BitVec.ofNat 32 0)).1.toNat =
        atomFp op old new := by
      show (atomNew op (BitVec.ofNat 32 old) (BitVec.ofNat 32 (s.rd b).toNat)).toNat = _
      rw [atomNew_fp hop, BitVec.toNat_ofNat, BitVec.toNat_ofNat, BitVec.toNat_ofNat, Nat.mod_eq_of_lt hold, Nat.mod_eq_of_lt hv]
    exact hword
  refine ⟨fun hx hy => ?_, fun hlt => ?_, fun hlt => ?_⟩
  · obtain ⟨v, hfin, hrat, hadd⟩ := atomFp_add hx hy
    have hcode : atomFp .fadd old new < 2 ^ 32 := hadd ▸ roundTo_fp32_lt rne hfin
    exact ⟨v, hfin, hrat, hadd ▸ hdone (i := .afadd d p b false o c) (by simp) rfl hcode⟩
  · obtain ⟨hmax, hmin, -, -⟩ := atomFp_pick hlt
    have hmax' := hdone (i := .afmax d p b false o c) (op := .fmax) (by simp) rfl (by rw [hmax]; exact hnew)
    have hmin' := hdone (i := .afmin d p b false o c) (op := .fmin) (by simp) rfl (by rw [hmin]; exact hold)
    rw [hmax] at hmax'
    rw [hmin] at hmin'
    exact ⟨hmax', hmin'⟩
  · obtain ⟨-, -, hmax, hmin⟩ := atomFp_pick hlt
    have hmax' := hdone (i := .afmax d p b false o c) (op := .fmax) (by simp) rfl (by rw [hmax]; exact hold)
    have hmin' := hdone (i := .afmin d p b false o c) (op := .fmin) (by simp) rfl (by rw [hmin]; exact hnew)
    rw [hmax] at hmax'
    rw [hmin] at hmin'
    exact ⟨hmax', hmin'⟩

/-- Settles O20: the atomic is performed at the thread's own tile in one step, where its word has the new bytes. -/
theorem atomicResults : Obligations.AtomicResults := ⟨atomicResults_int, floatAtomicResults⟩

end Sys2Proof.Machine
end

section
/-! SUPPORT. Packets that arrive, and the replies that complete a form (R104, R112, R122, R132, R194, R203, R249, R250). -/

namespace Sys2Proof.Machine

/-! ### Arrival (R228, R250) -/

/-- R228: packet `n` has left the fabric and its tile's port has noted its turn. -/
def State.arrived (s : State) (n : Nat) (m : Map (Nat × Nat)) : State := { s with net := dropAt s.net n, portAt := m }

section
variable {s : State} {n : Nat} {p : Packet}

/-- A packet that arrives has the effect of its form on the state that it has left. -/
theorem arrives_effect (h : s.Arrives n p) :
    ∃ m, ∀ f t, f p (s.arrived n m) = .yes t → onPacket s n f = .next t := by
  obtain ⟨m, hm⟩ := notePort_shape (s := { s with net := dropAt s.net n }) p
  exact ⟨m, fun f t hf => onPacket_taken h (by rw [hm]; exact hf)⟩

theorem toSlot_wanted {want : Slot → Bool} (hk : p.slot < 16) (hw : want (s.slot p.dst p.slot) = true)
    (f : Nat → Nat → Slot → State) :
    toSlot p s want f = .yes (f p.dst p.slot (s.slot p.dst p.slot)) := by
  simp [toSlot, hk, hw]

end

/-! ### A slot that goes on (R60, R104) -/

/-- The waiting form of a slot is complete: its thread is READY at the next instruction and nothing else has changed. -/
def State.FormEnds (s t : State) (u k : Nat) (th : Thread) : Prop :=
  (t.slot u k).state = .ready ∧ (t.slot u k).th = { th with pc := (s.slot u k).ipc + 4#64 } ∧
    (t.slot u k).ipc = (s.slot u k).ipc + 4#64 ∧ (∀ q, q ≠ u → t.tile q = s.tile q) ∧
    (∀ j, j ≠ k → t.slot u j = s.slot u j) ∧ s.SameMem t

section
variable {s : State} {n u k : Nat} {m : Map (Nat × Nat)}

theorem modSlot_formEnds {f : Slot → Slot} {th : Thread} (hk : k < (s.tile u).slots.length)
    (hf : f (s.slot u k) = ({ s.slot u k with th := th, state := .ready } : Slot).finish) :
    s.FormEnds ((s.arrived n m).modSlot u k f) u k th := by
  have hslot : ((s.arrived n m).modSlot u k f).slot u k = f (s.slot u k) := slot_modSlot_same (s.arrived n m) u k f hk
  rw [State.FormEnds, hslot, hf]
  exact ⟨rfl, rfl, rfl, fun q hq => tile_modTile_other (s.arrived n m) u _ hq,
    fun j hj => slot_modSlot_slot (s.arrived n m) u k f hj, fun _ => ⟨rfl, rfl, rfl⟩⟩

/-- R112: the number that a load's reply carries, extended. -/
theorem extendLoad_reply (z : Size) (sx : Bool) (v : Word) :
    extendLoad z sx (takeBytes (offOf 0#64) (sizeBytes z) v) = loadedWord z sx (v.toNat % 2 ^ (8 * sizeBytes z)) := by
  have hbytes : takeBytes (offOf 0#64) (sizeBytes z) v = v.toNat % 2 ^ (8 * sizeBytes z) := by
    rw [takeBytes_eq, bytesAt]
    simp
  rw [hbytes, extendLoad_eq z sx (Nat.mod_lt _ (Nat.two_pow_pos _))]

end

/-- R289: a record bears the name that was asked for and the generation now current. -/
theorem dirRecord_named (s : State) (key : RecKey) : (s.dirRecord key).key = key ∧ (s.dirRecord key).stamp = s.gen := by
  unfold State.dirRecord
  split
  · exact ⟨rfl, rfl⟩
  · split <;> exact ⟨rfl, rfl⟩

/-! ### The replies, form by form -/

section
variable {s : State} {n : Nat} {p : Packet} (h : s.Arrives n p)
include h

/-- R104, R112: the value of a remote load. -/
theorem readData_ends {d : Reg} {z : Size} {sx : Bool} (hw : s.Awaiting p.dst p.slot (.load d z sx none false))
    (hs : (s.slot p.dst p.slot).state = .remote) {v : Word} (hb : p.body = .readData v) :
    ∃ t, exec (.readData n) s = .next t ∧ s.Taken_ t n ∧ s.FormEnds t p.dst p.slot
      ((s.slot p.dst p.slot).th.setReg d (loadedWord z sx (v.toNat % 2 ^ (8 * sizeBytes z)))) := by
  obtain ⟨hk, hlen, -, hpend⟩ := hw
  obtain ⟨m, htake⟩ := arrives_effect h
  have hread : (s.arrived n m).readArrived p.dst p.slot v =
      (s.arrived n m).modSlot p.dst p.slot (fun sl => sl.loaded d z sx none 0#64 v) := by
    have hload : ((s.arrived n m).slot p.dst p.slot).pend = .load d z sx none false := hpend
    simp [State.readArrived, hload]
  refine ⟨(s.arrived n m).modSlot p.dst p.slot (fun sl => sl.loaded d z sx none 0#64 v),
    (show execReadData n s = _ from htake _ _ ?_), rfl, modSlot_formEnds hlen ?_⟩
  · have hwant : (isLoad (s.slot p.dst p.slot).pend && awaits (s.slot p.dst p.slot)) = true := by
      simp [hpend, hs, isLoad, awaits]
    simp only [hb]
    rw [toSlot_wanted (s := s.arrived n m) hk hwant, hread]
  · show Slot.loaded _ d z sx none 0#64 v = _
    rw [Slot.loaded, extendLoad_reply]
    rfl

/-- R103, R203: the fault of the home. -/
theorem readFailed_blocks {d : Reg} {z : Size} {sx : Bool} (hw : s.Awaiting p.dst p.slot (.load d z sx none false))
    (hs : (s.slot p.dst p.slot).state = .remote) {code : Nat} {a x : Word} (hb : p.body = .failed code a x) :
    ∃ t, exec (.readData n) s = .next t ∧ (t.slot p.dst p.slot).state = .blocked ∧
      (t.slot p.dst p.slot).fault = some { code := code, pc := (s.slot p.dst p.slot).th.pc, addr := a, extra := x } ∧
      (t.slot p.dst p.slot).th.regs = (s.slot p.dst p.slot).th.regs ∧
      (t.slot p.dst p.slot).fseq = (s.slot p.dst p.slot).fseq + 1#8 := by
  obtain ⟨hk, hlen, huser, -⟩ := hw
  obtain ⟨m, htake⟩ := arrives_effect h
  obtain ⟨r, b, q, hslot⟩ := raise_slot (s := s.arrived n m) huser hlen code a x
  refine ⟨(s.arrived n m).raise p.dst p.slot code a x, (show execReadData n s = _ from htake _ _ ?_), ?_⟩
  · have hwant : awaits (s.slot p.dst p.slot) = true := by simp [hs, awaits]
    simp only [hb]
    exact toSlot_wanted (s := s.arrived n m) hk hwant _
  · rw [hslot]
    exact ⟨rfl, rfl, rfl, rfl⟩

/-- R122: the old value of a remote atomic. -/
theorem atomicResult_ends {d : Reg} (hw : s.Awaiting p.dst p.slot (.atomic d)) {v : Word} (hb : p.body = .atomicResult v) :
    ∃ t, exec (.atomicResult n) s = .next t ∧ s.Taken_ t n ∧
      s.FormEnds t p.dst p.slot ((s.slot p.dst p.slot).th.setReg d v) := by
  obtain ⟨hk, hlen, -, hpend⟩ := hw
  obtain ⟨m, htake⟩ := arrives_effect h
  have hpend' : ((s.arrived n m).slot p.dst p.slot).pend = .atomic d := hpend
  refine ⟨(s.arrived n m).modSlot p.dst p.slot (fun sl => { sl with th := sl.th.setReg d v, state := .ready }.finish),
    (show execAtomicResult n s = _ from htake _ _ ?_), rfl, modSlot_formEnds hlen rfl⟩
  simp only [hb]
  rw [toSlot_wanted hk (by rw [hpend']), hpend']

/-- R107, R214: the answer zero of a tracker drains the handle, and the form goes on. -/
theorem trackerAnswer_drains {second : Bool} (hw : s.Awaiting p.dst p.slot (.query second)) (hb : p.body = .trackAnswer second none)
    (hq : (s.slot p.dst p.slot).reqSeq = p.rseq + 1#4) :
    ∃ t, exec (.trackerAnswer n) s = .next t ∧ s.Taken_ t n ∧ (t.slot p.dst p.slot).state = .ready ∧
      (t.slot p.dst p.slot).th = (s.slot p.dst p.slot).th.setDrained second true false := by
  obtain ⟨hk, hlen, -, hpend⟩ := hw
  obtain ⟨m, htake⟩ := arrives_effect h
  have hwant : ((s.slot p.dst p.slot).pend == .query second && (s.slot p.dst p.slot).reqSeq == p.rseq + 1#4) = true := by
    simp [hpend, hq]
  refine ⟨(s.arrived n m).trackerAnswered p.dst p.slot second none, (show execTrackerAnswer n s = _ from htake _ _ ?_), rfl, ?_⟩
  · simp only [hb]
    exact toSlot_wanted (s := s.arrived n m) hk hwant _
  · rw [State.trackerAnswered, slot_modSlot_same (s.arrived n m) _ _ _ hlen]
    exact ⟨rfl, rfl⟩

/-- R132: the number of a child that another tile admitted. -/
theorem admission_ends {d : Reg} {target pc : Word} {m : Bool} (hw : s.Awaiting p.dst p.slot (.spawn d target pc m))
    (hs : (s.slot p.dst p.slot).state = .wait .reply) {tid : BitVec 32} (hb : p.body = .admission (some tid)) :
    ∃ t, exec (.admissionAnswer n) s = .next t ∧ (t.slot p.dst p.slot).state = .ready ∧
      (t.slot p.dst p.slot).th = { (s.slot p.dst p.slot).th.setReg d (tid.zeroExtend 64) with
        pc := (s.slot p.dst p.slot).ipc + 4#64 } := by
  obtain ⟨hk, hlen, -, hpend⟩ := hw
  obtain ⟨q, htake⟩ := arrives_effect h
  have hpend' : ((s.arrived n q).slot p.dst p.slot).pend = .spawn d target pc m := hpend
  have hwant : (isSpawn (s.slot p.dst p.slot).pend && (s.slot p.dst p.slot).state == .wait .reply) = true := by
    simp [hpend, hs, isSpawn]
  refine ⟨(s.arrived n q).spawned p.dst p.slot d tid, (show execAdmissionAnswer n s = _ from htake _ _ ?_), ?_⟩
  · simp only [hb]
    rw [toSlot_wanted (s := s.arrived n q) hk hwant]
    simp only [State.childAnswered, hpend']
  · rw [spawned_slot_same (s.arrived n q) _ _ d tid hlen]
    exact ⟨rfl, rfl⟩

/-- R203, R289: a record for the thread that waits for it. -/
theorem directoryFill_ends (hk : p.slot < 16) (hlen : p.slot < (s.tile p.dst).slots.length)
    (hs : (s.slot p.dst p.slot).state = .wait .directory) {e : OdcEntry} (hb : p.body = .dirFill e) :
    ∃ t, exec (.directoryFill n) s = .next t ∧ s.Taken_ t n ∧ (t.slot p.dst p.slot).state = .ready ∧
      (t.slot p.dst p.slot).th = (s.slot p.dst p.slot).th ∧
      ∃ r, r ∈ (t.tile p.dst).odc ∧ r.key = e.key ∧ r.stamp = s.gen := by
  obtain ⟨m, htake⟩ := arrives_effect h
  let u := (s.arrived n m).odcFill p.dst e.key
  have htile : u.tile p.dst = { s.tile p.dst with
      odc := ((s.arrived n m).dirRecord e.key :: (s.tile p.dst).odc.filter (fun f => f.key != e.key)).take 256 } :=
    tile_modTile_same (s.arrived n m) _ _
  have hslot : u.slot p.dst p.slot = s.slot p.dst p.slot := by rw [State.slot, htile]; rfl
  refine ⟨u.modSlot p.dst p.slot (fun sl => { sl with state := .ready, retry := true }),
    (show execDirectoryFill n s = _ from htake _ _ ?_), rfl, ?_⟩
  · have hwant : ((u.slot p.dst p.slot).state == .wait .directory) = true := by simp [hslot, hs]
    simp only [hb]
    exact toSlot_wanted (s := u) hk hwant _
  · rw [slot_modSlot_same u _ _ _ (by rw [htile]; exact hlen), hslot, State.modSlot, tile_modTile_same]
    refine ⟨rfl, rfl, (s.arrived n m).dirRecord e.key, ?_, ?_⟩
    · show _ ∈ (u.tile p.dst).odc
      rw [htile, List.take_succ_cons]
      exact List.mem_cons_self
    · exact dirRecord_named (s.arrived n m) e.key

/-- R194, R198: the answer to a service form, the last that it waits for. -/
theorem serviceAnswer_ends {d : Reg} {sum : Nat} {w : Word} (hk : p.slot < 16) (hlen : p.slot < (s.tile p.dst).slots.length)
    (hpend : (s.slot p.dst p.slot).pend = .service d 1 sum)
    (hs : (s.slot p.dst p.slot).state = .wait .reply ∨ (s.slot p.dst p.slot).state = .remote) (hb : p.body = .svcAnswer w) :
    ∃ t, exec (.serviceAnswer n) s = .next t ∧ s.Taken_ t n ∧
      s.FormEnds t p.dst p.slot ((s.slot p.dst p.slot).th.setReg d (fromNat (sum + w.toNat))) := by
  obtain ⟨m, htake⟩ := arrives_effect h
  have hpend' : ((s.arrived n m).slot p.dst p.slot).pend = .service d 1 sum := hpend
  have hwant : awaits (s.slot p.dst p.slot) = true := by rcases hs with hs | hs <;> simp [awaits, hs]
  refine ⟨(s.arrived n m).modSlot p.dst p.slot (fun sl =>
    { sl with th := sl.th.setReg d (fromNat (sum + w.toNat)), state := .ready }.finish),
    (show execServiceAnswer n s = _ from htake _ _ ?_), rfl, modSlot_formEnds hlen rfl⟩
  simp only [hb]
  rw [toSlot_wanted (s := s.arrived n m) hk hwant, State.serviceAnswered, hpend']
  rfl

end

/-- Settles O41: each reply by the form that waits for it at its slot. -/
theorem repliesArrive : Obligations.RepliesArrive := by
  intro s n p d z sx second m v a x pc target w code sum tid e h u k sl ends
  refine ⟨fun hw hs => ⟨fun hb => readData_ends h hw hs hb, fun hb => readFailed_blocks h hw hs hb⟩,
    fun hw hb => atomicResult_ends h hw hb,
    fun hw hb hq => ?_,
    fun hw hs hb => admission_ends h hw hs hb, fun hk hlen hs hb => directoryFill_ends h hk hlen hs hb,
    fun hk hlen hpend hs hb => serviceAnswer_ends h hk hlen hpend hs hb⟩
  obtain ⟨t, hexec, hnet, hstate, hth⟩ := trackerAnswer_drains h hw hb hq
  refine ⟨t, hexec, hnet, hstate, ?_⟩
  show (t.slot p.dst p.slot).th.pc = _ ∧ (t.slot p.dst p.slot).th.regs = _ ∧ _
  rw [hth]
  cases second <;> exact ⟨rfl, rfl, rfl⟩

end Sys2Proof.Machine
end

section
/-! SUPPORT. Requests at their homes (R107, R112, R115, R122, R132, R135, R202, R214, R245, R289). -/

namespace Sys2Proof.Machine

/-! ### Answers (R249) -/

section
variable {s u : State} {n t : Nat} {p : Packet} {m : Map (Nat × Nat)}

/-- R249: one packet from the destination of `p` to its source, sent after `p` has been taken. -/
theorem send_sends {q : Packet} (hnet : u.net = dropAt s.net n) (hsrc : q.src = p.dst) (hdst : q.dst = p.src) (hgen : q.gen = s.gen) :
    s.Sends (u.send q) n p q.vc q.slot q.body := by
  obtain ⟨_, _, _, _, _, hsend⟩ := send_net u q
  rw [hnet] at hsend
  exact ⟨_, hsend, rfl, hsrc, hdst, rfl, rfl, hgen⟩

theorem answer_answered (hnet : u.net = dropAt s.net n) (hgen : u.gen = s.gen) (b : Body) :
    s.Answered (u.answer p.dst p.src p.slot b) n p b :=
  send_sends (q := { vc := 1, src := p.dst, dst := p.src, gen := u.gen, slot := p.slot, body := b }) hnet rfl rfl hgen

/-- R248, R250: no sequence counts an answer, which leaves its tile as it is. -/
theorem answer_shape (u : State) (src dst slot : Nat) (b : Body) :
    u.answer src dst slot b = { u with net := (u.answer src dst slot b).net } := by
  simp [State.answer, State.send]

theorem answer_tile (u : State) (src dst slot : Nat) (b : Body) (v : Nat) : (u.answer src dst slot b).tile v = u.tile v := by
  rw [answer_shape]
  rfl

theorem arrived_same : s.SameLines t (s.arrived n m) := ⟨rfl, rfl, rfl, rfl, rfl, rfl⟩

theorem arrived_keepsHome : s.KeepsHome t (s.arrived n m) := ⟨rfl, rfl, rfl, rfl⟩

theorem arrived_sound (h : s.Sound) : (s.arrived n m).Sound := h

theorem arrived_gate {ctx : Nat} {a : Word} (h : s.gate t ctx a = .go) : (s.arrived n m).gate t ctx a = .go :=
  (gate_keepsHome arrived_keepsHome ctx a false).trans h

theorem arrived_tagView (ctx : Nat) (a : Word) (uo : Bool) : (s.arrived n m).tagView t ctx a uo = s.tagView t ctx a uo :=
  tagView_same arrived_same ctx a uo

theorem arrived_view (ctx : Nat) (a : Word) : (s.arrived n m).view t ctx a = s.view t ctx a := view_same arrived_same ctx a

theorem arrived_alone {key : Nat} (h : s.NoWaiter t key) : (s.arrived n m).waitersAt t key = [] :=
  (waitersAt_keepsHome arrived_keepsHome key).trans h

/-- R112, R122: the answer after the caches have worked without meeting an error. -/
theorem frame_answered (h : (s.arrived n m).CacheFrame u) (hs : s.Sound) (b : Body) :
    s.Answered (u.answer p.dst p.src p.slot b) n p b :=
  answer_answered (h.calm hs.1).2 ((frame_gen (s := s.arrived n m) h).trans rfl) b

theorem answer_tagView (u : State) (src dst slot : Nat) (b : Body) (ctx : Nat) (a : Word) (uo : Bool) :
    (u.answer src dst slot b).tagView t ctx a uo = u.tagView t ctx a uo :=
  tagView_same (State.SameLines.send u _) ctx a uo

theorem answer_view (u : State) (src dst slot : Nat) (b : Body) (ctx : Nat) (a : Word) :
    (u.answer src dst slot b).view t ctx a = u.view t ctx a :=
  view_same (State.SameLines.send u _) ctx a

theorem request_go {ctx : Nat} {a : Word} (h : s.gate t ctx a = .go) (p : Packet) (go : State → State) :
    s.request t p ctx a go = go s := by
  simp only [State.request, h]

theorem uoOf_object {ctx : Nat} {a : Word} {ob : Object} (h : s.object ctx (objOf a) = some ob) : s.uoOf ctx a = ob.isUO := by
  simp only [State.uoOf, h]

end

/-! ### Words of objects (R112, R122, R135) -/

/-- R135: the decrement of a word at which nobody waits. -/
theorem decrement_done {s : State} {t ctx : Nat} {a : Word} {uo : Bool} (hok : (s.tile t).LinesOk)
    (hnone : s.waitersAt t (objWordKey ctx a) = []) (hp : (s.tagView t ctx a uo).poison = false) :
    ∃ r, s.decrement t ctx a uo = some r ∧ s.CacheFrame r ∧
      (r.tagView t ctx a uo).data = (s.tagView t ctx a uo).data - 1#64 := by
  let f (w : LWord) : LWord := w.write 0xFF#8 (w.data - 1#64)
  have hwake (x : Word) : (s.tagged t ctx a uo f).wake t (objWordKey ctx a) x = s.tagged t ctx a uo f := by
    simp only [State.wake, (waitersAt_keepsHome (tagged_keepsHome ctx f) _).trans hnone, List.filter_nil, List.foldl_nil]
  refine ⟨s.tagged t ctx a uo f, ?_, frame_tagged ctx f, ?_⟩
  · rw [State.tagView] at hp
    simp only [State.decrement, hp, Bool.false_eq_true, if_false]
    exact congrArg some (hwake _)
  · rw [State.tagged, tagView_mod hok, meet_data]
    show ((s.tagView t ctx a uo).write 0xFF#8 _).data = _
    rw [write_data, mergeBytes_all]

section
variable {s : State} {n : Nat} {p : Packet} {ctx : Nat} {a : Word} (h : s.Arrives n p)
include h

/-- R112: a read of a sound word. -/
theorem readReq_answered {z : Size} (hs : s.Sound) (hg : s.gate p.dst ctx a = .go) (hb : p.body = .readReq ctx a z)
    (hp : (s.view p.dst ctx a).poison = false) :
    ∃ t, exec (.remoteReadRequest n) s = .next t ∧
      s.Answered t n p (.readData (fromNat (bytesAt a (sizeBytes z) (s.view p.dst ctx a).data))) := by
  obtain ⟨m, htake⟩ := arrives_effect h
  refine ⟨_, (show execRemoteReadRequest n s = _ from htake _ (((s.arrived n m).homeRead p.dst ctx a).1.answer p.dst p.src p.slot
    (.readData (fromNat (bytesAt a (sizeBytes z) (s.view p.dst ctx a).data)))) ?_), frame_answered (frame_homeRead _ _ _ _) hs _⟩
  have hview : ((s.arrived n m).homeRead p.dst ctx a).2 = s.view p.dst ctx a := arrived_view ctx a
  simp only [hb, State.takeRead, request_go (arrived_gate hg), hview, hp, Bool.false_eq_true, if_false, takeBytes_eq, fromNat]

/-- R112, R113: a read of a poisoned word. -/
theorem readReq_refused {z : Size} (hs : s.Sound) (hg : s.gate p.dst ctx a = .go) (hb : p.body = .readReq ctx a z)
    (hp : (s.view p.dst ctx a).poison = true) :
    ∃ t, exec (.remoteReadRequest n) s = .next t ∧ s.Answered t n p (.failed 0x0A (a &&& ~~~7#64) 0#64) := by
  obtain ⟨m, htake⟩ := arrives_effect h
  refine ⟨_, (show execRemoteReadRequest n s = _ from htake _ (((s.arrived n m).homeRead p.dst ctx a).1.answer p.dst p.src p.slot
    (.failed 0x0A (a &&& ~~~7#64) 0#64)) ?_), frame_answered (frame_homeRead _ _ _ _) hs _⟩
  have hview : ((s.arrived n m).homeRead p.dst ctx a).2 = s.view p.dst ctx a := arrived_view ctx a
  simp only [hb, State.takeRead, request_go (arrived_gate hg), hview, hp, if_true]
  rfl

variable {ob : Object} (hob : s.object ctx (objOf a) = some ob) (hg : s.gate p.dst ctx a = .go) (hok : (s.tile p.dst).LinesOk)
  (hnone : s.NoWaiter p.dst (objWordKey ctx a)) (hp : (s.tagView p.dst ctx a ob.isUO).poison = false)
include hob hg hok hnone hp

/-- R122: a fetching integer atomic. -/
theorem atomicReq_answered {op : AtomOp} {wide : Bool} {b c : Word} (hs : s.Sound) (ha : a.toNat % atomBytes wide = 0)
    (hb : p.body = .atomicReq ctx a (some op) wide b c) (hop : op ∉ [.fadd, .fmax, .fmin]) :
    let old := bytesAt a (atomBytes wide) (s.tagView p.dst ctx a ob.isUO).data
    ∃ t, exec (.atomicRequest n) s = .next t ∧ s.Answered t n p (.atomicResult (fromNat old)) ∧
      bytesAt a (atomBytes wide) (t.tagView p.dst ctx a ob.isUO).data =
        (atomInt op (BitVec.ofNat (8 * atomBytes wide) old) (BitVec.ofNat (8 * atomBytes wide) b.toNat)).toNat := by
  intro old
  obtain ⟨m, htake⟩ := arrives_effect h
  obtain ⟨r, hatom, hframe, -, hbytes⟩ := homeAtomic_done (s := s.arrived n m) (uo := ob.isUO) (some op) hok ha
    (arrived_alone hnone) ((congrArg LWord.poison (arrived_tagView ctx a _)).trans hp) b c
  rw [arrived_tagView] at hatom hbytes
  refine ⟨_, (show execAtomicRequest n s = _ from htake _ (r.answer p.dst p.src p.slot (.atomicResult (fromNat old))) ?_),
    frame_answered hframe hs _, ?_⟩
  · have huo : (s.arrived n m).uoOf ctx a = ob.isUO := uoOf_object hob
    have hhere : ¬ p.dst ≥ 16384 := Nat.not_le.mpr h.tile
    simp only [hb, if_neg hhere, State.takeAtomic, request_go (arrived_gate hg), huo, hatom, Bool.false_eq_true, if_false, old]
  · rw [answer_tagView]
    exact hbytes.trans (congrArg BitVec.toNat (atomNew_int hop _ _))

/-- R135: the decrement of a join word. -/
theorem decrement_answered (hs : s.Sound) (hb : p.body = .exitJ ctx a) :
    ∃ t, exec (.exitJDecrement n) s = .next t ∧ s.Answered t n p (.writeAck none none) ∧
      (t.tagView p.dst ctx a ob.isUO).data = (s.tagView p.dst ctx a ob.isUO).data - 1#64 := by
  obtain ⟨m, htake⟩ := arrives_effect h
  obtain ⟨r, hdec, hframe, hdata⟩ := decrement_done (s := s.arrived n m) (uo := ob.isUO) hok (arrived_alone hnone)
    ((congrArg LWord.poison (arrived_tagView ctx a _)).trans hp)
  rw [arrived_tagView] at hdata
  refine ⟨_, (show execExitJDecrement n s = _ from htake _ (r.answer p.dst p.src p.slot (.writeAck none none)) ?_),
    frame_answered hframe hs _, ?_⟩
  · have huo : (s.arrived n m).uoOf ctx a = ob.isUO := uoOf_object hob
    simp only [hb, State.takeExitJ, request_go (arrived_gate hg), huo, hdec]
  · rw [answer_tagView]
    exact hdata

end

/-! ### Macros and trackers (R115, R214, R245) -/

section
variable {s : State} {n : Nat} {p : Packet} (h : s.Arrives n p)
include h

/-- R115, R245: a partner's load of a scratchpad word. -/
theorem peerLoad_answered {ctx kin : Nat} {a : Word} {z : Size} (hs : s.Sound) (hb : p.body = .peerLoad ctx kin a z)
    (hlive : (s.tile p.dst).peerMac kin ctx (macroOf a) = .live)
    (hstate : ((s.tile p.dst).mac (macroOf a)).state = .plain ∨ ((s.tile p.dst).mac (macroOf a)).state = .ready ∨
      ((s.tile p.dst).mac (macroOf a)).state = .stationary)
    (hdue : ((s.tile p.dst).mac (macroOf a)).due = false)
    (hp : s.mem.isPoison (spadKey p.dst (macroOf a) (macroOff a)) = false) :
    ∃ t, exec (.peerWindowLoad n) s = .next t ∧ t = { s with net := t.net, tiles := t.tiles, portAt := t.portAt } ∧
      s.Answered t n p (.readData (fromNat (bytesAt a (sizeBytes z) (s.mem.word (spadKey p.dst (macroOf a) (macroOff a)))))) := by
  obtain ⟨m, htake⟩ := arrives_effect h
  let b : Body := .readData (fromNat (bytesAt a (sizeBytes z) (s.mem.word (spadKey p.dst (macroOf a) (macroOff a)))))
  have hpt : (s.arrived n m).peerTake p.dst kin ctx (macroOf a) false = .live := by
    have htile : (s.arrived n m).tile p.dst = s.tile p.dst := rfl
    rcases hstate with hst | hst | hst <;> simp [State.peerTake, htile, hlive, hst, hdue]
  refine ⟨(s.arrived n m).answer p.dst p.src p.slot b, (show execPeerWindowLoad n s = _ from htake _ _ ?_), ?_,
    answer_answered (u := s.arrived n m) rfl rfl b⟩
  · have hclean : (s.arrived n m).mem.isPoison (spadKey p.dst (macroOf a) (macroOff a)) = false := hp
    simp only [hb, State.takePeerLoad, hpt, peerKey, meetSpad_sound (arrived_sound hs), hclean, Bool.false_eq_true, if_false,
      takeBytes_eq]
    rfl
  · rw [answer_shape]
    rfl

/-- R107, R214: the tracker that a handle names counts nothing. -/
theorem trackQuery_answered {i : Nat} {second : Bool} (hb : p.body = .trackQuery i second) (hc : ((s.tile p.dst).tracker i).count = 0) :
    ∃ t, exec (.trackerQuery n) s = .next t ∧ s.Answered t n p (.trackAnswer second ((s.tile p.dst).tracker i).err) := by
  obtain ⟨m, htake⟩ := arrives_effect h
  refine ⟨_, (show execTrackerQuery n s = _ from htake _ ((s.arrived n m).answerTo p
    (.trackAnswer second ((s.tile p.dst).tracker i).err)) ?_), ?_⟩
  · have htile : (s.arrived n m).tile p.dst = s.tile p.dst := rfl
    simp only [hb, htile, hc, if_true]
  · let b : Body := .trackAnswer second ((s.tile p.dst).tracker i).err
    exact send_sends (u := s.arrived n m)
      (q := { vc := 1, src := p.dst, dst := p.src, gen := s.gen, slot := p.slot, body := b, rseq := p.rseq }) rfl rfl rfl rfl

/-- R214: a tracker that counts nothing is freed. -/
theorem trackRelease_frees {i kin : Nat} (hb : p.body = .trackRelease i true kin) (hc : ((s.tile p.dst).tracker i).count = 0)
    (hi : i < (s.tile p.dst).trackers.length) :
    ∃ t, exec (.trackerRelease n) s = .next t ∧ s.Taken_ t n ∧ (t.tile p.dst).tracker i = {} := by
  obtain ⟨m, htake⟩ := arrives_effect h
  let f (tr : Tracker) : Tracker := if tr.count = 0 then {} else { tr with err := some (0, 0#64, 0#64), kin := kin }
  refine ⟨(s.arrived n m).modTile p.dst (fun x => x.modTracker i f), (show execTrackerRelease n s = _ from htake _ _ ?_), rfl, ?_⟩
  · simp only [hb]
    rfl
  · rw [tile_modTile_same]
    show (modifyAt (s.tile p.dst).trackers i f).getD i {} = {}
    rw [modifyAt_getD_same _ _ _ _ hi]
    exact if_pos hc

/-! ### The directory (R202, R289) -/

theorem dirReq_answered {key : RecKey} (hb : p.body = .dirReq key) :
    ∃ t, exec (.directoryFillRequest n) s = .next t ∧ s.Answered t n p (.dirFill (s.dirRecord key)) := by
  obtain ⟨m, htake⟩ := arrives_effect h
  refine ⟨(s.arrived n m).answer p.dst p.src p.slot (.dirFill (s.dirRecord key)),
    (show execDirectoryFillRequest n s = _ from htake _ _ ?_), answer_answered (u := s.arrived n m) rfl rfl _⟩
  simp only [hb]
  rfl

/-- R289: an invalidation leaves no record of the name. -/
theorem dirInval_answered {key : RecKey} {op : Nat} (hb : p.body = .dirInval key op) :
    ∃ t, exec (.directoryInvalidate n) s = .next t ∧ s.Sends t n p 1 16 (.invalDone op) ∧
      ∀ e, e ∈ (t.tile p.dst).odc → e.key ≠ key := by
  obtain ⟨m, htake⟩ := arrives_effect h
  let u := (s.arrived n m).modTile p.dst (fun x => x.forgetKey key)
  refine ⟨u.answer p.dst p.src 16 (.invalDone op), (show execDirectoryInvalidate n s = _ from htake _ _ ?_), ?_, fun e he heq => ?_⟩
  · simp only [hb]
    rfl
  · exact send_sends (u := u)
      (q := { vc := 1, src := p.dst, dst := p.src, gen := s.gen, slot := 16, body := .invalDone op }) rfl rfl rfl rfl
  · rw [answer_tile, tile_modTile_same] at he
    have hkeep := (List.mem_filter.mp he).2
    simp [heq] at hkeep

end

/-- R289: what a record says of an object that is not there, and of the homes of one that is. -/
theorem dirRecord_says (s : State) (key : RecKey) (g : Nat) :
    (s.object key.ctx key.obj = none → (s.dirRecord key).valid = false) ∧
      (key.kind = .home g → (s.dirRecord key).valid = true → (s.dirRecord key).homes.length = 16) := by
  refine ⟨fun hnone => ?_, fun hkind hvalid => ?_⟩
  · simp [State.dirRecord, hnone]
  · unfold State.dirRecord at hvalid ⊢
    split
    · rename_i hgone
      rw [hgone] at hvalid
      cases hvalid
    · rw [hkind]
      simp

end Sys2Proof.Machine
end

section
/-! SUPPORT. A child that another tile places here (R132, R210, R213), and the requests put together. -/

namespace Sys2Proof.Machine

/-! ### The child in its slot (R132, R213) -/

/-- R213: a context that is neither migrated nor recalled starts with no bounce, whatever else it brings. -/
theorem seated_child (sl : Slot) {f : Flit} (hkind : f.kind = 3) (hstop : f.stop = false) (q full : Nat) :
    (sl.seated f q full).state = .ready ∧ (sl.seated f q full).th = f.th.setBounce 0 := by
  simp [Slot.seated, Slot.pinState, hkind, hstop]

theorem setBounce_trace (th : Thread) (n : Nat) : (th.setBounce n).trace = th.trace := setBounce_bit th n (by omega)

section
variable {s : State} {t j q : Nat}

theorem born_net (kin : Nat) : (s.born t kin).net = s.net := by
  unfold State.born State.modInst
  split <;> rfl

theorem born_gen (kin : Nat) : (s.born t kin).gen = s.gen := by
  unfold State.born State.modInst
  split <;> rfl

/-- R357: a child without trace takes its slot, and nothing but the slot changes. -/
theorem seat_untraced {f : Flit} (hpos : (s.tile t).posOf f.th.kin = some q) (hback : f.back = none) (hkind : f.kind = 3)
    (hstop : f.stop = false) (hj : j < (s.tile t).slots.length) (htrace : f.th.trace = false) :
    s.seat t j f = s.modSlot t j (fun sl => sl.seated f q (s.fullBudget f.th.kin)) := by
  rw [seat_resident hpos hback]
  refine emit_untraced ?_ _ _
  rw [slot_modSlot_same _ _ _ _ hj, (seated_child _ hkind hstop q _).2, setBounce_trace, htrace]

end

/-- R132: the flit that a placement request stands for. -/
def State.placedFlit (s : State) (p : Packet) (th : Thread) : Flit :=
  { kind := 3, th := th, frm := s.name p.src, caller := some p.slot, onlyFree := true }

section
variable {s : State} {n j : Nat} {p : Packet} {th : Thread} {i : Inst}

/-- R132: a tile with an open slot places the child there and answers its number. -/
theorem placeReq_answered (h : s.Arrives n p) (hb : p.body = .placeReq th) (hi : s.insts.look th.kin = some i)
    (hl : i.killed = false) (hq : (s.tile p.dst).quiesced th.kin = false) (ho : s.openSlot p.dst = some j)
    (hlen : (s.tile p.dst).slots.length = 16) (hc : s.canSeat p.dst th.kin = true)
    (hteam : ((s.tile p.dst).posOf th.kin).isSome = true) (htrace : th.trace = false)
    (hlo : 16 ≤ (s.tile p.dst).nextSeq) (hhi : (s.tile p.dst).nextSeq ≤ 524287) :
    ∃ t, exec (.placementRequest n) s = .next t ∧
      s.Answered t n p (.admission (some (tidOf p.dst (s.tile p.dst).nextSeq))) ∧ (t.slot p.dst j).state = .ready ∧
      (t.slot p.dst j).th.tid = tidOf p.dst (s.tile p.dst).nextSeq ∧ (t.slot p.dst j).th.pc = th.pc ∧
      (t.slot p.dst j).th.regs = th.regs ∧ t.insts.look th.kin = some { i with live := i.live + 1 } := by
  obtain ⟨m, htake⟩ := arrives_effect h
  obtain ⟨q, hpos⟩ := Option.isSome_iff_exists.mp hteam
  let tid := tidOf p.dst (s.tile p.dst).nextSeq
  let u := (s.arrived n m).born p.dst th.kin
  let f : Flit := { (s.arrived n m).placedFlit p th with th := { th with tid := tid } }
  let sits (sl : Slot) : Slot := sl.seated f q (u.fullBudget th.kin)
  have hutile : u.tile p.dst = { s.tile p.dst with
      nextSeq := if (s.tile p.dst).nextSeq ≥ 524287 then 16 else (s.tile p.dst).nextSeq + 1 } := born_tile (s.arrived n m) p.dst th.kin
  have hj : j < (u.tile p.dst).slots.length := by
    rw [hutile]
    exact hlen.symm ▸ (openSlot_some ho).2.1
  have hseat : u.seat p.dst j f = u.modSlot p.dst j sits :=
    seat_untraced (s := u) (f := f) (by rw [hutile]; exact hpos) rfl rfl rfl hj htrace
  have harrive : (s.arrived n m).arrive p.dst ((s.arrived n m).placedFlit p th) = .took (u.modSlot p.dst j sits) := by
    rw [arrive_openSlot (s := s.arrived n m) (f := (s.arrived n m).placedFlit p th) hi hl hq ho hc, birth_child _ _ rfl, ← hseat]
    rfl
  have hlast : (u.modSlot p.dst j sits).lastTid p.dst = tid := by
    refine lastTid_eq _ _ hlo hhi ?_
    rw [State.modSlot, tile_modTile_same]
    show (u.tile p.dst).nextSeq = _
    rw [hutile]
  let w := (u.modSlot p.dst j sits).answer p.dst p.src p.slot (.admission (some tid))
  have hslot : w.slot p.dst j = sits (u.slot p.dst j) := by
    rw [State.slot, answer_tile]
    exact slot_modSlot_same u p.dst j sits hj
  obtain ⟨hstate, hth⟩ := seated_child (u.slot p.dst j) (f := f) rfl rfl q (u.fullBudget th.kin)
  have hslotTh : (w.slot p.dst j).th = ({ th with tid := tid } : Thread).setBounce 0 := (congrArg Slot.th hslot).trans hth
  refine ⟨w, (show execPlacementRequest n s = _ from htake _ _ ?_), answer_answered (u := u.modSlot p.dst j sits)
    (born_net th.kin) (born_gen th.kin) _, (congrArg Slot.state hslot).trans hstate, ?_, ?_, ?_, ?_⟩
  · simp only [hb]
    rw [← State.placedFlit, harrive]
    simp only [hlast, w]
  · rw [hslotTh]; rfl
  · rw [hslotTh]; rfl
  · rw [hslotTh]; rfl
  · have hinsts : w.insts = u.insts := by
      simp only [w]
      rw [answer_shape]
      rfl
    rw [hinsts]
    exact born_look (s.arrived n m) p.dst hi

end

/-- Settles O39: each request by the body that its packet carries. -/
theorem requestsAnswered : Obligations.RequestsAnswered := by
  intro s n p ctx kin i j op g a z o wide second b c ob key th h harr hsound u tag m mac
  refine ⟨fun hhome hb => ⟨fun hp => readReq_answered harr hsound hhome.resident hb hp,
      fun hp => readReq_refused harr hsound hhome.resident hb hp⟩,
    fun hhome hob _ hb hop hok hnone hp => atomicReq_answered harr hob hhome.resident hok hnone hp hsound hhome.aligned hb hop,
    fun hhome hob _ hb hok hnone hp => decrement_answered harr hob hhome.resident hok hnone hp hsound hb,
    fun _ hb hlive hstate hdue hp => peerLoad_answered harr hsound hb hlive hstate hdue hp,
    fun hb hc => trackQuery_answered harr hb hc, fun hb hc hi => trackRelease_frees harr hb hc hi,
    fun hb hi hl hq ho hlen hc hteam htrace hlo hhi => placeReq_answered harr hb hi hl hq ho hlen hc hteam htrace hlo hhi,
    fun hb => ?_, fun hb => dirInval_answered harr hb⟩
  obtain ⟨t, hexec, hans⟩ := dirReq_answered harr hb
  obtain ⟨hkey, hstamp⟩ := dirRecord_named s key
  obtain ⟨hnone, hhomes⟩ := dirRecord_says s key g
  exact ⟨t, _, hexec, hans, hkey, hstamp, hnone, hhomes⟩

end Sys2Proof.Machine
end

section
/-! SUPPORT. Writes and engine accesses at their homes, and their acknowledgements (R106, R107, R120, R122, R135, R181, R361). -/

namespace Sys2Proof.Machine

/-! ### Decided by the home (R105, R107) -/

section
variable {s : State} {t ctx n : Nat} {a : Word} {p : Packet}

theorem homeTask_take (k : Nat) : s.homeTask (k + 1) t (.take p) = s.takeBy (fun s w => s.homeTask k t w) t p := rfl

/-- R105, R107: a write of a resident granule that stands behind no other is performed. -/
theorem takeWrite_go (hplace : p.body.place = some (ctx, a)) (hheld : s.heldBefore t p = none) (hg : s.gate t ctx a = .go) :
    s.takeWrite t p = s.performPacket t p := by
  rw [State.takeWrite, show homeFuel = 199999 + 1 from rfl, homeTask_take]
  simp only [State.takeBy, hplace, hheld, hg]

/-- R106, R137: bytes written at a home where nobody waits for them. -/
theorem homeStore_written {mask : BitVec 8} (v : Word) (alloc uo : Bool) (hok : (s.tile t).LinesOk) (hc : Covers mask a n)
    (hn : a.toNat % 8 + n ≤ 8) (hnone : s.waitersAt t (objWordKey ctx a) = []) :
    s.CacheFrame (s.homeStore t ctx a mask v alloc uo) ∧
      bytesAt a n ((s.homeStore t ctx a mask v alloc uo).view t ctx a).data = bytesAt a n v := by
  obtain ⟨hstep, hbytes⟩ := homePut_bytes (ctx := ctx) v alloc uo hok hc hn
  have hquiet : s.homeStore t ctx a mask v alloc uo = s.homePut t ctx a mask v alloc uo := by
    simp only [State.homeStore, (waitersAt_keepsHome hstep.toKeepsHome _).trans hnone, List.isEmpty_nil, if_true]
  rw [hquiet]
  exact ⟨frame_homePut s t ctx a mask v alloc uo, hbytes⟩

theorem word_within (ha : a.toNat % 8 = 0) : a.toNat % 8 + 8 ≤ 8 := by omega

theorem bytesAt_word (ha : a.toNat % 8 = 0) (w : Word) : bytesAt a 8 w = w.toNat := by
  rw [bytesAt, ha, Nat.mul_zero, Nat.pow_zero, Nat.div_one, Nat.mod_eq_of_lt w.isLt]

theorem covers_all (a : Word) : Covers 0xFF#8 a (8 - a.toNat % 8) := by
  intro j _ hj
  have hall : ∀ j, j < 8 → (0xFF#8).getLsbD j = true := by decide
  exact hall j (by omega)

/-- R106: a whole word written. -/
theorem homeStore_word (v : Word) (alloc uo : Bool) (hok : (s.tile t).LinesOk) (ha : a.toNat % 8 = 0)
    (hnone : s.waitersAt t (objWordKey ctx a) = []) :
    s.CacheFrame (s.homeStore t ctx a 0xFF#8 v alloc uo) ∧ ((s.homeStore t ctx a 0xFF#8 v alloc uo).view t ctx a).data = v := by
  have hc := covers_all a
  rw [ha] at hc
  obtain ⟨hframe, hbytes⟩ := homeStore_written v alloc uo hok hc (word_within ha) hnone
  rw [bytesAt_word ha, bytesAt_word ha] at hbytes
  exact ⟨hframe, BitVec.eq_of_toNat_eq hbytes⟩

end

/-- R181: what a home sends to the engine that asked. -/
def State.engineReply (s : State) (p : Packet) (b : Body) : State :=
  s.send { vc := 4, src := p.dst, dst := p.src, gen := s.gen, slot := p.slot, body := b }

theorem engineReply_sent {s u : State} {n : Nat} {p : Packet} {m : Map (Nat × Nat)} (h : (s.arrived n m).CacheFrame u) (hs : s.Sound)
    (b : Body) : s.Sends (u.engineReply p b) n p 4 p.slot b :=
  send_sends (q := { vc := 4, src := p.dst, dst := p.src, gen := u.gen, slot := p.slot, body := b }) (h.calm hs.1).2 rfl rfl
    ((frame_gen (s := s.arrived n m) h).trans rfl)

theorem engineReply_view (u : State) (p : Packet) (b : Body) (t ctx : Nat) (a : Word) :
    (u.engineReply p b).view t ctx a = u.view t ctx a :=
  view_same (State.SameLines.send u _) ctx a

/-- R105, R107, R137: a write that its home performs at once. -/
structure State.WriteHere (s : State) (p : Packet) (ctx : Nat) (a : Word) (n : Nat) (ob : Object) : Prop where
  home : s.AtHome p.dst ctx a n ob
  object : s.object ctx (objOf a) = some ob
  lines : (s.tile p.dst).LinesOk
  alone : s.NoWaiter p.dst (objWordKey ctx a)
  first : s.heldBefore p.dst p = none

section
variable {s : State} {n k ctx : Nat} {a : Word} {p : Packet} {ob : Object} (h : s.Arrives n p) (hs : s.Sound)

section
variable {m : Map (Nat × Nat)} (hw : s.WriteHere p ctx a k ob)
include hw

theorem writeHere_taken (hplace : p.body.place = some (ctx, a)) :
    (s.arrived n m).takeWrite p.dst p = (s.arrived n m).performPacket p.dst p :=
  takeWrite_go hplace hw.first (arrived_gate hw.home.resident)

theorem writeHere_uo : (s.arrived n m).uoOf ctx a = ob.isUO := uoOf_object hw.object

end

include h hs

/-! ### Writes of threads (R106, R120, R122) -/

/-- R106: a store. -/
theorem store_acked {z : Size} {v : Word} {nt : Bool} {tr : Option Nat} (hw : s.WriteHere p ctx a (sizeBytes z) ob)
    (hb : p.body = .store ctx a z v nt tr) :
    ∃ t, exec (.storeWrite n) s = .next t ∧ s.Answered t n p (.writeAck tr none) ∧
      bytesAt a (sizeBytes z) (t.view p.dst ctx a).data = v.toNat % 2 ^ (8 * sizeBytes z) := by
  obtain ⟨m, htake⟩ := arrives_effect h
  have hwithin := aligned_within hw.home.aligned
  obtain ⟨hframe, hbytes⟩ := homeStore_written (s := s.arrived n m) (ctx := ctx) (placeBytes (offOf a) v) false ob.isUO hw.lines
    (byteMask_covers hwithin) hwithin (arrived_alone hw.alone)
  refine ⟨_, (show execStoreWrite n s = _ from htake _ (((s.arrived n m).homeStore p.dst ctx a (byteMask (offOf a) (sizeBytes z))
    (placeBytes (offOf a) v) false ob.isUO).answer p.dst p.src p.slot (.writeAck tr none)) ?_), frame_answered hframe hs _, ?_⟩
  · simp only [hb, writeHere_taken hw (congrArg Body.place hb), State.performPacket, writeHere_uo hw, State.ackWrite]
  · rw [answer_view, hbytes, placeBytes_bytesAt hwithin]

/-- R120: a word written and its tag filled. -/
theorem stf_acked {v : Word} {tr : Option Nat} (hw : s.WriteHere p ctx a 8 ob) (hb : p.body = .stf ctx a v tr) :
    ∃ t, exec (.stfWrite n) s = .next t ∧ s.Answered t n p (.writeAck tr none) ∧
      (t.tagView p.dst ctx a ob.isUO).data = v ∧ (t.tagView p.dst ctx a ob.isUO).empty = false := by
  obtain ⟨m, htake⟩ := arrives_effect h
  let f (w : LWord) : LWord := { w.write 0xFF#8 v with empty := false }
  have hview := tagView_mod (s := s.arrived n m) (t := p.dst) (ctx := ctx) (a := a) hw.lines f ob.isUO
  refine ⟨_, (show execStfWrite n s = _ from htake _ (((s.arrived n m).tagged p.dst ctx a ob.isUO f).answer p.dst p.src p.slot
    (.writeAck tr none)) ?_), frame_answered (frame_tagged ctx f) hs _, ?_⟩
  · simp only [hb, writeHere_taken hw (congrArg Body.place hb), State.performPacket, writeHere_uo hw, State.ackWrite,
      homeFill_quiet (s := s.arrived n m) (arrived_alone hw.alone), f]
  · rw [answer_tagView, State.tagged, hview]
    refine ⟨?_, meet_empty _⟩
    rw [meet_data]
    exact (write_data _ _ _).trans (mergeBytes_all v _)

/-- R122: an integer atomic that answers no value. -/
theorem nrAtomic_acked {op : AtomOp} {wide : Bool} {v : Word} {tr : Option Nat} (hw : s.WriteHere p ctx a (atomBytes wide) ob)
    (hb : p.body = .nrAtomic ctx a op wide v tr) (hop : op ∉ [.fadd, .fmax, .fmin])
    (hp : (s.tagView p.dst ctx a ob.isUO).poison = false) :
    ∃ t, exec (.nrAtomicWrite n) s = .next t ∧ s.Answered t n p (.writeAck tr none) ∧
      bytesAt a (atomBytes wide) (t.tagView p.dst ctx a ob.isUO).data =
        (atomInt op (BitVec.ofNat (8 * atomBytes wide) (bytesAt a (atomBytes wide) (s.tagView p.dst ctx a ob.isUO).data))
          (BitVec.ofNat (8 * atomBytes wide) v.toNat)).toNat := by
  obtain ⟨m, htake⟩ := arrives_effect h
  obtain ⟨r, hatom, hframe, -, hbytes⟩ := homeAtomic_done (s := s.arrived n m) (uo := ob.isUO) (some op) hw.lines hw.home.aligned
    (arrived_alone hw.alone) ((congrArg LWord.poison (arrived_tagView ctx a _)).trans hp) v 0#64
  rw [arrived_tagView] at hatom hbytes
  refine ⟨_, (show execNrAtomicWrite n s = _ from htake _ (r.answer p.dst p.src p.slot (.writeAck tr none)) ?_),
    frame_answered hframe hs _, ?_⟩
  · have hhere : ¬ p.dst ≥ 16384 := Nat.not_le.mpr h.tile
    simp only [hb, if_neg hhere, writeHere_taken hw (congrArg Body.place hb), State.performPacket, writeHere_uo hw, hatom,
      State.ackWrite, Bool.false_eq_true, if_false]
  · rw [answer_tagView]
    exact hbytes.trans (congrArg BitVec.toNat (atomNew_int hop _ _))

/-! ### Accesses of the copy engine and of the counter grid (R181, R361) -/

/-- R181: a word that a copy reads. -/
theorem copyReadReq_sent {pos i : Nat} (hw : s.WriteHere p ctx a 8 ob) (hb : p.body = .copyReadReq pos ctx a i) :
    ∃ t, exec (.copyReadRequest n) s = .next t ∧
      s.Sends t n p 4 p.slot (.copyData i (s.view p.dst ctx a).data (s.view p.dst ctx a).poison 0) := by
  obtain ⟨m, htake⟩ := arrives_effect h
  have hframe := frame_homeRead (s.arrived n m) p.dst ctx a
  have hview : ((s.arrived n m).homeRead p.dst ctx a).2 = s.view p.dst ctx a := arrived_view ctx a
  refine ⟨_, (show execCopyReadRequest n s = _ from htake _ (((s.arrived n m).homeRead p.dst ctx a).1.engineReply p
    (.copyData i (s.view p.dst ctx a).data (s.view p.dst ctx a).poison 0)) ?_), engineReply_sent hframe hs _⟩
  have hhere : ¬ p.dst ≥ 16384 := Nat.not_le.mpr h.tile
  simp only [hb, if_neg hhere, writeHere_taken hw (congrArg Body.place hb), State.performPacket, hview, State.engineReply]

/-- R181: a word that a copy writes. -/
theorem copyWrite_sent {pos : Nat} {v : Word} {bad : Bool} (hw : s.WriteHere p ctx a 8 ob)
    (hb : p.body = .copyWrite pos ctx a 0xFF#8 v bad) :
    ∃ t, exec (.copyWrite n) s = .next t ∧ s.Sends t n p 4 p.slot (.copyAck 0) ∧ (bad = false → (t.view p.dst ctx a).data = v) := by
  obtain ⟨m, htake⟩ := arrives_effect h
  obtain ⟨hframe, hdata⟩ := homeStore_word (s := s.arrived n m) (ctx := ctx) v false ob.isUO hw.lines hw.home.aligned
    (arrived_alone hw.alone)
  have hhere : ¬ p.dst ≥ 16384 := Nat.not_le.mpr h.tile
  cases bad with
  | false =>
    refine ⟨_, (show execCopyWrite n s = _ from htake _ (((s.arrived n m).homeStore p.dst ctx a 0xFF#8 v false ob.isUO).engineReply p
      (.copyAck 0)) ?_), engineReply_sent hframe hs _, fun _ => (congrArg LWord.data (engineReply_view ..)).trans hdata⟩
    simp only [hb, if_neg hhere, writeHere_taken hw (congrArg Body.place hb), State.performPacket, writeHere_uo hw, State.engineReply,
      Bool.false_eq_true, if_false]
  | true =>
    refine ⟨_, (show execCopyWrite n s = _ from htake _ ((((s.arrived n m).homeStore p.dst ctx a 0xFF#8 v false ob.isUO).homePoison
      p.dst ctx a).engineReply p (.copyAck 0)) ?_), engineReply_sent (hframe.trans (frame_homePoison _ _ _ _)) hs _, nofun⟩
    simp only [hb, if_neg hhere, writeHere_taken hw (congrArg Body.place hb), State.performPacket, writeHere_uo hw, State.engineReply,
      if_true]

/-- R361: a word of a counter record. -/
theorem gridStore_sent {ph : Nat} {v : Word} (hw : s.WriteHere p ctx a 8 ob) (hph : ph < 10) (hb : p.body = .gridStore ctx a [v] ph) :
    ∃ t, exec (.counterGridStore n) s = .next t ∧ s.Sends t n p 4 p.slot (.copyAck ph) ∧ (t.view p.dst ctx a).data = v := by
  obtain ⟨m, htake⟩ := arrives_effect h
  obtain ⟨hframe, hdata⟩ := homeStore_word (s := s.arrived n m) (ctx := ctx) v false ob.isUO hw.lines hw.home.aligned
    (arrived_alone hw.alone)
  refine ⟨_, (show execCounterGridStore n s = _ from htake _
    (((s.arrived n m).homeStore p.dst ctx a 0xFF#8 v false ob.isUO).engineReply p (.copyAck ph)) ?_),
    engineReply_sent hframe hs _, (congrArg LWord.data (engineReply_view ..)).trans hdata⟩
  simp only [hb, if_pos hph, writeHere_taken hw (congrArg Body.place hb), State.performPacket, State.putWords, writeHere_uo hw,
    State.engineReply, frame_gen hframe]

end

end Sys2Proof.Machine
end

section
/-! SUPPORT. Stores of partners, and what acknowledgements and read data leave (R107, R115, R181, R245), put together with the
writes at their homes. -/

namespace Sys2Proof.Machine

/-- R181: the command that runs takes the reply to its tag. -/
theorem modCopy_cpe {s : State} {t k : Nat} {r : Run} (hr : (s.tile t).cpe = some r) (hk : r.tag = k) (f : Run → Run) :
    ((s.modCopy t k f).tile t).cpe = some (f r) := by
  rw [State.modCopy, tile_modTile_same]
  simp [hr, hk]

theorem acked_sound {tr : Tracker} (h : tr.err = none) : tr.acked none = { tr with count := tr.count - 1 } := by
  simp only [Tracker.acked, h]

section
variable {s : State} {n : Nat} {p : Packet} (h : s.Arrives n p)
include h

/-! ### Partners (R115, R245) -/

/-- R115, R245: a partner's store to a scratchpad word. -/
theorem peerStore_acked {ctx kin : Nat} {a v : Word} {z : Size} (hwf : s.MemWf) (ha : a.toNat % sizeBytes z = 0)
    (hb : p.body = .peerStore ctx kin a z v) (hlive : (s.tile p.dst).peerMac kin ctx (macroOf a) = .live)
    (hstate : ((s.tile p.dst).mac (macroOf a)).state = .plain ∨ ((s.tile p.dst).mac (macroOf a)).state = .ready)
    (hdue : ((s.tile p.dst).mac (macroOf a)).due = false) (hnone : s.NoWaiter p.dst (spadWordKey a)) :
    ∃ t, exec (.peerWindowStore n) s = .next t ∧ s.Answered t n p (.writeAck none none) ∧
      s.SameBytesBut t (spadKey p.dst (macroOf a) (macroOff a)) (sizeBytes z) ∧
      bytesAt a (sizeBytes z) (t.mem.word (spadKey p.dst (macroOf a) (macroOff a))) = v.toNat % 2 ^ (8 * sizeBytes z) := by
  obtain ⟨m, htake⟩ := arrives_effect h
  have hwithin := aligned_within ha
  let key := spadKey p.dst (macroOf a) (macroOff a)
  let mask := byteMask (offOf a) (sizeBytes z)
  let u := (s.arrived n m).modMem (fun m => m.write key mask (placeBytes (offOf a) v))
  let t := u.answer p.dst p.src p.slot (.writeAck none none)
  have hpt : (s.arrived n m).peerTake p.dst kin ctx (macroOf a) true = .live := by
    have htile : (s.arrived n m).tile p.dst = s.tile p.dst := rfl
    rcases hstate with hst | hst <;> simp [State.peerTake, htile, hlive, hst, hdue]
  have hmem : t.mem = s.mem.write key mask (placeBytes (offOf a) v) := send_mem u _
  refine ⟨t, (show execPeerWindowStore n s = _ from htake _ _ ?_), answer_answered (u := u) rfl rfl _, fun b hout => ?_, ?_⟩
  · simp only [hb, State.takePeerStore, hpt, spadStore_quiet (s := s.arrived n m) (arrived_alone hnone)]
    rfl
  · rw [hmem, byte_write_outside hwf (spadKey_mod _ a) hout]
  · rw [hmem, word_write hwf, bytesAt_merge (byteMask_covers hwithin) hwithin, placeBytes_bytesAt hwithin]

/-! ### The copy that waits (R181) -/

theorem copyAck_counts {r : Run} (hr : (s.tile p.dst).cpe = some r) (hk : r.tag = p.slot) (h17 : p.slot ≠ 17) (h18 : p.slot ≠ 18)
    (hb : p.body = .copyAck 0) :
    ∃ t r', exec (.copyWriteAcknowledgement n) s = .next t ∧ s.Taken_ t n ∧ (t.tile p.dst).cpe = some r' ∧ r'.left = r.left - 1 ∧
      r'.err = r.err ∧ (r.left = 1 → r.wait = .remote → r'.wait = .run) := by
  obtain ⟨m, htake⟩ := arrives_effect h
  let f (r : Run) : Run :=
    let r := { r.homeErr 0 with left := r.left - 1 }
    { r with wait := if r.left = 0 ∧ r.wait = .remote then .run else r.wait }
  have hsound : r.homeErr 0 = r := if_pos (.inl rfl)
  refine ⟨(s.arrived n m).modCopy p.dst p.slot f, f r, (show execCopyWriteAcknowledgement n s = _ from htake _ _ ?_), rfl,
    modCopy_cpe (s := s.arrived n m) hr hk f, rfl, ?_, fun hleft hwait => ?_⟩
  · simp only [hb, if_neg h17, if_neg h18]
    rfl
  · simp only [f, hsound]
  · simp only [f, hsound, hleft, hwait]
    rfl

theorem copyData_joins {r : Run} (hr : (s.tile p.dst).cpe = some r) (hk : r.tag = p.slot) {i : Nat} {w : Word} {bad : Bool}
    (hb : p.body = .copyData i w bad 0) (hi : i ∈ r.asked) :
    ∃ t r', exec (.copyReadData n) s = .next t ∧ s.Taken_ t n ∧ (t.tile p.dst).cpe = some r' ∧ r'.got.look i = some (w, bad) ∧
      r'.err = r.err := by
  obtain ⟨m, htake⟩ := arrives_effect h
  let f (r : Run) : Run :=
    if !r.asked.contains i then r
    else
      let r := { r.homeErr 0 with got := r.got.put i (w, bad || 0 != 0) }
      { r with wait := if r.wait = .remote ∧ r.asked.all (fun k => (r.got.look k).isSome) then .run else r.wait }
  have hsound : r.homeErr 0 = r := if_pos (.inl rfl)
  have hrun : f r = { r with
      got := r.got.put i (w, bad)
      wait := (f r).wait } := by
    simp [f, hi, hsound]
  refine ⟨(s.arrived n m).modCopy p.dst p.slot f, f r, (show execCopyReadData n s = _ from htake _ _ ?_), rfl,
    modCopy_cpe (s := s.arrived n m) hr hk f, ?_, ?_⟩
  · simp only [hb]
    rfl
  · rw [hrun]
    exact look_put_same _ _ _
  · rw [hrun]

/-! ### Trackers and slots (R106, R107) -/

theorem writeAck_lowers {i : Nat} (hb : p.body = .writeAck (some i) none) (hi : i < (s.tile p.dst).trackers.length)
    (herr : ((s.tile p.dst).tracker i).err = none) :
    ∃ t, exec (.writeAcknowledgement n) s = .next t ∧ s.Taken_ t n ∧
      (t.tile p.dst).tracker i = { (s.tile p.dst).tracker i with count := ((s.tile p.dst).tracker i).count - 1 } := by
  obtain ⟨m, htake⟩ := arrives_effect h
  refine ⟨(s.arrived n m).modTile p.dst (fun x => x.modTracker i (fun tr => tr.acked none)),
    (show execWriteAcknowledgement n s = _ from htake _ _ ?_), rfl, ?_⟩
  · simp only [hb]
  · rw [tile_modTile_same]
    show (modifyAt (s.tile p.dst).trackers i (fun tr => tr.acked none)).getD i {} = _
    rw [modifyAt_getD_same _ _ _ _ hi]
    exact acked_sound herr

/-- R104, R106: the acknowledgement that a store waits for. -/
theorem writeAck_ends {base : Option (Ptr × Word)} (hb : p.body = .writeAck none none) (hw : s.Awaiting p.dst p.slot (.store base))
    (hs : (s.slot p.dst p.slot).state = .wait .reply) :
    ∃ t, exec (.writeAcknowledgement n) s = .next t ∧ (t.slot p.dst p.slot).state = .ready ∧
      (t.slot p.dst p.slot).th = { (s.slot p.dst p.slot).th.setBase base with pc := (s.slot p.dst p.slot).ipc + 4#64 } := by
  obtain ⟨hk, hlen, -, hpend⟩ := hw
  obtain ⟨m, htake⟩ := arrives_effect h
  have hpend' : ((s.arrived n m).slot p.dst p.slot).pend = .store base := hpend
  have hs' : ((s.arrived n m).slot p.dst p.slot).state = .wait .reply := hs
  refine ⟨(s.arrived n m).modSlot p.dst p.slot (fun sl => sl.stored base),
    (show execWriteAcknowledgement n s = _ from htake _ _ ?_), ?_⟩
  · rw [hb]
    refine (toSlot_wanted (s := s.arrived n m) hk ?_ _).trans ?_
    · rw [hpend', hs']
      rfl
    · rw [State.ackSlot, hpend']
  · rw [slot_modSlot_same (s.arrived n m) _ _ _ hlen]
    exact ⟨rfl, rfl⟩

end

/-- Settles O40: each write and each acknowledgement by the body that its packet carries. -/
theorem writesPerformed : Obligations.WritesPerformed := by
  intro s n p ctx kin i pos ph a v w z o wide nt bad tr ob r base harr hwf hsound u k tag m mac key ready
  have here {c : Nat} (hready : ready c) : s.WriteHere p ctx a c ob := by
    obtain ⟨hhome, hob, -, -, hok, hnone, hfirst⟩ := hready
    exact ⟨hhome, hob, hok, hnone, hfirst⟩
  exact ⟨fun hr hb => store_acked harr hsound (here hr) hb, fun hr hb => stf_acked harr hsound (here hr) hb,
    fun hr hb hop hp => nrAtomic_acked harr hsound (wide := wide) (here hr) hb hop hp,
    fun ha hb hlive hstate hdue hnone => peerStore_acked harr hwf ha hb hlive hstate hdue hnone,
    fun hr hb => copyReadReq_sent harr hsound (here hr) hb, fun hr hb => copyWrite_sent harr hsound (here hr) hb,
    fun hr hph hb => gridStore_sent harr hsound (here hr) hph hb,
    fun hr htag h17 h18 => ⟨fun hb => copyAck_counts harr hr htag h17 h18 hb, fun hb hi => copyData_joins harr hr htag hb hi⟩,
    fun hb hi herr => writeAck_lowers harr hb hi herr, fun hb hw hs => writeAck_ends harr hb hw hs⟩

end Sys2Proof.Machine
end
section
/-! SUPPORT. What ends of threads and their trace records leave alone: all but a tile's slots and trace, and what leaves the module
(R134, R142, R354, R357). -/

namespace Sys2Proof.Machine

/-! ### Frames beside a tile's slots and trace -/

/-- A tile but for its slots and its buffered trace. -/
def Tile.rest (x : Tile) : Tile := { x with slots := [], trace := [], traceLost := [] }

/-- Only slots and trace of tile `t`, the fabric and the messages to the host change. -/
structure State.SlotsFrame (t : Nat) (s u : State) : Prop where
  shape : u = { s with tiles := u.tiles, net := u.net, hostOut := u.hostOut }
  tile : (u.tile t).rest = (s.tile t).rest
  tiles : ∀ v, v ≠ t → u.tile v = s.tile v
  others : u.tiles.filter (fun e => e.1 != t) = s.tiles.filter (fun e => e.1 != t)

namespace State.SlotsFrame
variable {s u v : State} {t : Nat}

theorem refl (s : State) : s.SlotsFrame t s := ⟨rfl, rfl, fun _ _ => rfl, rfl⟩

theorem trans (h : s.SlotsFrame t u) (h' : u.SlotsFrame t v) : s.SlotsFrame t v := by
  refine ⟨?_, h'.tile.trans h.tile, fun x hx => (h'.tiles x hx).trans (h.tiles x hx), h'.others.trans h.others⟩
  rw [h'.shape, h.shape]

theorem setTile {x : Tile} (h : x.rest = (s.tile t).rest) : s.SlotsFrame t (s.setTile t x) :=
  ⟨rfl, by rw [tile_setTile_same, h], fun _ hv => tile_setTile_other s t x hv, filter_put _ _ _⟩

theorem modTile {f : Tile → Tile} (h : ∀ x, (f x).rest = x.rest) : s.SlotsFrame t (s.modTile t f) := setTile (h _)

theorem modSlot (k : Nat) (f : Slot → Slot) : s.SlotsFrame t (s.modSlot t k f) := modTile fun _ => rfl

end State.SlotsFrame

section
variable (s : State) (t k : Nat)

/-- R357: a record joins the buffer of the tile. -/
theorem slotsFrame_pushTrace (ctx : Nat) (ws : List Word) : s.SlotsFrame t (s.pushTrace t ctx ws) := by
  have hset (x : Tile) (hx : x.rest = (s.tile t).rest) : s.SlotsFrame t (s.setTile t x) := .setTile hx
  unfold State.pushTrace
  dsimp only
  split
  · exact hset _ rfl
  · split
    · obtain ⟨-, htile, htiles, hothers⟩ := hset { s.tile t with trace := (s.tile t).trace ++ [(ctx, ws)] } rfl
      have hsend := traceSend_shape (s.setTile t { s.tile t with trace := (s.tile t).trace ++ [(ctx, ws)] }) t 10
      rw [traceSend_tiles] at hsend
      rw [hsend]
      exact ⟨rfl, htile, htiles, hothers⟩
    · exact hset _ rfl

theorem slotsFrame_emit (kind : Nat) (x : Word) : s.SlotsFrame t (s.emit t k kind x) := by
  unfold State.emit
  dsimp only
  split
  · exact .refl s
  · split
    · exact slotsFrame_pushTrace s t _ _
    · exact .refl s

theorem slotsFrame_stepLeft : s.SlotsFrame t (s.stepLeft t k) := by
  unfold State.stepLeft
  split
  · exact .refl s
  · obtain ⟨-, htile, htiles, hothers⟩ := State.SlotsFrame.modSlot (s := s) (t := t) k
      (fun sl => { sl with stepReq := none, stopReq := true })
    exact ⟨rfl, htile, htiles, hothers⟩

theorem modSlots_rest (b : Nat → Bool) (f : Slot → Slot) (ks : List Nat) (x : Tile) : (x.modSlots b f ks).rest = x.rest := by
  induction ks generalizing x with
  | nil => rfl
  | cons k ks ih =>
    rw [modSlots_cons, ih]
    split <;> rfl

theorem slotsFrame_barrier (p : Nat) : s.SlotsFrame t (s.barrier t p) := by
  rw [barrier_eq]
  split
  · exact .modTile fun x => modSlots_rest _ _ _ x
  · exact .refl s

theorem slotsFrame_vacate : s.SlotsFrame t (s.vacate t k) :=
  ((slotsFrame_stepLeft s t k).trans (.modSlot k _)).trans (slotsFrame_barrier _ t _)

end

/-! ### What such a frame keeps -/

section
variable {s u : State} {t : Nat} (h : s.SlotsFrame t u)
include h

/-- What a tile shows beside its slots and trace. -/
theorem slotsFrame_field {α : Type} (f : Tile → α) (hf : ∀ x, f x.rest = f x) : f (u.tile t) = f (s.tile t) := by
  rw [← hf, h.tile, hf]

theorem slotsFrame_mem : u.mem = s.mem := (congrArg State.mem h.shape).trans rfl
theorem slotsFrame_falls : u.falls = s.falls := (congrArg State.falls h.shape).trans rfl
theorem slotsFrame_insts : u.insts = s.insts := (congrArg State.insts h.shape).trans rfl
theorem slotsFrame_fields : u.fields = s.fields := (congrArg State.fields h.shape).trans rfl

theorem slotsFrame_object (c o : Nat) : u.object c o = s.object c o := by
  rw [State.object, h.shape]
  rfl

theorem slotsFrame_atService (v k : Nat) : u.atService v k = s.atService v k := by
  simp only [State.atService, State.isService, slotsFrame_fields h]

theorem slotsFrame_sameLines : s.SameLines t u :=
  ⟨slotsFrame_field h _ fun _ => rfl, slotsFrame_field h _ fun _ => rfl, slotsFrame_field h _ fun _ => rfl,
    slotsFrame_field h _ fun _ => rfl, slotsFrame_mem h, (congrArg State.objects h.shape).trans rfl⟩

theorem slotsFrame_waitersAt (key : Nat) : u.waitersAt t key = s.waitersAt t key := by
  simp only [State.waitersAt, slotsFrame_field h (·.waitersAt key) fun _ => rfl, h.others]

/-- R202, R292: the home of an address and its residency are as before. -/
theorem slotsFrame_atHome {ctx n : Nat} {a : Word} {o : Object} (hhome : s.AtHome t ctx a n o) : u.AtHome t ctx a n o := by
  have htrue : u.trueHome ctx a t = s.trueHome ctx a t := by
    unfold State.trueHome
    rw [slotsFrame_object h, (congrArg State.homeMap h.shape).trans rfl]
  have hof : u.homeOf t ctx a = s.homeOf t ctx a := by
    simp only [State.homeOf, slotsFrame_object h, slotsFrame_field h (·.odcFind ⟨ctx, objOf a, .desc⟩) fun _ => rfl,
      slotsFrame_field h (·.odcFind ⟨ctx, objOf a, .home (granOf a / 16)⟩) fun _ => rfl,
      slotsFrame_field h (fun x => x.maskMiss ctx (objOf a)) fun _ => rfl]
  have hresid : u.resid t ctx a = s.resid t ctx a := by
    simp only [State.resid, slotsFrame_object h, htrue, slotsFrame_field h (·.extent ctx (objOf a) (granOf a)) fun _ => rfl,
      slotsFrame_field h Tile.lossy fun _ => rfl, slotsFrame_field h Tile.remapped fun _ => rfl]
  have hgate : u.gate t ctx a = s.gate t ctx a := by
    simp only [State.gate, hresid, slotsFrame_field h (·.holds ctx a false) fun _ => rfl,
      slotsFrame_field h (·.pendingOf ctx a) fun _ => rfl, slotsFrame_field h Tile.pendings fun _ => rfl]
  exact ⟨hhome.aligned, by rw [hof]; exact hhome.named, hhome.inside, hgate.trans hhome.resident⟩

end

/-! ### Threads of user contexts (R26) -/

theorem notService_user {s : State} {t k : Nat} (h : s.atService t k = false) (i : Instr) (go : State → State) :
    s.notService t k i go = go s := by
  simp [State.notService, h]

end Sys2Proof.Machine
end

section
/-! SUPPORT. Ends of threads: the last one of a slot, an inline child, and the decrement of a join word (R133-R135). -/

namespace Sys2Proof.Machine

/-! ### The record of an end (R357) -/

/-- R357: an `exit` that issues for the first time leaves a trace record. -/
def State.ending (s : State) (t k : Nat) (x : Word) : State := if (s.slot t k).retry then s else s.emit t k 5 x

section
variable (s : State) (t k : Nat) (x : Word)

theorem slotsFrame_ending : s.SlotsFrame t (s.ending t k x) := by
  unfold State.ending
  split
  · exact .refl s
  · exact slotsFrame_emit s t k 5 x

theorem ending_slots (u : Nat) : ((s.ending t k x).tile u).slots = (s.tile u).slots := by
  unfold State.ending
  split
  · rfl
  · exact emit_slots s t k 5 x u

theorem ending_slot (u j : Nat) : (s.ending t k x).slot u j = s.slot u j := by
  simp only [State.slot, Tile.slot, ending_slots]

end

/-! ### A thread's end (R133, R134) -/

section
variable {s : State} {t k : Nat}

theorem releaseHandles_none {th : Thread} (h : th.NoHandles) (kin : Nat) : s.releaseHandles t th kin = s := by
  obtain ⟨hA, hB⟩ := h
  simp [State.releaseHandles, State.releaseHandle, hA, hB]

/-- R134: the thread of a slot that no caller awaits. -/
theorem endThread_last (h : (s.slot t k).th.NoHandles) (hi : (s.slot t k).th.inline = 0) :
    s.endThread t k = (s.fall (s.slot t k).th.kin).vacate t k := by
  simp only [State.endThread, hi, if_true, releaseHandles_none h]

/-- R133: an inline child whose caller's frame is on its tile. -/
theorem endThread_inline {f : Frame} (h : (s.slot t k).th.NoHandles) (hi : (s.slot t k).th.inline ≠ 0)
    (hb : birthTile (s.slot t k).th.tid = t)
    (hf : (s.tile t).frames.find? (fun g => g.child == (s.slot t k).th.tid) = some f) (hs : f.th.foul = false) :
    s.endThread t k = s.reload t k f := by
  simp only [State.endThread, hi, if_false, hb, if_true, releaseHandles_none h, hf, hs, Bool.false_eq_true]

theorem reload_slot (f : Frame) (hk : k < (s.tile t).slots.length) : ((s.reload t k f).slot t k).state = .ready ∧
    ((s.reload t k f).slot t k).th = f.th ∧ ((s.reload t k f).slot t k).ipc = f.th.pc := by
  rw [State.slot, State.reload, tile_modTile_same, modSlot_slot_same _ _ _ (by simpa using hk)]
  exact ⟨rfl, rfl, rfl⟩

theorem reload_falls (f : Frame) : (s.reload t k f).falls = s.falls :=
  (show _ = (s.stepLeft t k).falls from rfl).trans (slotsFrame_falls (slotsFrame_stepLeft s t k))

/-- R133: the caller's return changes the slot and the frames of its tile. -/
theorem reload_aside (f : Frame) : s.AsideSame (s.reload t k f) t k := by
  refine State.AsideSame.trans (.stepLeft s t k) ⟨rfl, fun _ hv => tile_modTile_other _ t _ hv, fun j hj => ?_⟩
  rw [State.slot, State.reload, tile_modTile_same, modSlot_slot_other _ _ _ hj]
  rfl

theorem reload_frames {f g : Frame} (hg : g ∈ ((s.reload t k f).tile t).frames) : g.child ≠ f.child := by
  rw [State.reload, tile_modTile_same] at hg
  have hkept := (List.mem_filter.mp (show g ∈ List.filter _ _ from hg)).2
  simpa using hkept

/-- R134, R312: the slot that a thread's end leaves, and the fall that its kernel counts. -/
theorem lastEnd (h : (s.slot t k).th.NoHandles) (hi : (s.slot t k).th.inline = 0) (hk : k < (s.tile t).slots.length) :
    ((s.endThread t k).slot t k).state = .free ∧ (s.endThread t k).falls = s.falls ++ [(s.slot t k).th.kin] ∧
    (s.endThread t k).mem = s.mem ∧ s.SameLines t (s.endThread t k) := by
  have hframe := slotsFrame_vacate (s.fall (s.slot t k).th.kin) t k
  rw [endThread_last h hi]
  exact ⟨(vacate_slot (s := s.fall (s.slot t k).th.kin) hk).1, slotsFrame_falls hframe, (slotsFrame_mem hframe).trans rfl,
    State.SameLines.trans (u := s.fall (s.slot t k).th.kin) ⟨rfl, rfl, rfl, rfl, rfl, rfl⟩ (slotsFrame_sameLines hframe)⟩

end

/-! ### The decrement (R135) -/

section
variable {s : State} {t ctx : Nat} {a : Word} {uo : Bool}

/-- R125: what is written into a word leaves its tag. -/
theorem wordWrite_empty (w : LWord) (mask : BitVec 8) (v : Word) : (w.write mask v).empty = w.empty := by
  unfold LWord.write
  dsimp only
  split <;> rfl

/-- R135: the decrement of a word at which nobody waits leaves its tag. -/
theorem decrement_tag (hok : (s.tile t).LinesOk) (hnone : s.waitersAt t (objWordKey ctx a) = [])
    (hp : (s.tagView t ctx a uo).poison = false) {r : State} (hr : s.decrement t ctx a uo = some r) :
    (r.tagView t ctx a uo).empty = (s.tagView t ctx a uo).empty := by
  let f (w : LWord) : LWord := w.write 0xFF#8 (w.data - 1#64)
  have hwake (x : Word) : (s.tagged t ctx a uo f).wake t (objWordKey ctx a) x = s.tagged t ctx a uo f := by
    simp only [State.wake, (waitersAt_keepsHome (tagged_keepsHome ctx f) _).trans hnone, List.filter_nil, List.foldl_nil]
  have hdone : s.decrement t ctx a uo = some (s.tagged t ctx a uo f) := by
    rw [State.tagView] at hp
    simp only [State.decrement, hp, Bool.false_eq_true, if_false]
    exact congrArg some (hwake _)
  obtain rfl : s.tagged t ctx a uo f = r := Option.some.inj (hdone.symm.trans hr)
  rw [State.tagged, tagView_mod hok, meet_empty]
  exact wordWrite_empty _ _ _

end

/-! ### The forms -/

section
variable {s : State} (hs : s.userIssues) (hrel : s.curSlot.released = false) (hh : s.curSlot.th.NoHandles)
include hs hrel hh

theorem exec_exit : exec .exit s = .next ((s.ending s.cur.1 s.cur.2 0#64).endThread s.cur.1 s.cur.2) := by
  obtain ⟨hissue, huser⟩ := hs
  have hdrain := drain_noHandles (s := s.ending s.cur.1 s.cur.2 0#64) (t := s.cur.1) (k := s.cur.2) (by rw [ending_slot]; exact hh)
  change execExit s = _
  rw [execExit, onIssue_next s _ hissue, notService_user huser]
  dsimp only
  rw [hrel, if_neg Bool.false_ne_true]
  exact congrArg _ (hdrain _)

/-- R135: the join word is on the thread's own tile. -/
theorem exec_exitJ (a : Ptr) {ob : Object} {r : State} (hhome : s.AtHome s.cur.1 s.curSlot.th.ctx (s.curSlot.th.regs.get a) 8 ob)
    (hcode : ob.isCode = false) (hwr : ob.writable = true)
    (hr : ((s.ending s.cur.1 s.cur.2 (s.curSlot.th.regs.get a)).odcUse s.cur.1 s.curSlot.th.ctx (s.curSlot.th.regs.get a)).decrement
      s.cur.1 s.curSlot.th.ctx (s.curSlot.th.regs.get a) ob.isUO = some r) :
    exec (.exitJ a) s = .next (r.endThread s.cur.1 s.cur.2) := by
  obtain ⟨hissue, huser⟩ := hs
  let y := s.ending s.cur.1 s.cur.2 (s.curSlot.th.regs.get a)
  have hframe : s.SlotsFrame s.cur.1 y := slotsFrame_ending s _ _ _
  have hyslot : y.slot s.cur.1 s.cur.2 = s.curSlot := ending_slot s _ _ _ _ _
  have hctx : y.memCtx s.cur.1 s.cur.2 = s.curSlot.th.ctx := by
    rw [memCtx_user ((slotsFrame_atService hframe _ _).trans huser), hyslot]
  have hyhome := slotsFrame_atHome hframe hhome
  have hgate := (gate_keepsHome (odcUse_keepsHome y _ s.curSlot.th.ctx (s.curSlot.th.regs.get a)) _ _ false).trans hyhome.resident
  have hdrain := drain_noHandles (s := y.odcUse s.cur.1 s.curSlot.th.ctx (s.curSlot.th.regs.get a)) (t := s.cur.1) (k := s.cur.2)
    (by rw [odcUse_slot, hyslot]; exact hh)
  have haccess := access_own (s := y) (t := s.cur.1) (k := s.cur.2) (by rw [hctx]; exact hyhome) (write := true)
    (fun _ => ⟨hcode, hwr⟩) false
  rw [hctx] at haccess
  change execExitJ a s = _
  rw [execExitJ, onIssue_next s _ hissue, notService_user huser]
  dsimp only
  rw [hrel, if_neg Bool.false_ne_true]
  refine congrArg _ ((haccess _ _ _).trans ?_)
  rw [hdrain, atHome_go hgate, hr]

end

/-- Settles O23: a thread that no caller awaits falls and vacates its slot, an inline child reloads its caller's frame, and `exit.j`
does so after the decrement at the home. -/
theorem threadEnds : Obligations.ThreadEnds := by
  intro s a ob f hs u k th w hh hrel
  have hk : k < (s.tile u).slots.length := (issuing_slot hs.1).2.2
  have hend (x : Word) : s.SlotsFrame u (s.ending u k x) := slotsFrame_ending s u k x
  have hslot (x : Word) : (s.ending u k x).slot u k = s.curSlot := ending_slot s u k x u k
  have hlen (x : Word) : k < ((s.ending u k x).tile u).slots.length := by rw [ending_slots]; exact hk
  refine ⟨fun hi => ?_, fun hi hb hf hsound => ?_, fun hi hhome hcode hwr hok hnone hp => ?_⟩
  · obtain ⟨hfree, hfalls, hmem, -⟩ := lastEnd (s := s.ending u k 0#64) (t := u) (k := k) (by rw [hslot]; exact hh)
      (by rw [hslot]; exact hi) (hlen _)
    refine ⟨_, exec_exit hs hrel hh, hfree, ?_, fun b => ?_⟩
    · rw [hfalls, slotsFrame_falls (hend _), hslot]
    · rw [hmem, slotsFrame_mem (hend _)]
      exact ⟨rfl, rfl, rfl⟩
  · have hreload : (s.ending u k 0#64).endThread u k = (s.ending u k 0#64).reload u k f := by
      refine endThread_inline (by rw [hslot]; exact hh) (by rw [hslot]; exact hi) (by rw [hslot]; exact hb) ?_ hsound
      rw [hslot, slotsFrame_field (hend _) Tile.frames fun _ => rfl]
      exact hf
    have hexec := exec_exit hs hrel hh
    rw [hreload] at hexec
    obtain ⟨hstate, hth, hipc⟩ := reload_slot f (hlen 0#64)
    have haside : s.AsideSame (s.ending u k 0#64) u k :=
      ⟨slotsFrame_mem (hend _), (hend _).tiles, fun j _ => ending_slot s u k _ u j⟩
    exact ⟨_, hexec, hstate, hth, hipc, (reload_falls f).trans (slotsFrame_falls (hend _)), haside.trans (reload_aside f),
      fun _ => reload_frames⟩
  · let y := (s.ending u k w).odcUse u th.ctx w
    have hlines : s.SameLines u y := (slotsFrame_sameLines (hend w)).trans (odcUse_sameLines _ u th.ctx w)
    have hyok : (y.tile u).LinesOk := by
      unfold Tile.LinesOk
      rw [hlines.l1, hlines.slices]
      exact hok
    have hynone : y.waitersAt u (objWordKey th.ctx w) = [] :=
      ((waitersAt_keepsHome (odcUse_keepsHome _ u th.ctx w) _).trans (slotsFrame_waitersAt (hend w) _)).trans hnone
    have hview : y.tagView u th.ctx w ob.isUO = s.tagView u th.ctx w ob.isUO := tagView_same hlines _ _ _
    have hyp : (y.tagView u th.ctx w ob.isUO).poison = false := by rw [hview]; exact hp
    obtain ⟨r, hr, hframe, hdata⟩ := decrement_done hyok hynone hyp
    have hrslot : r.slot u k = s.curSlot := ((frame_slot hframe u k).trans (odcUse_slot _ u _ _ k)).trans (hslot w)
    obtain ⟨hfree, hfalls, -, hsame⟩ := lastEnd (s := r) (t := u) (k := k) (by rw [hrslot]; exact hh) (by rw [hrslot]; exact hi)
      (by rw [hframe.slots, odcUse_slots]; exact hlen w)
    refine ⟨_, exec_exitJ hs hrel hh a hhome hcode hwr hr, hfree, ?_, ?_, ?_⟩
    · have hy : y.falls = s.falls := (show _ = (s.ending u k w).falls from rfl).trans (slotsFrame_falls (hend w))
      rw [hfalls, hrslot, (congrArg State.falls hframe.shape).trans hy]
    · rw [tagView_same hsame, hdata, hview, sub_ofInt]
      rfl
    · rw [tagView_same hsame, decrement_tag hyok hynone hyp hr, hview]

end Sys2Proof.Machine
end

section
/-! SUPPORT. Fields of `st` replaced, and the forms that set the pinning state and the heartbeat budget (R22, R139, R141). -/

namespace Sys2Proof.Machine

/-! ### Fields of a word (R22) -/

section
variable (x : Word) {hi lo : Nat} (v : Nat)

theorem fieldMask_bit (h : hi < 64) {i : Nat} :
    (BitVec.ofNat 64 ((2 ^ (hi + 1 - lo) - 1) <<< lo)).getLsbD i = decide (lo ≤ i ∧ i ≤ hi) := by
  rw [BitVec.getLsbD_ofNat, Nat.testBit_shiftLeft, Nat.testBit_two_pow_sub_one, ← Bool.decide_and, ← Bool.decide_and]
  exact decide_eq_decide.mpr (by omega)

/-- A field replaced: its bits are the new number's, the others are as before. -/
theorem setBits_bit (h : hi < 64) (i : Nat) :
    (setBits x hi lo v).getLsbD i = if lo ≤ i ∧ i ≤ hi then v.testBit (i - lo) else x.getLsbD i := by
  simp only [setBits, BitVec.getLsbD_or, BitVec.getLsbD_and, BitVec.getLsbD_not, fieldMask_bit h, BitVec.getLsbD_ofNat,
    Nat.testBit_shiftLeft]
  by_cases hin : lo ≤ i ∧ i ≤ hi
  · have : i < 64 := by omega
    simp [hin, this]
  · by_cases h64 : i < 64
    · simp [hin, h64]
    · rw [BitVec.getLsbD_of_ge x i (by omega)]
      simp [hin, h64]

theorem bits_bit (hi lo i : Nat) : (bits x hi lo).testBit i = (decide (i < hi + 1 - lo) && x.getLsbD (lo + i)) := by
  rw [bits, Nat.testBit_mod_two_pow, Nat.testBit_shiftRight]
  rfl

theorem bits_setBits_same (h : hi < 64) : bits (setBits x hi lo v) hi lo = v % 2 ^ (hi + 1 - lo) := by
  refine Nat.eq_of_testBit_eq fun i => ?_
  rw [bits_bit, setBits_bit x v h, Nat.testBit_mod_two_pow]
  by_cases hin : i < hi + 1 - lo
  · rw [if_pos (by omega), Nat.add_sub_cancel_left]
  · simp [hin]

theorem bits_setBits_apart {hi' lo' : Nat} (h : hi < 64) (hd : hi' < lo ∨ hi < lo') :
    bits (setBits x hi lo v) hi' lo' = bits x hi' lo' := by
  refine Nat.eq_of_testBit_eq fun i => ?_
  rw [bits_bit, bits_bit, setBits_bit x v h]
  by_cases hin : i < hi' + 1 - lo'
  · rw [if_neg (by omega)]
  · simp [hin]

end

/-! ### `pinned`, `pinloads` and `bounce` (R22, R139) -/

section
variable (th : Thread)

theorem pinned_fields : (th.setPinned true 64).pinned = true ∧ (th.setPinned true 64).pinloads = 64 := by
  simp only [Thread.pinned, Thread.pinloads, Thread.setPinned, Thread.setSt]
  constructor
  · rw [setBits_bit _ _ (by decide), if_neg (by decide), setBits_bit _ _ (by decide)]
    rfl
  · exact bits_setBits_same _ _ (by decide)

/-- R139: `pin` changes bits 23:16 of `st` alone. -/
theorem setPinned_bit (p : Bool) (n : Nat) {i : Nat} (hi : i < 16 ∨ 24 ≤ i) :
    (th.setPinned p n).st.getLsbD i = th.st.getLsbD i := by
  simp only [Thread.setPinned, Thread.setSt]
  rw [setBits_bit _ _ (by decide), if_neg (by omega), setBits_bit _ _ (by decide), if_neg (by omega)]

theorem unpinned_fields : let th' := (th.setPinned false 0).setBounce 0
    th'.pinned = false ∧ th'.pinloads = 0 ∧ th'.bounce = 0 := by
  simp only [Thread.pinned, Thread.pinloads, Thread.bounce, Thread.setBounce, Thread.setPinned, Thread.setSt]
  refine ⟨?_, ?_, bits_setBits_same _ _ (by decide)⟩
  · rw [setBits_bit _ _ (by decide), if_neg (by decide), setBits_bit _ _ (by decide), if_neg (by decide),
      setBits_bit _ _ (by decide)]
    rfl
  · rw [bits_setBits_apart _ _ (by decide) (by decide)]
    exact bits_setBits_same _ _ (by decide)

end

/-! ### The occupancy of an issue (R18) -/

section
variable {s : State} {t k : Nat}

theorem lineFetched_slots (ctx : Nat) (a : Word) : ((s.lineFetched t ctx a).tile t).slots = (s.tile t).slots := by
  unfold State.lineFetched
  dsimp only
  split
  · rfl
  · rw [tile_modTile_same]

/-- R18: an instruction that issues for the first time occupies its slot. -/
theorem charge_eligAt (hk : k < (s.tile t).slots.length) (hr : (s.slot t k).retry = false) (i : Instr) :
    ((s.charge t k i).slot t k).eligAt = s.now + occupancy i := by
  unfold State.charge
  rw [hr, if_neg Bool.false_ne_true, State.slot, tile_modTile_same]
  refine (congrArg Slot.eligAt (modSlot_slot_same _ k _ ?_)).trans rfl
  rw [lineFetched_slots]
  exact hk

end

/-! ### The forms -/

section
variable {s : State} (hs : s.userIssues)
include hs

theorem exec_pin : exec .pin s = .next (s.modSlot s.cur.1 s.cur.2 (fun sl => { sl with th := sl.th.setPinned true 64 }.finish)) := by
  change execPin s = _
  rw [execPin, onIssue_next s _ hs.1, notService_user hs.2]

theorem exec_unpin : exec .unpin s = .next (s.modSlot s.cur.1 s.cur.2
    (fun sl => { sl with th := (sl.th.setPinned false 0).setBounce 0, window := 0 }.finish)) := by
  change execUnpin s = _
  rw [execUnpin, onIssue_next s _ hs.1, notService_user hs.2]

theorem exec_hbeat : exec .hbeat s = .next (s.modSlot s.cur.1 s.cur.2
    (fun sl => { sl with budget := s.fullBudget s.curSlot.th.kin }.finish)) := by
  change execHbeat s = _
  rw [execHbeat, onIssue_next s _ hs.1, hs.2]
  rfl

end

/-- Settles O24: each form changes its own slot alone, and of the thread the named fields of `st`. -/
theorem pinAndHeartbeat : Obligations.PinAndHeartbeat := by
  intro s i hs hi u k th same
  obtain ⟨-, hready, hk⟩ := issuing_slot hs.1
  have hslot (f : Slot → Slot) : (s.modSlot u k f).slot u k = f s.curSlot := slot_modSlot_same s u k f hk
  have hsame {f : Slot → Slot} (hstate : (f s.curSlot).state = s.curSlot.state)
      (hth : { (f s.curSlot).th with pc := th.pc, st := th.st } = th) (hpc : (f s.curSlot).th.pc = s.following) :
      same (s.modSlot u k f) := by
    refine ⟨modSlot_onlySlot f, ?_, ?_, ?_⟩
    · rw [hslot, hstate, hready]
    · rw [State.then_, hslot, hth]
    · rw [State.then_, hslot, hpc]
  refine ⟨⟨_, exec_pin hs, hsame rfl rfl rfl, ?_⟩, ⟨_, exec_unpin hs, hsame rfl rfl rfl, ?_⟩,
    ⟨_, exec_hbeat hs, hsame rfl rfl rfl, ?_⟩, fun j hj hr => ?_⟩
  · rw [State.then_, hslot]
    exact ⟨(pinned_fields th).1, (pinned_fields th).2, fun n hn => setPinned_bit th true 64 hn⟩
  · rw [State.then_, hslot]
    obtain ⟨hpinned, hloads, hbounce⟩ := unpinned_fields th
    refine ⟨hpinned, hloads, hbounce, fun n hn => ?_⟩
    exact (setBounce_bit _ 0 (by omega)).trans (setPinned_bit th false 0 (by omega))
  · rw [State.then_, hslot]
    refine ⟨rfl, ?_⟩
    show s.fullBudget th.kin = _
    rw [State.fullBudget, hi]
  · have hocc : occupancy j = 8 := by
      simp only [List.mem_cons, List.not_mem_nil, or_false] at hj
      rcases hj with rfl | rfl | rfl <;> rfl
    rw [charge_eligAt hk hr, hocc]

end Sys2Proof.Machine
end

section
/-! SUPPORT. A thread that hops, and one that yields its slot to the head of its context's queue (R138, R140, R142, R204, R210). -/

namespace Sys2Proof.Machine

/-! ### A slot and the barrier (R142) -/

section
variable {s : State} {t p : Nat}

/-- R142: a barrier completes the wait of members that are at `bar`, and leaves every other slot. -/
theorem barrier_slot_cases (j : Nat) : (s.barrier t p).slot t j = s.slot t j ∨
    ((s.slot t j).state = .wait .barrier ∧ (s.slot t j).team = p ∧ (s.barrier t p).slot t j = (s.slot t j).finishReady) := by
  by_cases hall : s.allAtBar t p = true
  · by_cases hj : j < 16 ∧ s.member t p j = true
    · obtain ⟨hj, hm⟩ := hj
      refine .inr ⟨?_, ?_, barrier_slot_member hall hj hm⟩
      · simpa [hm] using List.all_eq_true.mp hall j (List.mem_range.mpr hj)
      · simp only [State.member, Bool.and_eq_true, beq_iff_eq] at hm
        exact hm.2
    · left
      rw [barrier_eq, if_pos hall, State.slot, tile_modTile_same]
      exact modSlots_slot_other (fun hmem => by simpa using not_and.mp hj (List.mem_range.mp hmem)) _
  · rw [barrier_eq, if_neg hall]
    exact .inl rfl

end

/-! ### `hop` (R138, R204) -/

section
variable {s : State} (hs : s.userIssues)
include hs

theorem exec_hop (a : Reg) : exec (.hop a) s =
    .next (if nameGen ((s.rd a).extractLsb' 0 24) = 0xFF || !s.nameOk ((s.rd a).extractLsb' 0 24)
      then s.raise s.cur.1 s.cur.2 FaultCode.bounds (s.rd a) 0#64
      else if nameTile ((s.rd a).extractLsb' 0 24) = s.cur.1 then s.finishSlot s.cur.1 s.cur.2
      else s.drain s.cur.1 s.cur.2 (fun v => v.depart s.cur.1 s.cur.2 1 (nameTile ((s.rd a).extractLsb' 0 24))
        (if s.curSlot.resent then v.gen else nameGen ((s.rd a).extractLsb' 0 24)))) := by
  change execHop a s = _
  rw [execHop, onIssue_next s _ hs.1, notService_user hs.2]
  rfl

end

theorem depart_slot {s : State} {t k : Nat} (hk : k < (s.tile t).slots.length) (kind dst gen : Nat) :
    (s.depart t k kind dst gen).slot t k = { s.slot t k with
      th := (s.slot t k).th.drainedBoth
      state := .wait (.departure (max s.now ((s.slot t k).eligAt - 2)) kind dst gen)
      retry := true } :=
  slot_modSlot_same s t k _ hk

/-! ### `yield` (R140, R210) -/

/-- R140: the thread of slot `k` at the end of its context's queue, whose head takes the slot. -/
def State.yieldTo (s : State) (t k : Nat) (q : AQueue) (f : Flit) (rest : List Flit) : State :=
  (((((s.modTile t (fun x => { x with
      queues := x.queues.put (s.slot t k).th.ctx { q with q := rest ++ [(s.slot t k).yielded] } })).stepLeft t k).modSlot t k
    Slot.vacant).seat t k f).barrier t (s.slot t k).team)

section
variable {s : State} {t k p : Nat} {q : AQueue} {f : Flit} {rest : List Flit}

theorem slotsFrame_seat (hp : (s.tile t).posOf f.th.kin = some p) (hb : f.back = none) : s.SlotsFrame t (s.seat t k f) := by
  rw [seat_resident hp hb]
  exact (State.SlotsFrame.modSlot k _).trans (slotsFrame_emit _ t k 2 _)

/-- R140: what the head finds in the slot, what the queue holds, and what the other slots and tiles show. -/
theorem yieldTo_leaves (hk : k < (s.tile t).slots.length) (hp : (s.tile t).posOf f.th.kin = some p) (hb : f.back = none)
    (hkind : f.kind = 0) (hstop : f.stop = false) :
    let u := s.yieldTo t k q f rest
    ((u.slot t k).state = .ready ∧ (u.slot t k).th = f.th ∧ (u.slot t k).team = p) ∧
    (u.tile t).queues.look (s.slot t k).th.ctx = some { q with q := rest ++ [(s.slot t k).yielded] } ∧
    u.mem = s.mem ∧ (∀ v, v ≠ t → u.tile v = s.tile v) ∧
    ∀ j, j ≠ k → u.slot t j = s.slot t j ∨ ((s.slot t j).state = .wait .barrier ∧ (s.slot t j).team = (s.slot t k).team ∧
      u.slot t j = (s.slot t j).finishReady) := by
  let g (x : Tile) : Tile := { x with
    queues := x.queues.put (s.slot t k).th.ctx { q with q := rest ++ [(s.slot t k).yielded] } }
  let y := s.modTile t g
  let z := (y.stepLeft t k).modSlot t k Slot.vacant
  have hytile : y.tile t = g (s.tile t) := tile_modTile_same s t g
  have hz : y.SlotsFrame t z := (slotsFrame_stepLeft y t k).trans (.modSlot k _)
  have hzp : (z.tile t).posOf f.th.kin = some p := by
    rw [slotsFrame_field hz (·.posOf f.th.kin) fun _ => rfl, hytile]
    exact hp
  have hframe : y.SlotsFrame t (s.yieldTo t k q f rest) :=
    (hz.trans (slotsFrame_seat hzp hb)).trans (slotsFrame_barrier _ t _)
  have hzk : k < (z.tile t).slots.length := by
    have hlen : (z.tile t).slots.length = ((y.stepLeft t k).tile t).slots.length :=
      (congrArg (·.slots.length) (tile_modTile_same _ t _)).trans (modifyAt_length _ _ _)
    rw [hlen, stepLeft_slots_length, hytile]
    exact hk
  have hseat := seat_slot_same (t := t) (k := k) hzp hb hzk
  have hother {j : Nat} (hj : j ≠ k) : (z.seat t k f).slot t j = s.slot t j := by
    rw [seat_slot_other hzp hb hj, slot_modSlot_slot _ t k _ hj, (State.AsideSame.stepLeft y t k).2.2 j hj, State.slot, hytile]
    rfl
  refine ⟨?_, ?_, (slotsFrame_mem hframe).trans rfl, fun v hv => (hframe.tiles v hv).trans (tile_modTile_other s t g hv), fun j hj => ?_⟩
  · have hready : ((z.seat t k f).slot t k).state = .ready := by rw [hseat]; simp [Slot.seated, Slot.pinState, hkind, hstop]
    rcases barrier_slot_cases (s := z.seat t k f) (t := t) (p := (s.slot t k).team) k with hsame | ⟨hwait, -⟩
    · rw [State.yieldTo, hsame, hseat]
      simp [Slot.seated, Slot.pinState, hkind, hstop]
    · rw [hready] at hwait
      cases hwait
  · rw [slotsFrame_field hframe Tile.queues fun _ => rfl, hytile]
    exact look_put_same _ _ _
  · rw [← hother hj]
    exact barrier_slot_cases j

end

section
variable {s : State} (hs : s.userIssues)
include hs

theorem exec_yield_none (hq : (s.tile s.cur.1).queues.look s.curSlot.th.ctx = none) :
    exec .yield s = .next (s.finishSlot s.cur.1 s.cur.2) := by
  change execYield s = _
  rw [execYield, onIssue_next s _ hs.1]
  simp only [hs.2, hq, Bool.false_eq_true, if_false]

theorem exec_yield_stays {q : AQueue} (hq : (s.tile s.cur.1).queues.look s.curSlot.th.ctx = some q)
    (h : q.q = [] ∨ s.queueTakes s.cur.1 s.curSlot.th.ctx = false) : exec .yield s = .next (s.finishSlot s.cur.1 s.cur.2) := by
  change execYield s = _
  rw [execYield, onIssue_next s _ hs.1]
  simp only [hs.2, hq, Bool.false_eq_true, if_false]
  cases hlist : q.q with
  | nil => rfl
  | cons f rest =>
    have htakes : s.queueTakes s.cur.1 s.curSlot.th.ctx = false := h.resolve_left (by simp [hlist])
    simp only [htakes, Bool.false_and, Bool.false_eq_true, if_false]

theorem exec_yield_takes {q : AQueue} {f : Flit} {rest : List Flit}
    (hq : (s.tile s.cur.1).queues.look s.curSlot.th.ctx = some q) (hlist : q.q = f :: rest) (hroom : q.q.length < q.depth)
    (htakes : s.queueTakes s.cur.1 s.curSlot.th.ctx = true) :
    exec .yield s = .next (s.yieldTo s.cur.1 s.cur.2 q f rest) := by
  have hfull : ¬ q.depth ≤ (f :: rest).length := by rw [← hlist]; exact Nat.not_le.mpr hroom
  change execYield s = _
  rw [execYield, onIssue_next s _ hs.1]
  simp only [hs.2, hq, hlist, htakes, hfull, decide_false, Bool.false_and, Bool.not_false, Bool.and_true, Bool.false_eq_true,
    if_false, if_true]
  rfl

end

/-- Settles O25: the checks of `hop` by the name in its register, `yield` by the queue of its context. -/
theorem hopAndYield : Obligations.HopAndYield := by
  intro s a q f rest p hs u k th n
  obtain ⟨-, hready, hk⟩ := issuing_slot hs.1
  have hhop := exec_hop hs a
  refine ⟨fun hok hgen htile => ?_, fun hok hgen htile hh hresent => ?_, fun hbad => ?_, fun hq => ?_, fun hq h => ?_,
    fun hq hlist hroom htakes hp hkind hb hstop => ?_⟩
  · have hname : (nameGen n = 0xFF || !s.nameOk n) = false := by simp [hok, hgen]
    rw [hhop, ← finishSlot_ended s]
    rw [hname, if_neg Bool.false_ne_true, if_pos htile]
  · have hname : (nameGen n = 0xFF || !s.nameOk n) = false := by simp [hok, hgen]
    have hslot := depart_slot (s := s) hk 1 (nameTile n) (nameGen n)
    refine ⟨s.depart u k 1 (nameTile n) (nameGen n), ?_, congrArg Slot.state hslot, congrArg (·.th.pc) hslot,
      congrArg (·.th.regs) hslot, congrArg (·.th.acc) hslot, .modSlot s u k _⟩
    rw [hhop, hname, if_neg Bool.false_ne_true, if_neg htile, drain_noHandles hh, hresent]
    rfl
  · have hname : (nameGen n = 0xFF || !s.nameOk n) = true := by
      rcases hbad with hok | hgen
      · simp [hok]
      · simp [hgen]
    rw [hhop, hname, if_pos rfl]
    rfl
  · rw [exec_yield_none hs hq, finishSlot_ended]
  · rw [exec_yield_stays hs hq h, finishSlot_ended]
  · obtain ⟨⟨hstate, hth, hteam⟩, hqueue, hmem, htiles, hslots⟩ := yieldTo_leaves (q := q) (rest := rest) hk hp hb hkind hstop
    exact ⟨_, _, exec_yield_takes hs hq hlist hroom htakes, hstate, hth, hteam, hqueue, rfl, rfl, hmem, htiles, hslots⟩

end Sys2Proof.Machine
end

section
/-! SUPPORT. Waits at a word of the own tile, and a thread alone or first at the barrier of its team (R136, R137, R142, R215). -/

namespace Sys2Proof.Machine

/-! ### The entry of a waiter (R136, R215) -/

section
variable {s : State} {t k : Nat} {a : Word}

/-- R136: a waiter's entry keeps what its word is compared with. -/
theorem park_compares {key ctx : Nat} {form : WForm} {b : Word} (hroom : (s.tile t).waiters.length < 256)
    (hspill : (s.tile t).spilled = []) :
    ∃ e, ((s.park t k key ctx a form b).tile t).waiters = (s.tile t).waiters ++ [e] ∧ e.b = b := by
  have hunspill := unspill_nil hspill
  have hcan : (s.tile t).canPark = true := by simp [Tile.canPark, hunspill, hroom]
  simp only [State.park, hcan, if_true]
  rw [slotsFrame_field (slotsFrame_emit _ t k 7 a) Tile.waiters fun _ => rfl, stepLeft_waiters, State.modSlot, tile_modTile_same,
    tile_setTile_same]
  simp only [Tile.modSlot, Tile.install, hunspill, hroom, if_true]
  exact ⟨_, rfl, rfl⟩

end

/-! ### The wait at the home (R136) -/

section
variable {s : State} {t k : Nat} {a : Word} {o : Object} {form : WForm} {b : Word}
  (hg : s.gate t (s.memCtx t k) a = .go) (hp : (s.tagView t (s.memCtx t k) a o.isUO).poison = false)
include hg hp

theorem waitWord_eq : s.waitWord t k o a b form =
    if form.holds (s.tagView t (s.memCtx t k) a o.isUO).data b then
      (s.slicePrep t (s.memCtx t k) a o.isUO).modSlot t k Slot.finishReady
    else (s.slicePrep t (s.memCtx t k) a o.isUO).park t k (objWordKey (s.memCtx t k) a) (s.memCtx t k) a form b := by
  rw [State.tagView] at hp
  simp only [State.waitWord, atHome_go hg, hp, Bool.false_eq_true, if_false]
  rfl

/-- R136: the thread goes on where the word meets the condition. -/
theorem waitWord_on (hk : k < (s.tile t).slots.length) (hholds : form.holds (s.tagView t (s.memCtx t k) a o.isUO).data b = true) :
    (s.waitWord t k o a b form).slot t k = (s.slot t k).finishReady := by
  have hframe := frame_slicePrep s t (s.memCtx t k) a o.isUO
  rw [waitWord_eq hg hp, if_pos hholds, slot_modSlot_same _ t k _ (by rw [hframe.slots]; exact hk), frame_slot hframe]

/-- R136, R215: it parks where the word does not. -/
theorem waitWord_parks (hk : k < (s.tile t).slots.length)
    (hholds : form.holds (s.tagView t (s.memCtx t k) a o.isUO).data b = false)
    (hroom : (s.tile t).waiters.length < 256) (hspill : (s.tile t).spilled = []) :
    let v := s.waitWord t k o a b form
    (v.slot t k).state = .parked ∧ (v.slot t k).th = (s.slot t k).th ∧
    ∃ e, (v.tile t).waiters = (s.tile t).waiters ++ [e] ∧ e.key = objWordKey (s.memCtx t k) a ∧ e.form = form ∧ e.b = b ∧
      e.slot = some k ∧ e.next = (s.slot t k).ipc + 4#64 := by
  have hframe := frame_slicePrep s t (s.memCtx t k) a o.isUO
  obtain ⟨hwaiters, hspilled⟩ := waiters_keepsHome (slicePrep_keepsHome (s := s) (t := t) (ctx := s.memCtx t k) (a := a) o.isUO)
  have hroom' : ((s.slicePrep t (s.memCtx t k) a o.isUO).tile t).waiters.length < 256 := by rw [hwaiters]; exact hroom
  have hspill' : ((s.slicePrep t (s.memCtx t k) a o.isUO).tile t).spilled = [] := hspilled.trans hspill
  obtain ⟨hstate, hth, e, he, hkey, hslot, hform, hnext⟩ := park_parked (t := t) (k := k) (a := a)
    (key := objWordKey (s.memCtx t k) a) (ctx := s.memCtx t k) (form := form) (b := b) (by rw [hframe.slots]; exact hk) hroom' hspill'
  obtain ⟨e', he', hb⟩ := park_compares (k := k) (a := a) (key := objWordKey (s.memCtx t k) a) (ctx := s.memCtx t k) (form := form)
    (b := b) hroom' hspill'
  obtain rfl : e = e' := by simpa using he.symm.trans he'
  rw [frame_slot hframe] at hth hnext
  rw [hwaiters] at he
  intro v
  rw [show v = _ from waitWord_eq hg hp, hholds, if_neg Bool.false_ne_true]
  exact ⟨hstate, hth, e, he, hkey, hform, hb, hslot, hnext⟩

end

/-! ### The forms (R136) -/

/-- R136, R137: a wait at a word whose home is the thread's own tile. -/
theorem waitAt_own {s : State} (hs : s.userIssues) (i : Instr) (a : Ptr) (b : Reg) (form : WForm) {ob : Object}
    (hhome : s.AtHome s.cur.1 s.curSlot.th.ctx (s.curSlot.th.regs.get a) 8 ob) :
    waitAt s i a b form = .next ((s.odcUse s.cur.1 s.curSlot.th.ctx (s.curSlot.th.regs.get a)).waitWord s.cur.1 s.cur.2 ob
      (s.curSlot.th.regs.get a) (s.rd b) form) := by
  have hctx : s.memCtx s.cur.1 s.cur.2 = s.curSlot.th.ctx := memCtx_user hs.2
  have haccess := access_own (s := s) (t := s.cur.1) (k := s.cur.2) (by rw [hctx]; exact hhome) (write := false) nofun false
  rw [hctx] at haccess
  rw [waitAt, onIssue_next s _ hs.1, notService_user hs.2]
  exact congrArg _ (haccess _ _ _)

section
variable {s : State} (hs : s.userIssues) (i : Instr) (a : Ptr) (b : Reg) (form : WForm) {ob : Object}
  (hhome : s.AtHome s.cur.1 s.curSlot.th.ctx (s.curSlot.th.regs.get a) 8 ob)
  (hp : (s.tagView s.cur.1 s.curSlot.th.ctx (s.curSlot.th.regs.get a) ob.isUO).poison = false)
include hs hhome hp

/-- R136: the wait of the issuing thread is over at once. -/
theorem waitAt_on
    (h : form.holds (s.tagView s.cur.1 s.curSlot.th.ctx (s.curSlot.th.regs.get a) ob.isUO).data (s.rd b) = true) :
    ∃ t, waitAt s i a b form = .next t ∧ (t.slot s.cur.1 s.cur.2).state = .ready ∧
      s.then_ t = { s.curSlot.th with pc := s.following } := by
  let w := s.curSlot.th.regs.get a
  let v := s.odcUse s.cur.1 s.curSlot.th.ctx w
  have hvslot : v.slot s.cur.1 s.cur.2 = s.curSlot := odcUse_slot s _ _ w _
  have hvctx : v.memCtx s.cur.1 s.cur.2 = s.curSlot.th.ctx := (odcUse_memCtx s _ _ w _).trans (memCtx_user hs.2)
  have hview := tagView_same (odcUse_sameLines s s.cur.1 s.curSlot.th.ctx w) s.curSlot.th.ctx w ob.isUO
  have hgate := (gate_keepsHome (odcUse_keepsHome s s.cur.1 s.curSlot.th.ctx w) s.curSlot.th.ctx w false).trans hhome.resident
  have hslot : (v.waitWord s.cur.1 s.cur.2 ob w (s.rd b) form).slot s.cur.1 s.cur.2 = s.curSlot.finishReady := by
    rw [waitWord_on (by rw [hvctx]; exact hgate) (by rw [hvctx, hview]; exact hp)
      (by rw [odcUse_slots]; exact (issuing_slot hs.1).2.2) (by rw [hvctx, hview]; exact h), hvslot]
  exact ⟨_, waitAt_own hs i a b form hhome, congrArg Slot.state hslot, congrArg Slot.th hslot⟩

/-- R136, R215: the issuing thread parks at the word. -/
theorem waitAt_parks
    (h : form.holds (s.tagView s.cur.1 s.curSlot.th.ctx (s.curSlot.th.regs.get a) ob.isUO).data (s.rd b) = false)
    (hroom : (s.tile s.cur.1).waiters.length < 256) (hspill : (s.tile s.cur.1).spilled = []) :
    ∃ t e, waitAt s i a b form = .next t ∧ (t.slot s.cur.1 s.cur.2).state = .parked ∧ s.then_ t = s.curSlot.th ∧
      (t.tile s.cur.1).waiters = (s.tile s.cur.1).waiters ++ [e] ∧
      e.key = objWordKey s.curSlot.th.ctx (s.curSlot.th.regs.get a) ∧ e.form = form ∧ e.b = s.rd b ∧ e.slot = some s.cur.2 ∧
      e.next = s.following := by
  let w := s.curSlot.th.regs.get a
  let v := s.odcUse s.cur.1 s.curSlot.th.ctx w
  have hvslot : v.slot s.cur.1 s.cur.2 = s.curSlot := odcUse_slot s _ _ w _
  have hvctx : v.memCtx s.cur.1 s.cur.2 = s.curSlot.th.ctx := (odcUse_memCtx s _ _ w _).trans (memCtx_user hs.2)
  have hview := tagView_same (odcUse_sameLines s s.cur.1 s.curSlot.th.ctx w) s.curSlot.th.ctx w ob.isUO
  have hgate := (gate_keepsHome (odcUse_keepsHome s s.cur.1 s.curSlot.th.ctx w) s.curSlot.th.ctx w false).trans hhome.resident
  obtain ⟨hwaiters, hspilled⟩ := waiters_keepsHome (odcUse_keepsHome s s.cur.1 s.curSlot.th.ctx w)
  have hpark := waitWord_parks (s := v) (t := s.cur.1) (k := s.cur.2) (a := w) (o := ob) (form := form) (b := s.rd b)
    (by rw [hvctx]; exact hgate) (by rw [hvctx, hview]; exact hp) (by rw [odcUse_slots]; exact (issuing_slot hs.1).2.2)
    (by rw [hvctx, hview]; exact h) (by rw [hwaiters]; exact hroom) (hspilled.trans hspill)
  rw [hvslot, hwaiters, hvctx] at hpark
  obtain ⟨hstate, hth, e, he⟩ := hpark
  exact ⟨_, e, waitAt_own hs i a b form hhome, hstate, hth, he⟩

end

/-! ### What the forms compare (R136) -/

section
variable (x y : Word)

theorem holds_join : WForm.join.holds x y = decide (x.toInt ≤ y.toInt) := rfl

theorem holds_waitGe : WForm.waitGe.holds x y = decide (y.toInt ≤ x.toInt) := rfl

theorem holds_waitEq : WForm.waitEq.holds x y = decide (x.toNat = y.toNat) :=
  (show _ = decide (x = y) from rfl).trans (decide_eq_decide.mpr BitVec.toNat_eq)

theorem holds_waitNe : WForm.waitNe.holds x y = decide (x.toNat ≠ y.toNat) := by
  rw [decide_not, ← holds_waitEq]
  rfl

end

theorem waitsAtWords : Claim.waitsAtWords := by
  intro s a b ob hs u k th w x y on parks hhome hp hroom hspill
  have goesOn (i : Instr) (g : WForm) (hi : exec i s = waitAt s i a b g) (hholds : g.holds x y = true) : on i := by
    show ∃ t, exec i s = .next t ∧ _
    rw [hi]
    exact waitAt_on hs i a b g hhome hp hholds
  have waits (i : Instr) (g : WForm) (hi : exec i s = waitAt s i a b g) (hholds : g.holds x y = false) : parks i g := by
    show ∃ t e, exec i s = .next t ∧ _
    rw [hi]
    exact waitAt_parks hs i a b g hhome hp hholds hroom hspill
  refine ⟨fun h => goesOn _ .join rfl ?_, fun h => waits _ _ rfl ?_,
    fun h => ⟨goesOn _ .waitEq rfl ?_, waits _ _ rfl ?_⟩, fun h => ⟨goesOn _ .waitNe rfl ?_, waits _ _ rfl ?_⟩,
    fun h => goesOn _ .waitGe rfl ?_, fun h => waits _ _ rfl ?_⟩
  · rw [holds_join, decide_eq_true h]
  · rw [holds_join, decide_eq_false (not_le.mpr h)]
  · rw [holds_waitEq, decide_eq_true h]
  · rw [holds_waitNe, decide_eq_false (not_not.mpr h)]
  · rw [holds_waitNe, decide_eq_true h]
  · rw [holds_waitEq, decide_eq_false h]
  · rw [holds_waitGe, decide_eq_true h]
  · rw [holds_waitGe, decide_eq_false (not_le.mpr h)]

/-! ### `bar` (R142) -/

theorem State.OnlySlot.trans {s t v : State} {u k : Nat} (h : s.OnlySlot t u k) (h' : t.OnlySlot v u k) : s.OnlySlot v u k := by
  obtain ⟨hshape, htiles, htile, hslots⟩ := h
  obtain ⟨hshape', htiles', htile', hslots'⟩ := h'
  refine ⟨?_, fun x hx => (htiles' x hx).trans (htiles x hx), ?_, fun j hj => (hslots' j hj).trans (hslots j hj)⟩
  · rw [hshape', hshape]
  · exact (congrArg (fun x : Tile => { x with slots := (s.tile u).slots }) htile').trans htile

/-- A change of the picked slots of a list is one of the single slot that is picked. -/
theorem modSlots_single {b : Nat → Bool} {f : Slot → Slot} {ks : List Nat} {k : Nat} (hnd : ks.Nodup) (hk : k ∈ ks)
    (hb : ∀ j ∈ ks, b j = (j == k)) (x : Tile) : x.modSlots b f ks = x.modSlot k f := by
  have none {ks : List Nat} (hks : ∀ j ∈ ks, b j = false) (x : Tile) : x.modSlots b f ks = x := by
    induction ks with
    | nil => rfl
    | cons j ks ih =>
      rw [modSlots_cons, hks j List.mem_cons_self, if_neg Bool.false_ne_true, ih fun j hj => hks j (List.mem_cons_of_mem _ hj)]
  induction ks with
  | nil => cases hk
  | cons i ks ih =>
    obtain ⟨hi, hnd⟩ := List.nodup_cons.mp hnd
    rw [modSlots_cons, hb i List.mem_cons_self]
    rcases List.mem_cons.mp hk with rfl | hk
    · rw [beq_self_eq_true, if_pos rfl]
      exact none (fun j hj => (hb j (List.mem_cons_of_mem _ hj)).trans (beq_eq_false_iff_ne.mpr (ne_of_mem_of_not_mem hj hi))) _
    · rw [beq_eq_false_iff_ne.mpr (ne_of_mem_of_not_mem hk hi).symm, if_neg Bool.false_ne_true]
      exact ih hnd hk fun j hj => hb j (List.mem_cons_of_mem _ hj)

section
variable {s : State} {t k p : Nat}

/-- Whether a slot holds a member of a team does not depend on what another slot holds. -/
theorem member_modSlot_other (f : Slot → Slot) {j : Nat} (hj : j ≠ k) : (s.modSlot t k f).member t p j = s.member t p j := by
  simp only [State.member, slot_modSlot_slot s t k f hj]
  rfl

/-- R142: the only member of a team goes on from its barrier. -/
theorem barrier_lone (hk : k < 16) (hbar : (s.slot t k).state = .wait .barrier) (hm : s.member t p k = true)
    (hlone : ∀ j, j < 16 → j ≠ k → s.member t p j = false) : s.barrier t p = s.modSlot t k Slot.finishReady := by
  have hpick (j : Nat) (hj : j < 16) : s.member t p j = (j == k) := by
    by_cases hjk : j = k
    · rw [hjk, hm, beq_self_eq_true]
    · rw [hlone j hj hjk, beq_eq_false_iff_ne.mpr hjk]
  have hall : s.allAtBar t p = true := allAtBar_of_members fun j hj hmem => by
    obtain rfl : j = k := by simpa [hpick j hj] using hmem
    exact hbar
  rw [barrier_eq, if_pos hall, State.modSlot]
  exact congrArg (s.setTile t) (modSlots_single List.nodup_range (List.mem_range.mpr hk)
    (fun j hj => hpick j (List.mem_range.mp hj)) _)

theorem barrier_unmet {j : Nat} (hj : j < 16) (hm : s.member t p j = true) (hstate : (s.slot t j).state ≠ .wait .barrier) :
    s.barrier t p = s := by
  rw [barrier_eq, if_neg]
  intro hall
  have := List.all_eq_true.mp hall j (List.mem_range.mpr hj)
  exact hstate (by simpa [hm] using this)

end

theorem exec_bar {s : State} (hs : s.userIssues) : exec .bar s =
    .next ((s.modSlot s.cur.1 s.cur.2 (·.waitFor .barrier)).barrier s.cur.1 s.curSlot.team) := by
  change execBar s = _
  rw [execBar, onIssue_next s _ hs.1, notService_user hs.2]

theorem teamBarrier : Claim.teamBarrier := by
  intro s j hs u k p
  obtain ⟨hk16, hready, hk⟩ := issuing_slot hs.1
  let y := s.modSlot u k (·.waitFor .barrier)
  have hyslot : y.slot u k = s.curSlot.waitFor .barrier := slot_modSlot_same s u k _ hk
  have hyk : k < (y.tile u).slots.length := slot_lt_of_wait (by rw [hyslot]; rfl)
  refine ⟨fun hlone => ?_, fun hj hjk hm hstate => ?_⟩
  · have hmember : y.member u p k = true := by
      have huser : y.atService u k = false := hs.2
      simp [State.member, huser, hyslot, Slot.waitFor, p]
    have hbar := barrier_lone hk16 (by rw [hyslot]; rfl) hmember
      fun i hi hik => (member_modSlot_other _ hik).trans (hlone i hi hik)
    have hslot : (y.modSlot u k Slot.finishReady).slot u k = (s.curSlot.waitFor .barrier).finishReady := by
      rw [slot_modSlot_same y u k _ hyk, hyslot]
    exact ⟨_, (exec_bar hs).trans (congrArg _ hbar), (modSlot_onlySlot _).trans (modSlot_onlySlot _), congrArg Slot.state hslot,
      congrArg Slot.th hslot⟩
  · have hbar : y.barrier u p = y := barrier_unmet hj ((member_modSlot_other _ hjk).trans hm)
      (by rw [slot_modSlot_slot s u k _ hjk]; exact hstate)
    have hth : s.then_ y = s.curSlot.th := (congrArg Slot.th hyslot).trans rfl
    exact ⟨_, (exec_bar hs).trans (congrArg _ hbar), congrArg Slot.state hyslot, hth, modSlot_onlySlot _⟩

/-- Settles O26: each wait by whether its word meets the condition, the barrier by the other members of the team. -/
theorem threadWaits : Obligations.ThreadWaits := ⟨waitsAtWords, teamBarrier⟩

end Sys2Proof.Machine
end

section
/-! SUPPORT. A `seam` by the only thread of its team: the release before it, its checks, and the team that it leaves to the
successor (R143, R240, R316, R319). -/

namespace Sys2Proof.Machine

/-! ### The release before a `seam` (R143, R240) -/

/-- What the caches of a tile leave alone. -/
theorem keepsHome_field {s u : State} {t : Nat} (h : s.KeepsHome t u) {α : Type} (f : Tile → α) (hf : ∀ x, f x.home = f x) :
    f (u.tile t) = f (s.tile t) := by
  rw [← hf, h.tile, hf]

theorem writeBack_keepsHome (s : State) (t : Nat) (want : Line → Bool) : s.KeepsHome t (s.writeBack t want) := by
  unfold State.writeBack
  refine State.KeepsHome.trans ?_ (.modTile fun _ => rfl)
  refine State.KeepsHome.trans ?_ (.foldl (fun s l => (quiet_sliceOut s t l).toKeepsHome) _ _)
  refine State.KeepsHome.trans ?_ (.modTile fun _ => rfl)
  refine State.KeepsHome.trans ?_ (.foldl (fun s l => l1Out_keepsHome s t l) _ _)
  refine .foldl (fun s l => ?_) _ _
  split
  · exact meetLine_keepsHome s t _ _ _
  · exact .refl s

theorem afterRelease_keepsHome (s : State) (t : Nat) (ctxs : List Nat) (rel : Bool) (c : Scope) :
    s.KeepsHome t (s.afterRelease t ctxs rel c) := by
  unfold State.afterRelease
  split
  · exact writeBack_keepsHome s t _
  · exact .refl s

/-! ### Teams and instances -/

theorem modTeam_tile {s : State} {t p : Nat} {tm : Team} (h : (s.tile t).teams.look p = some tm) (f : Team → Team) :
    (s.modTeam t p f).tile t = { s.tile t with teams := (s.tile t).teams.put p (f tm) } := by
  simp only [State.modTeam, tile_modTile_same, h]

theorem modTeam_look {s : State} {t p : Nat} {tm : Team} (h : (s.tile t).teams.look p = some tm) (f : Team → Team) :
    ((s.modTeam t p f).tile t).teams.look p = some (f tm) := by
  rw [modTeam_tile h]
  exact look_put_same _ _ _

theorem modTeam_slot {s : State} {t p : Nat} {tm : Team} (h : (s.tile t).teams.look p = some tm) (f : Team → Team) (j : Nat) :
    (s.modTeam t p f).slot t j = s.slot t j := by
  rw [State.slot, modTeam_tile h]
  rfl

section
variable (s : State) {kin : Nat} {i : Inst}

theorem modInst_look_other (f : Inst → Inst) {k : Nat} (h : k ≠ kin) : (s.modInst kin f).insts.look k = s.insts.look k := by
  unfold State.modInst
  split
  · rfl
  · exact look_put_other _ _ _ h

@[simp] theorem modInst_falls (f : Inst → Inst) : (s.modInst kin f).falls = s.falls := by
  unfold State.modInst
  split <;> rfl

@[simp] theorem modInst_slot (f : Inst → Inst) (t j : Nat) : (s.modInst kin f).slot t j = s.slot t j := by
  simp only [State.slot, modInst_tile]

/-- R302: successor entries that have been read are not read again. -/
theorem startSucc_read {s : State} (h : s.insts.look kin = some i) (hr : i.read = true) : s.startSucc kin = s := by
  simp only [State.startSucc, h, hr, if_true]

end

/-! ### The team handed on (R316, R319) -/

/-- R316, R319: the team of a predecessor as it waits at its seam for a successor. -/
def Team.handedOn (tm : Team) (kin prio serial idx : Nat) (m : BitVec 9) (mask : BitVec 256) (th : Thread) : Team :=
  { tm with kin := kin, prio := prio, serial := serial, succ := [], seam := some (4, mask, tm.nmac, tm.ncb),
            seamRegs := keepRegs m th.regs, seamAcc := if m.getLsbD 8 then th.acc else 0#64, seamIn := seamInOf idx m }

/-- R319: a register is handed on where the mask names it. -/
theorem keepRegs_get (m : BitVec 9) (r : Regs) (n : BitVec 3) :
    (keepRegs m r).get n = if m.getLsbD n.toNat then r.get n else 0#64 := by
  fin_cases n <;> rfl

theorem seamInOf_toNat {i : Nat} (hi : i < 4) (m : BitVec 9) : (seamInOf i m).toNat = i * 1024 + 512 + m.toNat := by
  have hm := m.isLt
  rw [seamInOf, BitVec.toNat_ofNat]
  omega

/-- R302, R325: a kernel counts the threads of one team more. -/
def Inst.joined (i : Inst) (thr : Nat) : Inst :=
  { i with live := i.live + thr, teams := i.teams + 1, admitted := i.admitted + 1, started := true }

/-- R316, R319, R325: team position `p` passes from the kernel of `tm` to kernel `kin` of launch record `r`. -/
def State.handOver (s : State) (t p kin idx : Nat) (m : BitVec 9) (mask : BitVec 256) (tm : Team) (th : Thread) (r : Launch) :
    State :=
  (((s.modTile t (fun x => { x with serial := (s.tile t).serial + 1 })).modTeam t p
    (fun tm => tm.handedOn kin r.prio (s.tile t).serial idx m mask th)).modInst tm.kin
    (fun i => { i with teams := i.teams - 1 })).modInst kin (·.joined r.thr)

section
variable {s : State} {t p kin idx : Nat} {m : BitVec 9} {mask : BitVec 256} {tm : Team} {th : Thread} {r : Launch}

theorem handOver_falls : (s.handOver t p kin idx m mask tm th r).falls = s.falls := by
  rw [State.handOver, modInst_falls, modInst_falls]
  rfl

section
variable (hteam : (s.tile t).teams.look p = some tm)
include hteam

theorem handOver_serial_team : ((s.modTile t (fun x => { x with serial := (s.tile t).serial + 1 })).tile t).teams.look p = some tm := by
  rw [tile_modTile_same]
  exact hteam

theorem handOver_slot (j : Nat) : (s.handOver t p kin idx m mask tm th r).slot t j = s.slot t j := by
  rw [State.handOver, modInst_slot, modInst_slot, modTeam_slot (handOver_serial_team hteam), State.slot, tile_modTile_same]
  rfl

theorem handOver_team : ((s.handOver t p kin idx m mask tm th r).tile t).teams.look p =
    some (tm.handedOn kin r.prio (s.tile t).serial idx m mask th) := by
  rw [State.handOver, modInst_tile, modInst_tile]
  exact modTeam_look (handOver_serial_team hteam) _

end

theorem handOver_inst {i : Inst} (hi : s.insts.look kin = some i) (hother : kin ≠ tm.kin) :
    (s.handOver t p kin idx m mask tm th r).insts.look kin = some (i.joined r.thr) :=
  modInst_look _ _ ((modInst_look_other _ _ hother).trans hi)

end

section
variable {s : State} {t k idx : Nat} {m : BitVec 9} {mask : BitVec 256} {tm : Team} {i : Inst}

/-- R316: a seam begun for a successor that lives and whose own entries have been read. -/
theorem beginSeam_live (hh : (s.slot t k).th.NoHandles) (hi : s.insts.look (tm.succ.getD idx 0) = some i)
    (hlive : i.killed = false) (hread : i.read = true) (hother : tm.succ.getD idx 0 ≠ tm.kin) :
    s.beginSeam t k idx m mask tm = (((s.emit t k 5 (m.zeroExtend 64)).fall tm.kin).vacate t k).handOver t (s.slot t k).team
      (tm.succ.getD idx 0) idx m mask tm (s.slot t k).th i.rec_ := by
  let y := ((s.emit t k 5 (m.zeroExtend 64)).fall tm.kin).vacate t k
  let v := y.handOver t (s.slot t k).team (tm.succ.getD idx 0) idx m mask tm (s.slot t k).th i.rec_
  have hemit : (s.emit t k 5 (m.zeroExtend 64)).insts = s.insts := slotsFrame_insts (slotsFrame_emit s t k 5 _)
  have hy : y.insts = s.insts := (slotsFrame_insts (slotsFrame_vacate _ t k)).trans hemit
  have hv : v.insts.look (tm.succ.getD idx 0) = some (i.joined i.rec_.thr) := handOver_inst (by rw [hy]; exact hi) hother
  have hsucc : v.startSucc (tm.succ.getD idx 0) = v := startSucc_read hv hread
  have hkilled : v.killedInst (tm.succ.getD idx 0) = false := by
    simp only [State.killedInst, hv]
    exact hlive
  have hbegin : s.beginSeam t k idx m mask tm =
      if (v.startSucc (tm.succ.getD idx 0)).killedInst (tm.succ.getD idx 0)
      then (v.startSucc (tm.succ.getD idx 0)).killSeams (tm.succ.getD idx 0) t else v.startSucc (tm.succ.getD idx 0) := by
    simp only [State.beginSeam, hi, releaseHandles_none hh]
    rfl
  rw [hbegin, hsucc, hkilled, if_neg Bool.false_ne_true]

/-- R316, R325: the predecessor's thread falls, its team is the successor's, which counts its threads. -/
theorem beginSeam_leaves (hk : k < (s.tile t).slots.length) (hteam : (s.tile t).teams.look (s.slot t k).team = some tm)
    (hh : (s.slot t k).th.NoHandles) (hi : s.insts.look (tm.succ.getD idx 0) = some i) (hlive : i.killed = false)
    (hread : i.read = true) (hother : tm.succ.getD idx 0 ≠ tm.kin) :
    let v := s.beginSeam t k idx m mask tm
    (v.slot t k).state = .free ∧ v.falls = s.falls ++ [tm.kin] ∧
    (∃ prio serial, (v.tile t).teams.look (s.slot t k).team =
      some (tm.handedOn (tm.succ.getD idx 0) prio serial idx m mask (s.slot t k).th)) ∧
    v.insts.look (tm.succ.getD idx 0) = some (i.joined i.rec_.thr) := by
  let x := (s.emit t k 5 (m.zeroExtend 64)).fall tm.kin
  have hemit : s.SlotsFrame t (s.emit t k 5 (m.zeroExtend 64)) := slotsFrame_emit s t k 5 _
  have hvacate : x.SlotsFrame t (x.vacate t k) := slotsFrame_vacate x t k
  have hteam' : ((x.vacate t k).tile t).teams.look (s.slot t k).team = some tm := by
    rw [slotsFrame_field hvacate (·.teams.look (s.slot t k).team) fun _ => rfl]
    exact (slotsFrame_field hemit (·.teams.look (s.slot t k).team) fun _ => rfl).trans hteam
  have hxk : k < (x.tile t).slots.length := by
    rw [show (x.tile t).slots = (s.tile t).slots from emit_slots s t k 5 _ t]
    exact hk
  intro v
  rw [show v = _ from beginSeam_live hh hi hlive hread hother]
  refine ⟨?_, ?_, ⟨_, _, handOver_team hteam'⟩, handOver_inst ?_ hother⟩
  · rw [handOver_slot hteam']
    exact (vacate_slot hxk).1
  · rw [handOver_falls, slotsFrame_falls hvacate]
    exact congrArg (· ++ [tm.kin]) (slotsFrame_falls hemit)
  · rw [slotsFrame_insts hvacate]
    exact (congrArg (Map.look · _) (slotsFrame_insts hemit)).trans hi

/-! ### The checks (R143, R316) -/

variable {a : Word}

/-- R143, R316: with a mask of the team's macros and a successor that declares enough, the seam begins. -/
theorem seamNow_begins (hmac : ((s.tile t).mac (macroOf a)).state = .plain ∨ ((s.tile t).mac (macroOf a)).state = .ready)
    (hdue : ((s.tile t).mac (macroOf a)).due = false)
    (hmask : ∀ n, n < 256 → (s.seamMask t a).getLsbD n = true → ((s.tile t).mac n).owner = some (s.slot t k).team)
    (hi : s.insts.look (tm.succ.getD idx 0) = some i)
    (hshape : ((s.tile t).seamShape (s.slot t k).team tm (s.seamMask t a)).1 ≤ i.rec_.nmac ∧
      ((s.tile t).seamShape (s.slot t k).team tm (s.seamMask t a)).2 ≤ i.rec_.ncb) :
    s.seamNow t k idx a m tm = s.beginSeam t k idx m (s.seamMask t a) tm := by
  have hsettled : (s.tile t).settled (macroOf a) = true := by
    rcases hmac with h | h <;> simp [Tile.settled, h]
  have hfind : (maskBits (s.seamMask t a)).find? (fun b => !macroOwned (s.tile t) (s.slot t k).team b) = none := by
    refine List.find?_eq_none.mpr fun n hn => ?_
    obtain ⟨hlt, hbit⟩ := List.mem_filter.mp hn
    simp [macroOwned, hmask n (List.mem_range.mp hlt) hbit]
  have hfits : ¬ (i.rec_.nmac < ((s.tile t).seamShape (s.slot t k).team tm (s.seamMask t a)).1 ∨
      i.rec_.ncb < ((s.tile t).seamShape (s.slot t k).team tm (s.seamMask t a)).2) := by omega
  simp only [State.seamNow, hsettled, hdue, hfind, hi]
  simp [hfits]

end

/-- R143: the checks at issue pass and the release has nothing to wait for. -/
theorem exec_seam {s : State} (hs : s.userIssues) {a : Ptr} {m : BitVec 9} {e : BitVec 2} {c : Scope} {tm : Team}
    (hteam : (s.tile s.cur.1).teams.look s.curSlot.team = some tm) (halign : (s.curSlot.th.regs.get a).toNat % 32 = 0)
    (hplace : bits (s.curSlot.th.regs.get a) 63 22 = 0)
    (howner : ((s.tile s.cur.1).mac (macroOf (s.curSlot.th.regs.get a))).owner = some s.curSlot.team)
    (hnext : tm.succ.getD e.toNat 0 ≠ 0) (hlone : ∀ j, j < 16 → j ≠ s.cur.2 → s.member s.cur.1 s.curSlot.team j = false)
    (hh : s.curSlot.th.NoHandles) (hc : s.CanRelease c) :
    exec (.seam a m e c) s = .next ((s.afterRelease s.cur.1 [s.curSlot.th.ctx] true c).seamNow s.cur.1 s.cur.2 e.toNat
      (s.curSlot.th.regs.get a) m tm) := by
  have hsucc : tm.succ.isEmpty = false := by
    cases hl : tm.succ with
    | nil => simp [hl] at hnext
    | cons => rfl
  have howned : macroOwned (s.tile s.cur.1) s.curSlot.team (macroOf (s.curSlot.th.regs.get a)) = true := by simp [macroOwned, howner]
  have hothers : (List.range 16).any (fun j => j != s.cur.2 && s.member s.cur.1 s.curSlot.team j) = false := by
    rw [List.any_eq_false]
    intro j hj
    by_cases hjk : j = s.cur.2
    · simp [hjk]
    · simp [hlone j (List.mem_range.mp hj) hjk]
  have hctxs : s.memCtxs s.cur.1 s.cur.2 = [s.curSlot.th.ctx] := by
    rw [State.memCtxs, hs.2]
    rfl
  have hrelease (go : State → State) : s.release s.cur.1 s.cur.2 c false go = go (s.afterRelease s.cur.1 [s.curSlot.th.ctx] true c) := by
    rw [← hctxs]
    exact releaseIf_after (rel := true) (fun _ => hc) go
  have hdrain := drain_noHandles (s := s.afterRelease s.cur.1 [s.curSlot.th.ctx] true c) (t := s.cur.1) (k := s.cur.2)
    (by rw [frame_slot (frame_afterRelease _ _ _)]; exact hh)
  change execSeam a m e c s = _
  rw [execSeam, onIssue_next s _ hs.1, notService_user hs.2]
  simp only [hteam, halign, hplace, hsucc, howned, hnext, hothers, ne_eq, not_true_eq_false, Bool.not_true,
    Bool.false_eq_true, if_false]
  exact congrArg _ ((hrelease _).trans (hdrain _))

theorem seamBegins_team : Claim.seamBegins := by
  intro s a m e c tm i hs u k th p w x next s1 mask hteam halign hplace howner hnext hlone hh hc hmac hdue hmask hi hnmac hncb hlive
    hread hother
  have hframe : s.CacheFrame s1 := frame_afterRelease [th.ctx] true c
  have hkeep : s.KeepsHome u s1 := afterRelease_keepsHome s u [th.ctx] true c
  have hslot : s1.slot u k = s.curSlot := frame_slot hframe u k
  have hmac1 (n : Nat) : (s1.tile u).mac n = x.mac n := keepsHome_field hkeep (·.mac n) fun _ => rfl
  have hinsts : s1.insts = s.insts := (congrArg State.insts hframe.shape).trans rfl
  have hfalls : s1.falls = s.falls := (congrArg State.falls hframe.shape).trans rfl
  have hshape : (s1.tile u).seamShape p tm mask = x.seamShape p tm mask := keepsHome_field hkeep (·.seamShape p tm mask) fun _ => rfl
  have hbegin : s1.seamNow u k e.toNat w m tm = s1.beginSeam u k e.toNat m mask tm := by
    refine seamNow_begins (i := i) (by rw [hmac1]; exact hmac) (by rw [hmac1]; exact hdue) ?_ (by rw [hinsts]; exact hi) ?_
    · intro n hn hbit
      rw [hmac1, hslot]
      exact hmask n hn hbit
    · rw [hslot]
      rw [show (s1.tile u).seamShape s.curSlot.team tm (s1.seamMask u w) = _ from hshape]
      exact ⟨hnmac, hncb⟩
  obtain ⟨hfree, hfall, ⟨prio, serial, hlook⟩, hcount⟩ := beginSeam_leaves (s := s1) (t := u) (k := k) (idx := e.toNat) (m := m)
    (mask := mask) (tm := tm) (i := i) (by rw [hframe.slots]; exact (issuing_slot hs.1).2.2)
    (by rw [hslot, keepsHome_field hkeep Tile.teams fun _ => rfl]; exact hteam) (by rw [hslot]; exact hh)
    (by rw [hinsts]; exact hi) hlive hread hother
  rw [hslot] at hlook
  refine ⟨_, _, (exec_seam hs hteam halign hplace howner hnext hlone hh hc).trans (congrArg _ hbegin), hfree, ?_, hlook, rfl, rfl,
    seamInOf_toNat e.isLt m, keepRegs_get m th.regs, rfl, by rw [hcount]; rfl⟩
  rw [hfall, hfalls]

end Sys2Proof.Machine
end

section
/-! SUPPORT. The steps of a team held at seam: macros scrubbed, macros claimed, threads started (R243, R307, R316-R319). -/

namespace Sys2Proof.Machine

/-! ### Macros of a tile (R243, R307) -/

section
variable {x : Tile} {m : Nat}

theorem modMacro_mac (j : Nat) (f : Macro → Macro) (hm : m < x.macros.length) :
    (x.modMacro j f).mac m = if m = j then f (x.mac m) else x.mac m := by
  split
  · next h =>
    subst h
    exact modifyAt_getD_same _ _ _ _ hm
  · next h => exact modifyAt_getD_other _ _ _ _ h

theorem modMacro_length (x : Tile) (j : Nat) (f : Macro → Macro) : (x.modMacro j f).macros.length = x.macros.length :=
  modifyAt_length _ _ _

/-- R243: a scrub falls due on one of a tile's macros. -/
def Macro.scrubDue (c : Macro) : Macro :=
  if c.state = .loading then { c with due := true } else { c with state := .scrubbing, since := none }

/-- R243: scrubs that are due begin, of macros which nothing loads. -/
theorem dueScrub_state (ms : List Nat) (hm : m < x.macros.length) (hl : (x.mac m).state ≠ .loading) :
    ((x.dueScrub ms).mac m).state = if m ∈ ms then .scrubbing else (x.mac m).state := by
  induction ms generalizing x with
  | nil => rfl
  | cons j ms ih =>
    have hmac := modMacro_mac (x := x) (m := m) j Macro.scrubDue hm
    show (((x.modMacro j Macro.scrubDue).dueScrub ms).mac m).state = _
    by_cases hj : m = j
    · have hscrub : ((x.modMacro j Macro.scrubDue).mac m).state = .scrubbing := by
        rw [hmac, if_pos hj, Macro.scrubDue, if_neg hl]
      rw [ih (by rw [modMacro_length]; exact hm) (by rw [hscrub]; exact nofun), hscrub, ite_self]
      simp only [List.mem_cons, hj, true_or, if_true]
    · have hkeep : (x.modMacro j Macro.scrubDue).mac m = x.mac m := by rw [hmac, if_neg hj]
      rw [ih (by rw [modMacro_length]; exact hm) (by rw [hkeep]; exact hl), hkeep]
      simp only [List.mem_cons, hj, false_or]

theorem dueScrub_length (ms : List Nat) : (x.dueScrub ms).macros.length = x.macros.length := by
  induction ms generalizing x with
  | nil => rfl
  | cons j ms ih => exact (ih (x := x.modMacro j _)).trans (modMacro_length x j _)

theorem getD_map_zipIdx {α : Type} (l : List α) (f : α × Nat → α) (d : α) {i : Nat} (h : i < l.length) :
    (l.zipIdx.map f).getD i d = f (l.getD i d, i) := by
  simp [h]

theorem seamScrub_team (p : Nat) (tm : Team) (mask : BitVec 256) (l : Launch) : (x.seamScrub p tm mask l).teams.look p =
    some { tm with nmac := min tm.nmac l.nmac, ncb := min tm.ncb l.ncb, seam := tm.seam.map (fun q => (6, q.2)) } :=
  look_put_same _ _ _

theorem seamClaim_team (p : Nat) (tm : Team) (l : Launch) : (x.seamClaim p tm l).teams.look p =
    some { tm with nmac := l.nmac, ncb := l.ncb, seam := tm.seam.map (fun q => (7, q.2)) } :=
  look_put_same _ _ _

/-- R316 step 5: macros that are not handed on are scrubbed. -/
theorem seamScrub_state {p : Nat} (tm : Team) {mask : BitVec 256} (l : Launch) (h256 : m < 256) (hm : m < x.macros.length)
    (howner : (x.mac m).owner = some p) (hmask : mask.getLsbD m = false) (hl : (x.mac m).state ≠ .loading) :
    ((x.seamScrub p tm mask l).mac m).state = .scrubbing := by
  let gone := (List.range 256).filter (fun m => (x.mac m).owner == some p && !mask.getLsbD m)
  have hgone : m ∈ gone := List.mem_filter.mpr ⟨List.mem_range.mpr h256, by simp [howner, hmask]⟩
  have hscrub := dueScrub_state gone hm hl
  rw [if_pos hgone] at hscrub
  have hmac : (x.seamScrub p tm mask l).mac m = if ((x.dueScrub gone).mac m).owner = some p ∧ m ≥ tm.fmac + l.nmac
      then { (x.dueScrub gone).mac m with owner := none } else (x.dueScrub gone).mac m :=
    getD_map_zipIdx _ _ _ (by rw [dueScrub_length]; exact hm)
  rw [hmac]
  split <;> exact hscrub

/-- R307: macros given to a team, `js` of them from `f` on. -/
theorem giveMacros_owner {p : Nat} (f : Nat) (js : List Nat) (hm : m < x.macros.length)
    (h : (∃ j, j ∈ js ∧ m = f + j) ∨ (x.mac m).owner = some p) :
    ((js.foldl (fun (x : Tile) j => x.modMacro (f + j) (fun (c : Macro) => { c with owner := some p })) x).mac m).owner = some p := by
  induction js generalizing x with
  | nil => exact h.resolve_left (by simp)
  | cons j js ih =>
    have hmac := modMacro_mac (x := x) (m := m) (f + j) (fun (c : Macro) => { c with owner := some p }) hm
    refine ih (by rw [modMacro_length]; exact hm) ?_
    by_cases hj : m = f + j
    · right
      rw [hmac, if_pos hj]
    · rw [hmac, if_neg hj]
      refine h.imp ?_ id
      rintro ⟨i, hi, rfl⟩
      rcases List.mem_cons.mp hi with rfl | hi
      · exact absurd rfl hj
      · exact ⟨i, hi, rfl⟩

theorem giveBufs_macros (p f : Nat) (js : List Nat) :
    (js.foldl (fun (x : Tile) j => x.modBuf (f + j) (fun (_ : CBuf) => { owner := some p })) x).macros = x.macros := by
  induction js generalizing x with
  | nil => rfl
  | cons j js ih => exact ih (x := x.modBuf (f + j) _)

theorem give_owner {p f n fb nb : Nat} (hm : m < x.macros.length) (hlo : f ≤ m) (hhi : m < f + n) :
    ((x.give p f n fb nb).mac m).owner = some p := by
  have hgiven := giveMacros_owner (p := p) (x := x) f (List.range n) hm
    (.inl ⟨m - f, List.mem_range.mpr (by omega), by omega⟩)
  rw [Tile.give, Tile.mac, giveBufs_macros]
  exact hgiven

end

/-! ### Threads started (R307, R319) -/

section
variable {s : State} {t p : Nat}

/-- R307: threads started in the slots of a list change these slots alone. -/
theorem startThreads_fold (g : State → Nat → Thread) (b : Nat) (stop : Bool) (es : List (Nat × Nat)) :
    s.SlotsFrame t (es.foldl (fun s e => s.startThread t e.1 p (g s e.2) b stop) s) ∧
    ∀ j, (∀ e, e ∈ es → e.1 ≠ j) → (es.foldl (fun s e => s.startThread t e.1 p (g s e.2) b stop) s).slot t j = s.slot t j := by
  induction es generalizing s with
  | nil => exact ⟨.refl s, fun _ _ => rfl⟩
  | cons e es ih =>
    obtain ⟨hframe, hslots⟩ := ih (s := s.startThread t e.1 p (g s e.2) b stop)
    refine ⟨State.SlotsFrame.trans (.modSlot e.1 _) hframe, fun j hj => ?_⟩
    exact (hslots j fun d hd => hj d (List.mem_cons_of_mem _ hd)).trans (slot_modSlot_slot s t e.1 _ (hj e List.mem_cons_self).symm)

theorem startThread_slot {j : Nat} (hj : j < (s.tile t).slots.length) (th : Thread) (b : Nat) (stop : Bool) :
    ((s.startThread t j p th b stop).slot t j).state = (if stop then .stopped .debug else .ready) ∧
    ((s.startThread t j p th b stop).slot t j).th = th := by
  rw [State.startThread, slot_modSlot_same _ _ _ _ hj]
  exact ⟨rfl, rfl⟩

/-- R307: slots and teams after the threads of a kernel have started; one that finds no slot joins a queue (R210). -/
theorem startThreads_tile (kin ctx : Nat) (l : Launch) (dress : Thread → Thread) : ∃ Q,
    (s.startThreads t p kin ctx l dress).tile t =
      { ((((s.kernelSlots t).filter (fun k => (s.slot t k).state == .free)).take (s.thrOn t kin)).zipIdx.foldl
          (fun v e => v.startThread t e.1 p (dress (v.launched t kin ctx l e.2)) (2 ^ l.hk) (l.stop && s.debuggable ctx)) s).tile t
        with queues := Q } := by
  rw [State.startThreads]
  dsimp only
  split
  · rw [tile_modTile_same]
    split <;> exact ⟨_, rfl⟩
  · exact ⟨_, rfl⟩

/-- R307: the first thread of a kernel in the lowest free slot of its tile. -/
theorem startThreads_first {kin ctx j : Nat} {js : List Nat} {l : Launch} {dress : Thread → Thread}
    (hfree : (s.kernelSlots t).filter (fun k => (s.slot t k).state == .free) = j :: js) (hn : 1 ≤ s.thrOn t kin)
    (hj : j < (s.tile t).slots.length) (hstop : l.stop = false) :
    let v := s.startThreads t p kin ctx l dress
    (v.slot t j).state = .ready ∧ (v.slot t j).th = dress (s.launched t kin ctx l 0) ∧ (v.tile t).teams = (s.tile t).teams := by
  have hnd : (j :: js).Nodup := hfree ▸ List.nodup_range.filter _
  obtain ⟨n, hn⟩ : ∃ n, s.thrOn t kin = n + 1 := ⟨s.thrOn t kin - 1, by omega⟩
  let s1 := s.startThread t j p (dress (s.launched t kin ctx l 0)) (2 ^ l.hk) (l.stop && s.debuggable ctx)
  let s2 := ((js.take n).zipIdx 1).foldl
    (fun v e => v.startThread t e.1 p (dress (v.launched t kin ctx l e.2)) (2 ^ l.hk) (l.stop && s.debuggable ctx)) s1
  obtain ⟨hframe, hslots⟩ := startThreads_fold (s := s1) (t := t) (p := p) (fun v i => dress (v.launched t kin ctx l i))
    (2 ^ l.hk) (l.stop && s.debuggable ctx) ((js.take n).zipIdx 1)
  have hkept : s2.slot t j = s1.slot t j := hslots j fun e he hej =>
    (List.nodup_cons.mp hnd).1 (hej ▸ List.mem_of_mem_take (List.fst_mem_of_mem_zipIdx he))
  have hfirst : s.SlotsFrame t s1 := .modSlot j _
  have hteams : (s2.tile t).teams = (s.tile t).teams := slotsFrame_field (hfirst.trans hframe) Tile.teams fun _ => rfl
  obtain ⟨hstate, hth⟩ := startThread_slot (p := p) hj (dress (s.launched t kin ctx l 0)) (2 ^ l.hk) (l.stop && s.debuggable ctx)
  obtain ⟨Q, hv⟩ : ∃ Q, (s.startThreads t p kin ctx l dress).tile t = { s2.tile t with queues := Q } := by
    have htile := startThreads_tile (s := s) (t := t) (p := p) kin ctx l dress
    rw [hfree, hn] at htile
    exact htile
  have hslot : (s.startThreads t p kin ctx l dress).slot t j = s1.slot t j := by
    rw [State.slot, hv]
    exact hkept
  intro v
  refine ⟨?_, (congrArg Slot.th hslot).trans hth, ?_⟩
  · rw [hslot, hstate, hstop]
    rfl
  · rw [hv]
    exact hteams

end

/-! ### The steps (R316, R317) -/

section
variable {s : State} {t p : Nat} {tm : Team} {i : Inst}

theorem exec_seamSequence {u : State} (hteam : (s.tile t).teams.look p = some tm) (hopen : tm.closed = false)
    (hshut : (s.tile t).shut = false) (hi : s.insts.look tm.kin = some i) (hnext : s.seamNext t p tm i = some u) :
    exec (.seamSequence t p) s = .next u := by
  change execSeamSequence t p s = _
  simp only [execSeamSequence, hteam, hopen, hshut, hi, hnext]
  rfl

/-- R306, R317: no order waits and no other team is on the tile. -/
theorem seamTurn_alone (h : (s.tile t).orders = []) : (s.tile t).seamTurn tm = true := by
  simp [Tile.seamTurn, Tile.orderAhead, h]

theorem seamAhead_own {n : Nat} {r : Nat × Team} (h : r.1 = p) : seamAhead p tm n r = false := by
  simp [seamAhead, h]

theorem seamSlots_alone (h : ∀ r, r ∈ (s.tile t).teams → r.1 = p) : s.seamSlots t p tm = s.thrOn t tm.kin := by
  have hnone : (s.tile t).teams.filter (seamAhead p tm 7) = [] :=
    List.filter_eq_nil_iff.mpr fun r hr => by simp [seamAhead_own (h r hr)]
  rw [State.seamSlots, hnone]
  rfl

end

theorem seamSteps : Claim.seamSteps := by
  intro s t p j b c tm i mask js x on alone hteam hopen hshut hi
  have hexec {u : State} (hnext : s.seamNext t p tm i = some u) : exec (.seamSequence t p) s = .next u :=
    exec_seamSequence hteam hopen hshut hi hnext
  refine ⟨fun hseam hstr hfills => ?_, fun hseam ⟨horders, halone⟩ hmacs hbufs => ?_,
    fun hseam ⟨horders, halone⟩ hslots hready hone hfree hj hstop => ?_⟩
  · have hnext : s.seamNext t p tm i = some (s.setTile t (x.seamScrub p tm mask i.rec_)) := by
      have hfills' : (s.tile t).seamFills p mask = false := hfills
      simp [State.seamNext, hseam, hstr, hfills', x]
    have hkept := (congrArg (·.teams.look p) (tile_setTile_same s t _)).trans (seamScrub_team (x := x) p tm mask i.rec_)
    refine ⟨_, _, ⟨hexec hnext, hkept⟩, ?_, rfl,
      fun m h256 hm howner hmask hl => ?_⟩
    · simp only [hseam, Option.map_some]
    · rw [tile_setTile_same]
      exact seamScrub_state tm i.rec_ h256 hm howner hmask hl
  · have hnext : s.seamNext t p tm i = some (s.setTile t (x.seamClaim p tm i.rec_)) := by
      have hahead : x.teams.any (seamAhead p tm 6) = false :=
        List.any_eq_false.mpr fun r hr => by simp [seamAhead_own (halone r hr)]
      have hturn : x.seamTurn tm = true := seamTurn_alone horders
      simp only [State.seamNext, hseam]
      rw [hturn, hahead, hmacs, hbufs]
      rfl
    have hkept := (congrArg (·.teams.look p) (tile_setTile_same s t _)).trans (seamClaim_team (x := x) p tm i.rec_)
    refine ⟨_, _, ⟨hexec hnext, hkept⟩, ?_, rfl,
      fun m hlo hhi hm => ?_⟩
    · simp only [hseam, Option.map_some]
    · rw [tile_setTile_same]
      exact give_owner hm hlo (by omega)
  · let y := s.modTeam t p (fun tm => { tm with seam := none, succ := i.succ })
    have hnext : s.seamNext t p tm i = some (s.seamStart t p tm i) := by
      have hturn : x.seamTurn tm = true := seamTurn_alone horders
      have hroom : s.freeSlots t ≥ s.seamSlots t p tm := by rw [seamSlots_alone halone]; exact hslots
      simp only [State.seamNext, hseam]
      rw [show (s.tile t).seamTurn tm = true from hturn, hready]
      simp [hroom]
    have hytile := modTeam_tile hteam (fun tm => { tm with seam := none, succ := i.succ })
    have hyslot (k : Nat) : y.slot t k = s.slot t k := modTeam_slot hteam _ k
    obtain ⟨hstate, hth, hteams⟩ := startThreads_first (s := y) (t := t) (p := p) (kin := tm.kin) (ctx := i.ctx) (j := j) (js := js)
      (l := i.rec_) (dress := fun th => { th with regs := tm.seamRegs, acc := tm.seamAcc, seamin := tm.seamIn })
      (by simp only [hyslot]; exact hfree) hone (by rw [hytile]; exact hj) hstop
    refine ⟨_, { tm with seam := none, succ := i.succ }, ⟨hexec hnext, ?_⟩, rfl, hstate, (congrArg Thread.pc hth).trans rfl,
      (congrArg Thread.regs hth).trans rfl, (congrArg Thread.acc hth).trans rfl, (congrArg Thread.seamin hth).trans rfl⟩
    show ((y.startThreads t p tm.kin i.ctx i.rec_ _).tile t).teams.look p = _
    rw [hteams]
    exact modTeam_look hteam _

/-- Settles O27: the seam begins once its checks pass after the release; step 5 scrubs, step 6 claims and step 8 starts the threads. -/
theorem seamBegins : Obligations.SeamBegins := ⟨seamBegins_team, seamSteps⟩

end Sys2Proof.Machine
end
